-- ==== Sys2Proof/Word.lean ====
section
/-! DEFINITION. The words of the machine (R7, R9, R27): 32-bit registers, 64-bit pointers and
doublewords, 54-bit virtual addresses. Physical addresses are natural numbers below 2^52. -/

namespace Sys2Proof

abbrev Word := BitVec 32
abbrev DWord := BitVec 64
abbrev Byte := BitVec 8
abbrev VAddr := BitVec 54

end Sys2Proof
end

