-- ==== Sys2Proof/Machine/KV.lean ====
section
/-! DEFINITION. Sparse data by key, as one sorted list of key and value pairs: keys strictly
rising, so that equal contents are equal lists. Memory, register windows, tables and every other
store of the machine use these operations. -/

namespace Sys2Proof.KV

/-- The value listed under key `k`. -/
def find? {α : Type} (k : Nat) : List (Nat × α) → Option α
  | [] => none
  | (j, v) :: t => if j = k then some v else if k < j then none else find? k t

/-- List `v` under key `k`, in its place; an entry of the same key is replaced. -/
def put {α : Type} (k : Nat) (v : α) : List (Nat × α) → List (Nat × α)
  | [] => [(k, v)]
  | (j, w) :: t =>
    if j < k then (j, w) :: put k v t
    else if j = k then (k, v) :: t
    else (k, v) :: (j, w) :: t

/-- Remove the entry of key `k`. -/
def del {α : Type} (k : Nat) : List (Nat × α) → List (Nat × α)
  | [] => []
  | (j, w) :: t =>
    if j < k then (j, w) :: del k t
    else if j = k then t
    else (j, w) :: t

/-- The value under key `k`, or `d` where none is listed. -/
def getD {α : Type} (k : Nat) (d : α) (m : List (Nat × α)) : α :=
  (find? k m).getD d

/-- List `v` under `k`, or remove the entry where `v` is what an unlisted key reads as. -/
def putD {α : Type} [DecidableEq α] (k : Nat) (d v : α) (m : List (Nat × α)) : List (Nat × α) :=
  if v = d then del k m else put k v m

/-- Apply `f` to the value under `k`; an unlisted key stays unlisted. -/
def update {α : Type} (k : Nat) (f : α → α) (m : List (Nat × α)) : List (Nat × α) :=
  match find? k m with
  | some v => put k (f v) m
  | none => m

/-- Keys strictly rising, every key at least `lo`. -/
def sortedFrom {α : Type} (lo : Nat) : List (Nat × α) → Bool
  | [] => true
  | (k, _) :: t => decide (lo ≤ k) && sortedFrom (k + 1) t

/-- Keys strictly rising. -/
def sorted {α : Type} (m : List (Nat × α)) : Bool := sortedFrom 0 m

/-- No entry equals the default `d`. -/
def noDefault {α : Type} [DecidableEq α] (d : α) (m : List (Nat × α)) : Bool :=
  m.all fun e => decide (e.2 ≠ d)

/-- Remove every entry whose key lies in `[lo, lo + n)`. -/
def delRange {α : Type} (lo n : Nat) (m : List (Nat × α)) : List (Nat × α) :=
  m.filter fun e => !(decide (lo ≤ e.1) && decide (e.1 < lo + n))

/-- The entries whose key lies in `[lo, lo + n)`. -/
def range {α : Type} (lo n : Nat) (m : List (Nat × α)) : List (Nat × α) :=
  m.filter fun e => decide (lo ≤ e.1) && decide (e.1 < lo + n)

/-- Whether key `k` is listed. -/
def has {α : Type} (k : Nat) (m : List (Nat × α)) : Bool := (find? k m).isSome

end Sys2Proof.KV
end

