-- ==== Sys2Proof/Laws/KV.lean ====
section
/-! SUPPORT. What reading says after an update of a sorted store, and that the updates keep the
canonical form. -/

namespace Sys2Proof.KV
variable {α : Type}

theorem find?_put_self (k : Nat) (v : α) (m : List (Nat × α)) : find? k (put k v m) = some v := by
  induction m with
  | nil => simp [put, find?]
  | cons h t ih =>
    obtain ⟨j, w⟩ := h
    unfold put
    split_ifs with h1 h2
    · have : j ≠ k := by omega
      have : ¬ k < j := by omega
      simp [find?, *]
    · simp [find?]
    · simp [find?]

theorem put_put (k : Nat) (v w : α) (m : List (Nat × α)) : put k v (put k w m) = put k v m := by
  induction m with
  | nil => simp [put]
  | cons h t ih =>
    obtain ⟨j, x⟩ := h
    simp only [put]
    split_ifs with h1 h2
    · simp [put, h1, ih]
    · simp [put]
    · simp [put]

theorem find?_put_ne {j k : Nat} (h : j ≠ k) (v : α) (m : List (Nat × α)) :
    find? j (put k v m) = find? j m := by
  induction m with
  | nil => 
    have : k ≠ j := fun e => h e.symm
    simp [put, find?, this]
  | cons x t ih =>
    obtain ⟨i, w⟩ := x
    have hk : k ≠ j := fun e => h e.symm
    unfold put
    split_ifs with h1 h2
    · simp [find?, ih]
    · subst h2
      simp [find?, hk]
    · by_cases h3 : j < k
      · have : i ≠ j := by omega
        have : j < i := by omega
        simp [find?, *]
      · simp [find?, hk, h3]

theorem find?_of_lt {lo k : Nat} (m : List (Nat × α)) (h : sortedFrom lo m = true) (hk : k < lo) :
    find? k m = none := by
  cases m with
  | nil => rfl
  | cons x t =>
    obtain ⟨i, w⟩ := x
    simp [sortedFrom] at h
    have : i ≠ k := by omega
    have : k < i := by omega
    simp [find?, *]

theorem find?_del_self {lo : Nat} (k : Nat) (m : List (Nat × α)) (h : sortedFrom lo m = true) :
    find? k (del k m) = none := by
  induction m generalizing lo with
  | nil => rfl
  | cons x t ih =>
    obtain ⟨i, w⟩ := x
    simp [sortedFrom] at h
    unfold del
    split_ifs with h1 h2
    · have : i ≠ k := by omega
      have : ¬ k < i := by omega
      simp [find?, ih h.2, *]
    · exact find?_of_lt t h.2 (by omega)
    · have : k < i := by omega
      simp [find?, *]

theorem find?_del_ne {lo j k : Nat} (hj : j ≠ k) (m : List (Nat × α)) (h : sortedFrom lo m = true) :
    find? j (del k m) = find? j m := by
  induction m generalizing lo with
  | nil => rfl
  | cons x t ih =>
    obtain ⟨i, w⟩ := x
    simp [sortedFrom] at h
    unfold del
    split_ifs with h1 h2
    · simp [find?, ih h.2]
    · subst h2
      by_cases h3 : j < i
      · have : i ≠ j := by omega
        simp [find?, *]
        exact find?_of_lt t h.2 (by omega)
      · have : i ≠ j := fun e => hj e.symm
        simp [find?, *]
    · rfl

theorem sortedFrom_mono {a b : Nat} (hab : a ≤ b) (m : List (Nat × α)) (h : sortedFrom b m = true) :
    sortedFrom a m = true := by
  cases m with
  | nil => rfl
  | cons x t =>
    simp [sortedFrom] at h ⊢
    exact ⟨by omega, h.2⟩

theorem sortedFrom_put {lo : Nat} (k : Nat) (v : α) (m : List (Nat × α))
    (h : sortedFrom lo m = true) (hk : lo ≤ k) : sortedFrom lo (put k v m) = true := by
  induction m generalizing lo with
  | nil => simp [put, sortedFrom, hk]
  | cons x t ih =>
    obtain ⟨i, w⟩ := x
    simp [sortedFrom] at h
    unfold put
    split_ifs with h1 h2
    · simp [sortedFrom, h.1]; exact ih h.2 (by omega)
    · subst h2; simp [sortedFrom, h]
    · simp [sortedFrom, hk, h.2]; omega

theorem sortedFrom_del {lo : Nat} (k : Nat) (m : List (Nat × α))
    (h : sortedFrom lo m = true) : sortedFrom lo (del k m) = true := by
  induction m generalizing lo with
  | nil => rfl
  | cons x t ih =>
    obtain ⟨i, w⟩ := x
    simp [sortedFrom] at h
    unfold del
    split_ifs with h1 h2
    · simp [sortedFrom, h.1, ih h.2]
    · exact sortedFrom_mono (by omega) t h.2
    · simp [sortedFrom, h]

theorem sortedFrom_filter {lo : Nat} (p : Nat × α → Bool) (m : List (Nat × α))
    (h : sortedFrom lo m = true) : sortedFrom lo (m.filter p) = true := by
  induction m generalizing lo with
  | nil => rfl
  | cons x t ih =>
    obtain ⟨i, w⟩ := x
    simp [sortedFrom] at h
    rw [List.filter_cons]
    split_ifs
    · simp [sortedFrom, h.1, ih h.2]
    · exact sortedFrom_mono (by omega) _ (ih h.2)

theorem sorted_put (k : Nat) (v : α) (m : List (Nat × α)) (h : sorted m = true) :
    sorted (put k v m) = true := sortedFrom_put k v m h (Nat.zero_le _)

theorem sorted_del (k : Nat) (m : List (Nat × α)) (h : sorted m = true) :
    sorted (del k m) = true := sortedFrom_del k m h

theorem sorted_filter (p : Nat × α → Bool) (m : List (Nat × α)) (h : sorted m = true) :
    sorted (m.filter p) = true := sortedFrom_filter p m h

theorem mem_put {k : Nat} {v : α} {m : List (Nat × α)} {e : Nat × α} (h : e ∈ put k v m) :
    e = (k, v) ∨ e ∈ m := by
  induction m with
  | nil => simpa [put] using h
  | cons x t ih =>
    obtain ⟨i, w⟩ := x
    unfold put at h
    split_ifs at h with h1 h2
    · rcases List.mem_cons.1 h with h | h
      · exact .inr (h ▸ List.mem_cons_self ..)
      · rcases ih h with h | h
        · exact .inl h
        · exact .inr (List.mem_cons_of_mem _ h)
    · rcases List.mem_cons.1 h with h | h
      · exact .inl h
      · exact .inr (List.mem_cons_of_mem _ h)
    · rcases List.mem_cons.1 h with h | h
      · exact .inl h
      · exact .inr h

theorem mem_del {k : Nat} {m : List (Nat × α)} {e : Nat × α} (h : e ∈ del k m) : e ∈ m := by
  induction m with
  | nil => simp [del] at h
  | cons x t ih =>
    obtain ⟨i, w⟩ := x
    unfold del at h
    split_ifs at h with h1 h2
    · rcases List.mem_cons.1 h with h | h
      · exact h ▸ List.mem_cons_self ..
      · exact List.mem_cons_of_mem _ (ih h)
    · exact List.mem_cons_of_mem _ h
    · exact h

variable [DecidableEq α]

theorem getD_putD_self {d v : α} (k : Nat) {m : List (Nat × α)} (h : sorted m = true) :
    getD k d (putD k d v m) = v := by
  unfold putD getD
  split_ifs with e
  · rw [find?_del_self k m h]; exact e.symm
  · rw [find?_put_self]; rfl

theorem getD_putD_ne {d v : α} {j k : Nat} (hj : j ≠ k) {m : List (Nat × α)} (h : sorted m = true) :
    getD j d (putD k d v m) = getD j d m := by
  unfold putD getD
  split_ifs with e
  · rw [find?_del_ne hj m h]
  · rw [find?_put_ne hj]

theorem sorted_putD (k : Nat) (d v : α) (m : List (Nat × α)) (h : sorted m = true) :
    sorted (putD k d v m) = true := by
  unfold putD
  split_ifs
  · exact sorted_del k m h
  · exact sorted_put k v m h

theorem noDefault_putD (k : Nat) (d v : α) (m : List (Nat × α)) (h : noDefault d m = true) :
    noDefault d (putD k d v m) = true := by
  unfold putD noDefault at *
  rw [List.all_eq_true] at *
  split_ifs with e
  · exact fun x hx => h x (mem_del hx)
  · intro x hx
    rcases mem_put hx with hx | hx
    · subst hx; simpa using e
    · exact h x hx

theorem noDefault_filter (d : α) (p : Nat × α → Bool) (m : List (Nat × α))
    (h : noDefault d m = true) : noDefault d (m.filter p) = true := by
  unfold noDefault at *
  rw [List.all_eq_true] at *
  exact fun x hx => h x (List.mem_of_mem_filter hx)

end Sys2Proof.KV
end

