-- ==== Sys2Proof/Syntax.lean ====
section
/-! DEFINITION. The instructions: one constructor for each row of the opcode table. An instruction
word carries the fields of its encoding as they stand in the word (R173); a step that no word
encodes carries what it acts on. -/

namespace Sys2Proof

/-- A packet of the fabric that arrives at this package (R365): its contents as the sender gives them. -/
structure Packet where
  /-- device that sends, and the port it arrives at -/
  src : Nat
  port : Nat
  /-- transaction number, echoed in the response -/
  tag : Nat
  /-- physical address at this device, or mailbox number -/
  addr : Nat
  /-- payload bytes, lowest address first -/
  data : List (BitVec 8)
  /-- length in bytes of a READ -/
  len : Nat
  /-- operation and width codes of ATOM and RED; status of RESP -/
  op : Nat
  width : Nat
  /-- payload words that arrive poisoned -/
  poison : List Nat
  /-- bits of the payload bytes of a WRITE that it writes; none listed: all -/
  masks : List (BitVec 8) := []
  /-- it carries release meaning (R365, R376) -/
  rel : Bool := false
  /-- context of the mailbox that a MAILBOX packet or a credit names (R368; log entry 34) -/
  ctx : Nat := 0
  deriving DecidableEq, Repr, Inhabited

inductive Instr where
  /-- ADD, R189. -/
  | add (g : BitVec 4) (d : BitVec 7) (a : BitVec 7) (b : BitVec 7)
  /-- SUB, R189. -/
  | sub (g : BitVec 4) (d : BitVec 7) (a : BitVec 7) (b : BitVec 7)
  /-- MUL, R189. -/
  | mul (g : BitVec 4) (d : BitVec 7) (a : BitVec 7) (b : BitVec 7)
  /-- MULHI, R189. -/
  | mulhi (g : BitVec 4) (d : BitVec 7) (a : BitVec 7) (b : BitVec 7)
  /-- MULHIU, R189. -/
  | mulhiu (g : BitVec 4) (d : BitVec 7) (a : BitVec 7) (b : BitVec 7)
  /-- MAD, R189. -/
  | mad (g : BitVec 4) (d : BitVec 7) (a : BitVec 7) (b : BitVec 7)
  /-- AND, R189. -/
  | and (g : BitVec 4) (d : BitVec 7) (a : BitVec 7) (b : BitVec 7)
  /-- OR, R189. -/
  | or (g : BitVec 4) (d : BitVec 7) (a : BitVec 7) (b : BitVec 7)
  /-- XOR, R189. -/
  | xor (g : BitVec 4) (d : BitVec 7) (a : BitVec 7) (b : BitVec 7)
  /-- SHL, R189. -/
  | shl (g : BitVec 4) (d : BitVec 7) (a : BitVec 7) (b : BitVec 7)
  /-- SHR, R189. -/
  | shr (g : BitVec 4) (d : BitVec 7) (a : BitVec 7) (b : BitVec 7)
  /-- SAR, R189. -/
  | sar (g : BitVec 4) (d : BitVec 7) (a : BitVec 7) (b : BitVec 7)
  /-- MIN, R189. -/
  | min (g : BitVec 4) (d : BitVec 7) (a : BitVec 7) (b : BitVec 7)
  /-- MAX, R189. -/
  | max (g : BitVec 4) (d : BitVec 7) (a : BitVec 7) (b : BitVec 7)
  /-- MINU, R189. -/
  | minu (g : BitVec 4) (d : BitVec 7) (a : BitVec 7) (b : BitVec 7)
  /-- MAXU, R189. -/
  | maxu (g : BitVec 4) (d : BitVec 7) (a : BitVec 7) (b : BitVec 7)
  /-- ADDI, R190. -/
  | addi (g : BitVec 4) (d : BitVec 7) (a : BitVec 7) (i : BitVec 7)
  /-- ANDI, R190. -/
  | andi (g : BitVec 4) (d : BitVec 7) (a : BitVec 7) (i : BitVec 7)
  /-- ORI, R190. -/
  | ori (g : BitVec 4) (d : BitVec 7) (a : BitVec 7) (i : BitVec 7)
  /-- XORI, R190. -/
  | xori (g : BitVec 4) (d : BitVec 7) (a : BitVec 7) (i : BitVec 7)
  /-- SHLI, R190. -/
  | shli (g : BitVec 4) (d : BitVec 7) (a : BitVec 7) (i : BitVec 7)
  /-- SHRI, R190. -/
  | shri (g : BitVec 4) (d : BitVec 7) (a : BitVec 7) (i : BitVec 7)
  /-- SARI, R190. -/
  | sari (g : BitVec 4) (d : BitVec 7) (a : BitVec 7) (i : BitVec 7)
  /-- SETP, R196. -/
  | setp (g : BitVec 4) (c : BitVec 4) (p : BitVec 3) (a : BitVec 7) (b : BitVec 7)
  /-- SETPI, R196. -/
  | setpi (g : BitVec 4) (c : BitVec 4) (p : BitVec 3) (a : BitVec 7) (i : BitVec 7)
  /-- SEL, R193. -/
  | sel (g : BitVec 4) (d : BitVec 7) (a : BitVec 7) (b : BitVec 7)
  /-- ADD64, R195. -/
  | add64 (g : BitVec 4) (d : BitVec 7) (a : BitVec 7) (b : BitVec 7)
  /-- ADDA, R195. -/
  | adda (g : BitVec 4) (d : BitVec 7) (a : BitVec 7) (b : BitVec 7)
  /-- BFX, R194. -/
  | bfx (g : BitVec 4) (d : BitVec 7) (a : BitVec 7) (b : BitVec 7)
  /-- BFI, R194. -/
  | bfi (g : BitVec 4) (d : BitVec 7) (a : BitVec 7) (b : BitVec 7)
  /-- IUN, R192. -/
  | iun (g : BitVec 4) (d : BitVec 7) (a : BitVec 7) (f : BitVec 7)
  /-- LDI, R191. -/
  | ldi (g : BitVec 4) (d : BitVec 7) (i : BitVec 14)
  /-- BRA, R199. -/
  | bra (g : BitVec 4) (o : BitVec 21)
  /-- BRU, R158. -/
  | bru (g : BitVec 4) (o : BitVec 21)
  /-- CALL, R199. -/
  | call (g : BitVec 4) (o : BitVec 21)
  /-- RET, R200. -/
  | ret (g : BitVec 4) (a : BitVec 7)
  /-- JMPI, R200. -/
  | jmpi (g : BitVec 4) (a : BitVec 7)
  /-- EXIT, R168. -/
  | exit (g : BitVec 4)
  /-- YIELD, R206. -/
  | yield (g : BitVec 4)
  /-- SPAWN, R209. -/
  | spawn (g : BitVec 4) (d : BitVec 7) (b : BitVec 7)
  /-- CREWJOIN, R160. -/
  | crewjoin (g : BitVec 4)
  /-- LXCH, R203. -/
  | lxch (g : BitVec 4) (d : BitVec 7) (a : BitVec 7) (b : BitVec 7)
  /-- LAGR, R204. -/
  | lagr (g : BitVec 4) (c : BitVec 4) (q : BitVec 3) (a : BitVec 7) (b : BitVec 7)
  /-- LFOLD, R205. -/
  | lfold (g : BitVec 4) (d : BitVec 7) (a : BitVec 7) (o : BitVec 7)
  /-- PLOG, R198. -/
  | plog (g : BitVec 4) (a : BitVec 7) (b : BitVec 7) (s : BitVec 7)
  /-- BRDEC, R202. -/
  | brdec (g : BitVec 4) (d : BitVec 7) (i : BitVec 14)
  /-- SLEEP, R207. -/
  | sleep (g : BitVec 4) (a : BitVec 7)
  /-- FADD, R224. -/
  | fadd (g : BitVec 4) (d : BitVec 7) (a : BitVec 7) (b : BitVec 7)
  /-- FSUB, R224. -/
  | fsub (g : BitVec 4) (d : BitVec 7) (a : BitVec 7) (b : BitVec 7)
  /-- FMUL, R224. -/
  | fmul (g : BitVec 4) (d : BitVec 7) (a : BitVec 7) (b : BitVec 7)
  /-- FFMA, R224. -/
  | ffma (g : BitVec 4) (d : BitVec 7) (a : BitVec 7) (b : BitVec 7)
  /-- FMIN, R225. -/
  | fmin (g : BitVec 4) (d : BitVec 7) (a : BitVec 7) (b : BitVec 7)
  /-- FMAX, R225. -/
  | fmax (g : BitVec 4) (d : BitVec 7) (a : BitVec 7) (b : BitVec 7)
  /-- FDIV, R224. -/
  | fdiv (g : BitVec 4) (d : BitVec 7) (a : BitVec 7) (b : BitVec 7)
  /-- FSETP, R226. -/
  | fsetp (g : BitVec 4) (c : BitVec 4) (p : BitVec 3) (a : BitVec 7) (b : BitVec 7)
  /-- FUN, R227. -/
  | func (g : BitVec 4) (d : BitVec 7) (a : BitVec 7) (f : BitVec 7)
  /-- CVT, R229. -/
  | cvt (g : BitVec 4) (d : BitVec 7) (a : BitVec 7) (e : BitVec 3) (f : BitVec 3) (k : BitVec 1)
  /-- PADD2, R234. -/
  | padd2 (g : BitVec 4) (d : BitVec 7) (a : BitVec 7) (b : BitVec 7)
  /-- PFMA2, R234. -/
  | pfma2 (g : BitVec 4) (d : BitVec 7) (a : BitVec 7) (b : BitVec 7)
  /-- PMUL2, R234. -/
  | pmul2 (g : BitVec 4) (d : BitVec 7) (a : BitVec 7) (b : BitVec 7)
  /-- DOT4, R235. -/
  | dot4 (g : BitVec 4) (d : BitVec 7) (a : BitVec 7) (b : BitVec 7)
  /-- DOT2F, R236. -/
  | dot2f (g : BitVec 4) (d : BitVec 7) (a : BitVec 7) (b : BitVec 7)
  /-- LD, R242. -/
  | ld (g : BitVec 4) (d : BitVec 7) (a : BitVec 7) (p : BitVec 3) (o : BitVec 2) (s : BitVec 2)
  /-- ST, R242. -/
  | st (g : BitVec 4) (d : BitVec 7) (a : BitVec 7) (p : BitVec 3) (o : BitVec 2) (s : BitVec 2)
  /-- LDB, R243. -/
  | ldb (g : BitVec 4) (d : BitVec 7) (a : BitVec 7) (p : BitVec 3) (o : BitVec 2) (s : BitVec 2)
  /-- STB, R243. -/
  | stb (g : BitVec 4) (d : BitVec 7) (a : BitVec 7) (p : BitVec 3) (o : BitVec 2)
  /-- LDE, R244. -/
  | lde (g : BitVec 4) (d : BitVec 7) (a : BitVec 7) (p : BitVec 3) (o : BitVec 2) (s : BitVec 2)
  /-- STE, R244. -/
  | ste (g : BitVec 4) (d : BitVec 7) (a : BitVec 7) (p : BitVec 3) (o : BitVec 2) (s : BitVec 2)
  /-- ATOM, R247. -/
  | atom (g : BitVec 4) (d : BitVec 7) (a : BitVec 7) (h : BitVec 3) (o : BitVec 2) (l : BitVec 1) (w : BitVec 1)
  /-- CAS, R249. -/
  | cas (g : BitVec 4) (d : BitVec 7) (a : BitVec 7) (p : BitVec 3) (o : BitVec 2) (s : BitVec 2)
  /-- LRBEGIN, R253. -/
  | lrbegin (g : BitVec 4) (s : BitVec 7) (p : BitVec 7)
  /-- LREND, R254. -/
  | lrend (g : BitVec 4)
  /-- FENCE_ACQ, R120. -/
  | fenceAcq (g : BitVec 4)
  /-- FENCE_REL, R120. -/
  | fenceRel (g : BitVec 4)
  /-- FENCE_FULL, R120. -/
  | fenceFull (g : BitVec 4)
  /-- CACHE_WB, R257. -/
  | cacheWb (g : BitVec 4) (p : BitVec 7) (l : BitVec 7)
  /-- CACHE_INV, R257. -/
  | cacheInv (g : BitVec 4) (p : BitVec 7) (l : BitVec 7)
  /-- CACHE_INVD, R133. -/
  | cacheInvd (g : BitVec 4) (p : BitVec 7) (l : BitVec 7)
  /-- CACHE_PREF, R257. -/
  | cachePref (g : BitVec 4) (p : BitVec 7) (l : BitVec 7)
  /-- LDS, R251. -/
  | lds (g : BitVec 4) (d : BitVec 7) (o : BitVec 7) (e : BitVec 3) (r : BitVec 2) (s : BitVec 2)
  /-- STS, R251. -/
  | sts (g : BitVec 4) (d : BitVec 7) (o : BitVec 7) (e : BitVec 3) (r : BitVec 2) (s : BitVec 2)
  /-- ATOMS, R252. -/
  | atoms (g : BitVec 4) (d : BitVec 7) (a : BitVec 7) (h : BitVec 3) (o : BitVec 2) (l : BitVec 1)
  /-- RED, R248. -/
  | red (g : BitVec 4) (d : BitVec 7) (a : BitVec 7) (h : BitVec 3) (o : BitVec 2) (l : BitVec 1) (w : BitVec 1)
  /-- PUT, R264. -/
  | put (g : BitVec 4) (d : BitVec 7) (a : BitVec 7) (b : BitVec 7)
  /-- PUTM, R265. -/
  | putm (g : BitVec 4) (d : BitVec 7) (a : BitVec 7) (b : BitVec 7)
  /-- DRAIN, R266. -/
  | drain (g : BitVec 4) (d : BitVec 7) (a : BitVec 7) (b : BitVec 7)
  /-- BCOUNT, R267. -/
  | bcount (g : BitVec 4) (d : BitVec 7) (h : BitVec 7)
  /-- BOPEN, R75. -/
  | bopen (g : BitVec 4) (d : BitVec 7) (p : BitVec 7)
  /-- BSEAL, R88. -/
  | bseal (g : BitVec 4) (h : BitVec 7)
  /-- BFREE, R89. -/
  | bfree (g : BitVec 4) (h : BitVec 7)
  /-- BITER, R268. -/
  | biter (g : BitVec 4) (d : BitVec 7) (a : BitVec 7) (b : BitVec 7)
  /-- GFETCH, R269. -/
  | gfetch (g : BitVec 4) (d : BitVec 7) (a : BitVec 7) (b : BitVec 7)
  /-- PROBE, R272. -/
  | probe (g : BitVec 4) (d : BitVec 7) (p : BitVec 7)
  /-- REBAL, R273. -/
  | rebal (g : BitVec 4) (d : BitVec 7) (a : BitVec 7) (b : BitVec 7)
  /-- COPY, R274. -/
  | copy (g : BitVec 4) (s : BitVec 7) (l : BitVec 7) (c : BitVec 3) (t : BitVec 1) (u : BitVec 1) (v : BitVec 1)
  /-- COPYB, R275. -/
  | copyb (g : BitVec 4) (p : BitVec 7) (c : BitVec 3)
  /-- IGATHER, R272. -/
  | igather (g : BitVec 4) (d : BitVec 7) (p : BitVec 7)
  /-- ISCATTER, R272. -/
  | iscatter (g : BitVec 4) (d : BitVec 7) (p : BitVec 7)
  /-- QBIND, R258. -/
  | qbind (g : BitVec 4) (q : BitVec 7) (b : BitVec 7)
  /-- QSTAT, R260. -/
  | qstat (g : BitVec 4) (d : BitVec 7) (q : BitVec 7)
  /-- CPWAIT, R276. -/
  | cpwait (g : BitVec 4) (t : BitVec 7) (c : BitVec 3)
  /-- WAVE, R277. -/
  | wave (g : BitVec 4) (x : BitVec 7) (r : BitVec 7) (o : BitVec 7)
  /-- MMA, R282. -/
  | mma (g : BitVec 4) (t : BitVec 4) (a : BitVec 7) (b : BitVec 7)
  /-- MMAS, R283. -/
  | mmas (g : BitVec 4) (c : BitVec 3) (t : BitVec 4) (a : BitVec 7) (b : BitVec 7)
  /-- MMAQ, R285. -/
  | mmaq (g : BitVec 4) (k : BitVec 2) (t : BitVec 4) (a : BitVec 7) (b : BitVec 7)
  /-- ACCZ, R289. -/
  | accz (g : BitVec 4) (t : BitVec 7)
  /-- ACCLD, R289. -/
  | accld (g : BitVec 4) (t : BitVec 7) (p : BitVec 7)
  /-- ACCST, R289. -/
  | accst (g : BitVec 4) (t : BitVec 7) (p : BitVec 7)
  /-- ACCRD, R290. -/
  | accrd (g : BitVec 4) (d : BitVec 7) (t : BitVec 7) (b : BitVec 7)
  /-- ACCWR, R290. -/
  | accwr (g : BitVec 4) (t : BitVec 7) (a : BitVec 7) (b : BitVec 7)
  /-- WALK, R296. -/
  | walk (g : BitVec 4) (x : BitVec 7) (p : BitVec 7)
  /-- NEST, R296. -/
  | nest (g : BitVec 4) (x : BitVec 7) (p : BitVec 7)
  /-- ENDW, R296. -/
  | endw (g : BitVec 4)
  /-- BARG, R304. -/
  | barg (g : BitVec 4) (d : BitVec 7) (n : BitVec 7)
  /-- BARA, R304. -/
  | bara (g : BitVec 4) (d : BitVec 7) (l : BitVec 2) (n : BitVec 5)
  /-- BARW, R304. -/
  | barw (g : BitVec 4) (v : BitVec 7) (l : BitVec 2) (n : BitVec 5)
  /-- BARC, R304. -/
  | barc (g : BitVec 4) (d : BitVec 7) (n : BitVec 2)
  /-- BARL, R304. -/
  | barl (g : BitVec 4) (d : BitVec 7) (n : BitVec 1)
  /-- WAITF, R307. -/
  | waitf (g : BitVec 4) (m : BitVec 12)
  /-- WAITV, R308. -/
  | waitv (g : BitVec 4) (v : BitVec 7) (p : BitVec 7) (c : BitVec 4) (o : BitVec 1)
  /-- CSRRD, R309. -/
  | csrrd (g : BitVec 4) (d : BitVec 7) (c : BitVec 7)
  /-- CSRWR, R309. -/
  | csrwr (g : BitVec 4) (s : BitVec 7) (c : BitVec 7)
  /-- TRAP, R315. -/
  | trap (g : BitVec 4) (a : BitVec 7) (s : BitVec 1) (n : BitVec 6)
  /-- RETT, R318. -/
  | rett (g : BitVec 4)
  /-- RETT_F, R318. -/
  | rettF (g : BitVec 4) (b : BitVec 7)
  /-- WATCH, R353. -/
  | watch (g : BitVec 4) (n : BitVec 7) (s : BitVec 7)
  /-- WATCH_RD, R353. -/
  | watchRd (g : BitVec 4) (d : BitVec 7) (n : BitVec 7)
  /-- INSP, R358. -/
  | insp (g : BitVec 4) (d : BitVec 7) (b : BitVec 7) (s : BitVec 7)
  /-- POKE, R358. -/
  | poke (g : BitVec 4) (s : BitVec 7) (b : BitVec 7) (e : BitVec 7)
  /-- STEP, R360. -/
  | step (g : BitVec 4) (b : BitVec 7)
  /-- RESUME, R361. -/
  | resume (g : BitVec 4) (b : BitVec 7)
  /-- PACE, R180. -/
  | pace (w : BitVec 12) (s : BitVec 4) (d : BitVec 3)
  /-- IMM, R184. -/
  | imm (i : BitVec 22)
  /-- MOD, R185. -/
  | mod (r : BitVec 1) (m : BitVec 2) (s : BitVec 1) (t : BitVec 1) (n : BitVec 1) (w : BitVec 1)
  /-- FAULT_QUEUE_APPEND, R336. -/
  | faultQueueAppend (die : Nat)
  /-- CREW_FORM, R152. -/
  | crewForm (site : Nat)
  /-- CREW_EVICT, R155. -/
  | crewEvict (site : Nat)
  /-- FLAG_COMPLETE, R181. -/
  | flagComplete (op : Nat)
  /-- DIR_LOAD_REQUEST, R100. -/
  | dirLoadRequest (op : Nat) (victim : Nat)
  /-- DIR_STORE_REQUEST, R101. -/
  | dirStoreRequest (op : Nat) (victim : Nat)
  /-- L1_EVICT, R37. -/
  | l1Evict (core : Nat) (line : Nat)
  /-- L2_LINE_MIGRATE, R39. -/
  | l2LineMigrate (line : Nat)
  /-- LINE_DIE_MIGRATE, R111. -/
  | lineDieMigrate (line : Nat)
  /-- TILE_FETCH_RETRY, R42. -/
  | tileFetchRetry (op : Nat)
  /-- COPY_BEAT, R48. -/
  | copyBeat (gang : Nat) (channel : Nat)
  /-- PLACER_PUT, R82. -/
  | placerPut (op : Nat) (seen : Nat)
  /-- PLACER_DRAIN, R85. -/
  | placerDrain (op : Nat)
  /-- PLACER_BCOUNT, R79. -/
  | placerBcount (op : Nat)
  /-- PLACER_BSEAL, R88. -/
  | placerBseal (op : Nat)
  /-- PLACER_BFREE, R89. -/
  | placerBfree (op : Nat)
  /-- SHARE_RECORD_WRITE, R85. -/
  | shareRecordWrite (bag : Nat) (share : Nat)
  /-- BANK_COMMAND_START, R65. -/
  | bankCommandStart (pch : Nat) (choice : Nat)
  /-- WAVE_NEXT_WAVE, R68. -/
  | waveNextWave (op : Nat)
  /-- THERMAL_LIMIT_CHANGE, R68. -/
  | thermalLimitChange (stack : Nat) (limit : Nat)
  /-- SITE_SHIP, R63. -/
  | siteShip (fibre : Nat)
  /-- SCULLER_ARRIVAL, R64. -/
  | scullerArrival (sculler : Nat)
  /-- LINE_REGION_TIMEOUT, R255. -/
  | lineRegionTimeout (fibre : Nat)
  /-- LINE_REGION_HELD, R253. -/
  | lineRegionHeld (fibre : Nat)
  /-- WAITV_RELOAD, R308. -/
  | waitvReload (fibre : Nat)
  /-- SLEEP_EXPIRE, R207. -/
  | sleepExpire (fibre : Nat)
  /-- POWER_TOKEN_RELEASE, R294. -/
  | powerTokenRelease (die : Nat) (cluster : Nat)
  /-- WQ_TAKE_RECORD, R325. -/
  | wqTakeRecord (queue : Nat)
  /-- GANG_PLACE, R327. -/
  | gangPlace (ctx : Nat)
  /-- GANG_END, R168. -/
  | gangEnd (gang : Nat)
  /-- VF_CHANGE_STABLE, R329. -/
  | vfChangeStable (island : Nat)
  /-- SCHED_STEP, R331. -/
  | schedStep
  /-- SLICE_END, R332. -/
  | sliceEnd (ctx : Nat)
  /-- CONTEXT_RESTORE, R348. The check code of R347 is over bytes of memory, so `ok` says nothing. -/
  | contextRestore (ctx : Nat) (ok : Bool)
  /-- ZEROPAGE, R31. -/
  | zeropage (die : Nat)
  /-- XINVAL, R26. -/
  | xinval (die : Nat)
  /-- RELEASE_RESUME, R338. -/
  | releaseResume (die : Nat)
  /-- RELEASE_REDIRECT, R338. -/
  | releaseRedirect (die : Nat)
  /-- RELEASE_HANDLER, R338. -/
  | releaseHandler (die : Nat)
  /-- RELEASE_EMULATE, R338. -/
  | releaseEmulate (die : Nat)
  /-- RELEASE_END, R338. -/
  | releaseEnd (die : Nat)
  /-- PREEMPT, R339. -/
  | preempt (die : Nat)
  /-- QUIESCE, R339. -/
  | quiesce (die : Nat)
  /-- RESUMECTX, R339. -/
  | resumectx (die : Nat)
  /-- ENDCTX, R372. -/
  | endctx (die : Nat)
  /-- DBGACC_INSP, R372. -/
  | dbgaccInsp (die : Nat)
  /-- DBGACC_POKE, R372. -/
  | dbgaccPoke (die : Nat)
  /-- DBGACC_STEP, R372. -/
  | dbgaccStep (die : Nat)
  /-- DBGACC_RESUME, R374. -/
  | dbgaccResume (die : Nat)
  /-- DBGACC_WATCH_SET, R372. -/
  | dbgaccWatchSet (die : Nat)
  /-- DBGACC_WATCH_READ, R374. -/
  | dbgaccWatchRead (die : Nat)
  /-- BNDSYNC, R15. -/
  | bndsync (die : Nat)
  /-- COMMAND_COMPLETE, R372. -/
  | commandComplete (die : Nat)
  /-- CARVE_WRITE, R46. -/
  | carveWrite (die : Nat) (value : BitVec 64)
  /-- CARVE_CHANGEOVER_DONE, R46. -/
  | carveChangeoverDone (die : Nat) (unit : Nat)
  /-- QUARCFG_WRITE, R115. -/
  | quarcfgWrite (die : Nat) (value : BitVec 64)
  /-- WQCFG_WRITE, R324. -/
  | wqcfgWrite (queue : Nat) (value : BitVec 64)
  /-- RC_REGISTER_WRITE, R371. -/
  | rcRegisterWrite (addr : Nat) (value : BitVec 64)
  /-- PWRCTL_WRITE, R380. -/
  | pwrctlWrite (value : BitVec 64)
  /-- MGMT_REGISTER_WRITE, R371. -/
  | mgmtRegisterWrite (addr : Nat) (value : BitVec 64)
  /-- POWER_LIMIT_STEP, R381. -/
  | powerLimitStep (exceeded : Bool)
  /-- PATROL_SCRUB, R55. -/
  | patrolScrub (addr : Nat) (bits : Nat)
  /-- DIE_FAILURE, R114. -/
  | dieFailure (die : Nat)
  /-- FLIT_REPLAY, R364. -/
  | flitReplay (port : Nat)
  /-- PACKET_READ, R112. -/
  | packetRead (pkt : Packet)
  /-- PACKET_WRITE, R112. -/
  | packetWrite (pkt : Packet)
  /-- PACKET_ATOM, R376. -/
  | packetAtom (pkt : Packet)
  /-- PACKET_RED, R376. -/
  | packetRed (pkt : Packet)
  /-- PACKET_MAILBOX, R368. -/
  | packetMailbox (pkt : Packet)
  /-- PACKET_RESP, R366. -/
  | packetResp (pkt : Packet)
  /-- MAILBOX_CREDIT, R368. -/
  | mailboxCredit (pkt : Packet)
  /-- POWER_ON_BRINGUP, R382. -/
  | powerOnBringup (trained : BitVec 36) (failStage : Nat)
  /-- UNDEFINED_ENCODING, R187. -/
  | undefinedEncoding (w : BitVec 32)
  /-- UNKNOWN_COMMAND_CODE, R372. -/
  | unknownCommandCode (die : Nat)
  /-- L1_DROP_WITHOUT_TELLING, R96. -/
  | l1DropWithoutTelling (core : Nat) (word : Nat)
  /-- WALK_BODY_WORD_ISSUE, R296. -/
  | walkBodyWordIssue (site : Nat) (slot : Nat)
  /-- POWER_REMOVED, R382. -/
  | powerRemoved
  /-- CORE_CLK_ISSUE_SLOTS, R164. -/
  | coreClkIssueSlots (site : Nat)
  deriving DecidableEq, Repr, Inhabited

end Sys2Proof
end

