-- ==== Sys2Proof/Config.lean ====
section
/-! DEFINITION. What the device fixes (R1 to R3) and what the manual leaves free. A free value is
an opaque constant: no proof can see what it is. -/

namespace Sys2Proof.Config

/-- R2: package cores, scullers, and the site numbers of this model: core n is site n, sculler k is
site 192 + k, the supervisor core of die d is site 576 + d. -/
def cores : Nat := 192
def scullers : Nat := 384
def superBase : Nat := 576
def sites : Nat := 580

/-- Which agent moves next when the agenda of the machine is empty (log entry 4): the manual orders
the agents no further than its rules say. -/
opaque freeEvent : Nat → Instr

/-- R23: which entry of a run translates a virtual page of a context (log entry 6). It matters only
where the entries of the run disagree. -/
opaque runEntry : Nat → Nat → Nat

/-- R286, R385: how a matrix unit forms a sum of the items 0 .. K: a tree of additions, each rounded to
`24 + p` significant bits, to nearest even. -/
inductive Plan where
  | item (n : Nat)
  | add (l r : Plan) (p : Nat)
  deriving DecidableEq, Repr, Inhabited

/-- R286: the order of accumulation in a run (R4), by number of the bring-up, form of eight-op, formats
of A and B, and number of products. Item 0 is the accumulator. -/
opaque accPlan : Nat → Nat → Nat → Nat → Nat → Plan

/-- R296: the order of levels, outermost first, and the direction bits that WALK chooses, by counter
of free choices. -/
opaque walkOrder : Nat → List Nat × Nat

/-- Of an issue turn: whether its accesses and engine operations stay in flight instead of taking
their instants at once, and whether the site's cached translations and bounds entries are gone, by
counter of free choices. -/
opaque issueChoice : Nat → Bool × Bool

/-- R106: how many of its words an access takes at its next instant, by counter of free choices. -/
opaque wordsNow : Nat → Nat

/-- R82: how many requests for a bag have reached its placer when one is placed as it issues, by counter
of free choices. -/
opaque reached : Nat → Nat

/-- R33, R40, R44, R110: the set of a line in an L1 (0), an L2 slice (1), a unit of the memory-side
cache (2), the forwarding entries (3) or the holder entries (4) of a slice. The manual gives the
numbers of sets and ways; how a line finds its set it leaves open. -/
opaque setOf : Nat → Nat → Nat

/-- R44: the unit of the memory-side cache that serves a line, by the units that are carved. -/
opaque sramUnit : BitVec 12 → Nat → Nat

/-- R33, R44, R270: which line of a full set a cache gives up, by counter of free choices. -/
opaque victim : Nat → Nat

/-- R52 to R55: where a stored bit has flipped, or a datapath erred. -/
inductive Place where
  /-- register of a fibre, by the fibre's key; a datapath's result there -/
  | reg (fibre n : Nat)
  | result (fibre n : Nat)
  /-- word of a scratchpad, as State.scr names it -/
  | scratch (word : Nat)
  /-- word of a core's L1, as State.l1 names it -/
  | l1 (key : Nat)
  /-- word of an L2, of the stacked SRAM, of DRAM, by physical address / 4 -/
  | l2 (word : Nat)
  | sram (word : Nat)
  | dram (word : Nat)
  /-- the transfer of a word of DRAM over its link -/
  | link (word : Nat)
  /-- accumulator element, as State.acc names it -/
  | acc (elem : Nat)
  deriving DecidableEq, Repr

/-- R52: an error that a read finds, by counter of free choices: its place, the bits or symbols that
are wrong, and the syndrome. -/
opaque upset : Nat → Option (Place × Nat × BitVec 64)

/-- R55: the syndrome of what the patrol corrects, by counter of free choices. -/
opaque syndrome : Nat → BitVec 64

/-- R366: a word that a load or atomic of a supervisor core returns with its ERR status, by counter of free
choices. -/
opaque errWord : Nat → BitVec 32

/-- R351: a word that a RED which has left the device comes to write, by counter of free choices. -/
opaque redWord : Nat → BitVec 32

/-- R365, R372: the word of an EVENT packet, by counter of free choices. -/
opaque eventWord : Nat → BitVec 64

/-- R332: whether a save takes longer than its LIMIT, by counter of free choices. -/
opaque overrun : Nat → Bool

/-- R345: the bytes that a save writes into the two opaque regions of a core area, by counter of free
choices. -/
opaque opaqueBytes : Nat → List (BitVec 8) × List (BitVec 8)

/-- R364: the port that a request leaves by, by its serial number. -/
opaque portOf : Nat → Nat

/-- R382: the reason that a failed verification leaves in BOOTSTAT, by counter of free choices. -/
opaque bootReason : Nat → Nat

/-- R369, R382: what the firmware of a die starts on its supervisor core: the PCs of its fibres by
fid, a window code, and TRAPVEC. -/
opaque superStart : Nat → List (BitVec 54) × Nat × BitVec 54

end Sys2Proof.Config
end

