-- ==== Sys2Proof/Machine/State.lean ====
section
/-! DEFINITION. The state of the machine: everything the manual gives the device, as plain data.
Sparse tables are sorted key and value lists (Machine/KV.lean); what an unlisted key stands for is
said at each field. -/

namespace Sys2Proof.Machine

/-- No step of this machine stops with a fault: every trap of the manual is a next state, in which
the fibre is parked, sent to its handler or shipped (R317). -/
inductive Fault where
  deriving DecidableEq, Repr

/-- Why a step has no meaning. -/
inductive Refusal where
  /-- Raised by an arm of `exec` that has no meaning yet; safe, since nothing can be proved of its
  next state. -/
  | notModelled (mnemonic : String)
  deriving DecidableEq, Repr

/-- A 32-bit word of a register, ring or tile with its poison mark (R54). -/
structure PW where
  v : Word := 0
  p : Bool := false
  deriving DecidableEq, Repr, Inhabited

/-- The trap classes of R312. -/
inductive Cls where
  | illeg | mask | nonuni | xlat | perm | bounds | align | peer | bagcap | bagstate
  | spmeta | fmt | watch | fpx | site | input | poison | syncx | homelost | swtrap
  deriving DecidableEq, Repr, Inhabited

/-- The trap record TRAPREC0 to TRAPREC3 (R335). -/
structure TrapRec where
  r0 : DWord := 0
  r1 : DWord := 0
  r2 : DWord := 0
  r3 : DWord := 0
  deriving DecidableEq, Repr, Inhabited

/-- A completion flag's state (R181). -/
inductive FlagSt where
  | idle | busy | done
  deriving DecidableEq, Repr, Inhabited

/-- A fault that the word observing a flag raises: of an engine operation that stopped (the flag
stays BUSY, R181), or POISON or FPX of a completed operation (R54, R222). -/
structure Note where
  cls : Cls
  addr : DWord := 0
  reason : Nat := 0
  level : Nat := 0
  lanes : Word := 0
  engine : Bool := false
  /-- of a copy: the channel that stopped -/
  ch : Nat := 0
  /-- the gang's phase sum at the issue of the operation (R335) -/
  gph : Word := 0
  /-- of a load that the next word waits for: the trap is taken at the load itself (R54) -/
  pc : Option VAddr := none
  deriving DecidableEq, Repr

/-- A completion flag of a fibre. Number 15 is this model's name for the implicit full-completion
wait of R183. -/
structure Flag where
  st : FlagSt := .idle
  note : Option Note := none
  /-- of an engine operation: its observation is a join edge that drops untracked copies (R127) -/
  eng : Bool := false
  /-- predicate p7 that the observation makes readable (R251, R273) -/
  p7 : Option Bool := none
  deriving DecidableEq, Repr, Inhabited

/-- When a pending result becomes readable (R182, R183). -/
inductive When where
  | count (n : Nat)
  | flag (f : Nat)
  deriving DecidableEq, Repr

/-- A pending result of a fibre: in program order, later writes later. -/
structure Pend where
  reg : Nat
  v : PW
  when_ : When
  /-- the operation that will deliver the value, 0 for a fixed-latency result -/
  op : Nat := 0
  deriving DecidableEq, Repr

/-- How a fibre is parked (R317). -/
structure Park where
  /-- true: for the supervisor; false: under disposition 10 -/
  sup : Bool
  record : TrapRec
  cls : Cls
  deriving DecidableEq, Repr

/-- The halt record of R358. -/
structure Halt where
  pred : Nat := 0
  act : Nat := 0
  after : Bool := false
  cand : DWord := 0
  /-- halted by STEP or a gang halt's skid, with no predicate of its own -/
  step : Bool := false
  deriving DecidableEq, Repr

/-- Why a fibre is blocked in the boathouse (R161). `next` is where it goes on. -/
inductive WaitK where
  /-- waits while the barrier's phase is x; level 0 gang, 1 cluster, 2 launch (R304) -/
  | bar (level n : Nat) (x : Word)
  /-- has arrived in phase x already; arrives again when it changes, then waits if `hold` (R304); the
  register that takes the phase, and the flag that it is observed by -/
  | rearrive (level n : Nat) (x : Word) (hold : Bool) (dst sig : Nat)
  /-- WAITV (R308): pointer, condition, value to compare, acquire, MOD WSKIP, and whether it has
  loaded before; the gang's phase sum at its issue (R335) -/
  | waitv (ptr : DWord) (c : Nat) (v : Word) (acq wskip again : Bool) (gph : Word)
  /-- SLEEP (R207): clk left -/
  | sleep (left : Nat)
  /-- CREWJOIN (R160), at this word -/
  | join (at_ : VAddr)
  deriving DecidableEq, Repr

structure Wait where
  kind : WaitK
  next : VAddr
  deriving DecidableEq, Repr

/-- Shipping under way (R63, R64). -/
structure Ship where
  dest : Nat
  /-- in the destination's arrival queue, its place in order of arrival; none: still draining -/
  queued : Option Nat := none
  deriving DecidableEq, Repr

/-- A line region (R253 to R255). -/
structure Region where
  line : Nat
  /-- word after the LRBEGIN -/
  ret : VAddr
  reg : Nat
  /-- held: the directory has taken the request -/
  held : Bool := false
  /-- bytes written, by offset in the line; unlisted: not written -/
  buf : List (Nat × Byte) := []
  /-- the clk of the line's slice at which the line was held -/
  born : Nat := 0
  /-- its LREND has issued, and waits for the fibre's earlier accesses (R255) -/
  ending : Bool := false
  /-- only the push of reason 4 into a queue is still to come, in its lane's turn (R178) -/
  dup : Bool := false
  deriving DecidableEq, Repr

/-- The poll record (R147, R166): address, and the words read. An address in scratchpad is that of the
byte there, by site * 2^20, whatever PEER named it. -/
structure Poll where
  scr : Bool := false
  va : VAddr
  v : List Word
  deriving DecidableEq, Repr

/-- A walk (R296 to R299). -/
structure Walk where
  /-- SEQV0 and SEQV1: vector, order, directions and position; ACT while a walk is in progress -/
  v0 : DWord := 0
  v1 : DWord := 0
  /-- bounds of the levels -/
  dims : List Nat := []
  /-- the pointer pairs moved: register, base value, stride of each level -/
  ptrs : List (Nat × DWord × List Int) := []
  /-- the body as fetched at issue -/
  words : List Word := []
  /-- word after the ENDW -/
  next : VAddr := 0
  /-- flag it signals -/
  flag : Nat := 16
  /-- it was issued in handler mode -/
  hm : Bool := false
  /-- sums of accumulator elements over the iterations so far, by key: as the order of accumulation
  gives them and exact, each as sign, magnitude, exponent of 2 (R286) -/
  parts : List (Nat × (Bool × Nat × Int) × (Bool × Nat × Int)) := []
  deriving DecidableEq, Repr, Inhabited

/-- A bag iteration (R86, R268). -/
structure Iter where
  bag : Nat
  share : Nat
  /-- first record and number of records of the snapshot -/
  first : Nat
  count : Nat
  next : Nat
  deriving DecidableEq, Repr

/-- The copy of a fibre that its home core holds during a stay on a sculler (R63). -/
structure Snap where
  win : List (Nat × PW)
  pc : VAddr
  preds : BitVec 8
  age : Nat
  fpf : BitVec 5
  /-- issue count, and results still to become readable at it (R182) -/
  count : Nat := 0
  pend : List Pend := []
  deriving DecidableEq, Repr, Inhabited

/-- A fibre (R147). -/
structure Fibre where
  gang : Nat := 0
  fid : Nat := 0
  /-- site it stands on -/
  site : Nat := 0
  /-- crew slot it is a member of; none: in the boathouse -/
  slot : Option Nat := none
  pc : VAddr := 0
  /-- p0 to p7, bit 0 always 1 -/
  preds : BitVec 8 := 1
  /-- window base, in registers of the home lane-bank -/
  wbase : Nat := 0
  age : Nat := 0
  flags : List (Nat × Flag) := []
  /-- issue count (R182) -/
  count : Nat := 0
  /-- g registers of the window; unlisted: 0 -/
  win : List (Nat × PW) := []
  pend : List Pend := []
  /-- sticky floating-point flags, in the order of FPCTL.FLG -/
  fpf : BitVec 5 := 0
  poll : Option Poll := none
  dem : Bool := false
  park : Option Park := none
  halt : Option Halt := none
  /-- handler mode (R316) -/
  hm : Bool := false
  trec : TrapRec := {}
  wait : Option Wait := none
  ship : Option Ship := none
  /-- last FENCE REL or FULL: operations before this serial number precede later stores (R120) -/
  relMark : Nat := 0
  /-- a FENCE ACQ or FULL, an acquire or LRBEGIN holds later accesses until these have taken their
  instants -/
  fence : List Nat := []
  restart : BitVec 8 := 0
  walk : Walk := {}
  region : Option Region := none
  iter : Option Iter := none
  /-- snapshot kept at home during a stay on a sculler -/
  snap : Option Snap := none
  /-- first instruction after STEP or RESUME: address and PC predicates are not evaluated (R361) -/
  fresh : Bool := false
  /-- STEP: halts before its next word (R360) -/
  stepping : Bool := false
  /-- a gang halt found the fibre between a hint and its instruction: it halts after that (R179, R355) -/
  toHalt : Option Halt := none
  /-- words that the instruction about to issue has read from a peer, the host or a bank, by physical
  address / 4 (R126) -/
  wbuf : List (Nat × PW) := []
  /-- an FPX record to be applied at release (R356) -/
  owedFpx : Option (TrapRec) := none
  deriving DecidableEq, Repr, Inhabited

/-- The open hint group of a crew (R179). -/
structure Hints where
  start : VAddr
  wait : BitVec 12 := 0
  sig : Nat := 15
  dist : Nat := 0
  pace : Bool := false
  imm : Option (BitVec 22) := none
  mods : Option (BitVec 22) := none
  /-- the offending hint word of an error -/
  err : Option Word := none
  /-- hint words issued -/
  n : Nat := 0
  deriving DecidableEq, Repr, Inhabited

/-- A formed crew (R146). Its members' ids are in lane order. -/
structure Crew where
  gang : Nat := 0
  fids : List Nat := []
  /-- canonical and formed at CREWJOIN (R160) -/
  joined : Bool := false
  /-- formed at CREWJOIN (R155) -/
  fromJoin : Bool := false
  /-- issue opportunities still to be spent idle under PACE DIST (R182) -/
  idle : Nat := 0
  hints : Option Hints := none
  /-- a crew of one under STEP (R360) -/
  alone : Bool := false
  /-- what held its next word back at its last turn, as a leaf of R362, and 16 more where its members
  are not blocked (R161); 0 nothing -/
  stall : Nat := 0
  /-- chosen for eviction: it issues no more and waits for its members' flags (R155) -/
  evict : Bool := false
  deriving DecidableEq, Repr, Inhabited

/-- A barrier (R302). A is the length of `arrived`. -/
structure Bar where
  phase : Word := 0
  expected : Nat := 0
  /-- keys of the fibres that have arrived in the current phase -/
  arrived : List Nat := []
  deriving DecidableEq, Repr, Inhabited

inductive ChanSt where
  | idle | running | saved | faulted
  deriving DecidableEq, Repr, Inhabited

/-- A copy channel of a gang (R48, R49). -/
structure Chan where
  st : ChanSt := .idle
  count : Nat := 0
  /-- copies issued and not finished, oldest first: serial numbers of their operations -/
  copies : List Nat := []
  /-- held by a gang halt (R355) -/
  held : Bool := false
  deriving DecidableEq, Repr, Inhabited

/-- A bound queue register (R258, R259). -/
structure Queue where
  /-- 1 scratchpad ring, 2 channel-fed ring, 3 mailbox -/
  kind : Nat
  ew : Nat
  ch : Nat := 0
  mbox : Nat := 0
  slm1 : Nat := 0
  base : Nat := 0
  head : Nat := 0
  tail : Nat := 0
  /-- elements of a mailbox, oldest first -/
  box : List (List PW) := []
  /-- elements pushed to the peer's mailbox whose credits are still to come back (R368) -/
  unread : Nat := 0
  /-- loads and copies whose pushes are still to come (R241) -/
  inFlight : Nat := 0
  deriving DecidableEq, Repr, Inhabited

/-- A gang (R146, R302 to R314). -/
structure Gang where
  ctx : Nat := 0
  launch : Nat := 0
  group : Nat := 0
  rank : Nat := 0
  number : Nat := 0
  core : Nat := 0
  slot : Nat := 0
  nfib : Nat := 0
  window : Nat := 0
  /-- first register of its block in every lane-bank -/
  rbase : Nat := 0
  sbase : Nat := 0
  ssize : Nat := 0
  /-- first of its tiles in the core's numbering, 16 * slot, and their number -/
  tbase : Nat := 0
  tiles : Nat := 0
  /-- k0 to k15 -/
  consts : List Word := []
  bars : List (Nat × Bar) := []
  dbg : Bool := false
  uchk : Bool := false
  /-- FPCTL.RM, TEN and PKF (R220) -/
  rm : BitVec 2 := 0
  ten : BitVec 5 := 0
  pkf : Bool := false
  trapvec : VAddr := 0
  traproute : BitVec 40 := 0
  inject : DWord := 0
  chans : List (Nat × Chan) := []
  queues : List (Nat × Queue) := []
  /-- fibres that have exited -/
  exited : Nat := 0
  /-- waits for an operating point before it starts (R329) -/
  started : Bool := true
  deriving DecidableEq, Repr, Inhabited

/-- A cluster group's barriers bc0 to bc3 (R169, R170), and the gangs by rank; 0: has ended. -/
structure Group where
  bars : List (Nat × Bar) := []
  gangs : List Nat := []
  deriving DecidableEq, Repr, Inhabited

/-- A launch accepted by the dispatcher (R209 to R211, R327). -/
structure Launch where
  ctx : Nat := 0
  entry : VAddr := 0
  nfib : Nat := 0
  window : Nat := 0
  acc : Nat := 0
  cw : Nat := 1
  prio : Nat := 0
  cor : Bool := false
  vf : Nat := 0
  scr : Nat := 0
  gangs : Nat := 0
  consts : List Word := []
  /-- cell of the completion word, and whether it is held at the bank -/
  compl : Option (Nat × Bool) := none
  /-- die whose child-launch slot it holds, for a SPAWN -/
  child : Option Nat := none
  /-- dies allowed by the queue or the context -/
  dies : BitVec 4 := 0
  placed : Nat := 0
  ended : Nat := 0
  bars : List (Nat × Bar) := []
  deriving DecidableEq, Repr, Inhabited

/-- State of a context (R341). -/
inductive CtxSt where
  | running | stopping | saved | quiesced
  deriving DecidableEq, Repr, Inhabited

/-- A context (R344), under its index in the scheduling ring. -/
structure Ctx where
  blk : Nat := 0
  dies : BitVec 4 := 0
  limit : Nat := 12
  slice : Nat := 0
  bndtbl : DWord := 0
  pgroot : DWord := 0
  defctl : BitVec 2 := 0
  defvec : DWord := 0
  defroute : DWord := 0
  st : CtxSt := .running
  /-- loaded on its dies and not ended -/
  live : Bool := false
  seq : Nat := 0
  /-- accepted launches with gangs to place, in order of acceptance -/
  pending : List Nat := []
  /-- round-robin place among its work queues (R326) -/
  turn : Nat := 0
  deriving DecidableEq, Repr, Inhabited

/-- One access to memory or scratchpad after its checks (R238 to R240). -/
structure Acc where
  /-- scratchpad: `pa` is site * 2^20 + byte; otherwise a physical address -/
  scr : Bool := false
  ptr : DWord := 0
  pa : Nat := 0
  n : Nat := 4
  pol : Nat := 5
  /-- compute-region page: performed at the bank (R58) -/
  bank : Bool := false
  acq : Bool := false
  rel : Bool := false
  poll : Bool := false
  noal : Bool := false
  deriving DecidableEq, Repr, Inhabited

/-- How a load's bytes become register values (R242 to R244). -/
inductive LdForm where
  /-- words as they are, low first -/
  | words
  /-- 16 bits or a byte, zero-extended -/
  | zext
  /-- a byte, sign-extended -/
  | sext
  /-- elements of a page format, `e` of them -/
  | elems (fmt e : Nat)
  deriving DecidableEq, Repr, Inhabited

/-- One end of a copy (R274). -/
inductive End where
  | mem (ptr : DWord)
  | scr (off : Nat)
  | queue (q : Nat)
  deriving DecidableEq, Repr, Inhabited

/-- The reshaping of a COPYB (R275), after its descriptor was checked. -/
structure Shape where
  spitch : Nat
  dpitch : Nat
  rows : Nat
  cols : Nat
  sat : Bool
  blk : Bool
  tr : Bool
  sfmt : Nat
  dfmt : Nat
  rm : BitVec 2
  deriving DecidableEq, Repr, Inhabited

/-- Memory that an engine operation has translated at issue: physical address, row length of a
compute-region page (0 for another), bytes, and the virtual address. -/
structure Piece where
  pa : Nat
  lr : Nat := 0
  n : Nat
  va : VAddr := 0
  deriving DecidableEq, Repr, Inhabited

/-- An eight-op with its operands resolved at issue (R281 to R285). -/
structure Eight where
  /-- 0 MMA, 1 MMAS, 2 MMAQ -/
  form : Nat
  afmt : Nat
  bfmt : Nat
  zp : Bool := false
  /-- GSZ code, and group slot -/
  gsz : Nat := 0
  slot : Nat := 0
  /-- N and M of a sparse pattern -/
  n : Nat := 1
  m : Nat := 1
  a : List Piece := []
  b : List Piece := []
  /-- indices of a sparse A tile, row by row; none where a metadata word is poisoned -/
  idx : Option (List Nat) := some []
  /-- vq to vq+11 of the eight's lanes -/
  vq : List (List Word) := []
  deriving DecidableEq, Repr, Inhabited

/-- A bag record's bytes with the poison of its words. -/
structure Record where
  bytes : List Byte
  poison : List Bool := []
  deriving DecidableEq, Repr, Inhabited

/-- One lane of a PUT or PUTM request (R82). -/
structure PutLane where
  fibre : Nat
  lane : Nat
  flag : Nat
  key : Word
  records : List Record
  deriving DecidableEq, Repr, Inhabited

/-- The kinds of packets (R365), and a mailbox credit (R368). -/
inductive PktK where
  | read | write | atom | red | mailbox | resp | credit | event
  deriving DecidableEq, Repr, Inhabited

/-- What an operation in flight does (R126, R181). -/
inductive OpK where
  /-- results known at issue: FDIV and FSQRT (`fp`, with the flags raised), REBAL, CSRRD, INSP,
  WATCH.RD -/
  | value (fp : Bool) (exc : BitVec 5)
  | load (form : LdForm)
  /-- bytes with a bit mask each: a set bit is written -/
  | store (bytes masks : List Byte)
  /-- operation code of R246, 64-bit, operand; `ret`: returns the old value -/
  | atom (code : Nat) (w64 : Bool) (v : Nat) (ret : Bool)
  | cas (w64 : Bool) (e n : Nat)
  /-- CACHE: lines still to be done, as physical ranges with their virtual addresses (R257) -/
  | cache (sub : Nat) (lines : List (Nat × Nat × VAddr))
  | copy (src dst : End) (len done : Nat) (ch : Nat) (shape : Option Shape)
  /-- IGATHER or ISCATTER: cells of the rows still to be moved with their positions and virtual
  addresses, row bytes, scratchpad key of position 0, pages pinned (context and page, as Site.tlb) -/
  | index (scatter : Bool) (rows : List (Nat × Nat × Bool × VAddr)) (es scr : Nat) (pages : List Nat)
  /-- a read or write of a peer or the host, or at a bank, on behalf of an engine operation; 0 stands
  for the instruction its fibre is about to issue (R126) -/
  | wread (op : Nat)
  | wwrite (op : Nat)
  | bwrite (op : Nat) (bytes masks : List Byte) (poi : Bool)
  /-- on accumulator tiles, named as State.acc names them; elements as in State.acc -/
  | eight (e : Eight) (tile : Nat)
  | accz (tile : Nat)
  | accld (tile : Nat) (mem : List Piece)
  | accst (tile : Nat) (mem : List Piece)
  | accrd (elem : Nat)
  | accwr (l : List (Nat × Word))
  /-- the launch that the dispatcher is to accept (R209) -/
  | spawn (l : Launch)
  /-- the dispatcher reads a record of this work queue from a window (R325) -/
  | take (queue : Nat)
  /-- one PUT or PUTM request to the bag of a handle (R78) -/
  | put (bag : Nat) (multi : Bool) (lanes : List PutLane)
  /-- DRAIN: handle, limit, queue or scratchpad key; records taken (share, number), and those that
  have reached the queue's buffer -/
  | drain (bag limit : Nat) (queue : Option Nat) (scr : Nat) (taken : Option (List (Nat × Nat)))
    (buf : List (List PW))
  | bcount (bag : Nat)
  | bseal (bag : Nat)
  | bfree (bag : Nat)
  | biter (bag share : Nat) (start : Bool) (scr : Nat)
  /-- WAVE: operation, cells of the rows' first bytes, bank shares of the rows, operand; banks that
  belong to no wave yet, banks of the current wave not started, number of those started; results -/
  | wave (code x y : Nat) (sx sy : Nat) (v : Word) (left cur : List Nat) (started : Nat)
    (parts : List (Nat × Int))
  /-- STEP: key of the target -/
  | step (target : Nat)
  /-- a packet that has arrived and is still to be performed, or, away, that has gone on to the device
  behind a window (R366, R371) -/
  | packet (kind : PktK) (p : Packet)
  /-- the die reads an entry of its command ring from a window (R373) -/
  | command (die : Nat)
  deriving DecidableEq, Repr, Inhabited

inductive Stage where
  /-- waits for its instant -/
  | pending
  /-- sent to a peer or the host; waits for the response (R365) -/
  | away
  /-- has taken its instants; results not yet delivered -/
  | performed
  /-- stopped by a fault (R274) -/
  | faulted
  deriving DecidableEq, Repr, Inhabited

/-- An operation in flight. Its serial number orders it among its fibre's (program order). -/
structure Op where
  kind : OpK
  fibre : Nat := 0
  site : Nat := 0
  lane : Nat := 0
  /-- flag it signals: 0 to 11, 15 the full-completion wait, 16 none -/
  flag : Nat := 16
  /-- the other fibres of an eight or a request, with their flags -/
  joint : List (Nat × Nat) := []
  acc : Acc := {}
  stage : Stage := .pending
  /-- first word of the issuing group -/
  pc : VAddr := 0
  /-- first destination register and their number; 124 (gz) discards -/
  dst : Nat := 124
  res : List PW := []
  /-- predicate p7 delivered with the results (R251, R273) -/
  p7 : Option Bool := none
  note : Option Note := none
  /-- exception flags raised with the result (R219) -/
  exc : BitVec 5 := 0
  /-- words an atomic has written, for the value predicates (R351) -/
  wrote : List Word := []
  /-- MOD WSKIP of its instruction (R185) -/
  wskip : Bool := false
  /-- loads of lower lanes that push to the same queue (R241) -/
  after : List Nat := []
  /-- words read so far, by physical address / 4: of peers, the host and banks, or of a load (R106) -/
  got : List (Nat × PW) := []
  /-- controller clk of arrival, for commands at a bank (R65) -/
  arr : Nat := 0
  /-- FPCTL.TEN at issue (R221) -/
  ten : BitVec 5 := 0
  /-- the gang's phase sum at issue (R335) -/
  gph : Word := 0
  /-- PEERWIN as it stood at issue, where its addresses were translated (R367) -/
  wins : List (Nat × DWord) := []
  /-- port that its request has left by (R364) -/
  port : Nat := 0
  /-- operations before this serial number precede a store (R120): the fibre's last release fence at
  issue -/
  mark : Nat := 0
  deriving DecidableEq, Repr, Inhabited

/-- State of one word in an L1 (R95). -/
inductive L1St where
  | untracked | tracked | owned | priv
  deriving DecidableEq, Repr, Inhabited

structure L1W where
  st : L1St
  v : Word
  /-- dirty bytes of an owned word, own bytes of a private word -/
  mask : BitVec 4 := 0
  p : Bool := false
  deriving DecidableEq, Repr, Inhabited

/-- A directory entry (R97) with the L2's own marks of the line (R39 to R42). -/
structure Dir where
  /-- words with tracked copies: state T (R97) -/
  t : BitVec 32 := 0
  sharers : BitVec 48 := 0
  /-- owner slots, oldest first: core of the die and word mask -/
  owners : List (Nat × BitVec 32) := []
  /-- privatised bytes of each core -/
  pmasks : List (Nat × BitVec 128) := []
  holder : Nat := 0
  rdie : Nat := 0
  rrun : Nat := 0
  slice : Nat := 0
  /-- the line is in the L2 of its holder die (R41) -/
  inL2 : Bool := false
  /-- cluster of the last requester: 0 to 11 of the holder die, above for another requester -/
  lastCluster : Nat := 0
  run : Nat := 0
  /-- a migration that is due: to a near slice of this cluster (R39), to this die (R111) -/
  due : Option Nat := none
  dueDie : Option Nat := none
  /-- bytes of the home copy that differ from memory below -/
  dirty : BitVec 128 := 0
  /-- operations that pin the line (R42) -/
  pins : List Nat := []
  /-- fibre that holds it for a line region, and the fibres waiting (R253) -/
  held : Option Nat := none
  deriving DecidableEq, Repr, Inhabited

/-- A word in a fetch unit's cache (R270), and the fibres that have stored to it since it was filled
(R126). -/
structure FetchW where
  w : PW
  stale : List Nat := []
  deriving DecidableEq, Repr, Inhabited

/-- A line of the memory-side cache (R44): it differs from DRAM, and its poisoned words (R54). -/
structure SLine where
  dirty : Bool := false
  poison : BitVec 32 := 0
  deriving DecidableEq, Repr, Inhabited

/-- A watch predicate (R350, R352). -/
structure WPred where
  desc : BitVec 128 := 0
  /-- gang that holds it -/
  gang : Option Nat := none
  count : DWord := 0
  deriving DecidableEq, Repr, Inhabited

/-- A core, sculler or supervisor core as a site that issues. -/
structure Site where
  clk : DWord := 0
  /-- TDC0 to TDC15; unlisted: 0 -/
  tdc : List (Nat × DWord) := []
  hit : BitVec 16 := 0
  tfrz : Bool := false
  woff : Bool := false
  preds : List (Nat × WPred) := []
  /-- cached leaves, by context * 2^42 + virtual page: level and entry (R26) -/
  tlb : List (Nat × Nat × DWord) := []
  /-- cached bounds entries, by context * 1024 + tag (R15) -/
  bnd : List (Nat × BitVec 128) := []
  /-- arrival queue of a sculler, in order of arrival (R64) -/
  arrivals : List Nat := []
  /-- local scratchpad slots: slot and gang (R61) -/
  lslots : List (Nat × Nat) := []
  /-- registered input rows and the fibres that read each (R70), by block * 256 + ROWL * 32 + place
  of the row among those of its block in this pseudo-channel (R56) -/
  rows : List (Nat × List Nat) := []
  /-- issue slots that each fibre has waited in the boathouse, by gang * 1024 + fid (R153) -/
  waits : List (Nat × Nat) := []
  /-- issue slots of this clk still to be filled (R164), and crews formed in it (R151) -/
  budget : Nat := 0
  formed : Nat := 0
  /-- the core's bookkeeping of a save or restore in progress -/
  saving : Bool := false
  deriving DecidableEq, Repr, Inhabited

/-- An open entry of a die's coalescing table (R337). -/
structure CEnt where
  ctx : Nat
  cls : Cls
  reason : Nat
  page : Nat
  record : TrapRec
  fibres : List Nat
  /-- written to the fault queue -/
  queued : Bool := false
  /-- has waited for room in the ring -/
  waited : Bool := false
  /-- the entry of a halt (R357): not in the table -/
  halt : Bool := false
  /-- its place in order of arrival -/
  order : Nat := 0
  deriving DecidableEq, Repr, Inhabited

/-- A command taken from a die's ring and not yet completed (R372 to R374). -/
structure Cmd where
  code : Nat
  op0 : DWord
  op1 : DWord
  op2 : DWord
  op3 : DWord
  caddr : Nat
  ev : Bool
  status : Option Nat := none
  /-- STEP in progress: the fibre -/
  target : Option Nat := none
  /-- XINVAL: accesses with a serial number below it may use the old translation -/
  mark : Nat := 0
  deriving DecidableEq, Repr, Inhabited

/-- A cluster's hold of a power token (R294). -/
structure Tok where
  cluster : Nat
  held : Nat := 0
  idle : Nat := 0
  deriving DecidableEq, Repr, Inhabited

/-- A compute die with its part of the management space (R370). -/
structure Die where
  want : BitVec 12 := 0
  pend : BitVec 12 := 0
  ready : BitVec 12 := 0
  /-- of a unit that changes over: it is being carved, rather than returned (R46) -/
  carving : BitVec 12 := 0
  quarcfg : DWord := 0
  quarstat : DWord := 0
  fqbase : DWord := 0
  fqcfg : Nat := 0
  fqhead : Word := 0
  fqtail : Word := 0
  fqovf : Word := 0
  mcbase : DWord := 0
  mchead : Word := 0
  mctail : Word := 0
  cmd : Option Cmd := none
  errtail : DWord := 0
  errlog : List (Nat × BitVec 256) := []
  /-- coalescing table, by index -/
  ctab : List (Nat × CEnt) := []
  /-- records waiting for an entry, in order of arrival; halts waiting for room in the ring -/
  cwait : List CEnt := []
  /-- records that have reached the table so far -/
  arrivals : Nat := 0
  /-- child-launch slots in use (R211) -/
  children : Nat := 0
  /-- tokens held by clusters, and clusters where a free token stands (R294) -/
  toks : List Tok := []
  free : List Nat := []
  /-- clusters waiting for a token -/
  tokWait : List Nat := []
  failed : Bool := false
  /-- the supervisor core has stopped (R369) -/
  supStopped : Bool := false
  deriving DecidableEq, Repr, Inhabited

/-- An item on its way to a share's controller (R86). -/
inductive BagItem where
  /-- record n is written for an operation and one of its fibres; controller clk of arrival -/
  | write (n : Nat) (r : Record) (op fibre arr : Nat)
  /-- record n is read and delivered -/
  | remove (n : Nat) (op arr : Nat)
  deriving DecidableEq, Repr

/-- A bag slot (R74, R77, R79). -/
structure Bag where
  isOpen : Bool := false
  gen : Nat := 0
  ctx : Nat := 0
  scount : Nat := 1
  sfirst : Nat := 0
  caps : Nat := 1
  kw : Bool := false
  rs : Nat := 16
  affine : Bool := false
  blk : Nat := 1
  area : VAddr := 0
  /-- physical address of each 2 MiB block of the area, in virtual order (R76) -/
  blocks : List Nat := []
  /-- cell of the count word, and whether its page is a compute-region page -/
  cnt : Nat := 0
  cntBank : Bool := false
  f : List (Nat × Nat) := []
  h : List (Nat × Nat) := []
  count : Nat := 0
  dcur : Nat := 0
  isSealed : Bool := false
  /-- items on their way to each share's controller, oldest first -/
  fifo : List (Nat × List BagItem) := []
  /-- the controllers' views of F and H (R86) -/
  cf : List (Nat × Nat) := []
  ch : List (Nat × Nat) := []
  /-- its BFREE has been taken, or its context ends: it is freed once its items have landed (R89) -/
  closing : Bool := false
  /-- values still to be mirrored to the count word, with the operation whose records must land
  first (R80) -/
  mirror : List (Nat × Nat) := []
  deriving DecidableEq, Repr, Inhabited

/-- What waits at a pseudo-channel's controller: an operation, or the next item of a bag's share. -/
inductive BankWork where
  | op (id : Nat)
  | item (bag share : Nat)
  deriving DecidableEq, Repr, Inhabited

/-- A pseudo-channel's controller (R65, R68). -/
structure Pch where
  clk : Nat := 0
  /-- banks busy until a clk, and whether with compute -/
  busy : List (Nat × Nat × Bool) := []
  forced : Option Nat := none
  /-- a normal request past LB that starts before the next forced command -/
  owed : Option BankWork := none
  scdefer : Word := 0
  deriving DecidableEq, Repr, Inhabited

/-- A stack's CHSHARE and thermal limit (R67, R68). -/
structure Stack where
  al : Nat := 200
  lb : Nat := 100
  abmax : Nat := 16
  therm : Nat := 16
  deriving DecidableEq, Repr, Inhabited

/-- A host work queue's registers (R324, R325). -/
structure WorkQ where
  base : DWord := 0
  cfg : DWord := 0
  tail : Word := 0
  head : Word := 0
  err : DWord := 0
  deriving DecidableEq, Repr, Inhabited

/-- A packet this package has sent (R365). -/
structure OutPkt where
  kind : PktK
  dest : Nat
  tag : Nat := 0
  addr : Nat := 0
  data : List Byte := []
  masks : List Byte := []
  len : Nat := 0
  op : Nat := 0
  /-- context of a mailbox, and of its credits (R368; log entry 34) -/
  ctx : Nat := 0
  rel : Bool := false
  err : Bool := false
  poison : List Nat := []
  deriving DecidableEq, Repr, Inhabited

/-- Package registers and fabric (R364 to R383). -/
structure Pkg where
  powered : Bool := true
  /-- bring-up: stage, reason of a failed verification, complete -/
  stage : Nat := 0
  bootReason : Nat := 0
  complete : Bool := false
  report : Bool := false
  pwrctl : DWord := 0x0003_0000_0000_0898
  hostdev : DWord := 0
  ringbase : DWord := 0
  ringlen : DWord := 0
  schederr : Word := 0
  preover : Word := 0
  evaddr : DWord := 0
  scrub : DWord := 0x0001_5180_0000_0258
  peerwin : List (Nat × DWord) := []
  redwin : List (Nat × BitVec 128) := []
  /-- scheduling ring: pointer; entry that has reserved its dies (R331), with its bits as the pointer met
  them (R330) -/
  ringptr : Nat := 0
  reserved : Option (Nat × Nat) := none
  /-- give-way of R381: tokens taken per die, thermal limit, core-island steps -/
  cutTokens : Nat := 0
  cutIslands : Nat := 0
  cutTherm : Nat := 0
  /-- operating point in force of each island, by number, and one being changed to (R329) -/
  vf : List (Nat × Nat) := []
  vfNext : List (Nat × Nat) := []
  portsDown : BitVec 36 := 0
  /-- replays in a row of each port (R364) -/
  replays : List (Nat × Nat) := []
  /-- packets sent, oldest first -/
  out : List OutPkt := []
  /-- elements arrived at each mailbox, by context * 128 + mailbox, oldest first, with the sender to
  credit (R368) -/
  boxes : List (Nat × List (Nat × List PW)) := []
  /-- elements sent to each peer mailbox and not yet credited, by (context * 4096 + device) * 128 +
  mailbox (R368) -/
  sent : List (Nat × Nat) := []
  /-- lines of surviving dies lost with their holder (R114) -/
  lost : List (Nat × Unit) := []
  deriving DecidableEq, Repr, Inhabited

/-- What a save keeps of one core beside the images in memory: what its opaque regions mean (R345), and the
bytes that stand for them there, by offset in the core area (R347). -/
structure Saved where
  ctx : Nat := 0
  core : Nat := 0
  opq : List (Nat × List Byte) := []
  gangs : List (Nat × Gang) := []
  fibres : List (Nat × Fibre) := []
  ops : List (Nat × Op) := []
  preds : List (Nat × WPred) := []
  hit : BitVec 16 := 0
  woff : Bool := false
  deriving DecidableEq, Repr, Inhabited

/-- One turn of the machine: which agent moves next (log entry 4). -/
inductive Turn where
  /-- the crew in this slot of this site issues its next word; `wait`: accesses and engine
  operations stay in flight instead of taking their instants at once; `cold`: the site's cached
  translations and bounds entries are dropped first -/
  | issue (site slot : Nat) (wait cold : Bool)
  | event (i : Instr)
  deriving DecidableEq, Repr

/-- The crew now issuing. -/
structure Cur where
  site : Nat
  slot : Nat
  wait : Bool := false
  /-- a body word of the crew's walk is issuing (R296) -/
  body : Bool := false
  deriving DecidableEq, Repr

structure State where
  /-- home copy of every byte of DRAM and carved SRAM, by physical address (R97); unlisted: 0 -/
  mem : List Host.Cell := []
  /-- poisoned words of the home copies, by physical address / 4 (R54); unlisted: clean -/
  mpoison : List (Nat × Unit) := []
  /-- scratchpads: byte b of site s at s * 2^20 + b; unlisted: 0 -/
  scr : List Host.Cell := []
  spoison : List (Nat × Unit) := []
  /-- accumulator elements: tile * 1024 + element, tile t of the gang in slot n of a core being tile
  core * 256 + n * 16 + t; unlisted: +0.0 (R3, R289) -/
  acc : List (Nat × PW) := []
  /-- L1 words: core * 2^50 + physical address / 4; unlisted: no copy -/
  l1 : List (Nat × L1W) := []
  /-- core clk of each core's last store to a word, keyed as L1 words (R103) -/
  stored : List (Nat × Nat) := []
  /-- fetch-unit cache words, keyed as L1 words (R270) -/
  fcache : List (Nat × FetchW) := []
  /-- lines in the dies' memory-side caches (R44) -/
  sram : List (Nat × SLine) := []
  /-- poisoned 64-byte blocks of DRAM itself, by physical address / 64 (R54); `mpoison` holds the
  marks of the copy above it -/
  dpoison : List (Nat × Unit) := []
  /-- forwarding entries (R40) and holder entries (R110) of each slice, by die * 24 + slice: lines,
  least recently used first -/
  fwd : List (Nat × List Nat) := []
  hent : List (Nat × List Nat) := []
  /-- directory entries by line number; unlisted: the entry of a line no one has touched -/
  dirs : List (Nat × Dir) := []
  fibres : List (Nat × Fibre) := []
  gangs : List (Nat × Gang) := []
  groups : List (Nat × Group) := []
  launches : List (Nat × Launch) := []
  ctxs : List (Nat × Ctx) := []
  /-- crews, by site * 256 + slot -/
  crews : List (Nat × Crew) := []
  /-- operations in flight, by serial number -/
  ops : List (Nat × Op) := []
  sites : List (Nat × Site) := []
  dies : List (Nat × Die) := []
  bags : List (Nat × Bag) := []
  pchs : List (Nat × Pch) := []
  stks : List (Nat × Stack) := []
  wqs : List (Nat × WorkQ) := []
  pkg : Pkg := {}
  /-- what the save areas hold, by physical address of the core area / 2 MiB (R345) -/
  saved : List (Nat × Saved) := []
  /-- the model's own fields: turns to come, counter of free choices, crew now issuing, next serial
  number (log entries 4 and 5), and number of bring-ups (log entry 14) -/
  agenda : List Turn := []
  tick : Nat := 0
  cur : Option Cur := none
  nextId : Nat := 1
  runs : Nat := 0
  deriving DecidableEq, Repr, Inhabited

/-- R382: the machine when power has just been applied, before bring-up. Registers and SRAM read 0;
BOOTSTAT and the registers without a reset value are log entries 2 and 3, DRAM contents entry 1. -/
def State.reset : State := {}

end Sys2Proof.Machine
end

