-- ==== Sys2Proof/Machine/Ops.lean ====
section
/-! DEFINITION. The named operations over the machine: memory and scratchpad bytes, the tables of
the state, the error log, and taking a trap and returning from one (R315 to R318, R333 to R338).

A transformer of the machine has type `Run s0 → Run s0`: a state reached from `s0` together with the
proof that it keeps the invariant `State.Inv` of `s0`. Its only ways to change the state are
`Run.mod`, which leaves memory, scratchpads and the fibre table as they are, and the named
operations on those three. -/

namespace Sys2Proof.Machine

/-! ### Memory and scratchpad -/

/-- The canonical form of a byte store: addresses strictly rising, below `top`, no byte that an
unlisted address reads as. -/
def Memory.canon (top : Nat) (m : List Host.Cell) : Bool :=
  KV.sorted m && KV.noDefault 0 m && m.all fun c => decide (c.1 < top)

/-- The canonical form of memory: physical addresses have 52 bits (R27). -/
def Memory.wf (m : List Host.Cell) : Bool := Memory.canon (2 ^ 52) m

/-- The byte at an address. An unlisted address reads as 0: SRAM is cleared at bring-up (R382); for
DRAM nothing has written this is log entry 1 (DESIGN CHOICE, unsafe). -/
def Memory.read (m : List Host.Cell) (a : Nat) : Byte := KV.getD a 0 m

/-- Write one byte; an address outside the store holds nothing. -/
def Memory.write (top : Nat) (a : Nat) (b : Byte) (m : List Host.Cell) : List Host.Cell :=
  if a < top then KV.putD a 0 b m else m

/-- Set `n` bytes from `lo` to 0. -/
def Memory.zero (lo n : Nat) (m : List Host.Cell) : List Host.Cell := KV.delRange lo n m

/-- Scratchpad bytes are held under site * 2^20 + byte. -/
def scrTop : Nat := 580 * 2 ^ 20

/-- What every step keeps: memory, scratchpads and the fibre table stay in canonical form. -/
structure State.Inv (s : State) : Prop where
  mem : Memory.wf s.mem = true
  scr : Memory.canon scrTop s.scr = true
  fibres : KV.sorted s.fibres = true

theorem Memory.canon_write {top a : Nat} {b : Byte} {m : List Host.Cell}
    (h : Memory.canon top m = true) : Memory.canon top (Memory.write top a b m) = true := by
  unfold Memory.write
  split_ifs with ha
  · simp only [Memory.canon, Bool.and_eq_true] at h ⊢
    refine ⟨⟨KV.sorted_putD a 0 b m h.1.1, KV.noDefault_putD a 0 b m h.1.2⟩, ?_⟩
    rw [List.all_eq_true] at *
    intro x hx
    unfold KV.putD at hx
    split_ifs at hx
    · exact h.2 x (KV.mem_del hx)
    · rcases KV.mem_put hx with hx | hx
      · subst hx; simpa using ha
      · exact h.2 x hx
  · exact h

theorem Memory.canon_zero {top lo n : Nat} {m : List Host.Cell}
    (h : Memory.canon top m = true) : Memory.canon top (Memory.zero lo n m) = true := by
  simp only [Memory.canon, Memory.zero, KV.delRange, Bool.and_eq_true] at h ⊢
  refine ⟨⟨KV.sorted_filter _ m h.1.1, KV.noDefault_filter 0 _ m h.1.2⟩, ?_⟩
  rw [List.all_eq_true] at *
  exact fun x hx => h.2 x (List.mem_of_mem_filter hx)

/-! ### Runs -/

/-- A state reached from `s0`. -/
structure Run (s0 : State) where
  s : State
  ok : s0.Inv → s.Inv

variable {s0 : State}

def Run.start (s0 : State) : Run s0 := ⟨s0, id⟩

/-- The step's outcome: no step of this machine stops. -/
def Run.out (r : Run s0) : Host.Outcome State Fault Refusal := .next r.s

/-- `t` with the memory, scratchpads and fibres of `s`. -/
def State.keep (s t : State) : State := { t with mem := s.mem, scr := s.scr, fibres := s.fibres }

/-- Change anything but memory, scratchpads and fibres. -/
def Run.mod (r : Run s0) (f : State → State) : Run s0 :=
  ⟨r.s.keep (f r.s), fun h => ⟨(r.ok h).mem, (r.ok h).scr, (r.ok h).fibres⟩⟩

/-- Write one byte of a home copy. -/
def Run.putByte (r : Run s0) (a : Nat) (b : Byte) : Run s0 :=
  ⟨{ r.s with mem := Memory.write (2 ^ 52) a b r.s.mem },
    fun h => ⟨Memory.canon_write (r.ok h).mem, (r.ok h).scr, (r.ok h).fibres⟩⟩

/-- Zero a range of home copies. -/
def Run.zeroMem (r : Run s0) (lo n : Nat) : Run s0 :=
  ⟨{ r.s with mem := Memory.zero lo n r.s.mem },
    fun h => ⟨Memory.canon_zero (r.ok h).mem, (r.ok h).scr, (r.ok h).fibres⟩⟩

/-- Write one scratchpad byte. -/
def Run.putScr (r : Run s0) (a : Nat) (b : Byte) : Run s0 :=
  ⟨{ r.s with scr := Memory.write scrTop a b r.s.scr },
    fun h => ⟨(r.ok h).mem, Memory.canon_write (r.ok h).scr, (r.ok h).fibres⟩⟩

/-- Zero a scratchpad range. -/
def Run.zeroScr (r : Run s0) (lo n : Nat) : Run s0 :=
  ⟨{ r.s with scr := Memory.zero lo n r.s.scr },
    fun h => ⟨(r.ok h).mem, Memory.canon_zero (r.ok h).scr, (r.ok h).fibres⟩⟩

/-- Put a fibre under its key. -/
def Run.setFibre (r : Run s0) (k : Nat) (f : Fibre) : Run s0 :=
  ⟨{ r.s with fibres := KV.put k f r.s.fibres },
    fun h => ⟨(r.ok h).mem, (r.ok h).scr, KV.sorted_put k f _ (r.ok h).fibres⟩⟩

/-- Remove a fibre. -/
def Run.delFibre (r : Run s0) (k : Nat) : Run s0 :=
  ⟨{ r.s with fibres := KV.del k r.s.fibres },
    fun h => ⟨(r.ok h).mem, (r.ok h).scr, KV.sorted_del k _ (r.ok h).fibres⟩⟩

/-- Remove the fibres that `p` names. -/
def Run.dropFibres (r : Run s0) (p : Nat × Fibre → Bool) : Run s0 :=
  ⟨{ r.s with fibres := r.s.fibres.filter fun e => !p e },
    fun h => ⟨(r.ok h).mem, (r.ok h).scr, KV.sorted_filter _ _ (r.ok h).fibres⟩⟩

/-- R382: all state is lost but what `keepPkg` gives. -/
def Run.wipe (r : Run s0) (pkg : Pkg) : Run s0 :=
  ⟨{ State.reset with pkg := pkg, tick := r.s.tick, agenda := r.s.agenda, runs := r.s.runs }, fun _ =>
    ⟨by rfl, by rfl, by rfl⟩⟩

/-- Fold a list of transformers. -/
def Run.each {α : Type} (r : Run s0) (l : List α) (f : Run s0 → α → Run s0) : Run s0 := l.foldl f r

/-- `f` where the condition holds. -/
def Run.when (r : Run s0) (c : Bool) (f : Run s0 → Run s0) : Run s0 := if c then f r else r

/-! ### The tables -/

/-- Key of a fibre. -/
def fkey (gang fid : Nat) : Nat := gang * 1024 + fid
/-- Key of a crew slot. -/
def ckey (site slot : Nat) : Nat := site * 256 + slot

def State.fibre (s : State) (k : Nat) : Fibre := KV.getD k {} s.fibres
def State.gang (s : State) (k : Nat) : Gang := KV.getD k {} s.gangs
def State.site (s : State) (k : Nat) : Site := KV.getD k {} s.sites
def State.die (s : State) (k : Nat) : Die := KV.getD k {} s.dies
def State.ctx (s : State) (k : Nat) : Ctx := KV.getD k {} s.ctxs
def State.launch (s : State) (k : Nat) : Launch := KV.getD k {} s.launches
def State.group (s : State) (k : Nat) : Group := KV.getD k {} s.groups
def State.bag (s : State) (k : Nat) : Bag := KV.getD k {} s.bags
def State.pch (s : State) (k : Nat) : Pch := KV.getD k {} s.pchs
def State.stack (s : State) (k : Nat) : Stack := KV.getD k {} s.stks
def State.wq (s : State) (k : Nat) : WorkQ := KV.getD k {} s.wqs

def Run.updFibre (r : Run s0) (k : Nat) (f : Fibre → Fibre) : Run s0 :=
  match KV.find? k r.s.fibres with
  | some x => r.setFibre k (f x)
  | none => r
def Run.updGang (r : Run s0) (k : Nat) (f : Gang → Gang) : Run s0 :=
  r.mod fun s => { s with gangs := KV.update k f s.gangs }
def Run.updSite (r : Run s0) (k : Nat) (f : Site → Site) : Run s0 :=
  r.mod fun s => { s with sites := KV.put k (f (s.site k)) s.sites }
def Run.updDie (r : Run s0) (k : Nat) (f : Die → Die) : Run s0 :=
  r.mod fun s => { s with dies := KV.put k (f (s.die k)) s.dies }
def Run.updCtx (r : Run s0) (k : Nat) (f : Ctx → Ctx) : Run s0 :=
  r.mod fun s => { s with ctxs := KV.update k f s.ctxs }
def Run.updBag (r : Run s0) (k : Nat) (f : Bag → Bag) : Run s0 :=
  r.mod fun s => { s with bags := KV.put k (f (s.bag k)) s.bags }
def Run.updPch (r : Run s0) (k : Nat) (f : Pch → Pch) : Run s0 :=
  r.mod fun s => { s with pchs := KV.put k (f (s.pch k)) s.pchs }
def Run.updOp (r : Run s0) (k : Nat) (f : Op → Op) : Run s0 :=
  r.mod fun s => { s with ops := KV.update k f s.ops }
def Run.delOp (r : Run s0) (k : Nat) : Run s0 := r.mod fun s => { s with ops := KV.del k s.ops }
def Run.updPkg (r : Run s0) (f : Pkg → Pkg) : Run s0 := r.mod fun s => { s with pkg := f s.pkg }
def Run.updCrew (r : Run s0) (k : Nat) (f : Crew → Crew) : Run s0 :=
  r.mod fun s => { s with crews := KV.update k f s.crews }
/-- Take the next serial number. -/
def Run.bump (r : Run s0) : Run s0 := r.mod fun s => { s with nextId := s.nextId + 1 }

/-! ### Sites (R2, R60, R369) -/

/-- The die a site belongs to. -/
def dieOf (site : Nat) : Nat :=
  if site < 192 then site / 48 else if site < 576 then (site - 192) / 96 else site - 576
def isCore (site : Nat) : Bool := decide (site < 192)
def isSculler (site : Nat) : Bool := decide (192 ≤ site) && decide (site < 576)
def isSuper (site : Nat) : Bool := decide (576 ≤ site)
/-- R2: the number of a site among the units of its kind: core, sculler, or die of a supervisor core. -/
def unitOf (site : Nat) : Nat :=
  if site < 192 then site else if site < 576 then site - 192 else site - 576
/-- Lanes of a site's crews. -/
def lanesOf (site : Nat) : Nat := if site < 192 then 32 else 8
/-- Crew slots of a site (R60, R151). -/
def slotsOf (site : Nat) : Nat := if site < 192 then 160 else 4
/-- Issue slots per clk. -/
def issueOf (site : Nat) : Nat := if site < 192 then 4 else 1
/-- R148: the home lane of a fibre where it stands. -/
def Fibre.lane (f : Fibre) : Nat := f.fid % lanesOf f.site

/-! ### The error log and events (R370, R372) -/

/-- An entry of a die's error log; its 256 entries are used in turn. -/
def Run.logErr (r : Run s0) (die kind unit loc : Nat) (addr : Nat) (synd : DWord := 0) : Run s0 :=
  r.updDie die fun d => { d with
    errlog := KV.put (d.errtail.toNat % 256)
      ((r.s.site (die * 48)).clk ++ (0#8) ++ BitVec.ofNat 8 kind ++ BitVec.ofNat 16 unit
        ++ BitVec.ofNat 32 loc ++ synd ++ BitVec.ofNat 64 addr) d.errlog,
    errtail := d.errtail + 1 }

/-- Bytes of a number, lowest first (R7). -/
def bytesOf (n v : Nat) : List Byte := (List.range n).map fun k => BitVec.ofNat 8 (v >>> (8 * k))
/-- The number of little-endian bytes. -/
def ofBytes (l : List Byte) : Nat := l.foldr (fun b n => b.toNat + 256 * n) 0

/-- R372: an EVENT packet to the host, where EVADDR names an address. The manual does not say what
its 64-bit word holds: a free value. -/
def Run.event (r : Run s0) : Run s0 :=
  if r.s.pkg.evaddr = 0 then r
  else
    let w := Config.eventWord r.s.tick
    let r := r.mod fun s => { s with tick := s.tick + 1 }
    r.updPkg fun p => { p with out := p.out ++
      [{ kind := .event, dest := (p.hostdev.extractLsb' 0 12).toNat, addr := p.evaddr.toNat,
         data := bytesOf 8 w.toNat }] }

/-! ### Queues (R178, R259) -/

def isQueue (n : Nat) : Bool := decide (112 ≤ n) && decide (n < 124)

/-- Element width of a queue in registers (R258). -/
def Queue.regs (q : Queue) : Nat := 2 ^ q.ew
/-- Elements a queue holds (R260). -/
def Queue.count (q : Queue) : Nat := if q.kind = 3 then q.box.length else q.tail - q.head
def Queue.slots (q : Queue) : Nat := if q.kind = 3 then 64 else q.slm1 + 1
/-- R368: the device that a mailbox queue pushes to. -/
def State.mailDev (s : State) (q : Queue) : Nat :=
  ((KV.getD (q.mbox / 128) 0 s.pkg.peerwin).extractLsb' 32 12).toNat
/-- R368: the peer mailbox of a context that a queue pushes to, as Pkg.sent names it (log entry 34). -/
def State.mailbox (s : State) (ctx : Nat) (q : Queue) : Nat :=
  (ctx * 4096 + s.mailDev q) * 128 + q.mbox % 128
/-- R368: this device's mailbox that a queue of a context pops from. -/
def boxOf (ctx m : Nat) : Nat := ctx * 128 + m % 128
/-- Elements a queue of a context has room for; a push to a mailbox needs a credit (R368; log entry 34). -/
def State.room (s : State) (ctx : Nat) (q : Queue) : Nat :=
  if q.kind = 3 then 64 - KV.getD (s.mailbox ctx q) 0 s.pkg.sent
  else q.slots - (q.tail - q.head) - q.inFlight

/-- The scratchpad key of byte `b` of a gang's allotment on its own core. -/
def Gang.scrKey (g : Gang) (b : Nat) : Nat := g.core * 2 ^ 20 + g.sbase + b

/-- Write one 32-bit scratchpad word; a full write clears its poison (R54). -/
def Run.putScrWord (r : Run s0) (k : Nat) (w : PW) : Run s0 :=
  let r := r.each (List.range 4) fun r i => r.putScr (k + i) (w.v.extractLsb' (8 * i) 8)
  r.mod fun s => { s with spoison := if w.p then KV.put (k / 4) () s.spoison else KV.del (k / 4) s.spoison }

/-- Every queue bound to a mailbox of a context sees the elements that have arrived there (R368). -/
def Run.syncBox (r : Run s0) (box : Nat) : Run s0 :=
  let l := (KV.getD box [] r.s.pkg.boxes).map Prod.snd
  r.mod fun s => { s with gangs := s.gangs.map fun g =>
    (g.1, { g.2 with queues := g.2.queues.map fun q =>
      if q.2.kind = 3 ∧ boxOf g.2.ctx q.2.mbox = box then (q.1, { q.2 with box := l }) else q }) }

/-- R368: a gang that comes back finds what has arrived at its mailboxes meanwhile. -/
def State.withBoxes (s : State) (g : Gang) : Gang :=
  { g with queues := g.queues.map fun q => if q.2.kind = 3 then
      (q.1, { q.2 with box := (KV.getD (boxOf g.ctx q.2.mbox) [] s.pkg.boxes).map Prod.snd }) else q }

/-- Elements leave a mailbox of a context; each returns a credit to its sender (R368). -/
def Run.popMail (r : Run s0) (ctx m n : Nat) : Run s0 :=
  let box := boxOf ctx m
  let l := KV.getD box [] r.s.pkg.boxes
  (r.updPkg fun p => { p with
    boxes := KV.put box (l.drop n) p.boxes,
    out := p.out ++ (l.take n).map fun e => {
      kind := .credit, dest := e.1, addr := m % 128, ctx := ctx } }).syncBox box

/-- An element leaves for the mailbox of a queue of a context, as a MAILBOX packet to the device behind
its peer window (R368). -/
def Run.sendMail (r : Run s0) (ctx : Nat) (x : Queue) (tag : Nat) (e : List PW) : Run s0 :=
  let box := r.s.mailbox ctx x
  let pkt : OutPkt := {
    kind := .mailbox, dest := r.s.mailDev x, tag := tag,
    addr := x.mbox % 128, ctx := ctx, data := (e.map fun w => bytesOf 4 w.v.toNat).flatten,
    poison := (List.range e.length).filter fun i => (e.getD i {}).p, rel := true }
  r.updPkg fun p => { p with out := p.out ++ [pkt], sent := KV.put box (KV.getD box 0 p.sent + 1) p.sent }

/-- Pop the head of a queue of a gang. A pop from a mailbox returns a credit (R368). -/
def Run.pop (r : Run s0) (gang q : Nat) : Run s0 :=
  match KV.find? q (r.s.gang gang).queues with
  | none => r
  | some x =>
    if x.kind = 3 then
      r.popMail (r.s.gang gang).ctx x.mbox 1
    else r.updGang gang fun g => { g with queues := KV.put q { x with head := x.head + 1 } g.queues }

/-- Push an element at the tail of a queue of a gang: into its ring slot, or to its mailbox (R368). -/
def Run.push (r : Run s0) (gang q : Nat) (e : List PW) : Run s0 :=
  let g := r.s.gang gang
  match KV.find? q g.queues with
  | none => r
  | some x =>
    if x.kind = 3 then
      (r.updGang gang fun g => { g with queues := (
        KV.put q { x with unread := x.unread + 1 } g.queues) }).sendMail g.ctx x (gang * 16 + q) e
    else
      let k := g.scrKey (x.base + (x.tail % x.slots) * (4 * x.regs))
      let r := r.each (List.range x.regs) fun r i => r.putScrWord (k + 4 * i) (e.getD i {})
      r.updGang gang fun g => { g with queues := KV.put q { x with tail := x.tail + 1 } g.queues }

/-- The push that an instruction had in flight for a queue register is no more (R241, R253). -/
def Run.unreserve (r : Run s0) (gang reg : Nat) : Run s0 :=
  if isQueue reg then r.updGang gang fun g => { g with queues := (
    KV.update (reg - 112) (fun q => { q with inFlight := q.inFlight - 1 }) g.queues) }
  else r
/-- A push in flight for a queue register (R241, R253). -/
def Run.reserve (r : Run s0) (gang reg : Nat) : Run s0 :=
  if isQueue reg then r.updGang gang fun g => { g with queues := (
    KV.update (reg - 112) (fun q => { q with inFlight := q.inFlight + 1 }) g.queues) }
  else r

/-- A queue register that is full. -/
def State.queueFull (s : State) (gang reg : Nat) : Bool :=
  isQueue reg && match KV.find? (reg - 112) (s.gang gang).queues with
    | some q => decide (s.room (s.gang gang).ctx q = 0)
    | none => false

/-- Push to a queue register that has room. -/
def Run.pushRoom (r : Run s0) (gang reg : Nat) (w : PW) : Run s0 :=
  if isQueue reg && !r.s.queueFull gang reg then r.push gang (reg - 112) [w] else r

/-! ### Crews and fibres -/

/-- R299: a walk is in progress. -/
def Walk.on (w : Walk) : Bool := w.v1.getLsbD 63
/-- The fibre is in its walk: one that a handler interrupts waits for the RETT (R298). -/
def Fibre.walking (f : Fibre) : Bool := f.walk.on && f.walk.hm == f.hm

/-- Take a fibre out of its crew, into the boathouse (R162). A joined crew is canonical no longer
(R160); a crew of no member ends (R146). A fibre that leaves between a hint and its instruction stands
at the group's first word with the issue count it had there, as if none of the group had been issued:
nothing falls between the words of a group (R179, R182). -/
def Run.leaveCrew (r : Run s0) (k : Nat) : Run s0 :=
  let f := r.s.fibre k
  match f.slot with
  | none => r
  | some sl =>
    let c := ckey f.site sl
    match KV.find? c r.s.crews with
    | none => r.updFibre k fun f => { f with slot := none }
    | some cr =>
      let fids := cr.fids.filter (· ≠ f.fid)
      let r := r.updFibre k fun f => { f with
        slot := none, wbuf := [], pc := (match cr.hints with | some h => h.start | none => f.pc),
        count := (match cr.hints with | some h => f.count - h.n | none => f.count) }
      r.mod fun s => { s with
        -- what the word it was about to issue had asked a peer for is asked afresh
        ops := s.ops.filter fun o => !(decide (o.2.fibre = k) && decide (o.2.kind = .wread 0)),
        crews := (
        if fids = [] then KV.del c s.crews
        else KV.put c { cr with fids := fids, joined := false } s.crews) }

/-- Mark a line free of a line region (R254, R255). -/
def Run.freeLine (r : Run s0) (line : Nat) : Run s0 :=
  r.mod fun s => { s with dirs := KV.update line (fun d => { d with held := none }) s.dirs }

/-- Write a register at once: pending results for it are dropped (R183). -/
def Fibre.writeNow (f : Fibre) (reg : Nat) (v : PW) : Fibre :=
  if reg < 96 then
    { f with win := KV.putD reg {} v f.win, pend := f.pend.filter fun e => decide (e.reg ≠ reg) }
  else f

/-- An access of a fibre, one word or two or four at a time (R116). -/
def OpK.isAccess : OpK → Bool
  | .load _ => true
  | .store _ _ => true
  | .atom _ _ _ _ => true
  | .cas _ _ _ => true
  | _ => false

/-- An operation that has not taken its instant. -/
def Op.isOpen (o : Op) : Bool := decide (o.stage = .pending ∨ o.stage = .away)

/-- What counts as an access of its fibre: a PUT as a store, a DRAIN, BCOUNT or BITER as a load
(R93, R257). -/
def Op.isMem (o : Op) : Bool :=
  o.kind.isAccess || (match o.kind with
    | .cache _ _ => true
    | .put _ _ _ => true
    | .drain _ _ _ _ _ _ => true
    | .bcount _ => true
    | .biter _ _ _ _ => true
    | _ => false)

/-- The gang of an operation's fibre; the fibre itself may have exited (R313). -/
def Op.gang (o : Op) : Nat := o.fibre / 1024
/-- The fibres an operation belongs to. -/
def Op.fibres (o : Op) : List Nat := o.fibre :: o.joint.map Prod.fst
def Op.hasFibre (o : Op) (k : Nat) : Bool := o.fibres.contains k

/-- The accesses of a fibre to the line it holds that are still to be performed. -/
def State.regionOps (s : State) (k line : Nat) : List Nat :=
  (s.ops.filter fun o => decide (o.2.fibre = k) && o.2.isOpen && o.2.kind.isAccess &&
    !o.2.acc.scr && !o.2.acc.bank && decide (o.2.acc.pa / 128 = line)).map Prod.fst

/-- R255: abort a fibre's line region. The buffer is discarded, with the accesses to the line that
were still to reach it (log entry 10), the line is freed, and the fibre goes on at the word after
its LRBEGIN with s := reason; a queue named as s takes the reason where it has room (log entry 51). A
region whose LREND has issued completes all the same. -/
def Run.abortRegion (r : Run s0) (k reason : Nat) : Run s0 :=
  match (r.s.fibre k).region with
  | none => r
  | some g =>
    if g.ending then r else
    let dead := if g.held then r.s.regionOps k g.line else []
    let gone := r.s.ops.filter fun o => dead.contains o.1
    let flags := gone.map fun o => o.2.flag
    -- a load to a queue pushes no more (R241)
    let r := r.each gone fun r o => r.unreserve (r.s.fibre k).gang o.2.dst
    let r := if g.held then r.freeLine g.line else r.unreserve (r.s.fibre k).gang g.reg
    let r := r.pushRoom (r.s.fibre k).gang g.reg { v := BitVec.ofNat 32 reason }
    let r := r.mod fun s => { s with ops := ((s.ops.filter fun o => !dead.contains o.1).map fun o =>
      if o.2.fibre = k ∧ o.2.flag = 15 then (o.1, { o.2 with flag := 16 }) else o) }
    r.updFibre k fun f => { f.writeNow g.reg { v := BitVec.ofNat 32 reason } with
      region := none, pc := g.ret, fence := [],
      pend := f.pend.filter fun e =>
        !dead.contains e.op && decide (e.when_ ≠ .flag 15) && decide (e.reg ≠ g.reg),
      flags := KV.del 15 (f.flags.map fun x =>
        if flags.contains x.1 then (x.1, { x.2 with st := .done }) else x) }

/-! ### Taking a trap -/

def Cls.code : Cls → Nat
  | .illeg => 0 | .mask => 1 | .nonuni => 2 | .xlat => 3 | .perm => 4 | .bounds => 5 | .align => 6
  | .peer => 7 | .bagcap => 8 | .bagstate => 9 | .spmeta => 10 | .fmt => 11 | .watch => 12
  | .fpx => 13 | .site => 14 | .input => 15 | .poison => 16 | .syncx => 17 | .homelost => 18
  | .swtrap => 19

/-- A failed lane: what it raises and where its record's PC stands. -/
structure Fail where
  key : Nat
  lane : Nat
  cls : Cls
  addr : DWord := 0
  reason : Nat := 0
  level : Nat := 0
  eng : Bool := false
  pc : VAddr
  /-- TRAP.S: to the supervisor whatever TRAPROUTE says (R315) -/
  sup : Bool := false
  /-- the eight that fails as one (R281); each has its own record -/
  eight : Nat := 0
  /-- the gang's phase sum at the issue of an earlier operation that raises it; none: of the word now
  issuing (R335) -/
  gph : Option Word := none
  /-- a halt puts off what the record leads to until the fibre's release (R356) -/
  owed : Bool := false
  deriving DecidableEq, Repr

/-- R302: the sum of the phase counts of bg0 to bg15. -/
def Gang.gphase (g : Gang) : Word := g.bars.foldl (fun a b => a + b.2.phase) 0

/-- R335: the trap record of a lane, from the class's lane mask and its lowest lane's address. CORE of a
supervisor core is the model's choice (log entry 39). -/
def mkRecord (g : Gang) (f : Fibre) (x low : Fail) (lanes : Word) : TrapRec where
  r0 := BitVec.ofNat 5 x.cls.code ++ BitVec.ofNat 2 low.level ++ BitVec.ofBool low.eng
    ++ BitVec.ofNat 8 low.reason ++ BitVec.ofNat 4 g.slot ++ BitVec.ofNat 2 g.rank
    ++ BitVec.ofNat 10 f.fid ++ lanes
  r1 := BitVec.ofNat 8 g.core ++ 0#2 ++ x.pc
  r2 := low.addr
  r3 := BitVec.ofNat 32 g.number ++ low.gph.getD g.gphase

def TrapRec.pc (t : TrapRec) : VAddr := t.r1.extractLsb' 0 54
def TrapRec.reason (t : TrapRec) : Nat := (t.r0.extractLsb' 48 8).toNat
def TrapRec.withPc (t : TrapRec) (pc : VAddr) : TrapRec :=
  { t with r1 := (t.r1.extractLsb' 54 10) ++ pc }

/-- The disposition of a class for a fibre: none is the supervisor's (R312, R317, R369). -/
inductive Disp where
  | supervisor | handler | park
  deriving DecidableEq, Repr

def disposition (g : Gang) (f : Fibre) (x : Fail) : Disp :=
  if isSuper f.site then (if f.hm then .supervisor else .handler)
  else if f.hm ∨ x.sup ∨ g.trapvec = 0 ∨ x.cls = .syncx ∨ x.cls = .homelost then .supervisor
  else match (g.traproute >>> (2 * x.cls.code)).toNat % 4 with
    | 1 => .handler
    | 2 => .park
    | _ => .supervisor

/-- The lowest index below 512 that a coalescing table leaves free. -/
def freeEntry (t : List (Nat × CEnt)) : Option Nat := (List.range 512).find? fun i => !KV.has i t

/-- R336, R370: entries of a die's fault-queue ring. -/
def Die.fqSize (d : Die) : Nat := 2 ^ max 4 (min 12 d.fqcfg)

/-- R337: where the fault queue's ring is full, every entry that is still to be written to it waits, and each
wait is counted once. -/
def Die.noteFull (d : Die) : Die :=
  let fresh (e : CEnt) : Bool := !e.queued && !e.waited
  if (d.fqtail - d.fqhead).toNat < d.fqSize then d
  else
    let n := (d.ctab.filter fun e => fresh e.2).length + (d.cwait.filter fun e => e.halt && fresh e).length
    { d with
      fqovf := d.fqovf + BitVec.ofNat 32 n,
      ctab := d.ctab.map fun e => (e.1, { e.2 with waited := e.2.waited || !e.2.queued }),
      cwait := d.cwait.map fun e => { e with waited := e.waited || e.halt } }

/-- R337: a record of XLAT or PERM joins the open entry of its context, class, REASON and page. -/
def CEnt.joins (e x : CEnt) : Bool :=
  decide ((x.cls = .xlat ∨ x.cls = .perm) ∧ x.ctx = e.ctx ∧ x.cls = e.cls ∧ x.reason = e.reason ∧
    x.page = e.page)

/-- R337: a record joins an open entry, or opens the lowest free one; none where all are open or
others wait for one. -/
def Die.place (d : Die) (e : CEnt) (behind : Bool) : Option Die :=
  match d.ctab.find? fun x => e.joins x.2 with
  | some (i, x) => some { d with ctab := KV.put i { x with fibres := x.fibres ++ e.fibres } d.ctab }
  | none => (if behind then none else freeEntry d.ctab).map fun i => { d with ctab := KV.put i e d.ctab }

/-- R337: entries have closed, and the records that wait take the room there is, in their order. -/
def Die.takeWaiting (d : Die) : Die :=
  ((d.cwait.filter fun e => !e.halt).foldl (fun d e => match d.place e false with
    | some d' => { d' with cwait := d'.cwait.filter (· ≠ e) }
    | none => d) d).noteFull

/-- R337: a record reaches its die's coalescing table. -/
def attach (d : Die) (e : CEnt) : Die :=
  let e := { e with order := d.arrivals }
  let d := { d with arrivals := d.arrivals + 1 }
  match d.place e (d.cwait.any fun c => !c.halt) with
  | some d' => d'.noteFull
  | none => { d with cwait := d.cwait ++ [e] }

/-- Park a fibre, send it to its handler, or leave it for the supervisor (R317). `rec_` is its
record. A fault inside a line region aborts it first: the record's PC is then the word after the
LRBEGIN (R255, reason 2). A fibre under STEP, or one that a gang halt still stops, halts before the first
word of its handler (R355, R360), whose predicates are evaluated (R361). -/
def Run.enterTrap (r : Run s0) (x : Fail) (rec_ : TrapRec) (d : Disp) : Run s0 :=
  let r := r.leaveCrew x.key
  let inRegion := match (r.s.fibre x.key).region with
    | some g => !g.ending
    | none => false
  let r := r.abortRegion x.key 2
  let rec_ := if inRegion then rec_.withPc (r.s.fibre x.key).pc else rec_
  match d with
  | .handler => r.updFibre x.key fun f => { f with
      trec := rec_, hm := true, pc := (r.s.gang f.gang).trapvec, wait := none, fresh := false }
  | .park => r.updFibre x.key fun f => { f with
      trec := rec_, pc := rec_.pc, park := some ⟨false, rec_, x.cls⟩, wait := none,
      stepping := false, toHalt := none }
  | .supervisor =>
    -- R369: a class raised in handler mode stops the supervisor core
    if isSuper (r.s.fibre x.key).site then r
    else r.updFibre x.key fun f => { f with
      trec := if f.hm then f.trec else rec_, pc := rec_.pc,
      park := some ⟨true, rec_, x.cls⟩, wait := none, stepping := false, toHalt := none }

/-- The classes in the order of their numbers. -/
def allCls : List Cls :=
  [.illeg, .mask, .nonuni, .xlat, .perm, .bounds, .align, .peer, .bagcap, .bagstate, .spmeta, .fmt,
   .watch, .fpx, .site, .input, .poison, .syncx, .homelost, .swtrap]

/-- Bit mask of lanes. -/
def laneMask (l : List Nat) : Word := l.foldl (fun m i => m ||| (1 <<< i)) 0

/-- The number of lanes in a mask. -/
def laneCount (m : Word) : Nat := ((List.range 32).filter m.getLsbD).length

/-- R222: the FPX record's address field holds the flags that all lanes of the instruction raised. -/
def allFlags (fs : List Fail) (low : Fail) : DWord :=
  if low.cls = .fpx then
    (fs.filter fun x => decide (x.addr.extractLsb' 0 59 = low.addr.extractLsb' 0 59)).foldl
      (fun a x => a ||| x.addr) low.addr
  else low.addr

/-- A class leads to what TRAPROUTE says of each lane, with the lane's record; the supervisor's lanes
attach to the coalescing table together, under the record that the first of them keeps (R336). -/
def Run.takeTraps (r : Run s0) (g : Gang) (fs : List (Fail × TrapRec)) : Run s0 :=
  let disp (x : Fail × TrapRec) := disposition g (r.s.fibre x.1.key) x.1
  let r1 := r.each fs fun q x => q.enterTrap x.1 x.2 (disp x)
  match fs.filter fun x => decide (disp x = .supervisor) with
  | [] => r1
  | x :: xs =>
    let site := (r.s.fibre x.1.key).site
    let kept := match (r1.s.fibre x.1.key).park with
      | some p => p.record
      | none => x.2
    if isSuper site then
      -- R369: it stops the supervisor core; LOC is its number, that of its die (log entry 39)
      ((r1.updDie (dieOf site) fun d => { d with supStopped := true }).logErr (dieOf site) 3 8
        (dieOf site) x.2.r2.toNat).event
    else r1.updDie (dieOf site) fun d =>
      attach d { ctx := g.ctx, cls := x.1.cls, reason := kept.reason,
                 page := kept.r2.toNat % 2 ^ 54 / 4096, record := kept,
                 fibres := (x :: xs).map fun y => y.1.key }

/-- R334: one class that an instruction raises. Every failing lane takes a copy of the record of the
lowest lane; a lane that halts keeps it for its release (R356). -/
def Run.raiseClass (r : Run s0) (fs : List Fail) : Run s0 :=
  match fs with
  | [] => r
  | low0 :: _ =>
    let low := { low0 with addr := allFlags fs low0 }
    let lanes := laneMask (fs.map Fail.lane)
    let g := r.s.gang (r.s.fibre low.key).gang
    let record (x : Fail) := mkRecord g (r.s.fibre x.key) x low lanes
    let now := ((fs.filter fun x => !x.owed).map fun x => (x, record x))
    (r.each (fs.filter Fail.owed) fun q x => q.updFibre x.key fun f => { f with
      owedFpx := some (record x) }).takeTraps g now

/-- R25, R281, R334: one trap record per class that the lanes of an instruction raise, per eight of an
instruction issued by eights, and apart where they raise it at different places (R335). The one shared
operation that takes traps. -/
def Run.raise (r : Run s0) (fs : List Fail) : Run s0 :=
  let kind (x : Fail) : Nat × Bool × VAddr := (x.eight, x.eng, x.pc)
  r.each allCls fun q c =>
    let gs := fs.filter fun x => decide (x.cls = c)
    q.each ((gs.map kind).eraseDups) fun q n => q.raiseClass (gs.filter fun x => decide (kind x = n))

/-- A copy that stopped on a channel of the restart set of fibre `f` (R274). -/
def State.restarts (s : State) (f : Fibre) (o : Op) : Bool :=
  decide (o.stage = .faulted) && match o.kind with
  | .copy _ _ _ _ ch _ => f.restart.getLsbD ch && decide ((s.fibre o.fibre).gang = f.gang)
  | _ => false

/-- The fault mark of a flag is cleared (R181). -/
def Fibre.unmark (f : Fibre) (n : Nat) : Fibre :=
  { f with flags := KV.update n (fun x => { x with note := none }) f.flags }

/-- R274: every channel of the fibre's restart set that is still stopped by a fault restarts at its
stopped beat, the marks on the flags of its copies are cleared, and the set is empty. -/
def Run.restartChans (r : Run s0) (k : Nat) : Run s0 :=
  let f := r.s.fibre k
  let hit := r.s.ops.filter fun o => r.s.restarts f o.2
  let r := r.updGang f.gang fun g => { g with chans := (g.chans.map fun c =>
    if f.restart.getLsbD c.1 ∧ c.2.st = .faulted then (c.1, { c.2 with st := .running }) else c) }
  let r := r.each hit fun r o =>
    (r.updOp o.1 fun o => { o with stage := .pending, note := none }).updFibre o.2.fibre fun f =>
      f.unmark o.2.flag
  r.updFibre k fun f => { f with restart := 0 }

/-- Leave the parked state at a PC (R338): the fibre is runnable in the boathouse, and the channels of
its restart set restart. -/
def Run.resumeAt (r : Run s0) (k : Nat) (pc : VAddr) : Run s0 :=
  (r.restartChans k).updFibre k fun f => { f with pc := pc, park := none }

/-- R318: return from a trap at the record's PC, out of handler mode. -/
def Run.returnFrom (r : Run s0) (k : Nat) : Run s0 :=
  let pc := match (r.s.fibre k).park with
    | some p => p.record.pc
    | none => (r.s.fibre k).trec.pc
  (r.resumeAt k pc).updFibre k fun f => { f with hm := false }

end Sys2Proof.Machine
end

