-- ==== Sys2Proof/Machine/Operands.lean ====
section
/-! DEFINITION. Registers as operands (R176 to R178) and the issue count (R182, R183): which value a
read gives, when a result becomes readable, and which register fields are illegal. -/

namespace Sys2Proof.Machine
variable {s0 : State}

/-! ### Pending results -/

/-- The results that `p` says have become readable enter the window, in program order; an older
result of the same register that is still pending is dropped (the latest write wins, R182). -/
def Fibre.mature (f : Fibre) (p : Pend → Bool) : Fibre :=
  let x := f.pend.foldl (fun (w : List (Nat × PW) × List Pend) e =>
    if p e then (KV.putD e.reg {} e.v w.1, w.2.filter fun d => decide (d.reg ≠ e.reg))
    else (w.1, w.2 ++ [e])) (f.win, [])
  { f with win := x.1, pend := x.2 }

/-- Results readable at issue count `now` (R182). -/
def Fibre.settle (f : Fibre) (now : Nat) : Fibre :=
  if f.pend = [] then f
  else f.mature fun e => match e.when_ with
    | .count n => decide (n ≤ now)
    | .flag _ => false

/-- p1 to p7 are written at once, readable from the next word (R197); p0 keeps 1 (R147). -/
def Fibre.setPred (f : Fibre) (n : Nat) (b : Bool) : Fibre :=
  if n = 0 ∨ 8 ≤ n then f
  else { f with preds := (f.preds &&& ~~~ (1#8 <<< n)) ||| (if b then 1#8 <<< n else 0#8) }

/-- Observing flag `n` makes the results of its operation readable (R183) and leaves it IDLE. -/
def Fibre.observe (f : Fibre) (n : Nat) : Fibre :=
  let p := (KV.getD n {} f.flags).p7
  let f := f.mature fun e => decide (e.when_ = .flag n)
  let f := match p with | some b => f.setPred 7 b | none => f
  { f with flags := KV.del n f.flags }

def Fibre.flag (f : Fibre) (n : Nat) : Flag := KV.getD n {} f.flags
def Fibre.setFlag (f : Fibre) (n : Nat) (x : Flag) : Fibre :=
  { f with flags := KV.putD n {} x f.flags }

/-- A fixed-latency result of the word at count `now`: readable from `now + 4` (R182). A result that
an earlier operation still owes the register is dropped (R183). -/
def Fibre.writeAt (f : Fibre) (now reg : Nat) (v : PW) : Fibre :=
  if reg < 96 then
    { f with pend := (f.pend.filter fun e => decide (e.reg ≠ reg ∨ e.op = 0))
        ++ [{ reg := reg, v := v, when_ := .count (now + 4) }] }
  else f

/-- A register that operation `op` will deliver under flag `n` (R183). -/
def Fibre.promise (f : Fibre) (reg n op : Nat) : Fibre :=
  if reg < 96 then
    { f with pend := (f.pend.filter fun e => decide (e.reg ≠ reg ∨ e.op = 0))
        ++ [{ reg := reg, v := {}, when_ := .flag n, op := op }] }
  else f

/-- The values of operation `op` arrive, from register `dst` upwards; registers the fibre has
written since keep their own writes (R183). -/
def Fibre.deliver (f : Fibre) (op dst : Nat) (vs : List PW) : Fibre :=
  { f with pend := f.pend.map fun e =>
      if e.op = op ∧ op ≠ 0 then { e with v := vs.getD (e.reg - dst) {} } else e }

/-- Operation `op` writes no register (R54). -/
def Fibre.discard (f : Fibre) (op : Nat) : Fibre :=
  { f with pend := f.pend.filter fun e => decide (e.op ≠ op ∨ op = 0) }

def Fibre.pred (f : Fibre) (n : Nat) : Bool := decide (n = 0) || f.preds.getLsbD n

/-! ### Register fields -/

/-- A register field of a word: its number, width in registers, and whether it is written. -/
structure Use where
  reg : Nat
  w : Nat := 1
  dst : Bool := false
  deriving DecidableEq, Repr

/-- A source field. -/
def src (b : BitVec 7) (w : Nat := 1) : Use := { reg := b.toNat, w := w }
/-- A destination field. -/
def dst (b : BitVec 7) (w : Nat := 1) : Use := { reg := b.toNat, w := w, dst := true }

/-- R176, R178: the ILLEG reason of a register field, if any, on a fibre of gang `g`; `lanes` is the
number of the instruction's active lanes. -/
def Use.err (g : Gang) (lanes : Nat) (u : Use) : Option Nat :=
  if u.reg < 96 then
    if g.window < u.reg + u.w then some 2 else if u.reg % u.w ≠ 0 then some 3 else none
  else if u.reg < 112 then
    if u.dst then some 3 else if u.reg % u.w ≠ 0 then some 3 else none
  else if u.reg < 124 then
    match KV.find? (u.reg - 112) g.queues with
    | none => some 3
    | some q =>
      if q.regs ≠ u.w then some 3
      else if u.dst ∧ q.kind = 2 then some 3
      else if q.slots < lanes then some 5
      else none
  else if u.reg = 124 then none
  else if u.reg = 127 then some 2
  else if u.dst ∨ u.w ≠ 1 then some 3 else none

/-- The queue registers named in source fields; one named twice is illegal (R178). -/
def queueSrcs (us : List Use) : List Nat :=
  (us.filter fun u => isQueue u.reg && !u.dst).map fun u => u.reg
def queueDsts (us : List Use) : List Nat :=
  (us.filter fun u => isQueue u.reg && u.dst).map fun u => u.reg

/-- The lowest of two ILLEG reasons (R188). -/
def minReason : Option Nat → Option Nat → Option Nat
  | some a, some b => some (min a b)
  | some a, none => some a
  | none, b => b

/-- The lowest ILLEG reason of a word's register fields. -/
def usesErr (g : Gang) (lanes : Nat) (us : List Use) : Option Nat :=
  let e := us.foldl (fun e u => minReason e (u.err g lanes)) none
  if (queueSrcs us).Nodup then e else minReason e (some 3)

/-! ### Reading -/

/-- R176: one register of a fibre whose results have settled; queues are read by `peek`. -/
def readReg (g : Gang) (f : Fibre) (n : Nat) : PW :=
  if n < 96 then KV.getD n {} f.win
  else if n < 112 then { v := g.consts.getD (n - 96) 0 }
  else if n = 125 then { v := BitVec.ofNat 32 f.lane }
  else if n = 126 then { v := BitVec.ofNat 32 f.fid }
  else {}

/-- One 32-bit word of a scratchpad, by the key of its first byte. -/
def State.scrWord (s : State) (k : Nat) : PW where
  v := BitVec.ofNat 32 (ofBytes ((List.range 4).map fun i => Memory.read s.scr (k + i)))
  p := KV.has (k / 4) s.spoison

/-- The element of a queue `at_` places behind its head. -/
def peek (s : State) (g : Gang) (q : Queue) (at_ : Nat) : List PW :=
  if q.kind = 3 then q.box.getD at_ []
  else
    let k := g.scrKey (q.base + ((q.head + at_) % q.slots) * (4 * q.regs))
    (List.range q.regs).map fun i => s.scrWord (k + 4 * i)

/-- The words of a source field. -/
def readUse (s : State) (g : Gang) (f : Fibre) (at_ : Nat) (u : Use) : List PW :=
  if isQueue u.reg then
    match KV.find? (u.reg - 112) g.queues with
    | some q => peek s g q at_
    | none => []
  else if u.reg = 124 then List.replicate u.w {}
  else (List.range u.w).map fun i => readReg g f (u.reg + i)

/-- The number that a list of words holds, lowest first. -/
def wordsVal (l : List PW) : Nat := l.foldr (fun x n => x.v.toNat + 2 ^ 32 * n) 0

/-- The first word of an operand. -/
def w0 (l : List PW) : Word := (l.getD 0 {}).v
def w1 (l : List PW) : Word := (l.getD 1 {}).v
/-- The first two words of an operand as a 64-bit value (R176). -/
def pair (l : List PW) : DWord := w1 l ++ w0 l

/-- The 32-bit words of a number, lowest first. -/
def wordsOf (n v : Nat) : List PW := (List.range n).map fun i => { v := BitVec.ofNat 32 (v >>> (32 * i)) }
/-- The two words of a 64-bit value. -/
def words2 (v : DWord) : List PW := [{ v := v.extractLsb' 0 32 }, { v := v.extractLsb' 32 32 }]

end Sys2Proof.Machine
end

