-- ==== Sys2Proof/Machine/Flags.lean ====
section
/-! DEFINITION. Conditions, guards and predicates (R174, R196, R198), and the sticky floating-point
flags (R219, R220). -/

namespace Sys2Proof.Machine

/-- R174: whether a guard holds for a predicate word. -/
def guardOk (g : BitVec 4) (f : Fibre) : Bool :=
  let p := f.pred (g.toNat % 8)
  if g.getLsbD 3 then !p else p

/-- R196: the conditions of SETP, SETPI and WAITV. -/
def cond (c : Nat) (a b : Word) : Bool :=
  match c with
  | 0 => decide (a = b)
  | 1 => decide (a ≠ b)
  | 2 => a.slt b
  | 3 => a.sle b
  | 4 => b.slt a
  | 5 => b.sle a
  | 6 => a.ult b
  | 7 => a.ule b
  | 8 => b.ult a
  | 9 => b.ule a
  | 10 => decide (a &&& b ≠ 0)
  | 11 => decide (a &&& b = 0)
  | _ => false

/-- R219: the exception flags one operation raises, in the order of FPCTL.FLG: NV is bit 4, then DZ,
OF, UF and NX. -/
structure Exc where
  nv : Bool := false
  dz : Bool := false
  of : Bool := false
  uf : Bool := false
  nx : Bool := false
  deriving DecidableEq, Repr, Inhabited

def Exc.or (a b : Exc) : Exc where
  nv := a.nv || b.nv
  dz := a.dz || b.dz
  of := a.of || b.of
  uf := a.uf || b.uf
  nx := a.nx || b.nx

def Exc.bits (e : Exc) : BitVec 5 :=
  BitVec.ofBool e.nv ++ BitVec.ofBool e.dz ++ BitVec.ofBool e.of ++ BitVec.ofBool e.uf
    ++ BitVec.ofBool e.nx

/-- The sticky flags of a fibre take the flags an operation raised. -/
def Fibre.stick (f : Fibre) (e : BitVec 5) : Fibre := { f with fpf := f.fpf ||| e }

end Sys2Proof.Machine
end

