-- ==== Sys2Proof/Machine/Float.lean ====
section
/-! DEFINITION. The number formats and their arithmetic (R214 to R218, R224 to R236): every operation
forms the exact value and rounds it once. -/

namespace Sys2Proof.Machine

/-- A floating-point format (R214, R215): exponent and mantissa bits, bias, and whether it has
infinities. -/
structure Fmt where
  e : Nat
  m : Nat
  bias : Int
  inf : Bool := true
  deriving DecidableEq, Repr

def f32 : Fmt := { e := 8, m := 23, bias := 127 }
def f16 : Fmt := { e := 5, m := 10, bias := 15 }
def bf16 : Fmt := { e := 8, m := 7, bias := 127 }
def e4m3 : Fmt := { e := 4, m := 3, bias := 7, inf := false }
def e5m2 : Fmt := { e := 5, m := 2, bias := 15 }

def Fmt.width (F : Fmt) : Nat := F.e + F.m + 1
/-- The code without its sign. -/
def Fmt.mag (F : Fmt) (c : Nat) : Nat := c % 2 ^ (F.e + F.m)
def Fmt.neg (F : Fmt) (c : Nat) : Bool := decide (c / 2 ^ (F.e + F.m) % 2 = 1)
/-- Exponent field and mantissa field. -/
def Fmt.ef (F : Fmt) (c : Nat) : Nat := F.mag c / 2 ^ F.m
def Fmt.mf (F : Fmt) (c : Nat) : Nat := F.mag c % 2 ^ F.m
def Fmt.isNan (F : Fmt) (c : Nat) : Bool :=
  if F.inf then decide (F.ef c = 2 ^ F.e - 1) && decide (F.mf c ≠ 0)
  else decide (F.mag c = 2 ^ (F.e + F.m) - 1)
def Fmt.isInf (F : Fmt) (c : Nat) : Bool :=
  F.inf && decide (F.ef c = 2 ^ F.e - 1) && decide (F.mf c = 0)
/-- R215: FP8 formats have no signalling NaN. -/
def Fmt.isSnan (F : Fmt) (c : Nat) : Bool :=
  F.isNan c && decide (F.width ≠ 8) && decide (F.mf c < 2 ^ (F.m - 1))
def Fmt.signBit (F : Fmt) (s : Bool) : Nat := if s then 2 ^ (F.e + F.m) else 0
/-- Canonical NaN without sign (R215). -/
def Fmt.qnan (F : Fmt) : Nat :=
  if F.width = 8 then 0x7F else (2 ^ F.e - 1) * 2 ^ F.m + 2 ^ (F.m - 1)
def Fmt.infCode (F : Fmt) : Nat := (2 ^ F.e - 1) * 2 ^ F.m
/-- Largest finite magnitude. -/
def Fmt.big (F : Fmt) : Nat := if F.inf then F.infCode - 1 else 2 ^ (F.e + F.m) - 2
/-- A NaN with its quiet bit set. -/
def Fmt.quiet (F : Fmt) (c : Nat) : Nat :=
  if F.width = 8 ∨ 2 ^ (F.m - 1) ≤ F.mf c then c else c + 2 ^ (F.m - 1)

/-- An exact finite value: sign, magnitude m × 2^e. -/
structure Ex where
  s : Bool
  m : Nat
  e : Int
  deriving DecidableEq, Repr, Inhabited

/-- Exponent of the least subnormal. -/
def Fmt.qmin (F : Fmt) : Int := 1 - F.bias - F.m

/-- R214: the value of a finite code. -/
def Fmt.val (F : Fmt) (c : Nat) : Ex :=
  if F.ef c = 0 then { s := F.neg c, m := F.mf c, e := F.qmin }
  else { s := F.neg c, m := 2 ^ F.m + F.mf c, e := F.qmin + F.ef c - 1 }

/-- The rounding modes of R217. -/
def roundsUp (rm : BitVec 2) (s : Bool) (keep rem shift : Nat) (sticky : Bool) : Bool :=
  let half := 2 ^ (shift - 1)
  let some_ := decide (rem ≠ 0) || sticky
  match rm.toNat with
  | 0 => decide (half < rem) || (decide (rem = half) && (sticky || decide (keep % 2 = 1)))
  | 1 => false
  | 2 => !s && some_
  | _ => s && some_

/-- A magnitude m × 2^e, with a positive rest below one unit where `sticky`, as a count of units
2^q: rounded count, and whether it is inexact. -/
def roundQ (rm : BitVec 2) (s : Bool) (m : Nat) (e q : Int) (sticky : Bool) : Nat × Bool :=
  if q ≤ e then (m * 2 ^ (e - q).toNat, sticky)
  else
    let sh := (q - e).toNat
    let keep := m / 2 ^ sh
    let rem := m % 2 ^ sh
    (if roundsUp rm s keep rem sh sticky then keep + 1 else keep, decide (rem ≠ 0) || sticky)

/-- What rounding gives: the code, the flags, and whether it overflowed to infinity or to the largest
finite magnitude. -/
structure Rounded where
  code : Nat
  exc : Exc := {}
  toInf : Bool := false
  toBig : Bool := false
  deriving DecidableEq, Repr, Inhabited

/-- R217: round the exact value (with `sticky`, a value just beyond it in magnitude) to a format. -/
def Fmt.round (F : Fmt) (rm : BitVec 2) (x : Ex) (sticky : Bool := false) : Rounded :=
  if x.m = 0 ∧ !sticky then { code := F.signBit x.s }
  else
    let top : Int := Nat.log2 x.m + x.e
    let q := max (top - F.m) F.qmin
    let r := roundQ rm x.s x.m x.e q sticky
    let code := (q - F.qmin).toNat * 2 ^ F.m + r.1
    if F.big < code then
      let inf := decide (rm = 0) || (decide (rm = 2) && !x.s) || (decide (rm = 3) && x.s)
      { code := F.signBit x.s + (if inf then F.infCode else F.big),
        exc := { of := true, nx := true }, toInf := inf, toBig := !inf }
    else
      -- tininess after rounding, without a lower limit of the exponent
      let free := roundQ rm x.s x.m x.e (top - F.m) sticky
      let tiny := decide (top < 1 - F.bias) &&
        !(decide (top = - F.bias) && decide (2 ^ (F.m + 1) ≤ free.1))
      { code := F.signBit x.s + code,
        exc := { uf := tiny && r.2, nx := r.2 } }

/-- The first NaN of a list of operands, its quiet bit set; and whether one is signalling. -/
def nanOf (l : List (Fmt × Nat)) : Option Nat :=
  (l.find? fun x => x.1.isNan x.2).map fun x => x.1.quiet x.2
def anySnan (l : List (Fmt × Nat)) : Bool := l.any fun x => x.1.isSnan x.2

/-- R217: the sum of two exact values, and the sign of an exact zero. -/
def addEx (rm : BitVec 2) (x y : Ex) : Ex :=
  if x.m = 0 ∧ y.m = 0 then { s := if x.s = y.s then x.s else decide (rm = 3), m := 0, e := 0 }
  else
    let e := min x.e y.e
    let i (z : Ex) : Int := (if z.s then -1 else 1) * (z.m * 2 ^ (z.e - e).toNat : Nat)
    let n := i x + i y
    if n = 0 then { s := decide (rm = 3), m := 0, e := 0 }
    else { s := decide (n < 0), m := n.natAbs, e := e }

def mulEx (x y : Ex) : Ex := { s := x.s ^^ y.s, m := x.m * y.m, e := x.e + y.e }

/-- A result: a code and the flags raised. -/
abbrev Res := Nat × Exc

def invalid (F : Fmt) : Res := (F.qnan, { nv := true })
def Rounded.res (r : Rounded) : Res := (r.code, r.exc)

/-- An operand of a sum: finite, or an infinity of a sign. -/
inductive Term where
  | fin (x : Ex)
  | inf (s : Bool)
  /-- 0 × ∞ -/
  | bad
  deriving DecidableEq, Repr

def Fmt.term (F : Fmt) (c : Nat) : Term :=
  if F.isInf c then .inf (F.neg c) else .fin (F.val c)

def mulTerm : Term → Term → Term
  | .fin x, .fin y => .fin (mulEx x y)
  | .inf s, .inf t => .inf (s ^^ t)
  | .inf s, .fin y => if y.m = 0 then .bad else .inf (s ^^ y.s)
  | .fin x, .inf t => if x.m = 0 then .bad else .inf (x.s ^^ t)
  | _, _ => .bad

/-- R217, R218: a sum of terms, rounded once. -/
def sumTerms (F : Fmt) (rm : BitVec 2) (ts : List Term) : Res :=
  let infs := ts.filterMap fun t => match t with | .inf s => some s | _ => none
  if ts.any (fun t => decide (t = .bad)) ∨ (infs.contains true ∧ infs.contains false) then invalid F
  else match infs with
    | s :: _ => (F.signBit s + F.infCode, {})
    | [] =>
      let xs := ts.filterMap fun t => match t with | .fin x => some x | _ => none
      match xs with
      | [] => (0, {})
      | x :: rest => (F.round rm (rest.foldl (addEx rm) x)).res

/-- R218: NaN operands first, in their order. `ops` are the operands; `bad` an invalid product. -/
def withNans (ops : List (Fmt × Nat)) (bad : Bool) (r : Res) : Res :=
  match nanOf ops with
  | some n => (n, { nv := anySnan ops || bad })
  | none => r

/-- R224, R234: a + b, a - b, a × b, a × b + d in a format. -/
def fadd (F : Fmt) (rm : BitVec 2) (a b : Nat) : Res :=
  withNans [(F, a), (F, b)] false (sumTerms F rm [F.term a, F.term b])
def fsub (F : Fmt) (rm : BitVec 2) (a b : Nat) : Res :=
  withNans [(F, a), (F, b)] false
    (sumTerms F rm [F.term a, match F.term b with
      | .fin x => .fin { x with s := !x.s }
      | .inf s => .inf !s
      | .bad => .bad])
def fmul (F : Fmt) (rm : BitVec 2) (a b : Nat) : Res :=
  withNans [(F, a), (F, b)] false (match mulTerm (F.term a) (F.term b) with
    | .bad => invalid F
    | .inf s => (F.signBit s + F.infCode, {})
    | .fin x => (F.round rm x).res)
def ffma (F : Fmt) (rm : BitVec 2) (a b d : Nat) : Res :=
  let p := mulTerm (F.term a) (F.term b)
  withNans [(F, a), (F, b), (F, d)]
    (decide (p = .bad) && !F.isNan a && !F.isNan b) (sumTerms F rm [p, F.term d])

/-- R218, R224: a / b. -/
def fdiv (F : Fmt) (rm : BitVec 2) (a b : Nat) : Res :=
  let s := F.neg a ^^ F.neg b
  withNans [(F, a), (F, b)] false (match F.term a, F.term b with
    | .inf _, .inf _ => invalid F
    | .inf _, _ => (F.signBit s + F.infCode, {})
    | _, .inf _ => (F.signBit s, {})
    | .fin x, .fin y =>
      if y.m = 0 then (if x.m = 0 then invalid F else (F.signBit s + F.infCode, { dz := true }))
      else if x.m = 0 then (F.signBit s, {})
      else
        let k := 64 + Nat.log2 y.m
        let n := x.m * 2 ^ k
        (F.round rm { s := s, m := n / y.m, e := x.e - y.e - k } (decide (n % y.m ≠ 0))).res
    | _, _ => invalid F)

/-- Integer square root of a number below 2^(2 * bits), bit by bit from the top. -/
def isqrtTop (bits n : Nat) : Nat :=
  (List.range bits).foldl (fun r j =>
    let k := bits - 1 - j
    if (r + 2 ^ k) ^ 2 ≤ n then r + 2 ^ k else r) 0

/-- R227: √a. -/
def fsqrt (F : Fmt) (rm : BitVec 2) (a : Nat) : Res :=
  withNans [(F, a)] false (match F.term a with
    | .inf s => if s then invalid F else (a, {})
    | .fin x =>
      if x.m = 0 then (a, {})
      else if x.s then invalid F
      else
        let odd := decide (x.e % 2 ≠ 0)
        let m := (if odd then 2 * x.m else x.m) * 2 ^ 80
        let e := (if odd then x.e - 1 else x.e) - 80
        let r := isqrtTop 56 m
        (F.round rm { s := false, m := r, e := e / 2 } (decide (r * r ≠ m))).res
    | .bad => invalid F)

/-- R228: 1 / √a, to nearest. -/
def frsq (F : Fmt) (a : Nat) : Res :=
  withNans [(F, a)] false (match F.term a with
    | .inf s => if s then invalid F else (0, {})
    | .fin x =>
      if x.m = 0 then (F.signBit x.s + F.infCode, { dz := true })
      else if x.s then invalid F
      else
        let odd := decide (x.e % 2 ≠ 0)
        let m := if odd then 2 * x.m else x.m
        let e := if odd then x.e - 1 else x.e
        let r := isqrtTop 62 (2 ^ 120 / m)
        (F.round 0 { s := false, m := r, e := -60 - e / 2 } (decide (r * r * m ≠ 2 ^ 120))).res
    | .bad => invalid F)

/-- R228: 1 / a, to nearest. -/
def frcp (F : Fmt) (a : Nat) : Res :=
  fdiv F 0 (F.bias.toNat * 2 ^ F.m) a

/-- Fixed-point numbers of 256 fraction bits, for the correctly rounded FEXP2 and FLOG2. -/
def fxBits : Nat := 256
/-- 2^(2^-(i+1)), rounded down, for i below n, largest exponent first. -/
def rootsOf2 : Nat → Nat → List Nat
  | 0, _ => []
  | n + 1, c =>
    let r := isqrtTop (fxBits + 1) (c * 2 ^ fxBits)
    r :: rootsOf2 n r

/-- 2^f for f = num / 2^k with 0 < num < 2^k, k at most 160, as 256-bit fixed point, rounded down. -/
def exp2Frac (num k : Nat) : Nat :=
  ((List.range k).zip (rootsOf2 k (2 * 2 ^ fxBits))).foldl (fun y x =>
    if num / 2 ^ (k - 1 - x.1) % 2 = 1 then y * x.2 / 2 ^ fxBits else y) (2 ^ fxBits)

/-- R228: 2^a, to nearest. 2^a is irrational where a is not integral, so the value lies strictly
between two neighbours at any precision; 256 bits decide every F32 input (log entry 8). -/
def fexp2 (a : Nat) : Res :=
  let F := f32
  withNans [(F, a)] false (match F.term a with
    | .inf s => if s then (0, {}) else (a, {})
    | .fin x =>
      let i : Int := if x.s then -(x.m : Int) else x.m
      if 0 ≤ x.e then
        let n := i * 2 ^ (Nat.min x.e.toNat 16)
        let n := max (-1000) (min 1000 n)
        (F.round 0 { s := false, m := 1, e := n }).res
      else
        let k := (-x.e).toNat
        let n := i / 2 ^ k
        let f := (i % 2 ^ k).toNat
        if f = 0 then (F.round 0 { s := false, m := 1, e := max (-1000) (min 1000 n) }).res
        else (F.round 0 { s := false, m := exp2Frac f k / 2 ^ 128,
                          e := max (-1000) (min 1000 n) - 128 } true).res
    | .bad => invalid F)

/-- Fraction bits of log2 of y / 2^256, 1 ≤ y / 2^256 < 2, n of them, by repeated squaring. -/
def log2Bits : Nat → Nat → Nat → Nat
  | 0, _, acc => acc
  | n + 1, y, acc =>
    let z := y * y / 2 ^ fxBits
    if 2 * 2 ^ fxBits ≤ z then log2Bits n (z / 2) (2 * acc + 1) else log2Bits n z (2 * acc)

/-- R228: log2 a, to nearest (log entry 8). -/
def flog2 (a : Nat) : Res :=
  let F := f32
  withNans [(F, a)] false (match F.term a with
    | .inf s => if s then invalid F else (a, {})
    | .fin x =>
      if x.m = 0 then (F.signBit true + F.infCode, { dz := true })
      else if x.s then invalid F
      else
        let l := Nat.log2 x.m
        let n : Int := l + x.e
        if x.m = 2 ^ l then
          (F.round 0 { s := decide (n < 0), m := n.natAbs, e := 0 }).res
        else
          let v : Int := n * 2 ^ 120 + log2Bits 120 (x.m * 2 ^ (fxBits - l)) 0
          if 0 ≤ v then (F.round 0 { s := false, m := v.natAbs, e := -120 } true).res
          else (F.round 0 { s := true, m := v.natAbs - 1, e := -120 } true).res
    | .bad => invalid F)

/-! ### Comparison (R225, R226) -/

/-- Order of codes that are no NaN; both zeros are 0. -/
def Fmt.key (F : Fmt) (c : Nat) : Int := if F.neg c then -(F.mag c : Int) else F.mag c

/-- R225: FMIN (`max` false) and FMAX. -/
def fminmax (F : Fmt) (mx : Bool) (a b : Nat) : Res :=
  let exc : Exc := { nv := anySnan [(F, a), (F, b)] }
  if F.isNan a ∧ F.isNan b then (F.qnan, exc)
  else if F.isNan a then (b, exc)
  else if F.isNan b then (a, exc)
  else
    let less := decide (F.key a < F.key b) || (decide (F.key a = F.key b) && F.neg a)
    (if less = mx then b else a, exc)

/-- R226. -/
def fcmp (c a b : Nat) : Bool × Exc :=
  let F := f32
  let un := F.isNan a || F.isNan b
  let x := F.key a
  let y := F.key b
  let r (n : Nat) : Bool := match n with
    | 0 => decide (x = y)
    | 1 => decide (x ≠ y)
    | 2 => decide (x < y)
    | 3 => decide (x ≤ y)
    | 4 => decide (y < x)
    | _ => decide (y ≤ x)
  let v := match c with
    | 6 => !un
    | 7 => un
    | n => if n < 6 then !un && r n else un || r (n - 8)
  (v, { nv := anySnan [(F, a), (F, b)] || (un && decide (2 ≤ c ∧ c ≤ 5)) })

/-! ### Integral values and classes (R227) -/

/-- Round a finite value to an integer by a mode. -/
def Ex.toInt (x : Ex) (rm : BitVec 2) : Int × Bool :=
  let r := roundQ rm x.s x.m x.e 0 false
  (if x.s then -(r.1 : Int) else r.1, r.2)

def fintegral (rm : BitVec 2) (nx : Bool) (a : Nat) : Res :=
  let F := f32
  withNans [(F, a)] false (match F.term a with
    | .fin x =>
      let r := roundQ rm x.s x.m x.e 0 false
      let y := F.round 0 { s := x.s, m := r.1, e := 0 }
      (y.code, { nx := nx && r.2 })
    | _ => (a, {}))

def fclass (a : Nat) : Nat :=
  let F := f32
  let s := F.neg a
  if F.isSnan a then 2 ^ 8
  else if F.isNan a then 2 ^ 9
  else if F.isInf a then (if s then 1 else 2 ^ 7)
  else if F.mag a = 0 then (if s then 2 ^ 3 else 2 ^ 4)
  else if F.ef a = 0 then (if s then 2 ^ 2 else 2 ^ 5)
  else (if s then 2 else 2 ^ 6)

/-- R227: the functions of FUN. -/
def funRes (f : Nat) (rm : BitVec 2) (a : Nat) : Res :=
  match f with
  | 0 => fsqrt f32 rm a
  | 1 => frcp f32 a
  | 2 => frsq f32 a
  | 3 => (a % 2 ^ 31, {})
  | 4 => (a ^^^ 2 ^ 31, {})
  | 5 => fintegral 3 false a
  | 6 => fintegral 2 false a
  | 7 => fintegral 1 false a
  | 8 => fintegral rm true a
  | 9 => (fclass a, {})
  | 10 => fexp2 a
  | _ => flog2 a

/-! ### Conversion (R229 to R233) -/

/-- The format of a floating-point code 0 to 4. -/
def fmtOf (n : Nat) : Fmt :=
  match n with | 0 => f32 | 1 => f16 | 2 => bf16 | 3 => e4m3 | _ => e5m2
/-- Width of a format of CVT. -/
def cvtWidth (n : Nat) : Nat := match n with | 0 => 32 | 1 => 16 | 2 => 16 | 5 => 32 | _ => 8

/-- R231: a NaN in another format. -/
def cvtNan (S D : Fmt) (c : Nat) : Nat :=
  let s := D.signBit (S.neg c)
  if S.width = 8 ∨ D.width = 8 then s + D.qnan
  else
    let m := if S.m ≤ D.m then S.mf c * 2 ^ (D.m - S.m) else S.mf c / 2 ^ (S.m - D.m)
    s + D.quiet ((2 ^ D.e - 1) * 2 ^ D.m + m)

/-- R232: an exact value rounded to a destination format, with FP8 overflow. -/
def roundCvt (D : Fmt) (rm : BitVec 2) (sat : Bool) (x : Ex) : Res :=
  let r := D.round rm x
  if D.width = 8 ∧ r.toInf then
    (D.signBit x.s + (if sat then D.big else if D.inf then D.infCode else D.qnan), r.exc)
  else r.res

/-- R231, R232: between floating-point formats. -/
def cvtFF (S D : Fmt) (rm : BitVec 2) (sat : Bool) (c : Nat) : Res :=
  if S.isNan c then (cvtNan S D c, { nv := S.isSnan c })
  else match S.term c with
    | .fin x => roundCvt D rm sat x
    | _ =>
      let s := D.signBit (S.neg c)
      if D.width = 8 then
        if sat then (s + D.big, { of := true, nx := true })
        else if D.inf then (s + D.infCode, {})
        else (s + D.qnan, { nv := true })
      else (s + D.infCode, {})

/-- R233: floating point to an integer of n bits. -/
def cvtFI (S : Fmt) (n : Nat) (rm : BitVec 2) (c : Nat) : Res :=
  let hi : Int := 2 ^ (n - 1) - 1
  let lo : Int := -2 ^ (n - 1)
  let code (i : Int) : Nat := (i % 2 ^ n).toNat
  if S.isNan c then (0, { nv := true })
  else match S.term c with
    | .fin x =>
      let r := x.toInt rm
      if hi < r.1 then (code hi, { nv := true })
      else if r.1 < lo then (code lo, { nv := true })
      else (code r.1, { nx := r.2 })
    | _ => (code (if S.neg c then lo else hi), { nv := true })

/-- R233: an integer to floating point. -/
def cvtIF (n : Nat) (D : Fmt) (rm : BitVec 2) (sat : Bool) (c : Nat) : Res :=
  let i : Int := if 2 ^ (n - 1) ≤ c then (c : Int) - 2 ^ n else c
  roundCvt D rm sat { s := decide (i < 0), m := i.natAbs, e := 0 }

/-- One element from format `sf` to format `df`. -/
def cvtElem (df sf : Nat) (rm : BitVec 2) (sat : Bool) (c : Nat) : Res :=
  if sf < 5 ∧ df < 5 then cvtFF (fmtOf sf) (fmtOf df) rm sat c
  else if sf < 5 then cvtFI (fmtOf sf) (cvtWidth df) rm c
  else if df < 5 then cvtIF (cvtWidth sf) (fmtOf df) rm sat c
  else if sf = 6 then ((((BitVec.ofNat 8 c).signExtend 32).toNat), {})
  else
    let i := (BitVec.ofNat 32 c).toInt
    if sat then (((max (-128) (min 127 i)) % 256).toNat, {}) else (c % 256, {})

/-- R230: element i of width w in a list of words. -/
def elemOf (w i : Nat) (vs : List Word) : Nat :=
  (vs.getD (i * w / 32) 0).toNat / 2 ^ (i * w % 32) % 2 ^ w
/-- R213: elements of width w packed into n words. -/
def packElems (w n : Nat) (es : List Nat) : List Word :=
  (List.range n).map fun k => BitVec.ofNat 32 ((List.range (32 / w)).foldl (fun a j =>
    a + es.getD (k * (32 / w) + j) 0 % 2 ^ w * 2 ^ (j * w)) 0)

/-- R230: CVT of a source operand, unpacked or packed: the destination words and the flags. -/
def cvtWords (df sf : Nat) (packed : Bool) (rm : BitVec 2) (sat : Bool) (vs : List Word) :
    List Word × Exc :=
  let ws := cvtWidth sf
  let wd := cvtWidth df
  if packed then
    let n := 32 / min ws wd
    let rs := (List.range n).map fun i => cvtElem df sf rm sat (elemOf ws i vs)
    (packElems wd (n * wd / 32) (rs.map Prod.fst), rs.foldl (fun e r => e.or r.2) {})
  else
    let r := cvtElem df sf rm sat (elemOf ws 0 vs)
    ([if df = 6 then (BitVec.ofNat 8 r.1).signExtend 32 else BitVec.ofNat 32 r.1], r.2)

/-! ### Packed and dot products (R234 to R236) -/

/-- R234: an operation on both halves. -/
def packed2 (f : Nat → Nat → Nat → Res) (a b d : Word) : Word × Exc :=
  let el (x : Word) (i : Nat) : Nat := efld16 x i
  let lo := f (el a 0) (el b 0) (el d 0)
  let hi := f (el a 1) (el b 1) (el d 1)
  (BitVec.ofNat 16 hi.1 ++ BitVec.ofNat 16 lo.1, lo.2.or hi.2)
where
  efld16 (x : Word) (i : Nat) : Nat := (x.extractLsb' (16 * i) 16).toNat

/-- R235. -/
def dot4 (a b d : Word) : Word :=
  (List.range 4).foldl (fun s i =>
    s + (a.extractLsb' (8 * i) 8).signExtend 32 * (b.extractLsb' (8 * i) 8).signExtend 32) d

/-- R236. Beside a NaN in d, a product of 0 and infinity raises NV, and products that are infinities of two
signs raise none (log entry 41: the rule does not say). -/
def dot2f (rm : BitVec 2) (a b d : Word) : Res :=
  let el (x : Word) (i : Nat) : Nat := (x.extractLsb' (16 * i) 16).toNat
  let p (i : Nat) := mulTerm (bf16.term (el a i)) (bf16.term (el b i))
  let bad (i : Nat) : Bool := decide (p i = .bad) && !bf16.isNan (el a i) && !bf16.isNan (el b i)
  let wide (c : Nat) : Nat := c * 2 ^ 16
  let ops := [(f32, wide (el a 0)), (f32, wide (el a 1)), (f32, wide (el b 0)),
    (f32, wide (el b 1)), (f32, d.toNat)]
  withNans ops (bad 0 || bad 1) (sumTerms f32 rm [f32.term d.toNat, p 0, p 1])

end Sys2Proof.Machine
end

