-- ==== Sys2Proof/WellFormed.lean ====
section
/-! DEFINITION. Which encodings the manual lists (R187, reasons 0 and 1, and the PACE payload of
R180): the checks that read the word alone. Checks that read the machine's state are made at issue
(Machine/Issue.lean). -/

namespace Sys2Proof

/-- R246: operation codes 12 to 15 are undefined, and codes 9 to 11 have no 64-bit form. -/
abbrev atomOk (h : BitVec 3) (l w : BitVec 1) : Prop :=
  2 * h.toNat + l.toNat < (if w = 1 then 9 else 12)

/-- R250: PEER is 000 or 1rr. -/
abbrev peerOk (e : BitVec 3) : Prop := e = 0 ∨ 4 ≤ e.toNat

/-- R258: the queue registers are 112 to 123. -/
abbrev queueNo (q : BitVec 7) : Prop := 112 ≤ q.toNat ∧ q.toNat < 124

/-- R303: level and index of a barrier. A gang index of 16 to 31 is listed: it raises SYNCX. -/
abbrev barOk (l : BitVec 2) (n : BitVec 5) : Prop :=
  l = 0 ∨ (l = 1 ∧ n.toNat < 4) ∨ (l = 2 ∧ n.toNat < 2)

/-- R309: the CSR numbers of the table. -/
abbrev csrNo (c : BitVec 7) : Prop := c.toNat < 0x18 ∨ (0x20 ≤ c.toNat ∧ c.toNat < 0x40)

/-- R198: the operations of PLOG, and the bits of its fields that each leaves unused. -/
abbrev plogOk (a b s : BitVec 7) : Prop :=
  (s.toNat < 5 ∧ a.toNat < 8 ∧ b.toNat < 64) ∨
  ((s = 5 ∨ s = 6) ∧ a.toNat < 8 ∧ b.toNat < 8) ∨
  (s = 0x10 ∧ b.toNat < 8) ∨ (s = 0x11 ∧ b = 0) ∨ s = 0x12

/-- The encoding is one that the manual lists. -/
def Instr.wf : Instr → Bool
  | .add _ _ _ _ => true
  | .sub _ _ _ _ => true
  | .mul _ _ _ _ => true
  | .mulhi _ _ _ _ => true
  | .mulhiu _ _ _ _ => true
  | .mad _ _ _ _ => true
  | .and _ _ _ _ => true
  | .or _ _ _ _ => true
  | .xor _ _ _ _ => true
  | .shl _ _ _ _ => true
  | .shr _ _ _ _ => true
  | .sar _ _ _ _ => true
  | .min _ _ _ _ => true
  | .max _ _ _ _ => true
  | .minu _ _ _ _ => true
  | .maxu _ _ _ _ => true
  | .addi _ _ _ _ => true
  | .andi _ _ _ _ => true
  | .ori _ _ _ _ => true
  | .xori _ _ _ _ => true
  | .shli _ _ _ i => decide (i.toNat < 32)
  | .shri _ _ _ i => decide (i.toNat < 32)
  | .sari _ _ _ i => decide (i.toNat < 32)
  | .setp _ c _ _ _ => decide (c.toNat < 12)
  | .setpi _ c _ _ _ => decide (c.toNat < 12)
  | .sel _ _ _ _ => true
  | .add64 _ _ _ _ => true
  | .adda _ _ _ _ => true
  | .bfx _ _ _ _ => true
  | .bfi _ _ _ _ => true
  | .iun _ _ _ f => decide (f.toNat < 11)
  | .ldi _ _ _ => true
  | .bra _ _ => true
  | .bru _ _ => true
  | .call _ _ => true
  | .ret _ _ => true
  | .jmpi _ _ => true
  | .exit _ => true
  | .yield _ => true
  | .spawn _ _ _ => true
  | .crewjoin _ => true
  | .lxch _ _ _ _ => true
  | .lagr _ c _ _ _ => decide (c.toNat < 3)
  | .lfold _ _ _ o => decide (o.toNat < 10)
  | .plog _ a b s => decide (plogOk a b s)
  | .brdec _ _ _ => true
  | .sleep _ _ => true
  | .fadd _ _ _ _ => true
  | .fsub _ _ _ _ => true
  | .fmul _ _ _ _ => true
  | .ffma _ _ _ _ => true
  | .fmin _ _ _ _ => true
  | .fmax _ _ _ _ => true
  | .fdiv _ _ _ _ => true
  | .fsetp _ c _ _ _ => decide (c.toNat < 14)
  | .func _ _ _ f => decide (f.toNat < 12)
  | .cvt _ _ _ e f k => decide (e ≠ 7 ∧ f ≠ 7 ∧ e ≠ f ∧ ¬ (k = 1 ∧ (e = 0 ∨ e = 5) ∧ (f = 0 ∨ f = 5)))
  | .padd2 _ _ _ _ => true
  | .pfma2 _ _ _ _ => true
  | .pmul2 _ _ _ _ => true
  | .dot4 _ _ _ _ => true
  | .dot2f _ _ _ _ => true
  | .ld _ _ _ p o _ => decide (p.toNat < 6 ∧ o ≠ 3)
  | .st _ _ _ p o _ => decide (p.toNat < 6 ∧ o.toNat < 2)
  | .ldb _ _ _ p o s => decide (p.toNat < 6 ∧ o ≠ 3 ∧ s.toNat < 2)
  | .stb _ _ _ p o => decide (p.toNat < 6 ∧ o.toNat < 2)
  | .lde _ _ _ p o s => decide (p.toNat < 6 ∧ o ≠ 3 ∧ s ≠ 3)
  | .ste _ _ _ p o s => decide (p.toNat < 6 ∧ o.toNat < 2 ∧ s ≠ 3)
  | .atom _ _ _ h _ l w => decide (atomOk h l w)
  | .cas _ _ _ p _ s => decide (p.toNat < 6 ∧ s.toNat < 2)
  | .lrbegin _ _ _ => true
  | .lrend _ => true
  | .fenceAcq _ => true
  | .fenceRel _ => true
  | .fenceFull _ => true
  | .cacheWb _ _ _ => true
  | .cacheInv _ _ _ => true
  | .cacheInvd _ _ _ => true
  | .cachePref _ _ _ => true
  | .lds _ _ _ e r _ => decide (peerOk e ∧ r ≠ 3)
  | .sts _ _ _ e r _ => decide (peerOk e ∧ r.toNat < 2)
  | .atoms _ _ _ h _ _ => decide (h.toNat < 6)
  | .red _ _ _ h _ l w => decide (atomOk h l w ∧ ¬ (h = 4 ∧ l = 0))
  | .put _ _ _ _ => true
  | .putm _ _ _ _ => true
  | .drain _ _ _ _ => true
  | .bcount _ _ _ => true
  | .bopen _ _ _ => true
  | .bseal _ _ => true
  | .bfree _ _ => true
  | .biter _ _ _ _ => true
  | .gfetch _ _ _ _ => true
  | .probe _ _ _ => true
  | .rebal _ _ _ _ => true
  | .copy _ _ _ _ _ u v => decide (¬ (u = 1 ∧ v = 1))
  | .copyb _ _ _ => true
  | .igather _ _ _ => true
  | .iscatter _ _ _ => true
  | .qbind _ q _ => decide (queueNo q)
  | .qstat _ _ q => decide (queueNo q)
  | .cpwait _ _ _ => true
  | .wave _ _ _ o => decide (o.toNat < 5)
  | .mma _ _ _ _ => true
  | .mmas _ c _ _ _ => decide (c ≠ 7)
  | .mmaq _ _ _ _ _ => true
  | .accz _ _ => true
  | .accld _ _ _ => true
  | .accst _ _ _ => true
  | .accrd _ _ _ _ => true
  | .accwr _ _ _ _ => true
  | .walk _ _ _ => true
  | .nest _ _ _ => true
  | .endw _ => true
  | .barg _ _ _ => true
  | .bara _ _ l n => decide (barOk l n)
  | .barw _ _ l n => decide (barOk l n)
  | .barc _ _ _ => true
  | .barl _ _ _ => true
  | .waitf _ _ => true
  | .waitv _ _ _ c _ => decide (c.toNat < 12)
  | .csrrd _ _ c => decide (csrNo c)
  | .csrwr _ _ c => decide (csrNo c)
  | .trap _ _ _ _ => true
  | .rett _ => true
  | .rettF _ _ => true
  | .watch _ _ _ => true
  | .watchRd _ _ _ => true
  | .insp _ _ _ s => decide (s.toNat ≤ 0x64)
  | .poke _ _ _ e => decide (e.toNat ≤ 0x64)
  | .step _ _ => true
  | .resume _ _ => true
  | .pace _ s _ => decide (¬ (12 ≤ s.toNat ∧ s.toNat ≤ 14))
  | .imm _ => true
  | .mod _ _ _ _ _ _ => true
  | .faultQueueAppend _ => true
  | .crewForm _ => true
  | .crewEvict _ => true
  | .flagComplete _ => true
  | .dirLoadRequest _ _ => true
  | .dirStoreRequest _ _ => true
  | .l1Evict _ _ => true
  | .l2LineMigrate _ => true
  | .lineDieMigrate _ => true
  | .tileFetchRetry _ => true
  | .copyBeat _ _ => true
  | .placerPut _ _ => true
  | .placerDrain _ => true
  | .placerBcount _ => true
  | .placerBseal _ => true
  | .placerBfree _ => true
  | .shareRecordWrite _ _ => true
  | .bankCommandStart _ _ => true
  | .waveNextWave _ => true
  | .thermalLimitChange _ _ => true
  | .siteShip _ => true
  | .scullerArrival _ => true
  | .lineRegionTimeout _ => true
  | .lineRegionHeld _ => true
  | .waitvReload _ => true
  | .sleepExpire _ => true
  | .powerTokenRelease _ _ => true
  | .wqTakeRecord _ => true
  | .gangPlace _ => true
  | .gangEnd _ => true
  | .vfChangeStable _ => true
  | .schedStep => true
  | .sliceEnd _ => true
  | .contextRestore _ _ => true
  | .zeropage _ => true
  | .xinval _ => true
  | .releaseResume _ => true
  | .releaseRedirect _ => true
  | .releaseHandler _ => true
  | .releaseEmulate _ => true
  | .releaseEnd _ => true
  | .preempt _ => true
  | .quiesce _ => true
  | .resumectx _ => true
  | .endctx _ => true
  | .dbgaccInsp _ => true
  | .dbgaccPoke _ => true
  | .dbgaccStep _ => true
  | .dbgaccResume _ => true
  | .dbgaccWatchSet _ => true
  | .dbgaccWatchRead _ => true
  | .bndsync _ => true
  | .commandComplete _ => true
  | .carveWrite _ _ => true
  | .carveChangeoverDone _ _ => true
  | .quarcfgWrite _ _ => true
  | .wqcfgWrite _ _ => true
  | .rcRegisterWrite _ _ => true
  | .pwrctlWrite _ => true
  | .mgmtRegisterWrite _ _ => true
  | .powerLimitStep _ => true
  | .patrolScrub _ _ => true
  | .dieFailure _ => true
  | .flitReplay _ => true
  | .packetRead _ => true
  | .packetWrite _ => true
  | .packetAtom _ => true
  | .packetRed _ => true
  | .packetMailbox _ => true
  | .packetResp _ => true
  | .mailboxCredit _ => true
  | .powerOnBringup _ _ => true
  | .undefinedEncoding _ => true
  | .unknownCommandCode _ => true
  | .l1DropWithoutTelling _ _ => true
  | .walkBodyWordIssue _ _ => true
  | .powerRemoved => true
  | .coreClkIssueSlots _ => true

/-- The instruction is a word (R173); the other rows are steps that no word encodes. -/
def Instr.isWord : Instr → Bool
  | .add _ _ _ _ => true
  | .sub _ _ _ _ => true
  | .mul _ _ _ _ => true
  | .mulhi _ _ _ _ => true
  | .mulhiu _ _ _ _ => true
  | .mad _ _ _ _ => true
  | .and _ _ _ _ => true
  | .or _ _ _ _ => true
  | .xor _ _ _ _ => true
  | .shl _ _ _ _ => true
  | .shr _ _ _ _ => true
  | .sar _ _ _ _ => true
  | .min _ _ _ _ => true
  | .max _ _ _ _ => true
  | .minu _ _ _ _ => true
  | .maxu _ _ _ _ => true
  | .addi _ _ _ _ => true
  | .andi _ _ _ _ => true
  | .ori _ _ _ _ => true
  | .xori _ _ _ _ => true
  | .shli _ _ _ _ => true
  | .shri _ _ _ _ => true
  | .sari _ _ _ _ => true
  | .setp _ _ _ _ _ => true
  | .setpi _ _ _ _ _ => true
  | .sel _ _ _ _ => true
  | .add64 _ _ _ _ => true
  | .adda _ _ _ _ => true
  | .bfx _ _ _ _ => true
  | .bfi _ _ _ _ => true
  | .iun _ _ _ _ => true
  | .ldi _ _ _ => true
  | .bra _ _ => true
  | .bru _ _ => true
  | .call _ _ => true
  | .ret _ _ => true
  | .jmpi _ _ => true
  | .exit _ => true
  | .yield _ => true
  | .spawn _ _ _ => true
  | .crewjoin _ => true
  | .lxch _ _ _ _ => true
  | .lagr _ _ _ _ _ => true
  | .lfold _ _ _ _ => true
  | .plog _ _ _ _ => true
  | .brdec _ _ _ => true
  | .sleep _ _ => true
  | .fadd _ _ _ _ => true
  | .fsub _ _ _ _ => true
  | .fmul _ _ _ _ => true
  | .ffma _ _ _ _ => true
  | .fmin _ _ _ _ => true
  | .fmax _ _ _ _ => true
  | .fdiv _ _ _ _ => true
  | .fsetp _ _ _ _ _ => true
  | .func _ _ _ _ => true
  | .cvt _ _ _ _ _ _ => true
  | .padd2 _ _ _ _ => true
  | .pfma2 _ _ _ _ => true
  | .pmul2 _ _ _ _ => true
  | .dot4 _ _ _ _ => true
  | .dot2f _ _ _ _ => true
  | .ld _ _ _ _ _ _ => true
  | .st _ _ _ _ _ _ => true
  | .ldb _ _ _ _ _ _ => true
  | .stb _ _ _ _ _ => true
  | .lde _ _ _ _ _ _ => true
  | .ste _ _ _ _ _ _ => true
  | .atom _ _ _ _ _ _ _ => true
  | .cas _ _ _ _ _ _ => true
  | .lrbegin _ _ _ => true
  | .lrend _ => true
  | .fenceAcq _ => true
  | .fenceRel _ => true
  | .fenceFull _ => true
  | .cacheWb _ _ _ => true
  | .cacheInv _ _ _ => true
  | .cacheInvd _ _ _ => true
  | .cachePref _ _ _ => true
  | .lds _ _ _ _ _ _ => true
  | .sts _ _ _ _ _ _ => true
  | .atoms _ _ _ _ _ _ => true
  | .red _ _ _ _ _ _ _ => true
  | .put _ _ _ _ => true
  | .putm _ _ _ _ => true
  | .drain _ _ _ _ => true
  | .bcount _ _ _ => true
  | .bopen _ _ _ => true
  | .bseal _ _ => true
  | .bfree _ _ => true
  | .biter _ _ _ _ => true
  | .gfetch _ _ _ _ => true
  | .probe _ _ _ => true
  | .rebal _ _ _ _ => true
  | .copy _ _ _ _ _ _ _ => true
  | .copyb _ _ _ => true
  | .igather _ _ _ => true
  | .iscatter _ _ _ => true
  | .qbind _ _ _ => true
  | .qstat _ _ _ => true
  | .cpwait _ _ _ => true
  | .wave _ _ _ _ => true
  | .mma _ _ _ _ => true
  | .mmas _ _ _ _ _ => true
  | .mmaq _ _ _ _ _ => true
  | .accz _ _ => true
  | .accld _ _ _ => true
  | .accst _ _ _ => true
  | .accrd _ _ _ _ => true
  | .accwr _ _ _ _ => true
  | .walk _ _ _ => true
  | .nest _ _ _ => true
  | .endw _ => true
  | .barg _ _ _ => true
  | .bara _ _ _ _ => true
  | .barw _ _ _ _ => true
  | .barc _ _ _ => true
  | .barl _ _ _ => true
  | .waitf _ _ => true
  | .waitv _ _ _ _ _ => true
  | .csrrd _ _ _ => true
  | .csrwr _ _ _ => true
  | .trap _ _ _ _ => true
  | .rett _ => true
  | .rettF _ _ => true
  | .watch _ _ _ => true
  | .watchRd _ _ _ => true
  | .insp _ _ _ _ => true
  | .poke _ _ _ _ => true
  | .step _ _ => true
  | .resume _ _ => true
  | .pace _ _ _ => true
  | .imm _ => true
  | .mod _ _ _ _ _ _ => true
  | .faultQueueAppend _ => false
  | .crewForm _ => false
  | .crewEvict _ => false
  | .flagComplete _ => false
  | .dirLoadRequest _ _ => false
  | .dirStoreRequest _ _ => false
  | .l1Evict _ _ => false
  | .l2LineMigrate _ => false
  | .lineDieMigrate _ => false
  | .tileFetchRetry _ => false
  | .copyBeat _ _ => false
  | .placerPut _ _ => false
  | .placerDrain _ => false
  | .placerBcount _ => false
  | .placerBseal _ => false
  | .placerBfree _ => false
  | .shareRecordWrite _ _ => false
  | .bankCommandStart _ _ => false
  | .waveNextWave _ => false
  | .thermalLimitChange _ _ => false
  | .siteShip _ => false
  | .scullerArrival _ => false
  | .lineRegionTimeout _ => false
  | .lineRegionHeld _ => false
  | .waitvReload _ => false
  | .sleepExpire _ => false
  | .powerTokenRelease _ _ => false
  | .wqTakeRecord _ => false
  | .gangPlace _ => false
  | .gangEnd _ => false
  | .vfChangeStable _ => false
  | .schedStep => false
  | .sliceEnd _ => false
  | .contextRestore _ _ => false
  | .zeropage _ => false
  | .xinval _ => false
  | .releaseResume _ => false
  | .releaseRedirect _ => false
  | .releaseHandler _ => false
  | .releaseEmulate _ => false
  | .releaseEnd _ => false
  | .preempt _ => false
  | .quiesce _ => false
  | .resumectx _ => false
  | .endctx _ => false
  | .dbgaccInsp _ => false
  | .dbgaccPoke _ => false
  | .dbgaccStep _ => false
  | .dbgaccResume _ => false
  | .dbgaccWatchSet _ => false
  | .dbgaccWatchRead _ => false
  | .bndsync _ => false
  | .commandComplete _ => false
  | .carveWrite _ _ => false
  | .carveChangeoverDone _ _ => false
  | .quarcfgWrite _ _ => false
  | .wqcfgWrite _ _ => false
  | .rcRegisterWrite _ _ => false
  | .pwrctlWrite _ => false
  | .mgmtRegisterWrite _ _ => false
  | .powerLimitStep _ => false
  | .patrolScrub _ _ => false
  | .dieFailure _ => false
  | .flitReplay _ => false
  | .packetRead _ => false
  | .packetWrite _ => false
  | .packetAtom _ => false
  | .packetRed _ => false
  | .packetMailbox _ => false
  | .packetResp _ => false
  | .mailboxCredit _ => false
  | .powerOnBringup _ _ => false
  | .undefinedEncoding _ => false
  | .unknownCommandCode _ => false
  | .l1DropWithoutTelling _ _ => false
  | .walkBodyWordIssue _ _ => false
  | .powerRemoved => false
  | .coreClkIssueSlots _ => false

end Sys2Proof
end

