-- ==== Sys2Proof/Decode.lean ====
section
/-! DEFINITION. From bits to instructions (R173 to R187) and back. The rows are those of the opcode
map: a major opcode in bits 31:25, the fixed bits of the row, and its fields. -/

namespace Sys2Proof

/-- Why a word is no instruction. -/
inductive Reject where
  /-- fewer than four bytes -/
  | short
  /-- a reserved major (R187, reason 0) -/
  | reservedMajor
  /-- an unlisted sub-function or field code, or an unused field that is not 0 (reason 1) -/
  | reservedField
  /-- hint kind 3 to 7, or a reserved payload bit or code (R179, R180, R185; reason 4) -/
  | hintError
  deriving DecidableEq, Repr

/-- Bits hi:lo of a word. -/
abbrev fld (w : Word) (lo n : Nat) : BitVec n := w.extractLsb' lo n

/-- The row of the opcode map that the word's major and fixed bits select. -/
def decodeRow (w : Word) : Option Instr :=
  match (fld w 25 7).toNat with
  | 0x00 => some (.add (fld w 21 4) (fld w 14 7) (fld w 7 7) (fld w 0 7))
  | 0x01 => some (.sub (fld w 21 4) (fld w 14 7) (fld w 7 7) (fld w 0 7))
  | 0x02 => some (.mul (fld w 21 4) (fld w 14 7) (fld w 7 7) (fld w 0 7))
  | 0x03 => some (.mulhi (fld w 21 4) (fld w 14 7) (fld w 7 7) (fld w 0 7))
  | 0x04 => some (.mulhiu (fld w 21 4) (fld w 14 7) (fld w 7 7) (fld w 0 7))
  | 0x05 => some (.mad (fld w 21 4) (fld w 14 7) (fld w 7 7) (fld w 0 7))
  | 0x06 => some (.and (fld w 21 4) (fld w 14 7) (fld w 7 7) (fld w 0 7))
  | 0x07 => some (.or (fld w 21 4) (fld w 14 7) (fld w 7 7) (fld w 0 7))
  | 0x08 => some (.xor (fld w 21 4) (fld w 14 7) (fld w 7 7) (fld w 0 7))
  | 0x09 => some (.shl (fld w 21 4) (fld w 14 7) (fld w 7 7) (fld w 0 7))
  | 0x0A => some (.shr (fld w 21 4) (fld w 14 7) (fld w 7 7) (fld w 0 7))
  | 0x0B => some (.sar (fld w 21 4) (fld w 14 7) (fld w 7 7) (fld w 0 7))
  | 0x0C => some (.min (fld w 21 4) (fld w 14 7) (fld w 7 7) (fld w 0 7))
  | 0x0D => some (.max (fld w 21 4) (fld w 14 7) (fld w 7 7) (fld w 0 7))
  | 0x0E => some (.minu (fld w 21 4) (fld w 14 7) (fld w 7 7) (fld w 0 7))
  | 0x0F => some (.maxu (fld w 21 4) (fld w 14 7) (fld w 7 7) (fld w 0 7))
  | 0x10 => some (.addi (fld w 21 4) (fld w 14 7) (fld w 7 7) (fld w 0 7))
  | 0x11 => some (.andi (fld w 21 4) (fld w 14 7) (fld w 7 7) (fld w 0 7))
  | 0x12 => some (.ori (fld w 21 4) (fld w 14 7) (fld w 7 7) (fld w 0 7))
  | 0x13 => some (.xori (fld w 21 4) (fld w 14 7) (fld w 7 7) (fld w 0 7))
  | 0x14 => some (.shli (fld w 21 4) (fld w 14 7) (fld w 7 7) (fld w 0 7))
  | 0x15 => some (.shri (fld w 21 4) (fld w 14 7) (fld w 7 7) (fld w 0 7))
  | 0x16 => some (.sari (fld w 21 4) (fld w 14 7) (fld w 7 7) (fld w 0 7))
  | 0x17 => some (.setp (fld w 21 4) (fld w 17 4) (fld w 14 3) (fld w 7 7) (fld w 0 7))
  | 0x18 => some (.setpi (fld w 21 4) (fld w 17 4) (fld w 14 3) (fld w 7 7) (fld w 0 7))
  | 0x19 => some (.sel (fld w 21 4) (fld w 14 7) (fld w 7 7) (fld w 0 7))
  | 0x1A => some (.add64 (fld w 21 4) (fld w 14 7) (fld w 7 7) (fld w 0 7))
  | 0x1B => some (.adda (fld w 21 4) (fld w 14 7) (fld w 7 7) (fld w 0 7))
  | 0x1C => some (.bfx (fld w 21 4) (fld w 14 7) (fld w 7 7) (fld w 0 7))
  | 0x1D => some (.bfi (fld w 21 4) (fld w 14 7) (fld w 7 7) (fld w 0 7))
  | 0x1E => some (.iun (fld w 21 4) (fld w 14 7) (fld w 7 7) (fld w 0 7))
  | 0x1F => some (.ldi (fld w 21 4) (fld w 14 7) (fld w 0 14))
  | 0x20 => some (.bra (fld w 21 4) (fld w 0 21))
  | 0x21 => some (.bru (fld w 21 4) (fld w 0 21))
  | 0x22 => some (.call (fld w 21 4) (fld w 0 21))
  | 0x23 => if fld w 0 14 = 0 then some (.ret (fld w 21 4) (fld w 14 7)) else none
  | 0x24 => if fld w 0 14 = 0 then some (.jmpi (fld w 21 4) (fld w 14 7)) else none
  | 0x25 => if fld w 0 21 = 0 then some (.exit (fld w 21 4)) else none
  | 0x26 => if fld w 0 21 = 0 then some (.yield (fld w 21 4)) else none
  | 0x27 => if fld w 0 7 = 0 then some (.spawn (fld w 21 4) (fld w 14 7) (fld w 7 7)) else none
  | 0x28 => if fld w 0 21 = 0 then some (.crewjoin (fld w 21 4)) else none
  | 0x29 => some (.lxch (fld w 21 4) (fld w 14 7) (fld w 7 7) (fld w 0 7))
  | 0x2A => some (.lagr (fld w 21 4) (fld w 17 4) (fld w 14 3) (fld w 7 7) (fld w 0 7))
  | 0x2B => some (.lfold (fld w 21 4) (fld w 14 7) (fld w 7 7) (fld w 0 7))
  | 0x2C => some (.plog (fld w 21 4) (fld w 14 7) (fld w 7 7) (fld w 0 7))
  | 0x2D => some (.brdec (fld w 21 4) (fld w 14 7) (fld w 0 14))
  | 0x2E => if fld w 0 14 = 0 then some (.sleep (fld w 21 4) (fld w 14 7)) else none
  | 0x30 => some (.fadd (fld w 21 4) (fld w 14 7) (fld w 7 7) (fld w 0 7))
  | 0x31 => some (.fsub (fld w 21 4) (fld w 14 7) (fld w 7 7) (fld w 0 7))
  | 0x32 => some (.fmul (fld w 21 4) (fld w 14 7) (fld w 7 7) (fld w 0 7))
  | 0x33 => some (.ffma (fld w 21 4) (fld w 14 7) (fld w 7 7) (fld w 0 7))
  | 0x34 => some (.fmin (fld w 21 4) (fld w 14 7) (fld w 7 7) (fld w 0 7))
  | 0x35 => some (.fmax (fld w 21 4) (fld w 14 7) (fld w 7 7) (fld w 0 7))
  | 0x36 => some (.fdiv (fld w 21 4) (fld w 14 7) (fld w 7 7) (fld w 0 7))
  | 0x37 => some (.fsetp (fld w 21 4) (fld w 17 4) (fld w 14 3) (fld w 7 7) (fld w 0 7))
  | 0x38 => some (.func (fld w 21 4) (fld w 14 7) (fld w 7 7) (fld w 0 7))
  | 0x39 => some (.cvt (fld w 21 4) (fld w 14 7) (fld w 7 7) (fld w 4 3) (fld w 1 3) (fld w 0 1))
  | 0x3A => some (.padd2 (fld w 21 4) (fld w 14 7) (fld w 7 7) (fld w 0 7))
  | 0x3B => some (.pfma2 (fld w 21 4) (fld w 14 7) (fld w 7 7) (fld w 0 7))
  | 0x3C => some (.pmul2 (fld w 21 4) (fld w 14 7) (fld w 7 7) (fld w 0 7))
  | 0x3D => some (.dot4 (fld w 21 4) (fld w 14 7) (fld w 7 7) (fld w 0 7))
  | 0x3E => some (.dot2f (fld w 21 4) (fld w 14 7) (fld w 7 7) (fld w 0 7))
  | 0x40 => some (.ld (fld w 21 4) (fld w 14 7) (fld w 7 7) (fld w 4 3) (fld w 2 2) (fld w 0 2))
  | 0x41 => some (.st (fld w 21 4) (fld w 14 7) (fld w 7 7) (fld w 4 3) (fld w 2 2) (fld w 0 2))
  | 0x42 => some (.ldb (fld w 21 4) (fld w 14 7) (fld w 7 7) (fld w 4 3) (fld w 2 2) (fld w 0 2))
  | 0x43 => if fld w 0 2 = 0 then some (.stb (fld w 21 4) (fld w 14 7) (fld w 7 7) (fld w 4 3) (fld w 2 2)) else none
  | 0x44 => some (.lde (fld w 21 4) (fld w 14 7) (fld w 7 7) (fld w 4 3) (fld w 2 2) (fld w 0 2))
  | 0x45 => some (.ste (fld w 21 4) (fld w 14 7) (fld w 7 7) (fld w 4 3) (fld w 2 2) (fld w 0 2))
  | 0x46 => some (.atom (fld w 21 4) (fld w 14 7) (fld w 7 7) (fld w 4 3) (fld w 2 2) (fld w 1 1) (fld w 0 1))
  | 0x47 => some (.cas (fld w 21 4) (fld w 14 7) (fld w 7 7) (fld w 4 3) (fld w 2 2) (fld w 0 2))
  | 0x48 => if fld w 0 7 = 0 then some (.lrbegin (fld w 21 4) (fld w 14 7) (fld w 7 7)) else none
  | 0x49 => if fld w 0 21 = 0 then some (.lrend (fld w 21 4)) else none
  | 0x4A => if fld w 0 21 = 1 then some (.fenceAcq (fld w 21 4)) else
      if fld w 0 21 = 2 then some (.fenceRel (fld w 21 4)) else
      if fld w 0 21 = 3 then some (.fenceFull (fld w 21 4)) else none
  | 0x4B => if fld w 0 7 = 0 then some (.cacheWb (fld w 21 4) (fld w 14 7) (fld w 7 7)) else
      if fld w 0 7 = 1 then some (.cacheInv (fld w 21 4) (fld w 14 7) (fld w 7 7)) else
      if fld w 0 7 = 2 then some (.cacheInvd (fld w 21 4) (fld w 14 7) (fld w 7 7)) else
      if fld w 0 7 = 3 then some (.cachePref (fld w 21 4) (fld w 14 7) (fld w 7 7)) else none
  | 0x4C => some (.lds (fld w 21 4) (fld w 14 7) (fld w 7 7) (fld w 4 3) (fld w 2 2) (fld w 0 2))
  | 0x4D => some (.sts (fld w 21 4) (fld w 14 7) (fld w 7 7) (fld w 4 3) (fld w 2 2) (fld w 0 2))
  | 0x4E => if fld w 0 1 = 0 then some (.atoms (fld w 21 4) (fld w 14 7) (fld w 7 7) (fld w 4 3) (fld w 2 2) (fld w 1 1)) else none
  | 0x4F => some (.red (fld w 21 4) (fld w 14 7) (fld w 7 7) (fld w 4 3) (fld w 2 2) (fld w 1 1) (fld w 0 1))
  | 0x50 => some (.put (fld w 21 4) (fld w 14 7) (fld w 7 7) (fld w 0 7))
  | 0x51 => some (.putm (fld w 21 4) (fld w 14 7) (fld w 7 7) (fld w 0 7))
  | 0x52 => some (.drain (fld w 21 4) (fld w 14 7) (fld w 7 7) (fld w 0 7))
  | 0x53 => if fld w 0 7 = 0 then some (.bcount (fld w 21 4) (fld w 14 7) (fld w 7 7)) else
      if fld w 0 7 = 1 then some (.bopen (fld w 21 4) (fld w 14 7) (fld w 7 7)) else
      if fld w 14 7 = 0 ∧ fld w 0 7 = 2 then some (.bseal (fld w 21 4) (fld w 7 7)) else
      if fld w 14 7 = 0 ∧ fld w 0 7 = 3 then some (.bfree (fld w 21 4) (fld w 7 7)) else none
  | 0x54 => some (.biter (fld w 21 4) (fld w 14 7) (fld w 7 7) (fld w 0 7))
  | 0x55 => some (.gfetch (fld w 21 4) (fld w 14 7) (fld w 7 7) (fld w 0 7))
  | 0x56 => if fld w 0 7 = 0 then some (.probe (fld w 21 4) (fld w 14 7) (fld w 7 7)) else none
  | 0x57 => some (.rebal (fld w 21 4) (fld w 14 7) (fld w 7 7) (fld w 0 7))
  | 0x58 => if fld w 0 1 = 0 then some (.copy (fld w 21 4) (fld w 14 7) (fld w 7 7) (fld w 4 3) (fld w 3 1) (fld w 2 1) (fld w 1 1)) else none
  | 0x59 => if fld w 7 7 = 0 ∧ fld w 0 4 = 0 then some (.copyb (fld w 21 4) (fld w 14 7) (fld w 4 3)) else none
  | 0x5A => if fld w 0 7 = 0 then some (.igather (fld w 21 4) (fld w 14 7) (fld w 7 7)) else none
  | 0x5B => if fld w 0 7 = 0 then some (.iscatter (fld w 21 4) (fld w 14 7) (fld w 7 7)) else none
  | 0x5C => if fld w 0 7 = 0 then some (.qbind (fld w 21 4) (fld w 14 7) (fld w 7 7)) else none
  | 0x5D => if fld w 0 7 = 0 then some (.qstat (fld w 21 4) (fld w 14 7) (fld w 7 7)) else none
  | 0x5E => if fld w 3 11 = 0 then some (.cpwait (fld w 21 4) (fld w 14 7) (fld w 0 3)) else none
  | 0x5F => some (.wave (fld w 21 4) (fld w 14 7) (fld w 7 7) (fld w 0 7))
  | 0x60 => if fld w 18 3 = 0 then some (.mma (fld w 21 4) (fld w 14 4) (fld w 7 7) (fld w 0 7)) else none
  | 0x61 => some (.mmas (fld w 21 4) (fld w 18 3) (fld w 14 4) (fld w 7 7) (fld w 0 7))
  | 0x62 => if fld w 20 1 = 0 then some (.mmaq (fld w 21 4) (fld w 18 2) (fld w 14 4) (fld w 7 7) (fld w 0 7)) else none
  | 0x63 => if fld w 0 14 = 0 then some (.accz (fld w 21 4) (fld w 14 7)) else none
  | 0x64 => if fld w 0 7 = 0 then some (.accld (fld w 21 4) (fld w 14 7) (fld w 7 7)) else none
  | 0x65 => if fld w 0 7 = 0 then some (.accst (fld w 21 4) (fld w 14 7) (fld w 7 7)) else none
  | 0x66 => some (.accrd (fld w 21 4) (fld w 14 7) (fld w 7 7) (fld w 0 7))
  | 0x67 => some (.accwr (fld w 21 4) (fld w 14 7) (fld w 7 7) (fld w 0 7))
  | 0x68 => if fld w 0 7 = 0 then some (.walk (fld w 21 4) (fld w 14 7) (fld w 7 7)) else none
  | 0x69 => if fld w 0 7 = 0 then some (.nest (fld w 21 4) (fld w 14 7) (fld w 7 7)) else none
  | 0x6A => if fld w 0 21 = 0 then some (.endw (fld w 21 4)) else none
  | 0x6C => if fld w 7 7 = 0 then some (.barg (fld w 21 4) (fld w 14 7) (fld w 0 7)) else none
  | 0x6D => if fld w 7 7 = 0 then some (.bara (fld w 21 4) (fld w 14 7) (fld w 5 2) (fld w 0 5)) else none
  | 0x6E => if fld w 14 7 = 0 then some (.barw (fld w 21 4) (fld w 7 7) (fld w 5 2) (fld w 0 5)) else none
  | 0x6F => if fld w 2 12 = 0 then some (.barc (fld w 21 4) (fld w 14 7) (fld w 0 2)) else none
  | 0x70 => if fld w 1 13 = 0 then some (.barl (fld w 21 4) (fld w 14 7) (fld w 0 1)) else none
  | 0x71 => if fld w 12 9 = 0 then some (.waitf (fld w 21 4) (fld w 0 12)) else none
  | 0x72 => if fld w 2 1 = 0 ∧ fld w 0 1 = 0 then some (.waitv (fld w 21 4) (fld w 14 7) (fld w 7 7) (fld w 3 4) (fld w 1 1)) else none
  | 0x74 => if fld w 7 7 = 0 then some (.csrrd (fld w 21 4) (fld w 14 7) (fld w 0 7)) else none
  | 0x75 => if fld w 14 7 = 0 then some (.csrwr (fld w 21 4) (fld w 7 7) (fld w 0 7)) else none
  | 0x76 => if fld w 7 7 = 0 then some (.trap (fld w 21 4) (fld w 14 7) (fld w 6 1) (fld w 0 6)) else none
  | 0x77 => if fld w 0 21 = 0 then some (.rett (fld w 21 4)) else
      if fld w 14 7 = 0 ∧ fld w 0 7 = 1 then some (.rettF (fld w 21 4) (fld w 7 7)) else none
  | 0x78 => if fld w 0 7 = 0 then some (.watch (fld w 21 4) (fld w 14 7) (fld w 7 7)) else
      if fld w 0 7 = 1 then some (.watchRd (fld w 21 4) (fld w 14 7) (fld w 7 7)) else none
  | 0x79 => some (.insp (fld w 21 4) (fld w 14 7) (fld w 7 7) (fld w 0 7))
  | 0x7A => some (.poke (fld w 21 4) (fld w 14 7) (fld w 7 7) (fld w 0 7))
  | 0x7B => if fld w 14 7 = 0 ∧ fld w 0 7 = 0 then some (.step (fld w 21 4) (fld w 7 7)) else
      if fld w 14 7 = 0 ∧ fld w 0 7 = 1 then some (.resume (fld w 21 4) (fld w 7 7)) else none
  | 0x7F => if fld w 22 3 = 0 ∧ fld w 0 3 = 0 then some (.pace (fld w 10 12) (fld w 6 4) (fld w 3 3)) else
      if fld w 22 3 = 1 then some (.imm (fld w 0 22)) else
      if fld w 22 3 = 2 ∧ fld w 0 15 = 0 then some (.mod (fld w 21 1) (fld w 19 2) (fld w 18 1) (fld w 17 1) (fld w 16 1) (fld w 15 1)) else none
  | _ => none

/-- R187: the instruction of a word, or why it is none. -/
def decode (w : Word) : Except Reject Instr :=
  match decodeRow w with
  | some i => if i.wf then .ok i else .error (if fld w 25 7 = 0x7F then .hintError else .reservedField)
  | none =>
    if fld w 25 7 = 0x7F then .error .hintError
    else if (fld w 25 7).toNat ∈ [0x2F, 0x3F, 0x6B, 0x73, 0x7C, 0x7D, 0x7E] then .error .reservedMajor
    else .error .reservedField

/-- The little-endian word of four bytes (R7, R173). -/
def wordOfBytes (b0 b1 b2 b3 : Byte) : Word := b3 ++ b2 ++ b1 ++ b0

/-- Decode the next instruction of a list of bytes and give the rest of the list. -/
def decodeBytes : List Byte → Except Reject (Instr × List Byte)
  | b0 :: b1 :: b2 :: b3 :: rest =>
    match decode (wordOfBytes b0 b1 b2 b3) with
    | .ok i => .ok (i, rest)
    | .error r => .error r
  | _ => .error .short

/-- Byte k of a number, as memory holds it (R7). -/
def byteOf (w k : Nat) : Byte := BitVec.ofNat 8 (w >>> (8 * k))

/-- The instruction read from an instruction whose bits are `w` as the opcode table numbers them. -/
def decodeTableWord (nbits w : Nat) : Option Instr :=
  if nbits ≤ 32 then
    match decodeBytes [byteOf w 0, byteOf w 1, byteOf w 2, byteOf w 3] with
    | .ok (i, _) => some i
    | .error _ => none
  else none

/-- A word from its major opcode and its fields, each with the place of its lowest bit (R173). -/
def pack (major : Nat) (fields : List (Nat × Nat)) : Word :=
  .ofNat 32 (fields.foldl (fun s f => s + f.2 * 2 ^ f.1) (major * 2 ^ 25))

/-- The word of an instruction (R173), written field by field from the same rows. -/
def Instr.encode : Instr → Option Word
  | .add g d a b => some (pack 0x00 [(21, g.toNat), (14, d.toNat), (7, a.toNat), (0, b.toNat)])
  | .sub g d a b => some (pack 0x01 [(21, g.toNat), (14, d.toNat), (7, a.toNat), (0, b.toNat)])
  | .mul g d a b => some (pack 0x02 [(21, g.toNat), (14, d.toNat), (7, a.toNat), (0, b.toNat)])
  | .mulhi g d a b => some (pack 0x03 [(21, g.toNat), (14, d.toNat), (7, a.toNat), (0, b.toNat)])
  | .mulhiu g d a b => some (pack 0x04 [(21, g.toNat), (14, d.toNat), (7, a.toNat), (0, b.toNat)])
  | .mad g d a b => some (pack 0x05 [(21, g.toNat), (14, d.toNat), (7, a.toNat), (0, b.toNat)])
  | .and g d a b => some (pack 0x06 [(21, g.toNat), (14, d.toNat), (7, a.toNat), (0, b.toNat)])
  | .or g d a b => some (pack 0x07 [(21, g.toNat), (14, d.toNat), (7, a.toNat), (0, b.toNat)])
  | .xor g d a b => some (pack 0x08 [(21, g.toNat), (14, d.toNat), (7, a.toNat), (0, b.toNat)])
  | .shl g d a b => some (pack 0x09 [(21, g.toNat), (14, d.toNat), (7, a.toNat), (0, b.toNat)])
  | .shr g d a b => some (pack 0x0A [(21, g.toNat), (14, d.toNat), (7, a.toNat), (0, b.toNat)])
  | .sar g d a b => some (pack 0x0B [(21, g.toNat), (14, d.toNat), (7, a.toNat), (0, b.toNat)])
  | .min g d a b => some (pack 0x0C [(21, g.toNat), (14, d.toNat), (7, a.toNat), (0, b.toNat)])
  | .max g d a b => some (pack 0x0D [(21, g.toNat), (14, d.toNat), (7, a.toNat), (0, b.toNat)])
  | .minu g d a b => some (pack 0x0E [(21, g.toNat), (14, d.toNat), (7, a.toNat), (0, b.toNat)])
  | .maxu g d a b => some (pack 0x0F [(21, g.toNat), (14, d.toNat), (7, a.toNat), (0, b.toNat)])
  | .addi g d a i => some (pack 0x10 [(21, g.toNat), (14, d.toNat), (7, a.toNat), (0, i.toNat)])
  | .andi g d a i => some (pack 0x11 [(21, g.toNat), (14, d.toNat), (7, a.toNat), (0, i.toNat)])
  | .ori g d a i => some (pack 0x12 [(21, g.toNat), (14, d.toNat), (7, a.toNat), (0, i.toNat)])
  | .xori g d a i => some (pack 0x13 [(21, g.toNat), (14, d.toNat), (7, a.toNat), (0, i.toNat)])
  | .shli g d a i => some (pack 0x14 [(21, g.toNat), (14, d.toNat), (7, a.toNat), (0, i.toNat)])
  | .shri g d a i => some (pack 0x15 [(21, g.toNat), (14, d.toNat), (7, a.toNat), (0, i.toNat)])
  | .sari g d a i => some (pack 0x16 [(21, g.toNat), (14, d.toNat), (7, a.toNat), (0, i.toNat)])
  | .setp g c p a b => some (pack 0x17 [(21, g.toNat), (17, c.toNat), (14, p.toNat), (7, a.toNat), (0, b.toNat)])
  | .setpi g c p a i => some (pack 0x18 [(21, g.toNat), (17, c.toNat), (14, p.toNat), (7, a.toNat), (0, i.toNat)])
  | .sel g d a b => some (pack 0x19 [(21, g.toNat), (14, d.toNat), (7, a.toNat), (0, b.toNat)])
  | .add64 g d a b => some (pack 0x1A [(21, g.toNat), (14, d.toNat), (7, a.toNat), (0, b.toNat)])
  | .adda g d a b => some (pack 0x1B [(21, g.toNat), (14, d.toNat), (7, a.toNat), (0, b.toNat)])
  | .bfx g d a b => some (pack 0x1C [(21, g.toNat), (14, d.toNat), (7, a.toNat), (0, b.toNat)])
  | .bfi g d a b => some (pack 0x1D [(21, g.toNat), (14, d.toNat), (7, a.toNat), (0, b.toNat)])
  | .iun g d a f => some (pack 0x1E [(21, g.toNat), (14, d.toNat), (7, a.toNat), (0, f.toNat)])
  | .ldi g d i => some (pack 0x1F [(21, g.toNat), (14, d.toNat), (0, i.toNat)])
  | .bra g o => some (pack 0x20 [(21, g.toNat), (0, o.toNat)])
  | .bru g o => some (pack 0x21 [(21, g.toNat), (0, o.toNat)])
  | .call g o => some (pack 0x22 [(21, g.toNat), (0, o.toNat)])
  | .ret g a => some (pack 0x23 [(21, g.toNat), (14, a.toNat)])
  | .jmpi g a => some (pack 0x24 [(21, g.toNat), (14, a.toNat)])
  | .exit g => some (pack 0x25 [(21, g.toNat)])
  | .yield g => some (pack 0x26 [(21, g.toNat)])
  | .spawn g d b => some (pack 0x27 [(21, g.toNat), (14, d.toNat), (7, b.toNat)])
  | .crewjoin g => some (pack 0x28 [(21, g.toNat)])
  | .lxch g d a b => some (pack 0x29 [(21, g.toNat), (14, d.toNat), (7, a.toNat), (0, b.toNat)])
  | .lagr g c q a b => some (pack 0x2A [(21, g.toNat), (17, c.toNat), (14, q.toNat), (7, a.toNat), (0, b.toNat)])
  | .lfold g d a o => some (pack 0x2B [(21, g.toNat), (14, d.toNat), (7, a.toNat), (0, o.toNat)])
  | .plog g a b s => some (pack 0x2C [(21, g.toNat), (14, a.toNat), (7, b.toNat), (0, s.toNat)])
  | .brdec g d i => some (pack 0x2D [(21, g.toNat), (14, d.toNat), (0, i.toNat)])
  | .sleep g a => some (pack 0x2E [(21, g.toNat), (14, a.toNat)])
  | .fadd g d a b => some (pack 0x30 [(21, g.toNat), (14, d.toNat), (7, a.toNat), (0, b.toNat)])
  | .fsub g d a b => some (pack 0x31 [(21, g.toNat), (14, d.toNat), (7, a.toNat), (0, b.toNat)])
  | .fmul g d a b => some (pack 0x32 [(21, g.toNat), (14, d.toNat), (7, a.toNat), (0, b.toNat)])
  | .ffma g d a b => some (pack 0x33 [(21, g.toNat), (14, d.toNat), (7, a.toNat), (0, b.toNat)])
  | .fmin g d a b => some (pack 0x34 [(21, g.toNat), (14, d.toNat), (7, a.toNat), (0, b.toNat)])
  | .fmax g d a b => some (pack 0x35 [(21, g.toNat), (14, d.toNat), (7, a.toNat), (0, b.toNat)])
  | .fdiv g d a b => some (pack 0x36 [(21, g.toNat), (14, d.toNat), (7, a.toNat), (0, b.toNat)])
  | .fsetp g c p a b => some (pack 0x37 [(21, g.toNat), (17, c.toNat), (14, p.toNat), (7, a.toNat), (0, b.toNat)])
  | .func g d a f => some (pack 0x38 [(21, g.toNat), (14, d.toNat), (7, a.toNat), (0, f.toNat)])
  | .cvt g d a e f k => some (pack 0x39 [(21, g.toNat), (14, d.toNat), (7, a.toNat), (4, e.toNat), (1, f.toNat), (0, k.toNat)])
  | .padd2 g d a b => some (pack 0x3A [(21, g.toNat), (14, d.toNat), (7, a.toNat), (0, b.toNat)])
  | .pfma2 g d a b => some (pack 0x3B [(21, g.toNat), (14, d.toNat), (7, a.toNat), (0, b.toNat)])
  | .pmul2 g d a b => some (pack 0x3C [(21, g.toNat), (14, d.toNat), (7, a.toNat), (0, b.toNat)])
  | .dot4 g d a b => some (pack 0x3D [(21, g.toNat), (14, d.toNat), (7, a.toNat), (0, b.toNat)])
  | .dot2f g d a b => some (pack 0x3E [(21, g.toNat), (14, d.toNat), (7, a.toNat), (0, b.toNat)])
  | .ld g d a p o s => some (pack 0x40 [(21, g.toNat), (14, d.toNat), (7, a.toNat), (4, p.toNat), (2, o.toNat), (0, s.toNat)])
  | .st g d a p o s => some (pack 0x41 [(21, g.toNat), (14, d.toNat), (7, a.toNat), (4, p.toNat), (2, o.toNat), (0, s.toNat)])
  | .ldb g d a p o s => some (pack 0x42 [(21, g.toNat), (14, d.toNat), (7, a.toNat), (4, p.toNat), (2, o.toNat), (0, s.toNat)])
  | .stb g d a p o => some (pack 0x43 [(21, g.toNat), (14, d.toNat), (7, a.toNat), (4, p.toNat), (2, o.toNat)])
  | .lde g d a p o s => some (pack 0x44 [(21, g.toNat), (14, d.toNat), (7, a.toNat), (4, p.toNat), (2, o.toNat), (0, s.toNat)])
  | .ste g d a p o s => some (pack 0x45 [(21, g.toNat), (14, d.toNat), (7, a.toNat), (4, p.toNat), (2, o.toNat), (0, s.toNat)])
  | .atom g d a h o l w => some (pack 0x46 [(21, g.toNat), (14, d.toNat), (7, a.toNat), (4, h.toNat), (2, o.toNat), (1, l.toNat), (0, w.toNat)])
  | .cas g d a p o s => some (pack 0x47 [(21, g.toNat), (14, d.toNat), (7, a.toNat), (4, p.toNat), (2, o.toNat), (0, s.toNat)])
  | .lrbegin g s p => some (pack 0x48 [(21, g.toNat), (14, s.toNat), (7, p.toNat)])
  | .lrend g => some (pack 0x49 [(21, g.toNat)])
  | .fenceAcq g => some (pack 0x4A [(21, g.toNat), (0, 1)])
  | .fenceRel g => some (pack 0x4A [(21, g.toNat), (0, 2)])
  | .fenceFull g => some (pack 0x4A [(21, g.toNat), (0, 3)])
  | .cacheWb g p l => some (pack 0x4B [(21, g.toNat), (14, p.toNat), (7, l.toNat)])
  | .cacheInv g p l => some (pack 0x4B [(21, g.toNat), (14, p.toNat), (7, l.toNat), (0, 1)])
  | .cacheInvd g p l => some (pack 0x4B [(21, g.toNat), (14, p.toNat), (7, l.toNat), (0, 2)])
  | .cachePref g p l => some (pack 0x4B [(21, g.toNat), (14, p.toNat), (7, l.toNat), (0, 3)])
  | .lds g d o e r s => some (pack 0x4C [(21, g.toNat), (14, d.toNat), (7, o.toNat), (4, e.toNat), (2, r.toNat), (0, s.toNat)])
  | .sts g d o e r s => some (pack 0x4D [(21, g.toNat), (14, d.toNat), (7, o.toNat), (4, e.toNat), (2, r.toNat), (0, s.toNat)])
  | .atoms g d a h o l => some (pack 0x4E [(21, g.toNat), (14, d.toNat), (7, a.toNat), (4, h.toNat), (2, o.toNat), (1, l.toNat)])
  | .red g d a h o l w => some (pack 0x4F [(21, g.toNat), (14, d.toNat), (7, a.toNat), (4, h.toNat), (2, o.toNat), (1, l.toNat), (0, w.toNat)])
  | .put g d a b => some (pack 0x50 [(21, g.toNat), (14, d.toNat), (7, a.toNat), (0, b.toNat)])
  | .putm g d a b => some (pack 0x51 [(21, g.toNat), (14, d.toNat), (7, a.toNat), (0, b.toNat)])
  | .drain g d a b => some (pack 0x52 [(21, g.toNat), (14, d.toNat), (7, a.toNat), (0, b.toNat)])
  | .bcount g d h => some (pack 0x53 [(21, g.toNat), (14, d.toNat), (7, h.toNat)])
  | .bopen g d p => some (pack 0x53 [(21, g.toNat), (14, d.toNat), (7, p.toNat), (0, 1)])
  | .bseal g h => some (pack 0x53 [(21, g.toNat), (7, h.toNat), (0, 2)])
  | .bfree g h => some (pack 0x53 [(21, g.toNat), (7, h.toNat), (0, 3)])
  | .biter g d a b => some (pack 0x54 [(21, g.toNat), (14, d.toNat), (7, a.toNat), (0, b.toNat)])
  | .gfetch g d a b => some (pack 0x55 [(21, g.toNat), (14, d.toNat), (7, a.toNat), (0, b.toNat)])
  | .probe g d p => some (pack 0x56 [(21, g.toNat), (14, d.toNat), (7, p.toNat)])
  | .rebal g d a b => some (pack 0x57 [(21, g.toNat), (14, d.toNat), (7, a.toNat), (0, b.toNat)])
  | .copy g s l c t u v => some (pack 0x58 [(21, g.toNat), (14, s.toNat), (7, l.toNat), (4, c.toNat), (3, t.toNat), (2, u.toNat), (1, v.toNat)])
  | .copyb g p c => some (pack 0x59 [(21, g.toNat), (14, p.toNat), (4, c.toNat)])
  | .igather g d p => some (pack 0x5A [(21, g.toNat), (14, d.toNat), (7, p.toNat)])
  | .iscatter g d p => some (pack 0x5B [(21, g.toNat), (14, d.toNat), (7, p.toNat)])
  | .qbind g q b => some (pack 0x5C [(21, g.toNat), (14, q.toNat), (7, b.toNat)])
  | .qstat g d q => some (pack 0x5D [(21, g.toNat), (14, d.toNat), (7, q.toNat)])
  | .cpwait g t c => some (pack 0x5E [(21, g.toNat), (14, t.toNat), (0, c.toNat)])
  | .wave g x r o => some (pack 0x5F [(21, g.toNat), (14, x.toNat), (7, r.toNat), (0, o.toNat)])
  | .mma g t a b => some (pack 0x60 [(21, g.toNat), (14, t.toNat), (7, a.toNat), (0, b.toNat)])
  | .mmas g c t a b => some (pack 0x61 [(21, g.toNat), (18, c.toNat), (14, t.toNat), (7, a.toNat), (0, b.toNat)])
  | .mmaq g k t a b => some (pack 0x62 [(21, g.toNat), (18, k.toNat), (14, t.toNat), (7, a.toNat), (0, b.toNat)])
  | .accz g t => some (pack 0x63 [(21, g.toNat), (14, t.toNat)])
  | .accld g t p => some (pack 0x64 [(21, g.toNat), (14, t.toNat), (7, p.toNat)])
  | .accst g t p => some (pack 0x65 [(21, g.toNat), (14, t.toNat), (7, p.toNat)])
  | .accrd g d t b => some (pack 0x66 [(21, g.toNat), (14, d.toNat), (7, t.toNat), (0, b.toNat)])
  | .accwr g t a b => some (pack 0x67 [(21, g.toNat), (14, t.toNat), (7, a.toNat), (0, b.toNat)])
  | .walk g x p => some (pack 0x68 [(21, g.toNat), (14, x.toNat), (7, p.toNat)])
  | .nest g x p => some (pack 0x69 [(21, g.toNat), (14, x.toNat), (7, p.toNat)])
  | .endw g => some (pack 0x6A [(21, g.toNat)])
  | .barg g d n => some (pack 0x6C [(21, g.toNat), (14, d.toNat), (0, n.toNat)])
  | .bara g d l n => some (pack 0x6D [(21, g.toNat), (14, d.toNat), (5, l.toNat), (0, n.toNat)])
  | .barw g v l n => some (pack 0x6E [(21, g.toNat), (7, v.toNat), (5, l.toNat), (0, n.toNat)])
  | .barc g d n => some (pack 0x6F [(21, g.toNat), (14, d.toNat), (0, n.toNat)])
  | .barl g d n => some (pack 0x70 [(21, g.toNat), (14, d.toNat), (0, n.toNat)])
  | .waitf g m => some (pack 0x71 [(21, g.toNat), (0, m.toNat)])
  | .waitv g v p c o => some (pack 0x72 [(21, g.toNat), (14, v.toNat), (7, p.toNat), (3, c.toNat), (1, o.toNat)])
  | .csrrd g d c => some (pack 0x74 [(21, g.toNat), (14, d.toNat), (0, c.toNat)])
  | .csrwr g s c => some (pack 0x75 [(21, g.toNat), (7, s.toNat), (0, c.toNat)])
  | .trap g a s n => some (pack 0x76 [(21, g.toNat), (14, a.toNat), (6, s.toNat), (0, n.toNat)])
  | .rett g => some (pack 0x77 [(21, g.toNat)])
  | .rettF g b => some (pack 0x77 [(21, g.toNat), (7, b.toNat), (0, 1)])
  | .watch g n s => some (pack 0x78 [(21, g.toNat), (14, n.toNat), (7, s.toNat)])
  | .watchRd g d n => some (pack 0x78 [(21, g.toNat), (14, d.toNat), (7, n.toNat), (0, 1)])
  | .insp g d b s => some (pack 0x79 [(21, g.toNat), (14, d.toNat), (7, b.toNat), (0, s.toNat)])
  | .poke g s b e => some (pack 0x7A [(21, g.toNat), (14, s.toNat), (7, b.toNat), (0, e.toNat)])
  | .step g b => some (pack 0x7B [(21, g.toNat), (7, b.toNat)])
  | .resume g b => some (pack 0x7B [(21, g.toNat), (7, b.toNat), (0, 1)])
  | .pace w s d => some (pack 0x7F [(10, w.toNat), (6, s.toNat), (3, d.toNat)])
  | .imm i => some (pack 0x7F [(0, i.toNat), (0, 4194304)])
  | .mod r m s t n w => some (pack 0x7F [(21, r.toNat), (19, m.toNat), (18, s.toNat), (17, t.toNat), (16, n.toNat), (15, w.toNat), (0, 8388608)])
  | .faultQueueAppend _ => none
  | .crewForm _ => none
  | .crewEvict _ => none
  | .flagComplete _ => none
  | .dirLoadRequest _ _ => none
  | .dirStoreRequest _ _ => none
  | .l1Evict _ _ => none
  | .l2LineMigrate _ => none
  | .lineDieMigrate _ => none
  | .tileFetchRetry _ => none
  | .copyBeat _ _ => none
  | .placerPut _ _ => none
  | .placerDrain _ => none
  | .placerBcount _ => none
  | .placerBseal _ => none
  | .placerBfree _ => none
  | .shareRecordWrite _ _ => none
  | .bankCommandStart _ _ => none
  | .waveNextWave _ => none
  | .thermalLimitChange _ _ => none
  | .siteShip _ => none
  | .scullerArrival _ => none
  | .lineRegionTimeout _ => none
  | .lineRegionHeld _ => none
  | .waitvReload _ => none
  | .sleepExpire _ => none
  | .powerTokenRelease _ _ => none
  | .wqTakeRecord _ => none
  | .gangPlace _ => none
  | .gangEnd _ => none
  | .vfChangeStable _ => none
  | .schedStep => none
  | .sliceEnd _ => none
  | .contextRestore _ _ => none
  | .zeropage _ => none
  | .xinval _ => none
  | .releaseResume _ => none
  | .releaseRedirect _ => none
  | .releaseHandler _ => none
  | .releaseEmulate _ => none
  | .releaseEnd _ => none
  | .preempt _ => none
  | .quiesce _ => none
  | .resumectx _ => none
  | .endctx _ => none
  | .dbgaccInsp _ => none
  | .dbgaccPoke _ => none
  | .dbgaccStep _ => none
  | .dbgaccResume _ => none
  | .dbgaccWatchSet _ => none
  | .dbgaccWatchRead _ => none
  | .bndsync _ => none
  | .commandComplete _ => none
  | .carveWrite _ _ => none
  | .carveChangeoverDone _ _ => none
  | .quarcfgWrite _ _ => none
  | .wqcfgWrite _ _ => none
  | .rcRegisterWrite _ _ => none
  | .pwrctlWrite _ => none
  | .mgmtRegisterWrite _ _ => none
  | .powerLimitStep _ => none
  | .patrolScrub _ _ => none
  | .dieFailure _ => none
  | .flitReplay _ => none
  | .packetRead _ => none
  | .packetWrite _ => none
  | .packetAtom _ => none
  | .packetRed _ => none
  | .packetMailbox _ => none
  | .packetResp _ => none
  | .mailboxCredit _ => none
  | .powerOnBringup _ _ => none
  | .undefinedEncoding _ => none
  | .unknownCommandCode _ => none
  | .l1DropWithoutTelling _ _ => none
  | .walkBodyWordIssue _ _ => none
  | .powerRemoved => none
  | .coreClkIssueSlots _ => none

/-- The word of an instruction, 0 for a step that no word encodes. -/
def Instr.word (i : Instr) : Word := i.encode.getD 0

end Sys2Proof
end

