-- ==== Sys2Proof/Machine/Coherence.lean ====
section
/-! DEFINITION. The physical map and the cells of DRAM (R27, R28, R47, R56), what the L1 of a core holds
of each word and a directory entry of each line (R95, R97), the directory's actions but Grant (R99), and
the current value of a word. Memory holds the home copies. -/

namespace Sys2Proof.Machine
variable {s0 : State}

/-! ### The physical map (R27) -/

inductive Place where
  | dram (stack : Nat)
  | sram (die unit : Nat)
  | peer (window off : Nat)
  | host (off : Nat)
  | mgmt (off : Nat)
  | hole
  deriving DecidableEq, Repr

def place (pa : Nat) : Place :=
  if pa < 0x00C0_0000_0000 then .dram (pa / 2 ^ 36)
  else if pa < 0x0100_0000_0000 then .hole
  else if pa < 0x0101_0000_0000 then
    .sram ((pa - 0x0100_0000_0000) / 2 ^ 30) ((pa - 0x0100_0000_0000) % 2 ^ 30 / 2 ^ 26)
  else if pa < 0x8_0000_0000_0000 then .hole
  else if pa < 0xC_0000_0000_0000 then .peer ((pa - 0x8_0000_0000_0000) / 2 ^ 41) (pa % 2 ^ 41)
  else if pa < 0xD_0000_0000_0000 then .host (pa - 0xC_0000_0000_0000)
  else if pa < 0xF_0000_0000_0000 then .hole
  else if pa < 0x10_0000_0000_0000 then .mgmt (pa - 0xF_0000_0000_0000)
  else .hole

/-- The die that homes an address of DRAM or carved SRAM. -/
def homeDie (pa : Nat) : Nat :=
  match place pa with
  | .dram s => s / 3
  | .sram d _ => d
  | _ => 0

def isDram (pa : Nat) : Bool := match place pa with | .dram _ => true | _ => false
/-- A peer or host window. -/
def isWindow (pa : Nat) : Bool := match place pa with | .peer _ _ => true | .host _ => true | _ => false

/-- R45, R46: an SRAM unit decodes only while READY. -/
def State.ready (s : State) (pa : Nat) : Bool :=
  match place pa with
  | .sram d u => decide (u < 12) && (s.die d).ready.getLsbD u
  | _ => true

/-- R366: the accesses that the device cannot perform at all. -/
def State.dead (s : State) (pa : Nat) : Bool :=
  match place pa with
  | .hole => true
  | .sram d u => !(decide (u < 12) && (s.die d).ready.getLsbD u)
  | .peer w _ => !(KV.getD w 0 s.pkg.peerwin).getLsbD 63
  | _ => false

/-! ### Cells of DRAM -/

/-- R56: pseudo-channel, bank and place of a byte of a compute-region page, from its stack offset
and its row length. -/
def crCell (o lr : Nat) : Nat × Nat × Nat :=
  let b := o % 2 ^ 21
  let j := b / lr
  let x := b % lr
  let s := lr / 16
  ((j % 32) ^^^ (o / 2 ^ 21 % 32), x / s, (j / 32) * s + x % s)

/-- R47 read backwards: the stack offset that holds place `pos` of (pseudo-channel, bank) in a block. -/
def ordOffset (block pch bank pos : Nat) : Nat :=
  let hi := block * 2 ^ 21 + (pos / 256) * 2 ^ 17
  let bk := bank ^^^ (hi / 2 ^ 23 % 16)
  let pc := pch ^^^ (hi / 2 ^ 18 % 32)
  hi + bk * 2 ^ 13 + pc * 2 ^ 8 + pos % 256

/-- The cell of a byte of a compute-region page, named by the ordinary address of that cell. -/
def crKey (pa lr : Nat) : Nat :=
  let o := pa % 2 ^ 36
  let c := crCell o lr
  pa / 2 ^ 36 * 2 ^ 36 + ordOffset (o / 2 ^ 21) c.1 c.2.1 c.2.2

/-- The sculler beside the pseudo-channel of an ordinary address (R2, R47). -/
def scullerOf (key : Nat) : Nat :=
  let o := key % 2 ^ 36
  key / 2 ^ 36 * 32 + ((o / 2 ^ 8 % 32) ^^^ (o / 2 ^ 18 % 32))
/-- Its bank. -/
def bankOf (key : Nat) : Nat :=
  let o := key % 2 ^ 36
  (o / 2 ^ 13 % 16) ^^^ (o / 2 ^ 23 % 16)

/-! ### L1 and directory -/

def l1key (core pa : Nat) : Nat := core * 2 ^ 50 + pa / 4
def State.l1? (s : State) (core pa : Nat) : Option L1W := KV.find? (l1key core pa) s.l1

/-- R38, R97: the entry of a line no one has touched. -/
def Dir.fresh (line : Nat) : Dir := { holder := homeDie (line * 128), slice := line % 24 }
def State.dir (s : State) (line : Nat) : Dir := KV.getD line (Dir.fresh line) s.dirs
def Run.updDir (r : Run s0) (line : Nat) (f : Dir → Dir) : Run s0 :=
  r.mod fun s => { s with dirs := KV.put line (f (s.dir line)) s.dirs }
def Run.setL1 (r : Run s0) (core pa : Nat) (w : L1W) : Run s0 :=
  r.mod fun s => { s with l1 := KV.put (l1key core pa) w s.l1 }
def Run.dropL1 (r : Run s0) (core pa : Nat) : Run s0 :=
  r.mod fun s => { s with l1 := KV.del (l1key core pa) s.l1 }

/-- The words of a line that the n bytes at pa touch. -/
def wordsAt (pa n : Nat) : List Nat :=
  (List.range 32).filter fun w =>
    decide (pa % 128 / 4 ≤ w) && decide (4 * w < pa % 128 + n)
def allWords : List Nat := List.range 32

/-- State of word w (R97). -/
inductive WSt where
  | h | t | o (core : Nat) | p
  deriving DecidableEq, Repr
def Dir.wst (d : Dir) (w : Nat) : WSt :=
  match d.owners.find? fun x => x.2.getLsbD w with
  | some (c, _) => .o c
  | none =>
    if d.pmasks.any fun x => decide (x.2.extractLsb' (4 * w) 4 ≠ 0) then .p
    else if d.t.getLsbD w then .t else .h

/-- The home copy of a word and its poison. -/
def State.home (s : State) (pa : Nat) : PW where
  v := BitVec.ofNat 32 (ofBytes ((List.range 4).map fun i => Memory.read s.mem (pa / 4 * 4 + i)))
  p := KV.has (pa / 4) s.mpoison

/-- Replace the bytes of `m` in a word. -/
def mergeWord (old new : Word) (m : BitVec 4) : Word :=
  let mask : Word := (List.range 4).foldl (fun a i =>
    if m.getLsbD i then a ||| (0xFF#32 <<< (8 * i)) else a) 0
  (old &&& ~~~mask) ||| (new &&& mask)

/-- Write the bytes of `m` of a word into the home copy; a full write replaces the poison mark, a
partial one keeps it (R54). -/
def Run.putHome (r : Run s0) (pa : Nat) (v : PW) (m : BitVec 4) : Run s0 :=
  let a := pa / 4 * 4
  if m = 0 then r else
  let r := r.each (List.range 4) fun r i =>
    if m.getLsbD i then r.putByte (a + i) (v.v.extractLsb' (8 * i) 8) else r
  r.mod fun s => { s with mpoison :=
    (if v.p then KV.put (a / 4) () s.mpoison else if m = 0xF then KV.del (a / 4) s.mpoison
      else s.mpoison) }

/-- Bytes of a word mask as a mask of the line's bytes. -/
def lineMask (w : Nat) (m : BitVec 4) : BitVec 128 := (m.zeroExtend 128) <<< (4 * w)

/-- R99: Recall(c, V). -/
def Run.recall (r : Run s0) (line c : Nat) (v : List Nat) : Run s0 :=
  let d := r.s.dir line
  let core := 48 * d.holder + c
  let mine := v.filter fun w => decide (d.wst w = .o c)
  let r := r.each mine fun r w =>
    let pa := line * 128 + 4 * w
    match r.s.l1? core pa with
    | none => r
    | some x =>
      let r := r.putHome pa ⟨x.v, x.p⟩ x.mask
      let r := r.setL1 core pa { x with st := .untracked, mask := 0 }
      r.updDir line fun d => { d with dirty := d.dirty ||| lineMask w x.mask }
  r.updDir line fun d => { d with owners :=
    (d.owners.map fun x => if x.1 = c then
      (x.1, mine.foldl (fun m w => m &&& ~~~(1#32 <<< w)) x.2) else x).filter fun x => x.2 ≠ 0 }

/-- Recall the words V from every owner. -/
def Run.recallAll (r : Run s0) (line : Nat) (v : List Nat) : Run s0 :=
  r.each ((r.s.dir line).owners.map Prod.fst) fun r c => r.recall line c v

/-- R99: InvalSharers(x), with the core of the die that is spared. -/
def Run.invalSharers (r : Run s0) (line : Nat) (x : Option Nat) : Run s0 :=
  let d := r.s.dir line
  let tracked (s : State) (c w : Nat) : Bool :=
    match s.l1? (48 * d.holder + c) (line * 128 + 4 * w) with
    | some l => decide (l.st = .tracked)
    | none => false
  let cores := (List.range 48).filter fun c => d.sharers.getLsbD c && decide (x ≠ some c)
  let r := r.each cores fun r c => r.each allWords fun r w =>
    if tracked r.s c w then r.dropL1 (48 * d.holder + c) (line * 128 + 4 * w) else r
  let keep : BitVec 48 := match x with
    | some c => if allWords.any (tracked r.s c) then 1#48 <<< c else 0
    | none => 0
  r.updDir line fun d => { d with sharers := keep, t := 0 }

/-- R99: Merge(). A private word has no bytes in its holder's mask where the directory's grant found
none dirty (R103). -/
def Run.merge (r : Run s0) (line : Nat) : Run s0 :=
  let d := r.s.dir line
  let r := r.each d.pmasks fun r x =>
    r.each allWords fun r w =>
      let m : BitVec 4 := x.2.extractLsb' (4 * w) 4
      let core := 48 * d.holder + x.1
      let pa := line * 128 + 4 * w
      match r.s.l1? core pa with
      | none => r
      | some l => if l.st ≠ .priv then r else ((r.putHome pa ⟨l.v, l.p⟩ m).dropL1 core pa).updDir line fun d =>
          { d with dirty := d.dirty ||| lineMask w m }
  r.updDir line fun d => { d with pmasks := [] }

/-- The current value of a word: the home copy under H and T, the owner's copy under O, and the home
copy with every private byte under P (R99, Gather; R117). -/
def State.coh (s : State) (pa : Nat) : PW :=
  let line := pa / 128
  let w := pa / 4 % 32
  let d := s.dir line
  match d.wst w with
  | .o c => match s.l1? (48 * d.holder + c) pa with
    | some l => ⟨l.v, l.p⟩
    | none => s.home pa
  | .p => d.pmasks.foldl (fun (a : PW) x =>
      let m : BitVec 4 := x.2.extractLsb' (4 * w) 4
      match s.l1? (48 * d.holder + x.1) pa with
      | some l => if m = 0 then a else ⟨mergeWord a.v l.v m, a.p || l.p⟩
      | none => a) (s.home pa)
  | _ => s.home pa

/-- The current value of one byte. -/
def State.cohByte (s : State) (pa : Nat) : Byte := (s.coh pa).v.extractLsb' (8 * (pa % 4)) 8

/-- n bytes at pa as the directory gives them, without changing its state: the NC reads of the walker
and the bounds unit (R26). A table word in a window, a hole or an uncarved unit reads as 0, and one that
is poisoned as what it holds: the manual does not say (log entry 43). -/
def State.peekBytes (s : State) (pa n : Nat) : List Byte :=
  (List.range n).map fun i => if s.ready (pa + i) then s.cohByte (pa + i) else 0
/-- Whether a word of the n bytes at pa is poisoned. -/
def State.anyPoison (s : State) (pa n : Nat) : Bool :=
  (List.range ((pa % 4 + n + 3) / 4)).any fun i => (s.coh (pa / 4 * 4 + 4 * i)).p
def State.peekNat (s : State) (pa n : Nat) : Nat := ofBytes (s.peekBytes pa n)

end Sys2Proof.Machine
end

