-- ==== Sys2Proof/Machine/Caches.lean ====
section
/-! DEFINITION. The storage levels as caches (R33, R37 to R44, R110, R111): what each set holds and what
it gives up, the memory-side cache and the poison that DRAM keeps (R54), the moves of lines between
slices and dies, and the forwarding and holder entries. -/

namespace Sys2Proof.Machine
variable {s0 : State}

/-- The line of a full set that a cache gives up (R33: the manual names no order). -/
def State.pick (s : State) (l : List Nat) : Nat := l.getD (Config.victim s.tick % l.length) 0
def Run.ticked (r : Run s0) : Run s0 := r.mod fun s => { s with tick := s.tick + 1 }

/-! ### L1 (R33, R37) -/

/-- Whether a core's L1 holds any word of a line. -/
def State.inL1 (s : State) (core line : Nat) : Bool :=
  allWords.any fun w => (s.l1? core (line * 128 + 4 * w)).isSome

/-- R37, R104: the L1 of a core evicts a line: it writes its dirty bytes back and releases its
tracked-sharer entry; a private line is merged first. -/
def Run.evictL1 (r : Run s0) (core line : Nat) : Run s0 :=
  let c := core % 48
  let d := r.s.dir line
  let home := decide (dieOf core = d.holder)
  let r := if home && d.pmasks.any (fun x => decide (x.1 = c)) then r.merge line else r
  let r := if home then r.recall line c allWords else r
  let r := r.each allWords fun r w => r.dropL1 core (line * 128 + 4 * w)
  if home then r.updDir line fun d => { d with sharers := d.sharers &&& ~~~(1#48 <<< c) } else r

/-- The other lines that a core's L1 holds. -/
def State.l1Lines (s : State) (core line : Nat) : List Nat :=
  (((KV.range (core * 2 ^ 50) (2 ^ 50) s.l1).map fun e => e.1 % 2 ^ 50 / 32).eraseDups).filter (· ≠ line)

/-- Of other lines, those in the line's set of a table of kind `k` with n sets. -/
def sameSet (k n line : Nat) (l : List Nat) : List Nat :=
  l.filter fun x => decide (Config.setOf k x % n = Config.setOf k line % n)

/-- R33: the L1 has 128 sets of 8 ways: one that takes in a line gives up another where its set is
full. -/
def Run.roomL1 (r : Run s0) (core line : Nat) : Run s0 :=
  let ls := r.s.l1Lines core line
  if !isCore core || decide (ls.length < 8) || r.s.inL1 core line then r
  else
    let set := sameSet 0 128 line ls
    if set.length < 8 then r else r.ticked.evictL1 core (r.s.pick set)

/-! ### The memory-side cache (R44) -/

/-- The units of a die that are carved or changing over, and so serve no cache. -/
def Die.away (d : Die) : BitVec 12 := d.ready ||| d.pend

/-- Unit and set of a line of DRAM among the units that serve the cache of its home die. -/
def State.sramSlot (s : State) (line : Nat) : Nat × Nat :=
  let m := (s.die (homeDie (line * 128))).away
  let us := (List.range 16).filter fun u => !(decide (u < 12) && m.getLsbD u)
  (us.getD (Config.sramUnit m line % us.length) 12, Config.setOf 2 line % 32768)

/-- Poison of the words that the 64-byte blocks of DRAM under a line give (R54). -/
def State.dramPoison (s : State) (line : Nat) : BitVec 32 :=
  (if KV.has (2 * line) s.dpoison then 0x0000_FFFF#32 else 0) |||
  (if KV.has (2 * line + 1) s.dpoison then 0xFFFF_0000#32 else 0)

/-- The poison of the home copies of a line. -/
def State.homePoison (s : State) (line : Nat) : BitVec 32 :=
  allWords.foldl (fun m w => if KV.has (line * 32 + w) s.mpoison then m ||| (1#32 <<< w) else m) 0
def Run.setHomePoison (r : Run s0) (line : Nat) (p : BitVec 32) : Run s0 :=
  r.mod fun s => { s with mpoison := allWords.foldl (fun m w =>
    if p.getLsbD w then KV.put (line * 32 + w) () m else KV.del (line * 32 + w) m) s.mpoison }

/-- The home copies of a line that is not in L2 are those of the level below. -/
def Run.viewBelow (r : Run s0) (line : Nat) : Run s0 :=
  if !isDram (line * 128) || (r.s.dir line).inL2 then r
  else match KV.find? line r.s.sram with
    | some x => r.setHomePoison line x.poison
    | none => r.setHomePoison line (r.s.dramPoison line)

/-- R54: the words of a line are written to DRAM: a block of 64 bytes is stored poisoned if any of its
words is. -/
def Run.writeDram (r : Run s0) (line : Nat) (p : BitVec 32) : Run s0 :=
  r.mod fun s => { s with dpoison := [0, 1].foldl (fun m b =>
    if p.extractLsb' (16 * b) 16 = 0 then KV.del (2 * line + b) m else KV.put (2 * line + b) () m) s.dpoison }

/-- R44: the memory-side cache gives up a line; one that differs from DRAM is written there. -/
def Run.evictSram (r : Run s0) (line : Nat) : Run s0 :=
  match KV.find? line r.s.sram with
  | none => r
  | some x =>
    let r := r.mod fun s => { s with sram := KV.del line s.sram }
    (if x.dirty then r.writeDram line x.poison else r).viewBelow line

/-- R44: the memory-side cache takes a line in, in one of 16 ways. -/
def Run.roomSram (r : Run s0) (line : Nat) : Run s0 :=
  let ls := (r.s.sram.map Prod.fst).filter fun x =>
    decide (x ≠ line) && decide (homeDie (x * 128) = homeDie (line * 128))
  if ls.length < 16 then r
  else
    let set := ls.filter fun x => decide (r.s.sramSlot x = r.s.sramSlot line)
    if set.length < 16 then r else r.ticked.evictSram (r.s.pick set)

def Run.fillSram (r : Run s0) (line : Nat) : Run s0 :=
  if !isDram (line * 128) || KV.has line r.s.sram then r
  else
    let r := r.roomSram line
    r.mod fun s => { s with sram := KV.put line { poison := s.dramPoison line } s.sram }

/-- R46: lines whose unit the cache no longer has leave it; `f` is the change of the die. -/
def Run.remapSram (r : Run s0) (die : Nat) (f : Die → Die) : Run s0 :=
  let before := r.s
  let after := (r.updDie die f).s
  let r := r.each ((before.sram.map Prod.fst).filter fun x => decide (homeDie (x * 128) = die)) fun r x =>
    if (before.sramSlot x).1 = (after.sramSlot x).1 then r else r.evictSram x
  r.updDie die f

/-! ### L2 (R38, R41) -/

/-- A line that no operation pins and no fibre holds: it may be evicted and may migrate (R42, R253). -/
def State.lineFree (s : State) (line : Nat) : Bool :=
  decide ((s.dir line).pins = []) && decide ((s.dir line).held = none)

/-- Lines that an L2 holds: of DRAM and of carved SRAM (R38). -/
def inL2 (line : Nat) : Bool :=
  match place (line * 128) with | .dram _ => true | .sram _ _ => true | _ => false

/-- R97: the home copies of a line are written to the level below: to the memory-side cache, or where
they are for carved SRAM. -/
def Run.writeBack (r : Run s0) (line : Nat) : Run s0 :=
  let r := r.updDir line fun d => { d with dirty := 0 }
  if !isDram (line * 128) then r
  else
    let r := r.fillSram line
    r.mod fun s => { s with sram := KV.put line { dirty := true, poison := s.homePoison line } s.sram }

/-- R257: the home copies of a line are written through to memory. -/
def Run.writeMemory (r : Run s0) (line : Nat) : Run s0 :=
  let r := r.updDir line fun d => { d with dirty := 0 }
  if !isDram (line * 128) then r
  else
    let p := r.s.homePoison line
    ((r.writeDram line p).mod fun s => { s with
      sram := KV.update line (fun _ => { poison := p }) s.sram }).viewBelow line

/-- Take a line out of an ordered table of a slice, or put it at the end of the order. -/
def unlist (k line : Nat) (m : List (Nat × List Nat)) : List (Nat × List Nat) :=
  KV.putD k [] ((KV.getD k [] m).filter (· ≠ line)) m
def relist (k line : Nat) (m : List (Nat × List Nat)) : List (Nat × List Nat) :=
  KV.put k ((KV.getD k [] m).filter (· ≠ line) ++ [line]) m

/-- R40: the home slice of a line on its holder die, and the line's entry there. -/
def State.fwdKey (s : State) (line : Nat) : Nat := (s.dir line).holder * 24 + line % 24
def Run.dropForward (r : Run s0) (line : Nat) : Run s0 :=
  r.mod fun s => { s with fwd := unlist (s.fwdKey line) line s.fwd }
/-- R110: the home slice of a line on its memory-home die. -/
def hentKey (line : Nat) : Nat := homeDie (line * 128) * 24 + line % 24

/-- R41: a slice evicts a line: it recalls the owners' bytes, merges the private ones (R104) and
invalidates the tracked copies, then writes the line to the level below. The line's forwarding entry
is lost (R40). -/
def Run.evictL2 (r : Run s0) (line : Nat) : Run s0 :=
  if !inL2 line || !r.s.lineFree line then r
  else
    let r := ((r.recallAll line allWords).merge line).invalSharers line none
    let r := if (r.s.dir line).dirty = 0 then r else r.writeBack line
    let r := (r.dropForward line).updDir line fun d => { d with
      slice := line % 24, run := 0, lastCluster := 0, due := none, inL2 := false }
    r.viewBelow line

/-- R31: the copies of a line in L1 and L2 are discarded, unwritten; one that is pinned or held keeps its
place. -/
def Run.discardLine (r : Run s0) (line : Nat) : Run s0 :=
  let r := r.updDir line fun d => { d with t := 0, sharers := 0, owners := [], pmasks := [], dirty := 0 }
  if !r.s.lineFree line then r
  else (r.dropForward line).updDir line fun d => { d with
    slice := line % 24, run := 0, lastCluster := 0, due := none, inL2 := false }

/-- The other lines that a slice of a die holds. -/
def State.sliceLines (s : State) (holder slice line : Nat) : List Nat :=
  (s.dirs.filter fun d => d.2.inL2 && decide (d.2.holder = holder) && decide (d.2.slice = slice) &&
    decide (d.1 ≠ line)).map Prod.fst

/-- R33: a slice has 2,048 sets of 16 ways: whether it has room for a line, or can make some. -/
def State.roomAt (s : State) (holder slice line : Nat) : Bool :=
  let ls := s.sliceLines holder slice line
  decide (ls.length < 16) ||
    (let set := sameSet 1 2048 line ls; decide (set.length < 16) || set.any s.lineFree)

/-- The slice of a line gives up another where the line's set is full. -/
def Run.roomL2 (r : Run s0) (line : Nat) : Run s0 :=
  let d := r.s.dir line
  let ls := r.s.sliceLines d.holder d.slice line
  if ls.length < 16 then r
  else
    let set := sameSet 1 2048 line ls
    let out := set.filter r.s.lineFree
    if set.length < 16 ∨ out = [] then r else r.ticked.evictL2 (r.s.pick out)

/-- A request whose line the L2 cannot take in waits: every way of its set is pinned or held. -/
def State.l2Full (s : State) (line : Nat) : Bool :=
  inL2 line && !(s.dir line).inL2 && !s.roomAt (s.dir line).holder (s.dir line).slice line

/-- R38, R41, R44: the holder die's L2 takes a line in, through the memory-side cache. -/
def Run.fillL2 (r : Run s0) (line : Nat) : Run s0 :=
  if !inL2 line || (r.s.dir line).inL2 then r
  else ((r.roomL2 line).fillSram line).updDir line fun d => { d with inL2 := true }

/-- R37: a line that an access leaves outside the L2 is written below at once. -/
def Run.passBelow (r : Run s0) (line : Nat) : Run s0 :=
  let d := r.s.dir line
  if d.inL2 || decide (d.dirty = 0) then r
  else
    let r := r.updDir line fun d => { d with dirty := 0 }
    if !isDram (line * 128) then r
    else if KV.has line r.s.sram then
      r.mod fun s => { s with sram := KV.put line { dirty := true, poison := s.homePoison line } s.sram }
    else (r.writeDram line (r.s.homePoison line)).viewBelow line

/-- R41: the request at `line` makes its slice evict a line of a full set; `victim` is the one it
chooses, where that one can go. -/
def Run.makeRoom (r : Run s0) (line victim : Nat) : Run s0 :=
  let d := r.s.dir line
  if victim = line ∨ d.inL2 ∨ !inL2 line then r
  else
    let set := sameSet 1 2048 line (r.s.sliceLines d.holder d.slice line)
    if 16 ≤ set.length ∧ set.contains victim then r.evictL2 victim else r

/-! ### Moves within a die and between dies (R39, R40, R110, R111) -/

/-- The least recently used other line of a table of n sets of 8 ways, where the line's set is full. -/
def lruOf (k n line : Nat) (l : List Nat) : Option Nat :=
  let others := l.filter (· ≠ line)
  if others.length < 8 then none
  else
    let set := sameSet k n line others
    if set.length < 8 then none else set.head?

/-- R40: a forwarding entry of 1,024 sets of 8 ways: the line whose entry must go for that of `line`. -/
def State.fwdVictim (s : State) (line : Nat) : Option Nat :=
  lruOf 3 1024 line (KV.getD (s.fwdKey line) [] s.fwd)
/-- R110: the same for holder entries, of 512 sets. -/
def State.hentVictim (s : State) (line : Nat) : Option Nat :=
  lruOf 4 512 line (KV.getD (hentKey line) [] s.hent)

/-- The line may move to a slice of a die. -/
def State.mayMove (s : State) (line holder slice : Nat) : Bool :=
  inL2 line && s.lineFree line && s.roomAt holder slice line

/-- Move a line to another slice of its holder die: back home its forwarding entry is freed, elsewhere
it has one. -/
def Run.moveSlice (r : Run s0) (line slice : Nat) : Run s0 :=
  let r := (r.updDir line fun d => { d with slice := slice, due := none }).roomL2 line
  if slice = line % 24 then r.dropForward line
  else r.mod fun s => { s with fwd := relist (s.fwdKey line) line s.fwd }

/-- A line moves after another has gone back home, unless that move has made its slice give it up. -/
def Run.moveHeld (r : Run s0) (line : Nat) (f : Run s0 → Run s0) : Run s0 :=
  if (r.s.dir line).inL2 then f r else r

/-- R39: a line whose migration is due moves to a near slice of that cluster. Where the new forwarding
entry finds its set full, the line of the least recently used entry goes back home first (R40). -/
def Run.migrateLine (r : Run s0) (line : Nat) : Run s0 :=
  match (r.s.dir line).due with
  | none => r
  | some c =>
    let d := r.s.dir line
    let slice := 2 * c + line % 2
    if !d.inL2 || !r.s.mayMove line d.holder slice then r
    else if slice = line % 24 ∨ d.slice ≠ line % 24 then r.moveSlice line slice
    else match r.s.fwdVictim line with
      | none => r.moveSlice line slice
      | some v =>
        if r.s.mayMove v d.holder (v % 24) then (r.moveSlice v (v % 24)).moveHeld line fun r => r.moveSlice line slice
        else r

/-- R111: the line moves to another holder die, to its home slice there. -/
def Run.moveHolder (r : Run s0) (line die : Nat) : Run s0 :=
  let r := (((r.merge line).recallAll line allWords).invalSharers line none).dropForward line
  let r := (r.updDir line fun d => { d with
    holder := die, slice := line % 24, due := none, dueDie := none, rrun := 0 }).roomL2 line
  if die = homeDie (line * 128) then r.mod fun s => { s with hent := unlist (hentKey line) line s.hent }
  else r.mod fun s => { s with hent := relist (hentKey line) line s.hent }

/-- R111: a line that another die has reached 64 times in a row moves there. Where the new holder entry
finds its set full, the line of the least recently used entry goes back to its memory-home die first
(R110). -/
def Run.migrateDie (r : Run s0) (line : Nat) : Run s0 :=
  match (r.s.dir line).dueDie with
  | none => r
  | some die =>
    let d := r.s.dir line
    let home := homeDie (line * 128)
    if die = d.holder ∨ (r.s.die die).failed ∨ !r.s.mayMove line die (line % 24) then r
    else if die = home ∨ d.holder ≠ home then r.moveHolder line die
    else match r.s.hentVictim line with
      | none => r.moveHolder line die
      | some v =>
        if r.s.mayMove v (homeDie (v * 128)) (v % 24) then
          (r.moveHolder v (homeDie (v * 128))).moveHeld line fun r => r.moveHolder line die
        else r

end Sys2Proof.Machine
end

