-- ==== Sys2Proof/Machine/Directory.lean ====
section
/-! DEFINITION. How the directory performs a load, a store and an atomic (R94 to R96, R99 to R104, R109),
what a core's L1 serves by itself, acquires, and writes at a bank (R58). -/

namespace Sys2Proof.Machine
variable {s0 : State}

/-- Fill words of the line into a core's L1 but for those it holds tracked, owned or private already;
words owned by others or private arrive as none (R100). -/
def Run.fill (r : Run s0) (core line : Nat) (ws : List Nat) (st : L1St) : Run s0 :=
  let d := r.s.dir line
  r.each ws fun r w =>
    let pa := line * 128 + 4 * w
    let free := match d.wst w with | .h => true | .t => true | _ => false
    let mine := match r.s.l1? core pa with
      | some l => decide (l.st ≠ .untracked)
      | none => false
    if free && !mine then
      let h := r.s.home pa
      let r := r.setL1 core pa { st := st, v := h.v, p := h.p }
      if st = .tracked then r.updDir line fun d => { d with t := d.t ||| (1#32 <<< w) } else r
    else if free && decide (st = .tracked) && (match r.s.l1? core pa with
        | some l => decide (l.st = .tracked) | none => false) then
      r.updDir line fun d => { d with t := d.t ||| (1#32 <<< w) }
    else if !free && !mine then r.dropL1 core pa
    else r

/-- R99: Grant(q, V). -/
def Run.grant (r : Run s0) (line q : Nat) (v : List Nat) : Run s0 :=
  let d := r.s.dir line
  let r := if (d.owners.any fun x => decide (x.1 = q)) then r else
    match d.owners with
    | (c, _) :: _ => if 4 ≤ d.owners.length then r.recall line c allWords else r
    | [] => r
  let r := r.invalSharers line none
  let d := r.s.dir line
  let core := 48 * d.holder + q
  let new := v.filter fun w => decide (d.wst w ≠ .o q)
  let r := r.each new fun r w =>
    let h := r.s.home (line * 128 + 4 * w)
    r.setL1 core (line * 128 + 4 * w) { st := .owned, v := h.v, p := h.p }
  let bits : BitVec 32 := v.foldl (fun m w => m ||| (1#32 <<< w)) 0
  r.updDir line fun d => { d with owners := (
    if d.owners.any fun x => decide (x.1 = q) then
      d.owners.map fun x => if x.1 = q then (x.1, x.2 ||| bits) else x
    else d.owners ++ [(q, bits)]) }

/-- R39: the cluster of a requester: 0 to 11 of the holder die, above for any other. -/
def clusterAt (holder site : Nat) : Nat :=
  if isCore site ∧ dieOf site = holder then site % 48 / 4 else 12 + site / 4

/-- R40, R110: a request has used the entries that sent it on to the line's slice: its forwarding entry,
and from outside the holder die its holder entry. -/
def Run.useEntries (r : Run s0) (line : Nat) (far : Bool) : Run s0 :=
  let d := r.s.dir line
  let r := if d.slice = line % 24 then r
    else r.mod fun s => { s with fwd := relist (s.fwdKey line) line s.fwd }
  if far && decide (d.holder ≠ homeDie (line * 128)) then
    r.mod fun s => { s with hent := relist (hentKey line) line s.hent } else r

/-- R39: a packet from a peer or the host reaches the line: a request of no cluster and no die (log
entry 57, DESIGN CHOICE). -/
def Run.countPkt (r : Run s0) (line : Nat) : Run s0 :=
  (r.useEntries line true).updDir line fun d => { d with run := 1, lastCluster := 12 + Config.sites }

/-- R39, R111: what a request leaves in the line's entry, and the migrations that it makes due. An access
of 64 or 128 bits from another die counts once for each part of it that takes an instant of its own
(log entry 57, DESIGN CHOICE). -/
def Run.countReq (r : Run s0) (line site : Nat) : Run s0 :=
  let d := r.s.dir line
  let far := decide (dieOf site ≠ d.holder)
  (r.useEntries line far).updDir line fun d =>
    let cl := clusterAt d.holder site
    let n := if cl = d.lastCluster then d.run + 1 else 1
    let rr := if !far then 0 else if d.rdie = dieOf site then d.rrun + 1 else 1
    { d with
      run := n, lastCluster := cl,
      due := if 16 ≤ n ∧ cl < 12 ∧ d.slice / 2 ≠ cl then some cl else d.due,
      rdie := if far then dieOf site else d.rdie, rrun := rr,
      dueDie := if 64 ≤ rr then some (dieOf site) else d.dueDie }

/-- R94: the policy a request has at the directory: a site without an L1 of the holder die acts as
NC (R59, R109, R369). 1 OWN, 2 WT, 3 SI, 4 WI, 5 NC. -/
def State.effPol (s : State) (site pa pol : Nat) : Nat :=
  if isCore site && decide (dieOf site = (s.dir (pa / 128)).holder) then pol else 5

/-- R95: whether all words of a load hit in the core's L1. -/
def State.loadHit (s : State) (site pa n pol : Nat) : Bool :=
  isCore site && decide (pol ≠ 5) && (wordsAt pa n).all fun w =>
    match s.l1? site (pa / 128 * 128 + 4 * w) with
    | none => false
    | some l => match l.st with
      | .untracked => decide (pol = 2 ∨ pol = 3)
      | .tracked => decide (2 ≤ pol)
      | .owned => true
      | .priv => (List.range 4).all fun i =>
          let b := 4 * w + i
          !(decide (pa % 128 ≤ b) && decide (b < pa % 128 + n)) || l.mask.getLsbD i

/-- R95: whether an OWN store hits. -/
def State.storeHit (s : State) (site pa n pol : Nat) : Bool :=
  isCore site && decide (pol = 1) && (wordsAt pa n).all fun w =>
    match s.l1? site (pa / 128 * 128 + 4 * w) with
    | none => false
    | some l => match l.st with
      | .owned => true
      | .priv => (List.range 4).all fun i =>
          let b := 4 * w + i
          !(decide (pa % 128 ≤ b) && decide (b < pa % 128 + n)) || l.mask.getLsbD i
      | _ => false

/-- The words of n bytes at pa in a core's L1. -/
def State.l1Words (s : State) (core pa n : Nat) : List PW :=
  (wordsAt pa n).map fun w => match s.l1? core (pa / 128 * 128 + 4 * w) with
    | some l => ⟨l.v, l.p⟩
    | none => {}

/-- Drop a core's untracked copies of words (R118: an NC reply drops them). -/
def Run.dropUntracked (r : Run s0) (core line : Nat) (ws : List Nat) : Run s0 :=
  if isCore core then
    r.each ws fun r w => match r.s.l1? core (line * 128 + 4 * w) with
      | some l => if l.st = .untracked then r.dropL1 core (line * 128 + 4 * w) else r
      | none => r
  else r

/-- R37, R41: a request allocates its line in L2, and under a caching policy in its core's L1, unless
its MOD hint says no. -/
def Run.allocate (r : Run s0) (site line pol : Nat) (noal : Bool) : Run s0 :=
  if noal then r
  else
    let r := r.fillL2 line
    if pol = 5 then r else r.roomL1 site line

/-- R100: a load that reaches the directory. The reply's words are those of `coh` when it is taken. -/
def Run.dirLoad (r : Run s0) (site pa n pol : Nat) (noal : Bool) : Run s0 :=
  let line := pa / 128
  let r := r.countReq line site
  let pol := if noal && decide (pol = 1) then 5 else r.s.effPol site pa pol
  let r := r.allocate site line pol noal
  let ws := wordsAt pa n
  let d := r.s.dir line
  let q := site % 48
  let others := d.owners.filter fun x => decide (x.1 ≠ q ∨ pol = 5)
  let anyP := ws.any fun w => decide (d.wst w = .p)
  match pol with
  | 5 =>
    let r := r.each others fun r x => r.recall line x.1 ws
    let r := if anyP then r.merge line else r
    r.dropUntracked site line ws
  | 1 =>
    let r := r.each others fun r x => r.recall line x.1 ws
    let r := if anyP then r.merge line else r
    let r := r.grant line q ws
    r.fill site line allWords .untracked
  | 4 =>
    let r := r.each others fun r x => r.recall line x.1 ws
    let r := if anyP then r.merge line else r
    if noal then r.dropUntracked site line ws
    else (r.fill site line allWords .tracked).updDir line fun d =>
      { d with sharers := d.sharers ||| (1#48 <<< q) }
  | _ =>
    let r := r.each others fun r x => r.recall line x.1 ws
    if noal then r.dropUntracked site line ws else r.fill site line allWords .untracked

/-- R103: the core remembers when it last stored to the words of n bytes at pa. -/
def Run.noteStore (r : Run s0) (core pa n : Nat) : Run s0 :=
  if !isCore core then r
  else r.mod fun s => { s with stored := (wordsAt pa n).foldl (fun m w =>
    KV.put (l1key core (pa / 128 * 128 + 4 * w)) (s.site core).clk.toNat m) s.stored }

/-- R103: whether the core stored to the word within its last 1,024 clk. -/
def State.storedLately (s : State) (core pa : Nat) : Bool :=
  match KV.find? (l1key core pa) s.stored with
  | some n => decide ((s.site core).clk.toNat - n ≤ 1024)
  | none => false

/-- A store's bytes in one word of a line: value and byte mask, from the bytes at pa. -/
def storeWord (pa w : Nat) (bytes masks : List Byte) (old : Word) : Word × BitVec 4 :=
  (List.range 4).foldl (fun (a : Word × BitVec 4) i =>
    let b := 4 * w + i
    if pa % 128 ≤ b ∧ b < pa % 128 + bytes.length then
      let j := b - pa % 128
      let m := masks.getD j 0xFF
      let o : Byte := old.extractLsb' (8 * i) 8
      let nb := (o &&& ~~~m) ||| (bytes.getD j 0 &&& m)
      if m = 0 then a
      else (mergeWord a.1 ((nb.zeroExtend 32) <<< (8 * i)) (1#4 <<< i), a.2 ||| (1#4 <<< i))
    else a) (old, 0)

/-- Perform a store's bytes in the home copies (R101). -/
def Run.writeHome (r : Run s0) (pa : Nat) (bytes masks : List Byte) (poi : Bool) : Run s0 :=
  let line := pa / 128
  r.each (wordsAt pa bytes.length) fun r w =>
    let x := storeWord pa w bytes masks (r.s.home (line * 128 + 4 * w)).v
    let full := decide (x.2 = 0xF) && ((List.range 4).all fun i =>
      decide (masks.getD (4 * w + i - pa % 128) 0xFF = 0xFF))
    let old := (r.s.home (line * 128 + 4 * w)).p
    let r := r.putHome (line * 128 + 4 * w) ⟨x.1, poi || (old && !full)⟩ x.2
    r.updDir line fun d => { d with dirty := d.dirty ||| lineMask w x.2 }

/-- Write a store's bytes of one word in a core's owned or private copy. -/
def Run.writeL1Word (r : Run s0) (core pa : Nat) (bytes masks : List Byte) (w : Nat) : Run s0 :=
  let at_ := pa / 128 * 128 + 4 * w
  match r.s.l1? core at_ with
  | none => r
  | some l =>
    let x := storeWord pa w bytes masks l.v
    r.setL1 core at_ { l with v := x.1, mask := l.mask ||| x.2, p := l.p && decide (x.2 ≠ 0xF) }
/-- The same for each word that the store touches. -/
def Run.writeL1 (r : Run s0) (core pa : Nat) (bytes masks : List Byte) : Run s0 :=
  r.each (wordsAt pa bytes.length) fun r w => r.writeL1Word core pa bytes masks w

/-- R101, R103: one word of an OWN store at the directory: Grant, Probe, Extend or Merge. -/
def Run.ownWord (r : Run s0) (site line w : Nat) (m : BitVec 4) : Run s0 :=
  let d := r.s.dir line
  let q := site % 48
  let pa := line * 128 + 4 * w
  let lm := lineMask w m
  match d.wst w with
  | .o c =>
    if c = q then r else
    let core := 48 * d.holder + c
    let l := (r.s.l1? core pa).getD { st := .owned, v := 0 }
    let recent := r.s.storedLately core pa
    let has (x : Nat) := d.pmasks.any fun y => decide (y.1 = x)
    let need := (if has c then 0 else 1) + (if has q then 0 else 1)
    if decide (l.mask &&& m = 0) && recent && decide (d.pmasks.length + need ≤ 4) then
      let h := r.s.home pa
      let r := r.setL1 core pa { l with st := .priv }
      let r := r.setL1 site pa { st := .priv, v := h.v, p := h.p }
      let add (ps : List (Nat × BitVec 128)) (x : Nat) (b : BitVec 128) : List (Nat × BitVec 128) :=
        if ps.any fun y => decide (y.1 = x) then ps.map fun y => if y.1 = x then (x, y.2 ||| b) else y
        else ps ++ [(x, b)]
      r.updDir line fun d => { d with
        owners := (d.owners.map fun x => if x.1 = c then (x.1, x.2 &&& ~~~(1#32 <<< w)) else x).filter
          fun x => x.2 ≠ 0,
        pmasks := add (add d.pmasks c (lineMask w l.mask)) q lm }
    else (r.recall line c [w]).grant line q [w]
  | .p =>
    let clash := d.pmasks.any fun x => decide (x.1 ≠ q) && decide (x.2 &&& lm ≠ 0)
    let has := d.pmasks.any fun y => decide (y.1 = q)
    if !clash && (has || decide (d.pmasks.length < 4)) then
      let old := r.s.l1? site pa
      let h := r.s.home pa
      let isPriv := match old with
        | some l => decide (l.st = L1St.priv)
        | none => false
      let r := if isPriv then r else r.setL1 site pa { st := .priv, v := h.v, p := h.p }
      r.updDir line fun (d : Dir) => { d with pmasks := (
        if has then d.pmasks.map fun (y : Nat × BitVec 128) => if y.1 = q then (q, y.2 ||| lm) else y
        else d.pmasks ++ [(q, lm)]) }
    else (r.merge line).grant line q [w]
  | _ => r.grant line q [w]

/-- R101: a store that reaches the directory. -/
def Run.dirStore (r : Run s0) (site pa pol : Nat) (bytes masks : List Byte) (noal : Bool) : Run s0 :=
  let line := pa / 128
  let r := r.countReq line site
  let pol := if noal && decide (pol = 1) then 5 else r.s.effPol site pa pol
  let r := (r.allocate site line (if pol = 3 then 5 else pol) noal).noteStore site pa bytes.length
  let ws := wordsAt pa bytes.length
  let q := site % 48
  match pol with
  | 1 =>
    -- each word is stored before the directory comes to the next, whose Merge may take it away
    r.each ws fun r w =>
      (r.ownWord site line w (storeWord pa w bytes masks 0).2).writeL1Word site pa bytes masks w
  | _ =>
    let r := r.recallAll line ws
    let r := if ws.any fun w => decide ((r.s.dir line).wst w = .p) then r.merge line else r
    let r := r.invalSharers line (if pol = 4 then some q else none)
    let r := (r.writeHome pa bytes masks false).passBelow line
    match pol with
    | 2 => if noal then r.dropUntracked site line ws
           else (r.each ws fun r w => r.dropL1 site (line * 128 + 4 * w)).fill site line ws .untracked
    | 3 => r.each ws fun r w => r.dropL1 site (line * 128 + 4 * w)
    | 4 => if noal then r.each ws fun r w => r.dropL1 site (line * 128 + 4 * w)
           else ((r.each ws fun r w => r.dropL1 site (line * 128 + 4 * w)).fill site line ws .tracked).updDir
             line fun d => { d with sharers := d.sharers ||| (1#48 <<< q) }
    | _ => r.dropUntracked site line ws

/-- R101: make the home copy current and alone before an atomic, an engine's write or a region. -/
def Run.dirClaim (r : Run s0) (line : Nat) (ws : List Nat) : Run s0 :=
  let r := (r.fillL2 line).recallAll line ws
  let r := if ws.any fun w => decide ((r.s.dir line).wst w = .p) then r.merge line else r
  r.invalSharers line none

/-- R96: an acquire on a core drops every untracked word of its L1 and its fetch unit's cache (R270).
The copy that a load still on its way from a window brings is dropped too (R108). -/
def Run.acquire (r : Run s0) (site : Nat) : Run s0 :=
  if isCore site then r.mod fun s => { s with
    l1 := s.l1.filter fun e => !(decide (e.1 / 2 ^ 50 = site) && decide (e.2.st = .untracked)),
    fcache := s.fcache.filter fun e => !decide (e.1 / 2 ^ 50 = site),
    ops := s.ops.map fun o => if o.2.stage = .away ∧ o.2.site = site then
      (o.1, { o.2 with acc := { o.2.acc with noal := true } }) else o }
  else r

/-- R58: write bytes at the bank. A poisoned 64-byte block stays poisoned unless all of it is
written, and is poisoned whole where the data are (R54). -/
def Run.bankWrite (r : Run s0) (pa : Nat) (bytes masks : List Byte) (poi : Bool) : Run s0 :=
  let n := bytes.length
  let r := r.each (List.range n) fun r i =>
    let m := masks.getD i 0xFF
    r.putByte (pa + i) ((Memory.read r.s.mem (pa + i) &&& ~~~m) ||| (bytes.getD i 0 &&& m))
  let blocks := (List.range ((pa % 64 + n + 63) / 64)).map fun i => pa / 64 + i
  r.each blocks fun r b =>
    let words := (List.range 16).map fun i => b * 16 + i
    let whole := decide (pa ≤ 64 * b) && decide (64 * b + 64 ≤ pa + n) && decide (masks = [])
    if poi then r.mod fun s => { s with
      mpoison := words.foldl (fun l w => KV.put w () l) s.mpoison, dpoison := KV.put b () s.dpoison }
    else if whole then r.mod fun s => { s with
      mpoison := words.foldl (fun l w => KV.del w l) s.mpoison, dpoison := KV.del b s.dpoison }
    else r

end Sys2Proof.Machine
end

