-- ==== Sys2Proof/Machine/Translate.lean ====
section
/-! DEFINITION. Pointers, bounds, translation and permission (R9 to R26): the checks of R25 in their
order, for one access and for an extent. -/

namespace Sys2Proof.Machine
variable {s0 : State}

/-- Field of n bits from bit lo of an entry, as a number. -/
def efld {w : Nat} (e : BitVec w) (lo n : Nat) : Nat := (e.extractLsb' lo n).toNat

/-- A failed check: class, address of the record, reason and level (R20, R333). -/
structure Bad where
  cls : Cls
  addr : DWord
  reason : Nat := 0
  level : Nat := 0
  deriving DecidableEq, Repr, Inhabited

/-- R238: the virtual address of a pointer and offset; the tag is kept. -/
def ptrVa (p : DWord) : VAddr := p.extractLsb' 0 54
def ptrTag (p : DWord) : Nat := efld p 54 10
/-- R9, R238: add to bits 53:0 and keep the tag. -/
def ptrAdd (p : DWord) (off : Int) : DWord := p.extractLsb' 54 10 ++ (ptrVa p + BitVec.ofInt 54 off)

/-! ### Bounds (R11 to R14) -/

/-- R12: BNDTBL's table base. -/
def tbase (b : DWord) : Nat := efld b 14 38 * 2 ^ 14

/-- The bounds entry of a tag: from the site's cache or from memory. -/
def State.bndEntry (s : State) (site ctx tag : Nat) : BitVec 128 :=
  match KV.find? (ctx * 1024 + tag) (s.site site).bnd with
  | some e => e
  | none => BitVec.ofNat 128 (s.peekNat (tbase (s.ctx ctx).bndtbl + 16 * tag) 16)

/-- R13: the tag check of a span of n bytes. -/
def State.boundsOk (s : State) (site ctx : Nat) (p : DWord) (n : Nat) (rd wr : Bool) : Bool :=
  let tag := ptrTag p
  if tag = 0 then true
  else if !(s.ctx ctx).bndtbl.getLsbD 0 then false
  else
    let e := s.bndEntry site ctx tag
    let va := (ptrVa p).toNat
    e.getLsbD 63 && decide (efld e 118 10 = 0) && decide (efld e 58 5 = 0) &&
      decide (efld e 54 2 = 0) && decide (efld e 0 54 ≤ va) && decide (va + n ≤ efld e 64 54) &&
      (!rd || e.getLsbD 56) && (!wr || e.getLsbD 57)

/-! ### The walk (R16 to R23) -/

/-- Size of a leaf's page at a level (1, 2 or 3), without runs. -/
def pageSize (level : Nat) : Nat := 2 ^ (12 + 10 * (level - 1))
def runLen (e : DWord) : Nat := match efld e 20 2 with | 1 => 16 | 2 => 256 | _ => 1
/-- R19: row length of a compute-region leaf. -/
def rowLen (e : DWord) : Nat := 2048 * 2 ^ efld e 15 3
def leafCr (e : DWord) : Bool := e.getLsbD 18
def leafPol (e : DWord) : Nat := efld e 5 3
def leafFmt (e : DWord) : Nat := efld e 8 4

/-- R23: physical address of a virtual address under a leaf. -/
def leafPa (level : Nat) (e : DWord) (va : VAddr) : Nat :=
  efld e 22 40 * 4096 + va.toNat % (pageSize level * runLen e)

/-- R20: the lowest reason for which an entry read at a level (4 is the root) fails, as a leaf or as
a table, for the address va. -/
def State.entryBad (s : State) (level : Nat) (e : DWord) (va : VAddr) : Option Nat :=
  let leaf := e.getLsbD 62
  if !e.getLsbD 63 then some 0
  else if (leaf && decide (level = 4)) || (!leaf && decide (level = 1)) then some 1
  else if !leaf then (if efld e 0 23 ≠ 0 then some 2 else none)
  else
    let run := efld e 20 2
    let pol := leafPol e
    let pa := leafPa level e va
    let low := pageSize level * runLen e / 4096
    if e.getLsbD 0 ∨ run = 3 ∨ (run = 2 ∧ level ≠ 1) ∨ pol = 0 ∨ 6 ≤ pol then some 2
    else if efld e 22 40 % low ≠ 0 then some 3
    else if s.dead pa then some 4
    else if leafCr e ∧ (6 ≤ efld e 15 3 ∨ !isDram pa ∨ pageSize level * runLen e < rowLen e) then some 6
    else none

/-- Index of a level's table (R16). -/
def vaIndex (level : Nat) (va : VAddr) : Nat :=
  if level = 4 then efld va 42 12 else efld va (2 + 10 * level) 10

/-- Level code of the record (R335). -/
def levelCode (level : Nat) : Nat := 4 - level

/-- Walk from a table at a level down: the leaf's level and entry, or the failing reason. -/
def State.walk (s : State) (ctx : Nat) (va : VAddr) : Nat → Nat → Except (Nat × Nat) (Nat × DWord)
  | 0, _ => .error (0, 0)
  | level + 1, table =>
    let lv := level + 1
    let e0 := BitVec.ofNat 64 (s.peekNat (table + 8 * vaIndex lv va) 8)
    let i := vaIndex lv va / runLen e0 * runLen e0
      + Config.runEntry ctx (va.toNat / 4096) % runLen e0
    let e :=
      if e0.getLsbD 63 && e0.getLsbD 62 && decide (runLen e0 ≠ 1) then
        let e1 := BitVec.ofNat 64 (s.peekNat (table + 8 * i) 8)
        if e1.getLsbD 63 && e1.getLsbD 62 && decide (efld e1 20 2 = efld e0 20 2) then e1 else e0
      else e0
    match s.entryBad lv e va with
    | some r => .error (r, levelCode lv)
    | none => if e.getLsbD 62 then .ok (lv, e) else s.walk ctx va level (efld e 23 39 * 2 ^ 13)

/-- R17: the root table. -/
def rootPa (p : DWord) : Nat := efld p 15 37 * 2 ^ 15

/-- The leaf of a virtual address: the site's cached one, or the walk's (R26). -/
def State.leafOf (s : State) (site ctx : Nat) (va : VAddr) : Except (Nat × Nat) (Nat × DWord) :=
  match KV.find? (ctx * 2 ^ 42 + va.toNat / 4096) (s.site site).tlb with
  | some e => .ok e
  | none => s.walk ctx va 4 (rootPa (s.ctx ctx).pgroot)

/-- A translated address: physical address, leaf, and the cell where the byte is held (R58). -/
structure Xl where
  pa : Nat
  leaf : DWord
  key : Nat
  bank : Bool
  deriving DecidableEq, Repr, Inhabited

/-- R369: a supervisor core's addresses are physical. -/
def superLeaf : DWord := 0xC000_0000_0000_00BE

/-- R20, R23: translate one address for a span of n bytes. -/
def State.xlate (s : State) (site ctx : Nat) (va : VAddr) (n : Nat) : Except (Nat × Nat) Xl :=
  if isSuper site then .ok { pa := va.toNat, leaf := superLeaf, key := va.toNat, bank := false }
  else if 2 ^ 54 < va.toNat + n then .error (5, 0)
  else match s.leafOf site ctx va with
    | .error e => .error e
    | .ok (lv, e) =>
      let pa := leafPa lv e va
      .ok { pa := pa, leaf := e, key := if leafCr e then crKey pa (rowLen e) else pa,
            bank := leafCr e }

/-! ### Permission (R24) -/

/-- What an access needs of a page. -/
structure Need where
  rd : Bool := false
  wr : Bool := false
  ex : Bool := false
  /-- a bag instruction's storage: needs BAG = 1 -/
  bag : Bool := false
  /-- policy named: an access that takes one (R94); 0 is DEF -/
  pol : Option Nat := none
  /-- a matrix tile, which no window holds (reason 4) -/
  no4 : Bool := false
  deriving DecidableEq, Repr, Inhabited

/-- R94: the policy named, or the page's. -/
def polOf (x : Xl) (pol : Nat) : Nat := if pol = 0 then leafPol x.leaf else pol

/-- R24: the lowest reason for which a fibre's access is refused. A page of a bag is no bar to an
instruction fetch: R92 and R24 do not say (log entry 44). -/
def permBad (x : Xl) (nd : Need) : Option Nat :=
  let e := x.leaf
  if (nd.rd && !e.getLsbD 1) || (nd.wr && !e.getLsbD 2) || (nd.ex && !e.getLsbD 3) then some 0
  else if !e.getLsbD 4 || (match place x.pa with | .mgmt _ => true | _ => false) then some 1
  else if decide (e.getLsbD 19 ≠ nd.bag) && !nd.ex then some 2
  else if isWindow x.pa && (match nd.pol with
      | some p => decide (polOf x p = 1 ∨ polOf x p = 3 ∨ polOf x p = 4)
      | none => false) then some 3
  else if nd.no4 && isWindow x.pa then some 4
  else none

/-- R114: the access meets a lost line. -/
def State.isLost (s : State) (pa : Nat) : Bool :=
  KV.has (pa / 128) s.pkg.lost || match place pa with
    | .dram _ => (s.die (homeDie pa)).failed
    | .sram _ _ => (s.die (homeDie pa)).failed
    | _ => false

/-- R25 steps 1 to 4 for one access of n bytes aligned to `al`, then HOMELOST (R114). -/
def State.check (s : State) (site ctx : Nat) (p : DWord) (n al : Nat) (nd : Need) : Except Bad Xl :=
  let va := ptrVa p
  if va.toNat % al ≠ 0 then .error { cls := .align, addr := va.zeroExtend 64 }
  else if isSuper site then
    if efld p 52 12 ≠ 0 then .error { cls := .bounds, addr := p }
    else if s.isLost va.toNat then .error { cls := .homelost, addr := va.zeroExtend 64 }
    else .ok { pa := va.toNat, leaf := superLeaf, key := va.toNat, bank := false }
  else if !s.boundsOk site ctx p n nd.rd nd.wr then .error { cls := .bounds, addr := p }
  else match s.xlate site ctx va n with
    | .error (rs, lv) => .error { cls := .xlat, addr := va.zeroExtend 64, reason := rs, level := lv }
    | .ok x =>
      match permBad x nd with
      | some rs => .error { cls := .perm, addr := va.zeroExtend 64, reason := rs }
      | none =>
        if s.isLost x.pa then .error { cls := .homelost, addr := va.zeroExtend 64 }
        else .ok x

/-- The first addresses of the 4 KiB pages that an extent of n bytes at va touches. -/
def pagesOf (va : VAddr) (n : Nat) : List VAddr :=
  if n = 0 then []
  else (List.range ((va.toNat % 4096 + n + 4095) / 4096)).map fun i =>
    if i = 0 then va else BitVec.ofNat 54 ((va.toNat / 4096 + i) * 4096)

/-- The translations of the pages of an extent, in ascending order. -/
def State.xlatePages (s : State) (site ctx : Nat) : List VAddr → Except Bad (List (VAddr × Xl))
  | [] => .ok []
  | va :: rest =>
    match s.xlate site ctx va 1 with
    | .error (rs, lv) => .error { cls := .xlat, addr := va.zeroExtend 64, reason := rs, level := lv }
    | .ok x => match s.xlatePages site ctx rest with
      | .error b => .error b
      | .ok xs => .ok ((va, x) :: xs)

/-- R25: every page of an extent is translated before the permission of any is checked, and HOMELOST
(R114) comes after both; within a step the lowest page that fails is reported. A supervisor core's
addresses have no permissions (R369). -/
def State.checkPages (s : State) (site ctx : Nat) (nd : Need) (l : List VAddr) : Except Bad (List Xl) :=
  match s.xlatePages site ctx l with
  | .error b => .error b
  | .ok xs =>
    let perm : Option Bad := if isSuper site then none else xs.findSome? fun x =>
      (permBad x.2 nd).map fun rs => { cls := .perm, addr := x.1.zeroExtend 64, reason := rs }
    let lost : Option Bad := (xs.find? fun x => s.isLost x.2.pa).map fun x =>
      { cls := .homelost, addr := x.1.zeroExtend 64 }
    match perm, lost with
    | some b, _ => .error b
    | none, some b => .error b
    | none, none => .ok (xs.map Prod.snd)

/-- R13, R25: an extent of n bytes, aligned to `al`: ALIGN, then bounds over the whole extent, then
each page. The pages' translations, lowest first. -/
def State.checkExtent (s : State) (site ctx : Nat) (p : DWord) (n al : Nat) (nd : Need) :
    Except Bad (List Xl) :=
  let va := ptrVa p
  if va.toNat % al ≠ 0 then .error { cls := .align, addr := va.zeroExtend 64 }
  else if isSuper site && decide (efld p 52 12 ≠ 0) then .error { cls := .bounds, addr := p }
  else if !isSuper site && !s.boundsOk site ctx p n nd.rd nd.wr then
    .error { cls := .bounds, addr := p }
  else if !isSuper site && decide (2 ^ 54 < va.toNat + n) then
    .error { cls := .xlat, addr := va.zeroExtend 64, reason := 5 }
  else s.checkPages site ctx nd (pagesOf va n)

/-- The cell that holds the byte at va, where it translates. -/
def State.keyAt (s : State) (site ctx : Nat) (va : VAddr) : Option (Nat × Bool) :=
  match s.xlate site ctx va 1 with
  | .ok x => some (x.key, x.bank)
  | .error _ => none

/-- Place of a class in the order of R25. -/
def Cls.rank : Cls → Nat
  | .align => 0 | .bounds => 1 | .xlat => 2 | .perm => 3 | .fmt => 4 | _ => 5

/-- R25: of the faults of two pointers of a lane, the one whose check comes first. -/
def firstBad (a b : Option Bad) : Option Bad :=
  match a, b with
  | some x, some y => if y.cls.rank < x.cls.rank then some y else some x
  | some x, none => some x
  | none, y => y

/-- Keep the leaf and bounds entry of an access in the site's caches (R15, R26). -/
def Run.cacheXl (r : Run s0) (site ctx : Nat) (p : DWord) : Run s0 :=
  if isSuper site then r else
  let va := ptrVa p
  let tag := ptrTag p
  let lf := r.s.leafOf site ctx va
  let be := r.s.bndEntry site ctx tag
  r.updSite site fun x => { x with
    tlb := (match lf with
      | .ok e => KV.put (ctx * 2 ^ 42 + va.toNat / 4096) e x.tlb
      | .error _ => x.tlb),
    bnd := if tag = 0 then x.bnd else KV.put (ctx * 1024 + tag) be x.bnd }

/-- Drop a site's cached translations and bounds entries. -/
def Run.coldCaches (r : Run s0) (site : Nat) : Run s0 :=
  r.updSite site fun x => { x with tlb := [], bnd := [] }

end Sys2Proof.Machine
end

