-- ==== Sys2Proof/Machine/Issue.lean ====
section
/-! DEFINITION. Issuing a word for a crew (R148 to R163, R178 to R188): what holds it back, which
lanes fail and how, the watch predicates on both sides of it (R350 to R357), shipping (R62), and
what is left of the crew afterwards (R154, R156, R157). Each meaning of an instruction word is one
`Desc` run by `runWord`. -/

namespace Sys2Proof.Machine
variable {s0 : State}

/-! ### What a lane sees -/

/-- A lane of an issuing word: its fibre as it stands at the word's issue count, results settled and
flags observed, and the values of the source operands. -/
structure Env where
  site : Nat
  ctx : Nat
  gk : Nat
  g : Gang
  key : Nat
  lane : Nat
  f : Fibre
  /-- the word's issue count (R182) -/
  now : Nat
  /-- first word of the group (R179), and the word -/
  start : VAddr
  pc : VAddr
  active : Bool
  /-- the guard holds; a branch takes part without (R149) -/
  guard : Bool := true
  imm : Option (BitVec 22) := none
  /-- rounding in force (R217), and the other modifiers (R185) -/
  rm : BitVec 2 := 0
  sat : Bool := false
  tol : Bool := false
  noal : Bool := false
  wskip : Bool := false
  /-- flag the group signals: 0 to 11, 15 none named, 16 inside a walk -/
  sig : Nat := 15
  wait : Bool := false
  body : Bool := false
  /-- active lanes of the word -/
  mask : Word := 0
  /-- source operands, in the order of the word's source fields -/
  v : List (List PW) := []
  /-- of a word issued by eights: what each lane of the eight reads for itself, and the fibre of the
  lane whose operands they all read -/
  own : List (List PW) := []
  lead : Nat := 0
  deriving Repr, Inhabited

/-- The address that the PC predicates see: the group's first word, or the body word of a walk. -/
def Env.place (e : Env) : VAddr :=
  if e.body then e.pc + 4 + BitVec.ofNat 54 (4 * efld e.f.walk.v1 32 5) else e.start
/-- Source operand n. -/
def Env.op (e : Env) (n : Nat) : List PW := e.v.getD n []
/-- First word of source operand n. -/
def Env.w (e : Env) (n : Nat) : Word := w0 (e.op n)
/-- 64-bit value of source operand n. -/
def Env.d (e : Env) (n : Nat) : DWord := pair (e.op n)
/-- R184: the byte offset that an IMM hint gives. -/
def Env.off (e : Env) : Int := match e.imm with | some p => p.toInt | none => 0

/-- How a word is issued. -/
structure Desc (s0 : State) where
  i : Instr
  guard : BitVec 4
  /-- the word itself, and the reason of an encoding that is none (R187) -/
  word : Word := i.word
  bad : Option Nat := none
  /-- register fields, source fields in operand order -/
  uses : List Use := []
  /-- the guard is the branch condition (R149) -/
  branch : Bool := false
  /-- where an active lane goes, for a word that may split its crew (R156, R157) -/
  target : Option (Env → VAddr) := none
  /-- hints accepted (R184, R185 and the class chapters) -/
  paceOk : Bool := true
  sigOk : Bool := true
  immOk : Bool := false
  immErr : BitVec 22 → Bool := fun _ => false
  rnd : Bool := false
  sat : Bool := false
  tol : Bool := false
  noal : Bool := false
  /-- ends a line region with reason 5 (R255) -/
  noRegion : Bool := false
  /-- the effect takes the lanes' queue elements itself -/
  ownPops : Bool := false
  /-- not on a sculler: ships home (R62) -/
  homeOnly : Bool := false
  /-- only on a sculler, so missing on a supervisor core too (R62, R369) -/
  scullerOnly : Bool := false
  /-- the sculler the lane ships to, or the home core on the way to it (R62, R268) -/
  toSculler : State → Env → Option Nat := fun _ _ => none
  /-- ILLEG reasons that depend on values, with the word of the record (R188) -/
  illeg : State → Env → Option Nat := fun _ _ => none
  illegWord : State → Env → Option Word := fun _ _ => none
  /-- the word waits for every completion flag: 1 of its active lanes (R168), 2 of every member
  (R206) -/
  drain : Nat := 0
  /-- a lane that waits for all its flags because of its operands (R207) -/
  drainIf : State → Env → Bool := fun _ _ => false
  /-- flags that it waits for besides those of its hints (R307) -/
  waits : BitVec 12 := 0
  /-- further waits of a lane in its crew (R161) -/
  hold : State → Env → Bool := fun _ _ => false
  /-- the leaf of R362 that such a wait is charged to -/
  stall : Nat := 9
  /-- further waits of the active lanes together: for a power token (R294), a queue (R178); and their
  leaf -/
  holdAll : State → List Env → Bool := fun _ _ => false
  stallAll : Nat := stall
  /-- what such a wait leaves behind (R294) -/
  held : Run s0 → List Env → Run s0 := fun r _ => r
  /-- accesses offered to the address predicates: store, address, span (R351) -/
  addrs : State → Env → List (Bool × VAddr × Nat) := fun _ _ => []
  /-- the checks of R25 -/
  check : State → Env → Option Bad := fun _ _ => none
  /-- issued by eights (R281): the source operands are those of lane 8e, and these fields are read
  by every lane -/
  eights : Option (List Use) := none
  /-- every eight with an active lane must be full (R281, R297) -/
  full : Bool := eights.isSome
  /-- R132: no lane performs unless every lane passes -/
  all : Bool := false
  /-- words stored, for the value predicates; exception events (R219) -/
  stored : State → Env → List Word := fun _ _ => []
  exc : Env → BitVec 5 := fun _ => 0
  /-- the effect on the lanes that pass, in ascending lane order -/
  act : Run s0 → List Env → Run s0

/-- Act lane by lane. -/
def perLane (f : Run s0 → Env → Run s0) (r : Run s0) (es : List Env) : Run s0 := r.each es f

/-! ### Watch predicates (R350 to R357) -/

/-- A candidate of a lane (R351). -/
inductive Cand where
  | addr (store : Bool) (va : VAddr) (n : Nat)
  | pc (va : VAddr)
  | val (store : Bool) (ws : List Word)
  | exc (x : BitVec 5)
  deriving Repr

/-- R351: whether a range comparator takes n bytes at va. -/
def rangeHit (d : BitVec 128) (va n : Nat) : Bool :=
  let base := efld d 26 54
  let inside := decide (va < base + efld d 0 26) && decide (base < va + n)
  if efld d 118 3 = 0 then inside else if efld d 118 3 = 1 then !inside else false

/-- R351: whether a value comparator takes a word. -/
def valueHit (d : BitVec 128) (x : Word) : Bool :=
  let ref : Word := d.extractLsb' 48 32
  let hi : Word := d.extractLsb' 16 32
  match efld d 118 3 with
  | 2 => decide (x &&& hi = ref &&& hi)
  | 3 => ref.sle x && x.sle hi
  | 4 => ref.ule x && x.ule hi
  | _ => false

/-- The candidate that a descriptor matches, if any. -/
def candHit (d : BitVec 128) (c : Cand) : Option DWord :=
  let srcCode := efld d 121 3
  match c with
  | .addr st va n =>
    if srcCode = (if st then 1 else 0) ∧ rangeHit d va.toNat n then some (va.zeroExtend 64) else none
  | .pc va => if srcCode = 5 ∧ rangeHit d va.toNat 4 then some (va.zeroExtend 64) else none
  | .val st ws =>
    if srcCode = (if st then 3 else 2) then (ws.find? (valueHit d)).map fun w => w.zeroExtend 64
    else none
  | .exc x =>
    if srcCode = 4 ∧ efld d 118 3 = 5 ∧ (d.extractLsb' 0 5) &&& x ≠ 0 then some (x.zeroExtend 64)
    else none

/-- R350: whether a predicate covers a fibre. -/
def State.covers (s : State) (p : WPred) (gk fid : Nat) : Bool :=
  match p.gang with
  | none => false
  | some h =>
    p.desc.getLsbD 127 &&
    match efld p.desc 116 2 with
    | 0 => decide ((s.gang h).ctx = (s.gang gk).ctx)
    | 1 => decide (h = gk)
    | _ => decide (h = gk) && decide (efld p.desc 106 10 ≤ fid) && decide (fid ≤ efld p.desc 96 10)

/-- A predicate that fires: its number, action and candidate. -/
structure Fired where
  n : Nat
  act : Nat
  cand : DWord
  deriving DecidableEq, Repr, Inhabited

/-- R356: halt gang over halt crew over halt fibre over trap. -/
def Fired.rank (x : Fired) : Nat := match x.act with | 3 => 4 | 2 => 3 | 1 => 2 | _ => 1

/-- R352: offer a lane's candidates to the predicates of its core; the action taken, if any. -/
def Run.watch (r : Run s0) (site gk fid : Nat) (wskip : Bool) (cs : List Cand) :
    Run s0 × Option Fired :=
  let x := r.s.site site
  if !isCore site || wskip || x.woff || cs.isEmpty then (r, none)
  else
    let hits := x.preds.filterMap fun p =>
      if r.s.covers p.2 gk fid then (cs.findSome? (candHit p.2.desc)).map fun c => (p.1, p.2, c)
      else none
    if hits.isEmpty then (r, none) else
    let bump (p : WPred) : WPred :=
      { p with count := if p.count = BitVec.allOnes 64 then p.count else p.count + 1 }
    let fired := hits.filterMap fun h =>
      if Nat.max 1 (efld h.2.1.desc 80 16) ≤ (bump h.2.1).count.toNat then
        some ({ n := h.1, act := efld h.2.1.desc 124 3, cand := h.2.2 } : Fired) else none
    let r := r.updSite site fun x => { x with
      preds := hits.foldl (fun m h => KV.put h.1 (bump h.2.1) m) x.preds,
      hit := fired.foldl (fun m h => if h.act = 0 then m else m ||| (1#16 <<< h.n)) x.hit }
    (r, (fired.filter fun h => decide (h.act ≠ 0)).foldl (fun (b : Option Fired) h => match b with
      | none => some h
      | some y => if y.rank < h.rank then some h else b) none)

/-- R352: a word waits for its fibre's loads and divisions while an enabled value or exception
predicate covers it. -/
def State.watchWait (s : State) (site gk fid key : Nat) : Bool :=
  isCore site && !(s.site site).woff &&
  ((s.site site).preds.any fun p => s.covers p.2 gk fid &&
    decide (efld p.2.desc 121 3 = 2 ∨ efld p.2.desc 121 3 = 3 ∨ efld p.2.desc 121 3 = 4)) &&
  s.ops.any fun o => decide (o.2.fibre = key) && !o.2.acc.scr && match o.2.kind with
    | .load _ => true
    | .value fp _ => fp
    | .atom _ _ _ _ => true
    | .cas _ _ _ => true
    | _ => false

/-- The halt record of a fired predicate (R358). -/
def Fired.halt (x : Fired) (after : Bool) : Halt :=
  { pred := x.n, act := x.act, after := after, cand := x.cand }

/-- Halt one fibre (R355): it waits in the boathouse, marked. -/
def Run.haltFibre (r : Run s0) (k : Nat) (h : Halt) : Run s0 :=
  ((r.leaveCrew k).abortRegion k 2).updFibre k fun f => { f with
    halt := some h, stepping := false, toHalt := none }

/-- R179: the fibre's crew has issued a hint, and not yet the instruction of its group. -/
def State.inGroup (s : State) (k : Nat) : Bool :=
  let f := s.fibre k
  match f.slot with
  | none => false
  | some sl => match KV.find? (ckey f.site sl) s.crews with
    | some c => c.hints.isSome
    | none => false

/-- A halt reaches a fibre: one between a hint and its instruction issues that first (R179, R355). -/
def Run.haltSoon (r : Run s0) (k : Nat) (h : Halt) : Run s0 :=
  if r.s.inGroup k then r.updFibre k fun f => { f with toHalt := some h } else r.haltFibre k h

/-- R356: a halt leaves parked fibres as they are, and those that another gang halt is still to stop. -/
def State.canHalt (s : State) (k : Nat) : Bool :=
  match KV.find? k s.fibres with
  | some f => decide (f.park = none) && decide (f.halt = none) && decide (f.toHalt = none)
  | none => false

/-- R355, R357: halt fibres together and report them in one fault-queue entry. -/
def Run.haltAll (r : Run s0) (site : Nat) (keys : List Nat) (x : Fired) (after : Bool) : Run s0 :=
  match keys.filter r.s.canHalt with
  | [] => r
  | k :: ks =>
    let r := r.each (k :: ks) fun r k => r.haltSoon k (x.halt after)
    let f := r.s.fibre k
    let g := r.s.gang f.gang
    let fail : Fail := { key := k, lane := f.lane, cls := .watch, addr := x.cand, reason := x.n, pc := f.pc }
    r.updDie (dieOf site) fun d => Die.noteFull { d with
      cwait := d.cwait ++
        [{ ctx := g.ctx, cls := .watch, reason := x.n, page := 0,
           record := mkRecord g f fail fail (laneMask [fail.lane]), fibres := k :: ks, halt := true,
           order := d.arrivals }],
      arrivals := d.arrivals + 1 }

/-- The fibres of a gang. -/
def State.gangFibres (s : State) (gk : Nat) : List Nat :=
  (KV.range (gk * 1024) 1024 s.fibres).map Prod.fst

/-- R355: carry out the halts that a word's lanes fired. A gang halt stops the gang's other fibres
where they stand, and its copy channels hold. -/
def Run.doHalts (r : Run s0) (site gk : Nat) (crew : List Nat) (fs : List (Nat × Fired))
    (after : Bool) : Run s0 :=
  match fs.find? (fun x => decide (x.2.act = 3)) with
  | some x =>
    let others := (r.s.gangFibres gk).filter fun k => !crew.contains k
    (r.haltAll site (crew ++ others) x.2 after).updGang gk fun g =>
      { g with chans := g.chans.map fun c => (c.1, { c.2 with held := true }) }
  | none =>
    match fs.find? (fun x => decide (x.2.act = 2)) with
    | some x => r.haltAll site crew x.2 after
    | none => r.each (fs.filter fun x => decide (x.2.act = 1)) fun r x => r.haltAll site [x.1] x.2 after

/-! ### What holds a word back -/

/-- A flag that a wait holds on (R181). -/
def Fibre.holds (f : Fibre) (n : Nat) : Bool :=
  decide ((f.flag n).st = .busy) && decide ((f.flag n).note = none)

/-- The flags that a word of a lane waits on: the implicit one of R183, and for an active lane those
of its WAIT mask and the one it signals; every flag where the word waits for all of them. -/
def waitSet (h : Hints) (active every : Bool) : List Nat :=
  15 :: (if every then List.range 12
    else if active then (List.range 12).filter fun n => h.wait.getLsbD n || decide (h.sig = n)
    else [])

/-- R119, R120, R386: an acquire or fence whose earlier accesses have not all taken their instants, or a
request that its placer has still to take. -/
def State.fenced (s : State) (f : Fibre) : Bool :=
  f.fence.any fun o => match KV.find? o s.ops with
    | some x => match x.kind with
      | .put _ _ _ => decide (x.stage = .pending)
      | .bfree _ => decide (x.stage = .pending)
      | _ => decide (x.stage = .pending ∨ x.stage = .away)
    | none => false

/-- R316 to R344, R114: a crew issues only while its context runs, and not on a failed die. -/
def State.issues (s : State) (site : Nat) (g : Gang) : Bool :=
  !(s.die (dieOf site)).failed &&
    (if isSuper site then !(s.die (dieOf site)).supStopped else decide ((s.ctx g.ctx).st = .running))

/-- The trap that a noted fault comes to at the observing word (R54, R181, R222). -/
def Note.fail (x : Note) (key lane : Nat) (at_ : VAddr) : Fail :=
  { key := key, lane := lane, cls := x.cls, addr := x.addr, reason := x.reason, level := x.level,
    eng := x.pc.isNone, pc := x.pc.getD at_, gph := some x.gph }

/-- A fibre raises the fault of a flag that carries one. -/
def Run.notedFault (r : Run s0) (k n : Nat) (note : Note) : Run s0 :=
  let f := r.s.fibre k
  let r := r.updFibre k fun f =>
    if note.engine then { f with restart := f.restart ||| (1#8 <<< note.ch) } else f.observe n
  r.raise [note.fail k f.lane f.pc]

/-! ### A crew's lanes -/

def noHints (pc : VAddr) : Hints := { start := pc }

/-- Observe a flag that is DONE without a fault. -/
def Fibre.look (f : Fibre) (n : Nat) : Fibre :=
  if (f.flag n).st = .done ∧ (f.flag n).note = none then f.observe n else f

/-- The lane of one member of the issuing crew. -/
def mkEnv (s : State) (c : Cur) (cr : Crew) (d : Desc s0) (fid : Nat) : Env :=
  let key := fkey cr.gang fid
  let f0 := s.fibre key
  let h := cr.hints.getD (noHints f0.pc)
  let g := s.gang cr.gang
  let now := f0.count + 1 + (if c.body then 0 else h.dist)
  let f := (f0.look 15).settle now
  let m : BitVec 22 := h.mods.getD 0
  { site := c.site, ctx := g.ctx, gk := cr.gang, g := g, key := key, lane := f.lane, f := f,
    now := now, start := if c.body then f0.pc else h.start, pc := f0.pc,
    active := d.branch || guardOk d.guard f, guard := guardOk d.guard f,
    imm := if c.body then none else h.imm,
    rm := if m.getLsbD 21 then m.extractLsb' 19 2 else g.rm,
    sat := m.getLsbD 18, tol := m.getLsbD 17, noal := m.getLsbD 16, wskip := m.getLsbD 15,
    sig := if c.body then 16 else h.sig, wait := c.wait, body := c.body }

/-- Where a lane goes. -/
def Env.next (e : Env) (d : Desc s0) : VAddr :=
  match d.target with
  | some t => if e.active then t e else e.pc + 4
  | none => e.pc + 4

/-- R175, R180, R184, R185: the hint errors of a group, with the word each names. -/
def hintErrs (d : Desc s0) (h : Hints) (g : Gang) : List Word :=
  let m : BitVec 22 := h.mods.getD 0
  (match h.err with | some w => [w] | none => []) ++
  (if h.pace ∧ (!d.paceOk ∨ (!d.sigOk ∧ h.sig ≠ 15)) then
    [(Instr.pace h.wait (BitVec.ofNat 4 h.sig) (BitVec.ofNat 3 h.dist)).word] else []) ++
  (match h.imm with
    | some p => if !d.immOk ∨ d.immErr p then [(Instr.imm p).word] else []
    | none => []) ++
  (if (!d.rnd ∧ m.extractLsb' 19 3 ≠ 0) ∨ (m.getLsbD 18 ∧ !d.sat) ∨ (m.getLsbD 17 ∧ !d.tol) ∨
      (m.getLsbD 16 ∧ !d.noal) ∨ (m.getLsbD 15 ∧ !g.dbg) then
    [0xFE80_0000#32 ||| m.zeroExtend 32] else [])

/-- R188: the lowest ILLEG reason that the word and its hints give, and the word of the record. `lanes` are
those that R259 counts against the SLOTS of a queue: of a BRDEC or a JMPI those too whose guard is false
(R149, R200, R202; log entry 62, DESIGN CHOICE). -/
def staticErr (d : Desc s0) (h : Hints) (g : Gang) (lanes : Nat) : Option (Nat × Word) :=
  let own := minReason (minReason d.bad (if d.i.wf then none else some 1)) (usesErr g lanes d.uses)
  match own, hintErrs d h g with
  | some n, w :: _ => if n < 4 then some (n, d.word) else some (4, w)
  | some n, [] => some (n, d.word)
  | none, w :: _ => some (4, w)
  | none, [] => none

/-- R178: whether every queue that a word names serves its active lanes. What they pop from a ring leaves
room in it; a mailbox is filled at the other end (R368). -/
def State.queuesServe (s : State) (g : Gang) (lanes : Nat) (us : List Use) : Bool :=
  (queueSrcs us).all (fun n => match KV.find? (n - 112) g.queues with
    | some q => decide (lanes ≤ q.count)
    | none => true) &&
  (queueDsts us).all fun n => match KV.find? (n - 112) g.queues with
    | some q => decide (lanes ≤ s.room g.ctx q + (if n ∈ queueSrcs us ∧ q.kind ≠ 3 then lanes else 0))
    | none => true

/-! ### The lanes in turn -/

/-- What the lanes looked at so far have come to. -/
structure Pass (s0 : State) where
  r : Run s0
  /-- elements taken from each queue by lower lanes -/
  heads : List (Nat × Nat) := []
  ok : List Env := []
  /-- lanes that failed before, and in, the checks of R25 -/
  fails : List Fail := []
  late : List Fail := []
  ships : List (Nat × Nat) := []
  regions : List Nat := []
  halts : List (Nat × Fired) := []

/-- R54: the lowest poisoned source register of a lane. -/
def poisonReg (us : List Use) (vs : List (List PW)) : Option Nat :=
  ((us.filter fun u => !u.dst).zip vs).findSome? fun x =>
    if isQueue x.1.reg then none
    else ((List.range x.2.length).find? fun i => (x.2.getD i {}).p).map fun i => x.1.reg + i

/-- R54: a poisoned queue element that the lane would pop: its ring-slot offset or mailbox number. -/
def poisonElem (g : Gang) (heads : List (Nat × Nat)) (us : List Use) (vs : List (List PW)) :
    Option Nat :=
  ((us.filter fun u => !u.dst).zip vs).findSome? fun x =>
    if isQueue x.1.reg && x.2.any (fun w => w.p) then
      (KV.find? (x.1.reg - 112) g.queues).map fun q =>
        if q.kind = 3 then q.mbox
        else q.base + ((q.head + KV.getD x.1.reg 0 heads) % q.slots) * (4 * q.regs)
    else none

/-- R292: a poisoned register that a lane of the eight reads for itself. -/
def poisonOwn (d : Desc s0) (e : Env) : Option Nat :=
  match d.eights with
  | none => none
  | some us => e.own.foldl (fun m ws => minReason m (poisonReg us [ws])) none

/-- The active lanes that read the source fields: by eights the first (R281), at a branch those whose
guard holds (R200, R202). -/
def Desc.reads (d : Desc s0) (e : Env) : Bool :=
  (d.eights.isNone || decide (e.lane % 8 = 0)) && (!d.branch || e.guard)

/-- R281: MASK for an eight with an inactive lane. -/
def maskCheck (e : Env) : Option Bad :=
  if ((e.mask >>> (e.lane / 8 * 8)).toNat % 256) = 255 then none else some { cls := .mask, addr := 0 }

/-- R188: the reason of an ILLEG that depends on the lane's values or its site. -/
def Desc.laneIlleg (d : Desc s0) (s : State) (e : Env) : Option Nat :=
  minReason (d.illeg s e)
    (if isSuper e.site && (d.homeOnly || d.scullerOnly || d.uses.any fun u => isQueue u.reg) then some 5
      else none)

/-- R62: where the lane ships to, if its site lacks the instruction. -/
def Desc.away (d : Desc s0) (s : State) (e : Env) : Option Nat :=
  if isSculler e.site && (d.homeOnly || d.uses.any fun u => isQueue u.reg) then some e.g.core
  else if isSuper e.site then none else d.toSculler s e

/-- R188: a lane's ILLEG for a word whose own reason, over all lanes, is `x`: the lowest of them. -/
def Desc.illegFail (d : Desc s0) (s : State) (x : Option (Nat × Word)) (e : Env) : Option (Nat × Word) :=
  match x, d.laneIlleg s e with
  | some (n, w), some m => if m < n then some (m, (d.illegWord s e).getD d.word) else some (n, w)
  | some x, none => some x
  | none, some m => some (m, (d.illegWord s e).getD d.word)
  | none, none => none

/-- The record of an eight stands for its lanes (R281). -/
def Env.eight (e : Env) (d : Desc s0) : Nat := if d.eights.isSome then e.lane / 8 else 0

/-- One active lane (R25, R188, R281, R297, R356). R25 gives SITE no place beside POISON reason 1: a lane
that ships does so before its source registers are looked at, and meets their poison where it issues again
(log entry 52, DESIGN CHOICE). -/
def passLane (d : Desc s0) (p : Pass s0) (e0 : Env) : Pass s0 :=
  let s := p.r.s
  let vs := if d.eights.isSome then e0.v else (d.uses.filter fun u => !u.dst).map fun u =>
    readUse s e0.g e0.f (KV.getD u.reg 0 p.heads) u
  let e := { e0 with v := vs }
  let fail (c : Cls) (a : DWord) (n : Nat) : Fail :=
    { key := e.key, lane := e.lane, cls := c, addr := a, reason := n, pc := e.start, eight := e.eight d }
  match d.illegFail s none e with
  | some (n, w) => { p with fails := p.fails ++ [fail .illeg (w.zeroExtend 64) n] }
  | none =>
  if e.f.region.isSome ∧ d.noRegion then { p with regions := p.regions ++ [e.key] } else
  match d.away s e with
  | some site => { p with ships := p.ships ++ [(e.key, site)] }
  | none =>
  match (if d.full then maskCheck e else none) with
  | some b => { p with fails := p.fails ++ [fail b.cls b.addr b.reason] }
  | none =>
  let read := !d.branch || e.guard
  match (if read then minReason (poisonReg d.uses vs) (poisonOwn d e) else none),
    (if read then poisonElem e.g p.heads d.uses vs else none) with
  | some n, _ => { p with fails := p.fails ++ [fail .poison (BitVec.ofNat 64 n) 1] }
  | none, some a => { p with fails := p.fails ++ [fail .poison (BitVec.ofNat 64 a) 3] }
  | none, none =>
  let w := if e.f.fresh then (p.r, none)
    else p.r.watch e.site e.gk e.f.fid e.wskip
      (.pc e.place :: (d.addrs s e).map fun a => .addr a.1 a.2.1 a.2.2)
  let p := { p with r := w.1 }
  match w.2 with
  | some x =>
    if x.act = 4 then { p with fails := p.fails ++ [fail .watch x.cand x.n] }
    else { p with halts := p.halts ++ [(e.key, x)] }
  | none =>
  match d.check s e with
  | some b => { p with late := p.late ++
      [{ fail b.cls b.addr b.reason with level := b.level }] }
  | none => { p with
      ok := p.ok ++ [e],
      heads := if d.reads e then
          (queueSrcs d.uses).foldl (fun m n => KV.put n (KV.getD n 0 m + 1) m) p.heads
        else p.heads }

/-! ### Results -/

/-- A fixed-latency result of a lane (R182): registers, or an element pushed (R178). -/
def Run.result (r : Run s0) (e : Env) (reg : BitVec 7) (vs : List PW) : Run s0 :=
  if isQueue reg.toNat then r.push e.gk (reg.toNat - 112) vs
  else r.updFibre e.key fun f =>
    (List.range vs.length).foldl (fun f i => f.writeAt e.now (reg.toNat + i) (vs.getD i {})) f

/-- A 32-bit fixed-latency result. -/
def Run.result32 (r : Run s0) (e : Env) (reg : BitVec 7) (v : Word) : Run s0 :=
  r.result e reg [{ v := v }]

/-- A result that completes at issue: readable by the next word (R183). -/
def Run.resultNow (r : Run s0) (e : Env) (reg : BitVec 7) (vs : List PW) : Run s0 :=
  if isQueue reg.toNat then r.push e.gk (reg.toNat - 112) vs
  else r.updFibre e.key fun f =>
    (List.range vs.length).foldl (fun f i => f.writeNow (reg.toNat + i) (vs.getD i {})) f

/-- R183: a value that is at hand at once for a fibre whose word signals flag `sig`: readable by the next
word without one, at the observation of the flag with one. A queue takes it at once. -/
def Run.resultAt (r : Run s0) (k sig reg : Nat) (v : PW) : Run s0 :=
  let gk := (r.s.fibre k).gang
  if isQueue reg then r.push gk (reg - 112) [v]
  else if sig < 12 then
    let id := r.s.nextId
    r.bump.updFibre k fun f => (f.promise reg sig id).deliver id reg [v]
  else r.updFibre k fun f => f.writeNow reg v

/-- Start an operation of a lane (R181, R183): it signals the named flag, or holds the next word
where `full`. Its `w` destination registers take their values at the observation; a queue named as
destination has the push in flight (R241). The serial number is the one `r.s.nextId` names. -/
def Run.startOp (r : Run s0) (e : Env) (o : Op) (w : Nat) (full eng : Bool) : Run s0 :=
  let id := r.s.nextId
  let fl := if e.sig < 12 then e.sig else if full && decide (e.sig ≠ 16) then 15 else 16
  -- a queue named as destination takes the lanes' values in lane order (R178, R241)
  let before := if isQueue o.dst ∧ 0 < w then
      (r.s.ops.filter fun x => decide (x.2.dst = o.dst ∧ x.2.site = e.site ∧ x.2.pc = e.start ∧
        x.2.lane < e.lane) && decide ((r.s.fibre x.2.fibre).gang = e.gk) &&
        decide ((r.s.fibre x.2.fibre).slot = e.f.slot)).map Prod.fst
    else []
  let o := { o with fibre := e.key, site := e.site, lane := e.lane, flag := fl, pc := e.start,
                    wskip := e.wskip, after := before, ten := e.g.ten, gph := e.g.gphase,
                    mark := e.f.relMark, wins := r.s.pkg.peerwin }
  let r := r.bump.mod fun s => { s with ops := KV.put id o s.ops }
  let r := r.updFibre e.key fun f =>
    let f := if fl < 16 then f.setFlag fl { st := .busy, eng := eng } else f
    (List.range w).foldl (fun f i => f.promise (o.dst + i) fl id) f
  if 0 < w then r.reserve e.gk o.dst else r

/-! ### After the word -/

/-- R154: which fibres of the boathouse the former may use. -/
def Fibre.formable (f : Fibre) : Bool :=
  decide (f.slot = none) && decide (f.halt = none) && decide (f.park = none) &&
    decide (f.wait = none) && decide (f.ship = none)

/-- Of a list of fibres, the oldest; the lowest fid on a tie (R152). -/
def oldest (l : List (Nat × Fibre)) : Option (Nat × Fibre) :=
  l.foldl (fun b x => match b with
    | none => some x
    | some y => if y.2.age < x.2.age ∨ (y.2.age = x.2.age ∧ x.2.fid < y.2.fid) then some x else b) none

/-- Members of a crew in lane order. -/
def laneOrder (site : Nat) (fids : List Nat) : List Nat :=
  (List.range (lanesOf site)).flatMap fun l => fids.filter fun x => decide (x % lanesOf site = l)

/-- A fibre leaves its entry: its time there is over (R153). -/
def Run.waited (r : Run s0) (site k : Nat) : Run s0 :=
  r.updSite site fun x => { x with waits := KV.del k x.waits }

/-- R154: fibres at the crew's next PC join its empty lanes. -/
def Run.joinCrew (r : Run s0) (site slot : Nat) : Run s0 :=
  match KV.find? (ckey site slot) r.s.crews with
  | none => r
  | some cr =>
    match cr.fids with
    | [] => r
    | fid :: _ =>
      let f := r.s.fibre (fkey cr.gang fid)
      if cr.alone ∨ cr.joined ∨ cr.hints.isSome ∨ f.walking then r else
      let pool := (KV.range (cr.gang * 1024) 1024 r.s.fibres).filter fun x =>
        x.2.formable && !x.2.stepping && !x.2.walking && decide (x.2.site = site) &&
          decide (x.2.pc = f.pc)
      if pool.isEmpty then r else
      r.each (List.range (lanesOf site)) fun r l =>
        match KV.find? (ckey site slot) r.s.crews with
        | none => r
        | some c =>
          if c.fids.any fun x => decide (x % lanesOf site = l) then r
          else match oldest (pool.filter fun x => decide (x.2.fid % lanesOf site = l)) with
            | none => r
            | some x => ((r.updFibre x.1 fun f => { f with slot := some slot }).waited site x.1).updCrew
                (ckey site slot) fun c => { c with fids := laneOrder site (x.2.fid :: c.fids) }

/-- R156, R157: split a crew whose members stand at different addresses. The largest group stays; a
tie keeps the group at `fall`, or failing that the group with the lowest lane. -/
def Run.splitCrew (r : Run s0) (site slot : Nat) (fall : VAddr) : Run s0 :=
  match KV.find? (ckey site slot) r.s.crews with
  | none => r
  | some cr =>
    let ms := cr.fids.map fun fid => (fkey cr.gang fid, (r.s.fibre (fkey cr.gang fid)).pc)
    let size (pc : VAddr) := (ms.filter fun m => decide (m.2 = pc)).length
    let best := ms.foldl (fun (b : Option VAddr) m => match b with
      | none => some m.2
      | some y =>
        if size y < size m.2 ∨ (size y = size m.2 ∧ y ≠ fall ∧ m.2 = fall) then some m.2 else b) none
    r.each (ms.filter fun m => decide (some m.2 ≠ best)) fun r m => r.leaveCrew m.1

/-- R360: the stepped fibre has issued its instruction: it issues nothing more. -/
def Fibre.stepped (f : Fibre) : Bool := f.stepping && !f.fresh

/-- The fibre's full-completion wait is over: an observation (R183). -/
def Run.lookFull (r : Run s0) (k : Nat) : Run s0 :=
  let f := r.s.fibre k
  let r := r.updFibre k fun f => f.observe 15
  if (f.flag 15).eng then r.acquire f.site else r

/-- A fibre halts before its next word: under STEP once no wait of its instruction is left (R360), and
where a gang halt found it within a hint group (R355). -/
def Run.stopStep (r : Run s0) (k : Nat) : Run s0 :=
  let f := r.s.fibre k
  match f.toHalt with
  | some h => if r.s.inGroup k then r else r.haltFibre k h
  | none =>
    if f.stepped && decide (f.wait = none) && decide (f.ship = none) && !f.walking && !f.holds 15 &&
        decide ((f.flag 15).note = none) then
      (r.lookFull k).haltFibre k { after := true, step := true }
    else r

/-- Move a fibre of the crew to the boathouse at an address. -/
def Run.toBoathouse (r : Run s0) (k : Nat) (pc : VAddr) : Run s0 :=
  (r.leaveCrew k).updFibre k fun f => { f with pc := pc }

/-- R62, R63: a fibre starts shipping; a line region of it aborts first (R255). -/
def Run.shipOut (r : Run s0) (k : Nat) (pc : VAddr) (dest : Nat) : Run s0 :=
  ((r.toBoathouse k pc).abortRegion k 3).updFibre k fun f => { f with ship := some { dest := dest } }

/-- The hint words are spent. -/
def Run.dropHints (r : Run s0) (c : Cur) : Run s0 :=
  r.updCrew (ckey c.site c.slot) fun cr => { cr with hints := none }

/-- A lane passes the word: its count, age and address (R163, R182). The flag it signals is DONE
at issue, unless its effect starts an operation (R181). -/
def Run.advance (r : Run s0) (d : Desc s0) (e : Env) : Run s0 :=
  let f := if e.active ∧ e.sig < 12 then e.f.setFlag e.sig { st := .done } else e.f
  r.setFibre e.key { f with
    count := e.now, age := 0, fresh := false, wbuf := [], pc := if e.body then e.pc else e.next d }

/-- The hint words that the lane has issued before the word. -/
def Env.hintWords (e : Env) : Nat := (e.pc - e.start).toNat / 4

/-- A lane that performs nothing of the word stands at the first word of its group, with the issue count
it had there (R179, R182). -/
def Run.rewind (r : Run s0) (e : Env) : Run s0 :=
  r.updFibre e.key fun f => { f with pc := e.start, count := f.count - e.hintWords }

/-- A lane that fails in its effect has performed nothing of the word (R333). -/
def Run.unissue (r : Run s0) (e : Env) : Run s0 :=
  r.updFibre e.key fun f => { f with
    count := e.f.count - e.hintWords, flags := e.f.flags, pc := e.start, age := e.f.age, fresh := e.f.fresh }

/-- R219, R222, R356: the events of a lane after the word: sticky flags, the exception and stored
value predicates, and FPX, which a halt puts off. -/
def Run.afterLane (r : Run s0) (d : Desc s0) (s : State) (e : Env) :
    Run s0 × Option Fail × Option (Nat × Fired) :=
  let x := d.exc e
  let r := if x = 0 then r else r.updFibre e.key fun f => f.stick x
  let ws := d.stored s e
  let w := r.watch e.site e.gk e.f.fid e.wskip
    ((if x = 0 then [] else [.exc x]) ++ (if ws = [] then [] else [.val true ws]))
  let next := (w.1.s.fibre e.key).pc
  let fpx : Option Fail := if x &&& e.g.ten = 0 then none
    else some { key := e.key, lane := e.lane, cls := .fpx, pc := next,
                addr := (x &&& e.g.ten) ++ 0#5 ++ e.start }
  match w.2 with
  | none => (w.1, fpx, none)
  | some y =>
    if y.act = 4 then
      match fpx with
      | some _ => (w.1, fpx, none)
      | none => (w.1, some { key := e.key, lane := e.lane, cls := .watch, pc := next,
                             addr := y.cand, reason := y.n }, none)
    else (w.1, fpx.map fun z => { z with owed := true }, some (e.key, y))


/-- A lane takes its elements from the queues that the word names as sources. -/
def Run.takeElems (r : Run s0) (us : List Use) (e : Env) : Run s0 :=
  r.each (queueSrcs us) fun r n => r.pop e.gk (n - 112)

/-- A lane with the elements that now stand at the heads of the queues it reads: a lane that failed has
left its own (R389). -/
def Env.atHeads (e : Env) (us : List Use) (s : State) : Env :=
  if queueSrcs us = [] then e
  else { e with v := (us.filter fun u => !u.dst).map fun u => readUse s (s.gang e.gk) e.f 0 u }

/-- Lanes whose effect may still fail act in turn; their faults are raised together (R25). A lane that
fails has performed nothing of the word, so a queue keeps its element, which the next lane then takes
(R178, R333, R389; log entry 50). -/
def inTurn (us : List Use) (f : Run s0 → Env → Except Bad (Run s0)) (r : Run s0) (es : List Env) :
    Run s0 :=
  let x := es.foldl (fun (a : Run s0 × List (Env × Bad)) e =>
    match f a.1 (e.atHeads us a.1.s) with
    | .ok r => (r.takeElems us e, a.2)
    | .error b => (a.1, a.2 ++ [(e, b)])) (r, [])
  (x.1.each x.2 fun r b => r.unissue b.1).raise (x.2.map fun b =>
    { key := b.1.key, lane := b.1.lane, cls := b.2.cls, addr := b.2.addr, reason := b.2.reason,
      level := b.2.level, pc := b.1.start })

/-- The word is issued and some of its lanes perform it. A pop is an acquire (R122, R259, R368). -/
def Run.perform (r : Run s0) (c : Cur) (gk : Nat) (d : Desc s0) (crew : List Nat)
    (idle : List Env) (p : Pass s0) : Run s0 :=
  let s := r.s
  let r := (p.r.dropHints c).each (p.ok ++ idle) fun r e => r.advance d e
  -- an eight that a lane has broken up performs nothing (R281)
  let whole (e : Env) : Bool := !d.full ||
    decide ((p.ok.filter fun x => decide (x.lane / 8 = e.lane / 8)).length = 8)
  let r := r.each p.ok fun r e =>
    if !d.ownPops && d.reads e && whole e then r.takeElems d.uses e else r
  let r := if queueSrcs d.uses ≠ [] ∧ p.ok.any d.reads then r.acquire c.site else r
  let r := d.act r p.ok
  let x := p.ok.foldl (fun (a : Run s0 × List Fail × List (Nat × Fired)) e =>
    let y := a.1.afterLane d s e
    (y.1, a.2.1 ++ y.2.1.toList, a.2.2 ++ y.2.2.toList)) (r, [], [])
  let r := x.1.raise (p.fails ++ p.late)
  let r := r.raise x.2.1
  let r := r.each p.ships fun r m => r.shipOut m.1 ((p.r.s.fibre m.1).pc) m.2
  let r := r.each p.regions fun r k => (r.leaveCrew k).abortRegion k 5
  let r := r.each p.halts fun r m => r.haltAll c.site [m.1] m.2 false
  r.doHalts c.site gk crew x.2.2 true

/-- R296: inside a walk every word reads the results of the earlier ones. -/
def Run.settleBody (r : Run s0) (es : List Env) : Run s0 :=
  r.each es fun r e => r.updFibre e.key fun f => f.mature fun x => match x.when_ with
    | .count _ => true
    | .flag _ => false

/-- Issue a word whose lanes are `es` (occupied, in lane order, flags observed). -/
def Run.issueLanes (r : Run s0) (c : Cur) (cr : Crew) (d : Desc s0) (h : Hints) (es : List Env) :
    Run s0 :=
  let crew := cr.fids.map (fkey cr.gang)
  let act := es.filter Env.active
  let idle := es.filter fun e => !e.active
  let g := r.s.gang cr.gang
  match staticErr d h g act.length with
  | some (n, w) =>
    let fails : List Fail := act.map fun e =>
      let x := (d.illegFail r.s (some (n, w)) e).getD (n, w)
      { key := e.key, lane := e.lane, cls := .illeg, addr := x.2.zeroExtend 64, reason := x.1, pc := e.start,
        eight := e.eight d }
    let r := ((r.dropHints c).each idle fun r e => r.advance d e).each act Run.rewind
    let r := (r.raise fails).each crew fun r k => r.stopStep k
    r.joinCrew c.site c.slot
  | none =>
    let p := act.foldl (passLane d) { r := r }
    if p.halts.any (fun x => decide (2 ≤ x.2.act)) then
      -- R355: every occupied lane halts before the instruction, but for lanes that trap
      let r := (p.r.dropHints c).each es Run.rewind
      (r.raise p.fails).doHalts c.site cr.gang crew p.halts false
    else if d.all ∧ (p.fails ≠ [] ∨ p.late ≠ []) then
      -- R132
      let r := (p.r.dropHints c).each act Run.rewind
      let r := r.each p.ok fun r e => r.toBoathouse e.key e.start
      let r := r.each idle fun r e => r.advance d e
      let r := r.raise (p.fails ++ p.late)
      let r := r.each p.halts fun r m => r.haltAll c.site [m.1] m.2 false
      r.joinCrew c.site c.slot
    else
      let done (e : Env) : Bool := p.ok.any fun x => decide (x.key = e.key)
      let r1 := p.r.each (act.filter fun e => !done e) Run.rewind
      let r2 : Run s0 := r1.perform c cr.gang d crew idle { p with r := r1 }
      let r3 := if c.body then r2.settleBody p.ok else r2.splitCrew c.site c.slot
        ((es.head?.map fun e => e.pc + 4).getD 0)
      let r4 := r3.each crew fun r k => if c.body then r else r.stopStep k
      if c.body then r4 else r4.joinCrew c.site c.slot

/-- The operands of the lanes, each lower active lane taking its queue elements first (R178), and the
mask of the active lanes. -/
def withOperands (s : State) (d : Desc s0) (es : List Env) : List Env :=
  let mask := laneMask ((es.filter Env.active).map Env.lane)
  let es := (es.foldl (fun (a : List Env × Nat) e =>
    let vs := (d.uses.filter fun u => !u.dst).map fun u => readUse s e.g e.f a.2 u
    (a.1 ++ [{ e with mask := mask, v := vs }], if e.active && d.reads e then a.2 + 1 else a.2)) ([], 0)).1
  match d.eights with
  | none => es
  | some us => es.map fun e =>
    let mates := es.filter fun x => decide (x.lane / 8 = e.lane / 8)
    { e with
      v := (mates.headD e).v, lead := (mates.headD e).key,
      own := mates.map fun x => us.flatMap fun u => readUse s x.g x.f 0 u }

/-- The hint group that a word of the crew closes. -/
def groupOf (c : Cur) (cr : Crew) (d : Desc s0) (raw : List Env) : Hints :=
  let h := if c.body then noHints 0 else cr.hints.getD (noHints ((raw.head?.map Env.pc).getD 0))
  { h with wait := h.wait ||| d.waits }

/-- The lanes of the issuing crew, with their operands, flags that are done observed; a lane whose
wait has made its guard false is active no longer (R149). -/
def crewEnvs (s : State) (c : Cur) (cr : Crew) (d : Desc s0) : List Env :=
  let raw := cr.fids.map (mkEnv s c cr d)
  let h := groupOf c cr d raw
  let every (e : Env) : Bool := (decide (d.drain = 1) && e.active) ||
    (decide (d.drain = 2) && raw.any Env.active)
  withOperands s d (raw.map fun e =>
    let f := (waitSet h e.active (every e)).foldl Fibre.look e.f
    { e with f := f, active := e.active && (d.branch || guardOk d.guard f), guard := guardOk d.guard f })

/-- R362: an issued word takes one of the site's slots: leaf, and active lanes. -/
def Run.spend (r : Run s0) (site leaf lanes : Nat) : Run s0 :=
  r.updSite site fun x =>
    let bump (n k : Nat) (m : List (Nat × DWord)) := KV.put n (KV.getD n 0 m + BitVec.ofNat 64 k) m
    { x with
      budget := x.budget - 1,
      tdc := if x.tfrz || !isCore site then x.tdc
        else bump 15 lanes (bump leaf 1 (bump 0 1 x.tdc)) }

/-- R43: the wait of a fibre on one of its flags is for an eight-op whose operands have not come. -/
def State.matrixWait (s : State) (k : Nat) (ns : List Nat) : Bool :=
  s.ops.any fun o => (match o.2.kind with | .eight _ _ => true | _ => false) && o.2.isOpen &&
    (((o.2.fibre, o.2.flag) :: o.2.joint).any fun x => decide (x.1 = k) && ns.contains x.2)

/-- What a crew waits for blocks its members (R161). -/
def Crew.blocked (c : Crew) : Bool := decide (0 < c.stall) && decide (c.stall < 16)

/-- What holds the crew's next word, 0 for nothing. Members that are blocked no more start their ages
afresh (R163). -/
def Run.stallCrew (r : Run s0) (c : Cur) (leaf : Nat) : Run s0 :=
  let k := ckey c.site c.slot
  match KV.find? k r.s.crews with
  | none => r
  | some cr =>
    let r := if cr.blocked && !(Crew.blocked { cr with stall := leaf }) then
        r.each cr.fids fun r fid => r.updFibre (fkey cr.gang fid) fun f => { f with age := 0 }
      else r
    r.updCrew k fun cr => { cr with stall := leaf }

/-- R122, R259, R368: a push is a release: it waits for the lane's earlier accesses. -/
def pushHold (s : State) (d : Desc s0) (e : Env) : Bool :=
  decide (queueDsts d.uses ≠ []) && s.ops.any fun o => o.2.hasFibre e.key && o.2.isOpen && o.2.isMem

/-- R181, R183: what waits before the word issues, then the word. A lane whose ILLEG or SITE comes first
(R188, R62) waits for no queue and observes no fault. -/
def Run.issueWord (r : Run s0) (d : Desc s0) : Run s0 :=
  match r.s.cur with
  | none => r
  | some c =>
    match KV.find? (ckey c.site c.slot) r.s.crews with
    | none => r
    | some cr =>
      let es := crewEnvs r.s c cr d
      let h := groupOf c cr d es
      let every (e : Env) : Bool := (decide (d.drain = 1) && e.active) ||
        (decide (d.drain = 2) && es.any Env.active) || (e.active && d.drainIf r.s e)
      let g := r.s.gang cr.gang
      let nexts : List VAddr := es.map fun e => e.next d
      let split := d.target.isSome && nexts.any fun x => decide (some x ≠ nexts.head?)
      let ws (e : Env) : List Nat := waitSet h e.active (split || every e)
      let flags := es.any fun e => (ws e).any fun n => decide (n ≠ 15) && e.f.holds n
      let full := es.any fun e => e.f.holds 15
      let fenced := es.any fun e => r.s.fenced e.f || r.s.watchWait e.site e.gk e.f.fid e.key
      let matrix := es.any fun e => r.s.matrixWait e.key ((ws e).filter e.f.holds)
      let first := staticErr d h g (es.filter Env.active).length
      let noted (e : Env) : Option Nat :=
        if e.active && (d.illegFail r.s first e).isSome then none
        else (ws e).find? fun n => decide ((e.f.flag n).note ≠ none)
      let good := es.filter fun e => decide (noted e = none)
      let acts := good.filter Env.active
      let legal := decide (staticErr d h g acts.length = none)
      let stays := acts.filter fun e => decide (d.away r.s e = none)
      if !r.s.issues c.site g then r
      else if full then r.stallCrew c (if matrix then 10 else 9)
      else if fenced then r.stallCrew c 25
      else if flags then r.stallCrew c (if matrix then 10 else 6)
      else if legal && !stays.isEmpty && !r.s.queuesServe g (acts.filter d.reads).length d.uses then r.stallCrew c 8
      else if legal && stays.any (pushHold r.s d) then r.stallCrew c 25
      else if legal && stays.any (d.hold r.s) then (d.held r stays).stallCrew c (d.stall + 16)
      else if legal && d.holdAll r.s stays then (d.held r stays).stallCrew c d.stallAll
      else
      let r := (r.stallCrew c 0).spend c.site (if 24 ≤ acts.length then 1 else 2) acts.length
      -- the faults that observed flags carry come before the word
      let bad := es.filterMap fun e => (noted e).bind fun n =>
        ((e.f.flag n).note).map fun x => (e, n, x)
      let r := r.each bad fun r x => r.updFibre x.1.key fun f =>
        if x.2.2.engine then { f with restart := f.restart ||| (1#8 <<< x.2.2.ch) }
        else f.observe x.2.1
      let r := (r.raise (bad.map fun x => x.2.2.fail x.1.key x.1.lane x.1.start)).each bad fun r x =>
        r.stopStep x.1.key
      let eng := good.any fun e => (ws e).any fun n =>
        decide (((r.s.fibre e.key).flag n).st = .done) && ((r.s.fibre e.key).flag n).eng
      let good := good.map fun e => { e with
        mask := laneMask (acts.map Env.lane), f := ((ws e).foldl (fun f n => f.observe n) e.f) }
      let r := if eng then r.acquire c.site else r
      r.issueLanes c { cr with fids := good.map fun e => e.f.fid } d h good

/-- The meaning of an instruction word: the crew now issuing issues it. -/
def runWord (s : State) (d : Desc s) : Host.Outcome State Fault Refusal :=
  ((Run.start s).issueWord d).out

end Sys2Proof.Machine
end

