-- ==== Sys2Proof/Machine/Mgmt.lean ====
section
/-! DEFINITION. The management registers (R370, R371) and what a write to one starts: carving (R45,
R46), quarantine (R115), work queues (R324), command rings (R373), power modes (R378 to R381). -/

namespace Sys2Proof.Machine
variable {s0 : State}

/-- Bits hi..lo of a value, the rest 0. -/
def maskBits (v : DWord) (lo n : Nat) : DWord := BitVec.ofNat 64 (efld' v lo n * 2 ^ lo)
where
  efld' (v : DWord) (lo n : Nat) : Nat := v.toNat / 2 ^ lo % 2 ^ n

/-- The value of bits lo .. lo + n - 1 of a number. -/
def bitsOf (m lo n : Nat) : Nat := m / 2 ^ lo % 2 ^ n

/-- R312: TRAPROUTE as it is kept: the fields of SITE, SYNCX and HOMELOST read 00. -/
def routeBits (v : DWord) : BitVec 40 :=
  v.extractLsb' 0 40 &&& ~~~(3#40 <<< 28 ||| 3#40 <<< 34 ||| 3#40 <<< 36)
/-- R311. -/
def vecBits (v : DWord) : VAddr := v.extractLsb' 0 54 &&& ~~~3#54

/-! ### Waves under a falling limit (R68) -/

/-- The limit in force (R67). -/
def Stack.abcur (k : Stack) : Nat := min k.abmax k.therm

/-- R68: a lower limit defers banks of running waves that have not started: those beyond the limit, the
highest first (the model's reading of a limit that the started banks do not fill: log entry 46). -/
def Run.deferWave (r : Run s0) (id : Nat) (o : Op) (n : Nat) : Run s0 :=
  match o.kind with
  | .wave code x y sx sy v left cur started parts =>
    let keep := n - started
    let back := cur.drop keep
    if back = [] then r
    else (r.updOp id fun o => { o with
        kind := .wave code x y sx sy v (back ++ left) (cur.take keep) started parts }).updPch
      (scullerOf x) fun p => { p with scdefer := p.scdefer + BitVec.ofNat 32 back.length }
  | _ => r

/-- Every running wave, after a limit has changed. -/
def Run.deferAll (r : Run s0) : Run s0 :=
  r.each r.s.ops fun r o => match o.2.kind with
    | .wave _ x _ _ _ _ _ _ _ _ => r.deferWave o.1 o.2 (r.s.stack (scullerOf x / 32)).abcur
    | _ => r

/-! ### Power modes and islands (R329, R377 to R381) -/

def Pkg.mode (p : Pkg) : Nat := p.pwrctl.toNat / 2 ^ 48 % 4
def modeTokens (m : Nat) : Nat := match m with | 0 => 12 | 1 => 12 | 2 => 4 | _ => 9
def modeTherm (m : Nat) : Nat := match m with | 0 => 16 | 1 => 4 | 2 => 16 | _ => 10
def modeCap (m : Nat) : Nat := match m with | 0 => 1 | 1 => 1 | 2 => 3 | _ => 2

/-- R377: the core island of a core. -/
def islandOf (core : Nat) : Nat := core / 48 * 6 + core % 48 / 8

/-- The operating point in force of an island (R379). -/
def Pkg.vfNow (p : Pkg) (i : Nat) : Nat := KV.getD i (if i < 24 then 2 else 1) p.vf

/-- R329, R379, R381: the point that a core island is to run at; VF 1 is the fastest. -/
def State.vfTarget (s : State) (i : Nat) : Nat :=
  let asked := s.gangs.filterMap fun g =>
    let v := (s.launch g.2.launch).vf
    if islandOf g.2.core = i ∧ 1 ≤ v ∧ v ≤ 5 then some v else none
  let cap := modeCap s.pkg.mode
  let want := match asked with
    | [] => cap
    | v :: vs => max (vs.foldl min v) cap
  min 5 (want + s.pkg.cutIslands)

/-- The gangs on an island start: its point is stable (R329). -/
def Run.startIsland (r : Run s0) (i : Nat) : Run s0 :=
  let start (g : Nat × Gang) : Nat × Gang :=
    if islandOf g.2.core = i then (g.1, { g.2 with started := true }) else g
  r.mod fun s => { s with gangs := s.gangs.map start }

/-- Start the changes of operating point that the targets call for. One that is no longer called for leaves
its island at its stable point. -/
def Run.retune (r : Run s0) : Run s0 :=
  r.each (List.range 24) fun r i =>
    let t := r.s.vfTarget i
    if r.s.pkg.vfNow i ≠ t then r.updPkg fun p => { p with vfNext := KV.put i t p.vfNext }
    else if KV.has i r.s.pkg.vfNext then
      (r.updPkg fun p => { p with vfNext := KV.del i p.vfNext }).startIsland i
    else r

/-- R294, R381: tokens of a die. -/
def Pkg.tokens (p : Pkg) : Nat := max 1 (modeTokens p.mode - p.cutTokens)
/-- R381: the thermal bank limit of the mode, after the give-way. -/
def Pkg.therm (p : Pkg) : Nat := max 1 (modeTherm p.mode / 2 ^ p.cutTherm)

/-- Tokens that stand free on the ring are added or taken away to match the count. -/
def Die.fitTokens (d : Die) (n : Nat) : Die :=
  let held := d.toks.length
  let want := n - held
  { d with free := d.free.take want ++ (List.range (want - d.free.length)).map fun k => k % 12 }

/-- R380: the figures of the mode come into force. -/
def Run.applyMode (r : Run s0) : Run s0 :=
  let n := r.s.pkg.tokens
  let th := r.s.pkg.therm
  let r := r.each (List.range 4) fun r d => r.updDie d fun x => x.fitTokens n
  let r := r.mod fun s => { s with stks := (List.range 12).foldl (fun m k =>
    KV.put k { s.stack k with therm := th } m) s.stks }
  r.deferAll.retune

/-- R380: a write to PWRCTL. The give-way of R381 starts afresh (log entry 9). -/
def Run.writePwrctl (r : Run s0) (v : DWord) : Run s0 :=
  let limit := v.toNat % 4096
  let limit := max 1600 (min 2800 limit)
  (r.updPkg fun p => { p with
    pwrctl := maskBits v 48 2 ||| BitVec.ofNat 64 limit,
    cutTokens := 0, cutIslands := 0, cutTherm := 0 }).applyMode

/-! ### Die registers -/

/-- R46: start a change-over of every unit whose WANT differs from its READY and that is not
changing over already. A unit that is returned stops decoding at once. -/
def Die.startChange (d : Die) : Die :=
  (List.range 12).foldl (fun d u =>
    let bit : BitVec 12 := 1#12 <<< u
    if d.pend.getLsbD u ∨ d.want.getLsbD u = d.ready.getLsbD u then d
    else { d with
      pend := d.pend ||| bit,
      carving := if d.want.getLsbD u then d.carving ||| bit else d.carving &&& ~~~bit,
      ready := d.ready &&& ~~~bit }) d

/-- R45: a write to CARVE. -/
def Run.writeCarve (r : Run s0) (die : Nat) (v : DWord) : Run s0 :=
  r.remapSram die fun d => { d with want := v.extractLsb' 0 12 }.startChange

/-- R115: a write to QUARCFG sets QUARSTAT to 0. -/
def Run.writeQuarcfg (r : Run s0) (die : Nat) (v : DWord) : Run s0 :=
  r.updDie die fun d => { d with quarcfg := maskBits v 26 26 ||| maskBits v 0 1, quarstat := 0 }

def WorkQ.logn (w : WorkQ) : Nat := max 4 (min 16 (bitsOf w.cfg.toNat 52 4))
def WorkQ.ctx (w : WorkQ) : Nat := bitsOf w.cfg.toNat 32 8
/-- A queue with a record to take. -/
def WorkQ.ready (w : WorkQ) : Bool := w.cfg.getLsbD 63 && decide (w.head ≠ w.tail)

/-- R331: a context has gangs on its cores, launches pending, or records in an enabled queue. -/
def State.resident (s : State) (c : Nat) : Bool :=
  (s.gangs.any fun g => decide (g.2.ctx = c)) || decide ((s.ctx c).pending ≠ []) ||
  (s.wqs.any fun w => w.2.ready && decide (w.2.ctx = c))

/-- R330: DIES of an entry of the scheduling ring. -/
def entDies (m : Nat) : BitVec 4 := BitVec.ofNat 4 (bitsOf m 56 4)

/-- R331: a die that another entry waits for is free of a context since that stopped being runnable: the
context has left its dies when it becomes runnable again. -/
def Run.yieldDies (r : Run s0) (c : Nat) : Run s0 :=
  let x := r.s.ctx c
  match r.s.pkg.reserved with
  | some (i, m) =>
    if i ≠ c ∧ x.live ∧ x.st = .running ∧ !r.s.resident c ∧ entDies m &&& x.dies ≠ 0 then
      r.updCtx c fun x => { x with live := false }
    else r
  | none => r

/-- R325: what the dispatcher has read ahead of a queue's next record is no more. -/
def Run.dropTake (r : Run s0) (q : Nat) : Run s0 :=
  let ids := (r.s.ops.filter fun o => decide (o.2.kind = .take q)).map Prod.fst
  r.mod fun s => { s with ops := s.ops.filter fun o => !(ids.contains o.1 || match o.2.kind with
    | .wread op => ids.contains op
    | _ => false) }

/-- R324: a write to WQCFG. -/
def Run.writeWqcfg (r : Run s0) (q : Nat) (v : DWord) : Run s0 :=
  let new := maskBits v 63 1 ||| maskBits v 52 8 ||| maskBits v 32 8
  ((if v.getLsbD 63 then r else r.dropTake q).yieldDies (bitsOf v.toNat 32 8)).mod fun s =>
    let w := s.wq q
    let w' := if v.getLsbD 63 ∧ !w.cfg.getLsbD 63 then { w with cfg := new, head := w.tail, err := 0 }
      else { w with cfg := new }
    { s with wqs := KV.put q w' s.wqs }

def Run.updWq (r : Run s0) (q : Nat) (f : WorkQ → WorkQ) : Run s0 :=
  r.mod fun s => { s with wqs := KV.put q (f (s.wq q)) s.wqs }

/-- R370: the physical address of a register of a die's block. -/
def dieRegAddr (die off : Nat) : Nat := 0xF_0000_0010_0000 + die * 0x1_0000 + off

/-- R373: a store to MCTAIL or MCBASE that is refused is logged. -/
def Run.writeMctail (r : Run s0) (die : Nat) (v : DWord) : Run s0 :=
  let d := r.s.die die
  let t : Word := v.extractLsb' 0 32
  let fill := (t - d.mchead).toNat
  if 256 < fill ∨ fill < (d.mctail - d.mchead).toNat then r.logErr die 5 10 die (dieRegAddr die 0x50)
  else r.updDie die fun d => { d with mctail := t }
def Run.writeMcbase (r : Run s0) (die : Nat) (v : DWord) : Run s0 :=
  let d := r.s.die die
  if d.mchead ≠ d.mctail then r.logErr die 5 10 die (dieRegAddr die 0x40)
  else r.updDie die fun d => { d with mcbase := maskBits v 14 38 }

/-- R67: CHSHARE as it reads. -/
def Stack.reg (k : Stack) : DWord :=
  BitVec.ofNat 64 (k.al * 2 ^ 36 + k.lb * 2 ^ 24 + k.abmax * 2 ^ 16 + min k.abmax k.therm * 2 ^ 11)
/-- R67: a write to CHSHARE; it reads back as it acts (log entry 46). -/
def Run.writeChshare (r : Run s0) (stack : Nat) (v : DWord) : Run s0 :=
  let n := v.toNat
  let al := n / 2 ^ 36 % 4096
  let lb := n / 2 ^ 24 % 4096
  let ab := n / 2 ^ 16 % 32
  (r.mod fun s => { s with stks := (KV.put stack
    { s.stack stack with al := max 1 al, lb := max 1 lb, abmax := max 1 (min 16 ab) } s.stks) }).deferAll

/-! ### The registers by offset (R370) -/

/-- A register of the management space. -/
inductive MReg where
  | pwrctl | hostdev | ringbase | ringlen | schederr | preover | bootstat | evaddr | scrub
  | peerwin (n : Nat)
  | redwin (n half : Nat)
  | carve (d : Nat) | quarcfg (d : Nat) | quarstat (d : Nat) | fqbase (d : Nat) | fqcfg (d : Nat)
  | fqhead (d : Nat) | fqtail (d : Nat) | fqovf (d : Nat) | mcbase (d : Nat) | mchead (d : Nat)
  | mctail (d : Nat) | errtail (d : Nat) | errlog (d n part : Nat)
  | chshare (k : Nat) | scdefer (k p : Nat)
  | wqbase (w : Nat) | wqcfg (w : Nat) | wqtail (w : Nat) | wqhead (w : Nat) | wqerr (w : Nat)
  deriving DecidableEq, Repr

def dieReg (d off : Nat) : Option MReg :=
  match off with
  | 0x00 => some (.carve d)
  | 0x08 => some (.quarcfg d)
  | 0x10 => some (.quarstat d)
  | 0x18 => some (.fqbase d)
  | 0x20 => some (.fqcfg d)
  | 0x28 => some (.fqhead d)
  | 0x30 => some (.fqtail d)
  | 0x38 => some (.fqovf d)
  | 0x40 => some (.mcbase d)
  | 0x48 => some (.mchead d)
  | 0x50 => some (.mctail d)
  | 0x58 => some (.errtail d)
  | _ => if 0x1000 ≤ off ∧ off < 0x3000 then some (.errlog d ((off - 0x1000) / 32) (off % 32 / 8)) else none

/-- The register at an 8-byte-aligned offset of the management space. -/
def mreg (off : Nat) : Option MReg :=
  if off % 8 ≠ 0 then none
  else if off < 0x1000 then
    match off with
    | 0x00 => some .pwrctl
    | 0x08 => some .hostdev
    | 0x10 => some .ringbase
    | 0x18 => some .ringlen
    | 0x20 => some .schederr
    | 0x28 => some .preover
    | 0x30 => some .bootstat
    | 0x38 => some .evaddr
    | 0x40 => some .scrub
    | _ => none
  else if off < 0x2000 then some (.peerwin ((off - 0x1000) / 8))
  else if off < 0x2080 then some (.redwin ((off - 0x2000) / 16) (off % 16 / 8))
  else if 0x10_0000 ≤ off ∧ off < 0x14_0000 then dieReg ((off - 0x10_0000) / 0x1_0000) (off % 0x1_0000)
  else if 0x20_0000 ≤ off ∧ off < 0x20_C000 then
    let k := (off - 0x20_0000) / 0x1000
    let o := off % 0x1000
    if o = 0 then some (.chshare k)
    else if 0x100 ≤ o ∧ o < 0x200 then some (.scdefer k ((o - 0x100) / 8)) else none
  else if 0x100_0000 ≤ off ∧ off < 0x140_0000 then
    let w := (off - 0x100_0000) / 64
    match off % 64 with
    | 0 => some (.wqbase w)
    | 8 => some (.wqcfg w)
    | 16 => some (.wqtail w)
    | 24 => some (.wqhead w)
    | 32 => some (.wqerr w)
    | _ => none
  else none

/-- R382: BOOTSTAT. -/
def Pkg.bootstat (p : Pkg) : DWord :=
  BitVec.ofNat 64 ((if p.complete then 2 ^ 63 else 0) + p.bootReason % 256 * 256 + p.stage % 256)

/-- The value that a register reads as. -/
def State.mread (s : State) (m : MReg) : DWord :=
  match m with
  | .pwrctl => s.pkg.pwrctl
  | .hostdev => s.pkg.hostdev
  | .ringbase => s.pkg.ringbase
  | .ringlen => s.pkg.ringlen
  | .schederr => s.pkg.schederr.zeroExtend 64
  | .preover => s.pkg.preover.zeroExtend 64
  | .bootstat => s.pkg.bootstat
  | .evaddr => s.pkg.evaddr
  | .scrub => s.pkg.scrub
  | .peerwin n => KV.getD n 0 s.pkg.peerwin
  | .redwin n h => (KV.getD n 0 s.pkg.redwin).extractLsb' (64 * h) 64
  | .carve d => ((s.die d).ready ++ 0#4 ++ (s.die d).pend ++ 0#4 ++ (s.die d).want).zeroExtend 64
  | .quarcfg d => (s.die d).quarcfg
  | .quarstat d => (s.die d).quarstat
  | .fqbase d => (s.die d).fqbase
  | .fqcfg d => BitVec.ofNat 64 (s.die d).fqcfg
  | .fqhead d => (s.die d).fqhead.zeroExtend 64
  | .fqtail d => (s.die d).fqtail.zeroExtend 64
  | .fqovf d => (s.die d).fqovf.zeroExtend 64
  | .mcbase d => (s.die d).mcbase
  | .mchead d => (s.die d).mchead.zeroExtend 64
  | .mctail d => (s.die d).mctail.zeroExtend 64
  | .errtail d => (s.die d).errtail
  | .errlog d n part => (KV.getD n 0 (s.die d).errlog).extractLsb' (64 * part) 64
  | .chshare k => (s.stack k).reg
  | .scdefer k p => (s.pch (32 * k + p)).scdefer.zeroExtend 64
  | .wqbase w => (s.wq w).base
  | .wqcfg w => (s.wq w).cfg
  | .wqtail w => (s.wq w).tail.zeroExtend 64
  | .wqhead w => (s.wq w).head.zeroExtend 64
  | .wqerr w => (s.wq w).err

/-- R370: a write to a register; a read-only one ignores it, an RC register becomes 0. -/
def Run.mwrite (r : Run s0) (m : MReg) (v : DWord) : Run s0 :=
  match m with
  | .pwrctl => r.writePwrctl v
  | .hostdev => r.updPkg fun p => { p with hostdev := maskBits v 0 12 }
  | .ringbase => r.updPkg fun p => { p with ringbase := maskBits v 4 48 }
  | .ringlen => r.updPkg fun p => { p with ringlen := maskBits v 0 9 }
  | .schederr => r.updPkg fun p => { p with schederr := 0 }
  | .preover => r.updPkg fun p => { p with preover := 0 }
  | .evaddr => r.updPkg fun p => { p with evaddr := maskBits v 3 61 }
  | .scrub => r.updPkg fun p => { p with scrub := v }
  | .peerwin n => r.updPkg fun p => { p with peerwin := KV.put n (maskBits v 63 1 ||| maskBits v 32 12) p.peerwin }
  | .redwin n h => r.updPkg fun p =>
      let old := KV.getD n 0 p.redwin
      let new : BitVec 128 := if h = 0 then old.extractLsb' 64 64 ++ maskBits v 0 58
        else (maskBits v 63 1 ||| maskBits v 0 54) ++ old.extractLsb' 0 64
      { p with redwin := KV.put n new p.redwin }
  | .carve d => r.writeCarve d v
  | .quarcfg d => r.writeQuarcfg d v
  | .fqbase d => r.updDie d fun x => { x with fqbase := maskBits v 6 46 }
  | .fqcfg d => r.updDie d fun x => { x with fqcfg := v.toNat % 16 }
  | .fqhead d => r.updDie d fun x => { x with fqhead := v.extractLsb' 0 32 }
  | .fqovf d => r.updDie d fun x => { x with fqovf := 0 }
  | .mcbase d => r.writeMcbase d v
  | .mctail d => r.writeMctail d v
  | .chshare k => r.writeChshare k v
  | .wqbase w => r.updWq w fun x => { x with base := maskBits v 6 48 }
  | .wqcfg w => r.writeWqcfg w v
  | .wqtail w => (r.yieldDies (r.s.wq w).ctx).updWq w fun x => { x with tail := v.extractLsb' 0 32 }
  | .bootstat => r
  | .quarstat _ => r
  | .fqtail _ => r
  | .mchead _ => r
  | .errtail _ => r
  | .errlog _ _ _ => r
  | .scdefer _ _ => r
  | .wqhead _ => r
  | .wqerr _ => r


end Sys2Proof.Machine
end

