-- ==== Sys2Proof/Machine/Access.lean ====
section
/-! DEFINITION. Accesses in flight (R100, R101, R116 to R121, R241): when an access may take its
instant, how it is performed where its storage is, and how its completion reaches the fibre (R181,
R54, R166, R222, R352). -/

namespace Sys2Proof.Machine
variable {s0 : State}

/-! ### Atomic operations (R246) -/

def wordInt (w64 : Bool) (n : Nat) : Int :=
  if w64 then (BitVec.ofNat 64 n).toInt else (BitVec.ofNat 32 n).toInt

/-- R246: the new value from the old one and the operand. -/
def atomFn (code : Nat) (w64 : Bool) (m v : Nat) : Nat :=
  match code with
  | 0 => (m + v) % 2 ^ (if w64 then 64 else 32)
  | 1 => if wordInt w64 v < wordInt w64 m then v else m
  | 2 => if wordInt w64 m < wordInt w64 v then v else m
  | 3 => if v < m then v else m
  | 4 => if m < v then v else m
  | 5 => Nat.land m v
  | 6 => Nat.lor m v
  | 7 => Nat.xor m v
  | 8 => v
  | 9 => (fadd f32 0 m v).1
  | 10 => (fminmax f32 false m v).1
  | _ => (fminmax f32 true m v).1

/-! ### Order (R118 to R121) -/

/-- Where an operation touches locations: scratchpad, first byte, length. -/
def Op.spans (o : Op) : List (Bool × Nat × Nat) :=
  match o.kind with
  | .cache _ lines => lines.map fun l => (false, l.1, l.2.1)
  | .biter _ _ _ _ => [(o.acc.scr, o.acc.pa, o.acc.n)]
  | k => if k.isAccess then [(o.acc.scr, o.acc.pa, o.acc.n)] else []

/-- Two operations touch one location. -/
def Op.meets (a b : Op) : Bool :=
  a.spans.any fun x => b.spans.any fun y => decide (x.1 = y.1) &&
    decide (x.2.1 / 4 * 4 < y.2.1 + y.2.2) && decide (y.2.1 / 4 * 4 < x.2.1 + x.2.2)

def Op.isLoad (o : Op) : Bool := match o.kind with | .load _ => true | _ => false
def Op.isPlainStore (o : Op) : Bool := match o.kind with | .store _ _ => true | _ => false
/-- Stores, atomics and CACHE INVD (R257). -/
def Op.isWrite (o : Op) : Bool :=
  match o.kind with
  | .store _ _ => true
  | .atom _ _ _ _ => true
  | .cas _ _ _ => true
  | .cache sub _ => decide (sub = 2)
  | .put _ _ _ => true
  | _ => false
/-- The fibre's earlier accesses that have not taken their instants. -/
def State.earlier (s : State) (id k : Nat) : List (Nat × Op) :=
  s.ops.filter fun p => p.2.hasFibre k && decide (p.1 < id) && p.2.isOpen && p.2.isMem

/-! ### Input rows (R70) -/

/-- The block and the place in it of a DRAM cell (R47). -/
def rowBlock (key : Nat) : Nat := key % 2 ^ 36 / 2 ^ 21
def rowPos (key : Nat) : Nat := key % 2 ^ 21 / 2 ^ 17 * 256 + key % 256
/-- The row of a cell under a row length code, as Site.rows names it. -/
def rowId (key rowl : Nat) : Nat :=
  rowBlock key * 256 + rowl * 32 + rowPos key / (128 * 2 ^ rowl)

/-- Whether the cells that start at `key`, in one granule, lie in a registered input row. -/
def State.inputRow (s : State) (key : Nat) : Bool :=
  isDram key && ((s.site (192 + scullerOf key)).rows.any fun x =>
    decide (x.1 = rowId key (x.1 / 32 % 8)))

/-- The access reads a row of the sculler's own pseudo-channel. -/
def ownRow (site key : Nat) (bank : Bool) : Bool :=
  isSculler site && bank && decide (192 + scullerOf key = site)

/-- R70: a read that would register a 65th row. -/
def State.rowsFull (s : State) (site key rowl : Nat) : Bool :=
  let rows := (s.site site).rows
  !(rows.any fun x => decide (x.1 = rowId key rowl)) && decide (64 ≤ rows.length)

def Run.addRow (r : Run s0) (site key rowl k : Nat) : Run s0 :=
  r.updSite site fun x =>
    let l := KV.getD (rowId key rowl) [] x.rows
    { x with rows := KV.put (rowId key rowl) (if l.contains k then l else l ++ [k]) x.rows }

/-! ### Where an access is performed -/

inductive Via where
  | scr | buffer | mreg | err | packet | unready | bank | l1 | dir
  deriving DecidableEq, Repr

/-- R375: the operations that a reduction window permits. -/
def redOps (code : Nat) : Option Nat :=
  match code with
  | 0 => some 54
  | 9 => some 55
  | 1 => some 56
  | 2 => some 56
  | 5 => some 57
  | 6 => some 57
  | 7 => some 57
  | _ => none

/-- R375: the range of an active window; one that crosses another acts as inactive. -/
def State.redActive (s : State) (n : Nat) : Bool :=
  let w (k : Nat) : BitVec 128 := KV.getD k 0 s.pkg.redwin
  let lo (k : Nat) := efld (w k) 0 54
  let hi (k : Nat) := efld (w k) 64 54
  (w n).getLsbD 127 && ((List.range 8).all fun k =>
    decide (k = n) || !(w k).getLsbD 127 || !(decide (lo n < hi k) && decide (lo k < hi n)))

/-- R107, R375: the atomic goes to the switches; a supervisor core's executes at the slice (R369). -/
def State.merged (s : State) (o : Op) : Bool :=
  !isSuper o.site && match o.kind with
  | .atom code _ _ _ =>
    match redOps code with
    | none => false
    | some bit => (List.range 8).any fun n =>
        let w : BitVec 128 := KV.getD n 0 s.pkg.redwin
        s.redActive n && w.getLsbD bit && decide (efld w 0 54 ≤ (ptrVa o.acc.ptr).toNat) &&
          decide ((ptrVa o.acc.ptr).toNat < efld w 64 54)
  | _ => false

/-- R254: the access goes to its fibre's region buffer. -/
def State.buffered (s : State) (o : Op) : Bool :=
  !o.acc.scr && !o.acc.bank && match (s.fibre o.fibre).region with
  | some g => g.held && decide (g.line = o.acc.pa / 128)
  | none => false

/-- R366: some port is up. -/
def State.linked (s : State) : Bool := decide (s.pkg.portsDown ≠ BitVec.allOnes 36)

/-- Where an access takes its instant. -/
def State.via (s : State) (o : Op) : Via :=
  let cached : Via :=
    if o.isLoad && s.loadHit o.site o.acc.pa o.acc.n o.acc.pol then .l1
    else if o.isPlainStore && s.storeHit o.site o.acc.pa o.acc.n o.acc.pol then .l1
    else .dir
  if o.acc.scr then .scr
  else if s.buffered o then .buffer
  else if s.merged o then (if s.linked then .packet else .err)
  else if o.acc.bank then .bank
  else match place o.acc.pa with
    | .mgmt _ => .mreg
    | .hole => .err
    | .sram _ _ => if s.ready o.acc.pa then cached else if isSuper o.site then .err else .unready
    | .peer w _ =>
      if !(KV.getD w 0 o.wins).getLsbD 63 then .err
      else if cached = .l1 then .l1 else if s.linked then .packet else .err
    | .host _ => if cached = .l1 then .l1 else if s.linked then .packet else .err
    | .dram _ => cached

/-- R253: the line is held for another fibre's region, or its slice has no room for it (R42), so the
access waits at the slice. -/
def State.lineBusy (s : State) (o : Op) : Bool :=
  !o.acc.scr && !o.acc.bank && ((match (s.dir (o.acc.pa / 128)).held with
  | some k => decide (k ≠ o.fibre)
  | none => false) || (!o.acc.noal && s.l2Full (o.acc.pa / 128) && decide (s.via o = .dir)))

/-- R120: the last release fence that a fibre of the operation had issued before it. -/
def State.markOf (s : State) (id : Nat) (o : Op) (k : Nat) : Nat :=
  let m := (s.fibre k).relMark
  if m ≤ id then m else o.mark

/-- R117 to R120: an access may take its instant. A load may pass the fibre's own stores to the same
words: it returns them. Accesses to peers and the host leave in program order: one that leaves waits for
every earlier one to a window (R113). -/
def State.mayTake (s : State) (id : Nat) (o : Op) : Bool :=
  o.fibres.all fun k => (s.earlier id k).all fun p =>
    !o.acc.rel && !p.2.acc.acq && !(o.isWrite && decide (p.1 < s.markOf id o k)) &&
    !(p.2.meets o && !(o.isLoad && p.2.isPlainStore)) &&
    !(decide (p.2.stage = .pending) && p.2.kind.isAccess && decide (s.via o = .packet) &&
      (decide (s.via p.2 = .packet) || (!p.2.acc.scr && isWindow p.2.acc.pa)))

/-! ### Reading words -/

/-- A word of a line through a region buffer (R254). -/
def Region.word (g : Region) (h : PW) (off : Nat) : PW where
  v := (List.range 4).foldl (fun a i => match KV.find? (off + i) g.buf with
    | some b => mergeWord a ((b.zeroExtend 32) <<< (8 * i)) (1#4 <<< i)
    | none => a) h.v
  p := h.p && !((List.range 4).all fun i => KV.has (off + i) g.buf)

/-- R371: the register of an 8-byte access to the management space. -/
def regOf (a : Acc) : Option MReg :=
  match place a.pa with
  | .mgmt off => if a.n = 8 then mreg off else none
  | _ => none

/-- R366: word i of what an access that the device cannot perform returns: poisoned, but for a supervisor
core, which receives the ERR status itself, and words that the manual does not say: free values. -/
def State.errWord (s : State) (site i : Nat) : PW :=
  if isSuper site then { v := Config.errWord (s.tick + i) } else { p := true }

/-- Free words of an ERR status have been taken. -/
def Run.errTick (r : Run s0) (site : Nat) : Run s0 :=
  if isSuper site then r.mod fun s => { s with tick := s.tick + 4 } else r

/-- The words an access touches, as its storage gives them now. -/
def State.accWords (s : State) (o : Op) : Via → List PW
  | .l1 => s.l1Words o.site o.acc.pa o.acc.n
  | .mreg => match regOf o.acc with
    | some m => words2 (s.mread m)
    | none => (List.range ((o.acc.n + 3) / 4)).map (s.errWord o.site)
  | v => (List.range ((o.acc.n + 3) / 4)).map fun i =>
    let pa := o.acc.pa / 4 * 4 + 4 * i
    match v with
    | .scr => s.scrWord pa
    | .buffer => match (s.fibre o.fibre).region with
      | some g => g.word (s.home pa) (pa % 128)
      | none => s.home pa
    | .bank => s.home pa
    | .dir => s.coh pa
    | .unready => {}
    | _ => s.errWord o.site i

/-- R117: the bytes that the fibre's own earlier stores still on their way give a word. -/
def State.ownWord (s : State) (id : Nat) (o : Op) (wa : Nat) (h : PW) : PW :=
  let x := (s.earlier id o.fibre).foldl (fun (x : Word × BitVec 4) p =>
    match p.2.kind with
    | .store bytes masks =>
      if p.2.acc.scr = o.acc.scr ∧ p.2.acc.pa < wa + 4 ∧ wa < p.2.acc.pa + bytes.length then
        (List.range 4).foldl (fun (x : Word × BitVec 4) i =>
          let a := wa + i
          if p.2.acc.pa ≤ a ∧ a < p.2.acc.pa + bytes.length then
            let m := masks.getD (a - p.2.acc.pa) 0xFF
            let b : Byte := (x.1.extractLsb' (8 * i) 8 &&& ~~~m) ||| (bytes.getD (a - p.2.acc.pa) 0 &&& m)
            (mergeWord x.1 ((b.zeroExtend 32) <<< (8 * i)) (1#4 <<< i),
              if m = 0xFF then x.2 ||| (1#4 <<< i) else x.2)
          else x) x
      else x
    | _ => x) (h.v, 0#4)
  { v := x.1, p := h.p && decide (x.2 ≠ 0xF) }

/-- The bytes of an access out of the words it touches. -/
def wordBytes (pa n : Nat) (ws : List PW) : List Byte :=
  (List.range n).map fun i =>
    let j := pa % 4 + i
    ((ws.getD (j / 4) {}).v).extractLsb' (8 * (j % 4)) 8

/-- R22: element width of a page format in bits; none for RAW and the reserved codes. -/
def fmtWidth (f : Nat) : Option Nat :=
  match f with
  | 1 => some 32
  | 2 => some 16
  | 3 => some 16
  | 4 => some 8
  | 5 => some 8
  | 6 => some 8
  | 7 => some 8
  | 8 => some 4
  | _ => none

/-- R22, R229: the CVT code of a page format. -/
def fmtCode (f : Nat) : Nat := if f = 6 then 6 else f - 1

/-- R244: an element as LDE gives it. -/
def ldeElem (f c : Nat) : Word × Exc :=
  match f with
  | 1 => (BitVec.ofNat 32 c, {})
  | 6 => ((BitVec.ofNat 8 c).signExtend 32, {})
  | 7 => (BitVec.ofNat 32 c, {})
  | 8 => (BitVec.ofNat 32 c, {})
  | _ => let x := cvtElem 0 (f - 1) 0 false c
         (BitVec.ofNat 32 x.1, x.2)

/-- R242 to R244: register values of a load's bytes, and the events of a conversion. -/
def LdForm.value (form : LdForm) (bytes : List Byte) : List PW × BitVec 5 :=
  let n := ofBytes bytes
  match form with
  | .words => (wordsOf ((bytes.length + 3) / 4) n, 0)
  | .zext => ([{ v := BitVec.ofNat 32 n }], 0)
  | .sext => ([{ v := (BitVec.ofNat 8 n).signExtend 32 }], 0)
  | .elems f e =>
    let w := (fmtWidth f).getD 8
    let xs := (List.range e).map fun i => ldeElem f (n / 2 ^ (w * i) % 2 ^ w)
    (xs.map fun x => { v := x.1 }, (xs.foldl (fun a x => a.or x.2) ({} : Exc)).bits)

/-! ### Performing -/

/-- Write bytes of a scratchpad; a word wholly written loses its poison (R54). -/
def Run.scrBytes (r : Run s0) (k : Nat) (bytes masks : List Byte) (poi : Bool) : Run s0 :=
  let r := r.each (List.range bytes.length) fun r i =>
    let m := masks.getD i 0xFF
    r.putScr (k + i) ((Memory.read r.s.scr (k + i) &&& ~~~m) ||| (bytes.getD i 0 &&& m))
  let ws := (List.range ((k % 4 + bytes.length + 3) / 4)).map fun i => k / 4 + i
  r.mod fun s => { s with spoison := ws.foldl (fun l w =>
    let full := decide (k ≤ 4 * w) && decide (4 * w + 4 ≤ k + bytes.length) &&
      ((List.range 4).all fun i => decide (masks.getD (4 * w + i - k) 0xFF = 0xFF))
    if poi then KV.put w () l else if full then KV.del w l else l) s.spoison }

/-- Write bytes into a region's buffer. -/
def Run.bufBytes (r : Run s0) (k pa : Nat) (bytes masks : List Byte) : Run s0 :=
  let h := (List.range bytes.length).map fun i => (r.s.home (pa + i)).v.extractLsb' (8 * ((pa + i) % 4)) 8
  let put (b : List (Nat × Byte)) : List (Nat × Byte) :=
    (List.range bytes.length).foldl (fun b i =>
      let m := masks.getD i 0xFF
      let old := KV.getD ((pa + i) % 128) (h.getD i 0) b
      if m = 0 then b
      else KV.put ((pa + i) % 128) ((old &&& ~~~m) ||| (bytes.getD i 0 &&& m)) b) b
  r.updFibre k fun f => { f with region := f.region.map fun g => { g with buf := put g.buf } }

/-- R364: the port that an operation's request leaves by: one that is up, where there is one. -/
def State.portFor (s : State) (id : Nat) : Nat :=
  let up := (List.range 36).filter fun p => !s.pkg.portsDown.getLsbD p
  up.getD (Config.portOf id % up.length) (Config.portOf id % 36)

/-- R366, R370: an ERR response to a fibre's store is logged, with the port of its request; a supervisor
core receives the status itself. -/
def Run.logStoreErr (r : Run s0) (site port pa : Nat) : Run s0 :=
  if isSuper site then r else r.logErr (dieOf site) 4 9 port pa

/-- n bytes with those of a payload from `off` on, and 0 around them. -/
def padTo (n off len : Nat) (f : Nat → Byte) : List Byte :=
  (List.range n).map fun i => if off ≤ i ∧ i < off + len then f (i - off) else 0

/-- The whole words around n bytes at pa: a packet reads or writes at least 4 bytes (R365). -/
def wholeWords (pa n : Nat) : Nat × Nat := (pa / 4 * 4, (pa % 4 + n + 3) / 4 * 4)
/-- Bytes and masks of a WRITE of whole words that writes `bytes` at pa. -/
def wordWrite (pa : Nat) (bytes masks : List Byte) : List Byte × List Byte :=
  let n := (wholeWords pa bytes.length).2
  let off := pa % 4
  (padTo n off bytes.length fun i => bytes.getD i 0,
   if off = 0 ∧ n = bytes.length ∧ masks = [] then [] else padTo n off bytes.length fun i => masks.getD i 0xFF)

/-- R365, R367: the device behind an address, under the peer windows that its translation has seen, and the
address there. Device 4096 stands for this device's own number, which no register holds (log entry 11). -/
def State.packetTo (s : State) (wins : List (Nat × DWord)) (pa : Nat) : Nat × Nat :=
  match place pa with
  | .peer w off => (((KV.getD w 0 wins).extractLsb' 32 12).toNat, off)
  | .host off => ((s.pkg.hostdev.extractLsb' 0 12).toNat, off)
  | _ => (4096, pa)

/-- Words of a window are written: what loads still on their way bring of them is not kept (R118). -/
def Run.overtake (r : Run s0) (site pa n : Nat) : Run s0 :=
  r.mod fun s => { s with ops := s.ops.map fun p =>
    if p.2.stage = .away ∧ p.2.site = site ∧ p.2.isLoad ∧ p.2.acc.pa < pa + n ∧ pa < p.2.acc.pa + p.2.acc.n then
      (p.1, { p.2 with acc := { p.2.acc with noal := true } }) else p }

/-- The same for an atomic, or a store that leaves no copy: the untracked copies that the core holds of the
words go too. -/
def Run.dropStale (r : Run s0) (site pa n : Nat) : Run s0 :=
  (r.dropUntracked site (pa / 128) (wordsAt pa n)).overtake site pa n

/-- R365: the packet of an access towards a peer, the host, or the home of a reduction window. A RED
that acquires has its instant here. What it comes to write is not known here: free values (R351). -/
def Run.sendAccess (r : Run s0) (id : Nat) (o : Op) : Run s0 :=
  let w := wholeWords o.acc.pa o.acc.n
  let to_ := r.s.packetTo o.wins w.1
  let pkt : OutPkt := { kind := .read, dest := to_.1, tag := id, addr := to_.2, len := w.2,
                        rel := o.acc.rel }
  let pkt := match o.kind with
    | .store bytes masks =>
      let x := wordWrite o.acc.pa bytes masks
      { pkt with kind := .write, data := x.1, masks := x.2 }
    | .atom code w64 v ret => { pkt with
        kind := if ret then .atom else .red, op := code, data := bytesOf (if w64 then 8 else 4) v }
    | .cas w64 x n => { pkt with
        kind := .atom, op := 16,
        data := bytesOf (if w64 then 8 else 4) x ++ bytesOf (if w64 then 8 else 4) n }
    | _ => pkt
  let r := r.updPkg fun p => { p with out := p.out ++ [pkt] }
  let r := if pkt.kind = .read ∨ pkt.kind = .write then r else r.dropStale o.site o.acc.pa o.acc.n
  let port := r.s.portFor id
  -- nothing answers a RED: it has left the device (log entry 11)
  if pkt.kind = .red then
    let ws := (List.range ((o.acc.n + 3) / 4)).map fun i => Config.redWord (r.s.tick + i)
    let r := if o.acc.acq then r.acquire o.site else r
    (r.mod fun s => { s with tick := s.tick + 4 }).updOp id fun o => { o with
      stage := .performed, wrote := ws }
  else r.updOp id fun o => { o with stage := .away, port := port }

/-- A fault that the operation has met: where the next word waits for it, the trap is taken at the
instruction itself (R54). -/
def Op.fault (o : Op) (cls : Cls) (addr : DWord) (reason : Nat := 0) : Note where
  cls := cls
  addr := addr
  reason := reason
  gph := o.gph
  pc := if o.flag = 15 then some o.pc else none

/-- The va of the operation's access, or its scratchpad offset (R333). -/
def Op.va (o : Op) : DWord := (ptrVa o.acc.ptr).zeroExtend 64

/-- R54: the operation returns a poisoned word. -/
def Op.poisoned (o : Op) : Op := { o with stage := .performed, note := some (o.fault .poison o.va) }

/-- R106: a load or store of several words with its next `k` words; a load has read those in `got`. The words
take their instants in ascending order (log entry 58, DESIGN CHOICE: the spec names no order). -/
def Op.next (o : Op) (k : Nat) : Op :=
  let i := o.got.length
  { o with acc := { o.acc with
    pa := o.acc.pa + 4 * i, n := min (4 * k) (o.acc.n - 4 * i) } }

/-- The next loaded words reach the operation, which is performed with its last ones (R117, R54). -/
def Run.loaded (r : Run s0) (id : Nat) (o : Op) (form : LdForm) (ws : List PW) : Run s0 :=
  let i := o.got.length
  let new := (List.range ws.length).map fun j =>
    (o.acc.pa / 4 + i + j, r.s.ownWord id o (o.acc.pa / 4 * 4 + 4 * (i + j)) (ws.getD j {}))
  let all := o.got ++ new
  let ws := all.map Prod.snd
  if 4 * all.length < o.acc.pa % 4 + o.acc.n then r.updOp id fun o => { o with stage := .pending, got := all }
  else
    let r := if o.acc.acq then r.acquire o.site else r
    if ws.any (fun w => w.p) then
      r.updOp id Op.poisoned
    else
      let x := form.value (wordBytes o.acc.pa o.acc.n ws)
      r.updOp id fun o => { o with stage := .performed, res := x.1, exc := x.2 }

/-- `k` words of a load take their instant. -/
def Run.takeLoad (r : Run s0) (id : Nat) (o : Op) (form : LdForm) (k : Nat) : Run s0 :=
  let x := o.next k
  match r.s.via x with
  | .packet => r.sendAccess id (o.next 4)
  | .dir =>
    -- the reply carries the value the directory has when it takes the request
    let r := r.dirLoad x.site x.acc.pa x.acc.n x.acc.pol x.acc.noal
    r.loaded id o form (r.s.accWords x .dir)
  | v =>
    let ws := r.s.accWords x v
    (if v = .err ∨ v = .mreg then r.errTick x.site else r).loaded id o form ws

/-- R126: a fibre's store to n bytes at pa: its own fetches take them no more from the copies that the
core's fetch unit holds. -/
def Run.staleFetch (r : Run s0) (site k pa n : Nat) : Run s0 :=
  r.mod fun s => { s with fcache := (wordsAt pa n).foldl (fun m w =>
    KV.update (l1key site (pa / 128 * 128 + 4 * w)) (fun x => { x with stale := k :: x.stale }) m) s.fcache }

/-- Bytes of a store or atomic are written where they belong. -/
def Run.storeVia (r : Run s0) (id : Nat) (o : Op) (v : Via) (bytes masks : List Byte) : Run s0 :=
  match v with
  | .scr => r.scrBytes o.acc.pa bytes masks false
  | .buffer => r.bufBytes o.fibre o.acc.pa bytes masks
  | .bank => r.bankWrite o.acc.pa bytes masks false
  | .l1 => (r.writeL1 o.site o.acc.pa bytes masks).noteStore o.site o.acc.pa bytes.length
  | .dir => r.dirStore o.site o.acc.pa o.acc.pol bytes masks o.acc.noal
  | .mreg => match regOf o.acc with
    | some m => r.mwrite m (BitVec.ofNat 64 (ofBytes bytes))
    | none => r.logStoreErr o.site (r.s.portFor id) o.acc.pa
  | .err => r.logStoreErr o.site (r.s.portFor id) o.acc.pa
  | .unready => r
  | .packet => r

/-- `k` words of a store reach their visibility point; the rest stays in flight (R106). -/
def Run.takeStore (r : Run s0) (id : Nat) (o : Op) (bytes masks : List Byte) (k : Nat) : Run s0 :=
  match r.s.via o with
  | .packet => r.sendAccess id o
  | v =>
    let r := if o.acc.scr then r else r.staleFetch o.site o.fibre o.acc.pa bytes.length
    if 4 * k < bytes.length ∧ v ≠ .mreg ∧ v ≠ .err then
      (r.storeVia id o v (bytes.take (4 * k)) (masks.take (4 * k))).updOp id fun o => { o with
        kind := .store (bytes.drop (4 * k)) (masks.drop (4 * k)),
        acc := { o.acc with pa := o.acc.pa + 4 * k, n := o.acc.n - 4 * k } }
    else (r.storeVia id o v bytes masks).updOp id fun o => { o with stage := .performed }

/-- R54, R370: the unit that logs a RED's poisoned word, and which of them. -/
def State.poisonUnit (s : State) (o : Op) : Nat × Nat :=
  if o.acc.scr then (5, unitOf (o.acc.pa / 2 ^ 20))
  else if o.acc.bank then (0, scullerOf o.acc.pa / 32)
  else (3, (s.dir (o.acc.pa / 128)).slice)

/-- An atomic takes its instant: `f` gives the new value, or none to store nothing (R247, R249). -/
def Run.takeAtom (r : Run s0) (id : Nat) (o : Op) (ret : Bool) (f : Nat → Option Nat) : Run s0 :=
  let v := r.s.via o
  if v = .packet then r.sendAccess id o else
  let r := if v = .dir then
      ((r.countReq (o.acc.pa / 128) o.site).dirClaim (o.acc.pa / 128)
        (wordsAt o.acc.pa o.acc.n)).dropUntracked o.site (o.acc.pa / 128) (wordsAt o.acc.pa o.acc.n)
    else r
  let r := if o.acc.acq then r.acquire o.site else r
  -- the management space has no atomics: an ERR response (R366, R371)
  let v : Via := if v = .mreg then .err else v
  let ws := r.s.accWords o v
  let r := if v = .err then r.errTick o.site else r
  if ws.any (fun w => w.p) then
    if ret then r.updOp id Op.poisoned
    else
      let u := r.s.poisonUnit o
      (if v = .err then r.logStoreErr o.site (r.s.portFor id) o.acc.pa
        else r.logErr (dieOf o.site) 1 u.1 u.2 o.acc.pa).updOp id fun o => { o with stage := .performed }
  else
    let m := ofBytes (wordBytes o.acc.pa o.acc.n ws)
    let r := match f m with
      | some n =>
        let bytes := bytesOf o.acc.n n
        let r := if o.acc.scr then r else r.staleFetch o.site o.fibre o.acc.pa o.acc.n
        let r := if v = Via.dir then r.writeHome o.acc.pa bytes [] false else r.storeVia id o v bytes []
        if v = Via.err then r
        else r.updOp id fun o => { o with wrote := (wordsOf ((o.acc.n + 3) / 4) n).map PW.v }
      | none => r
    r.updOp id fun o => { o with
      stage := .performed, res := wordsOf ((o.acc.n + 3) / 4) m }

/-- R119, R166: a CAS demotes its fibre when it fails, and clears the mark when it succeeds. -/
def Run.takeCas (r : Run s0) (id : Nat) (o : Op) (x n : Nat) : Run s0 :=
  let r := r.takeAtom id o true fun m => if m = x then some n else none
  match KV.find? id r.s.ops with
  | none => r
  | some o' =>
    if o'.stage = .performed ∧ o'.note = none then
      r.updFibre o.fibre fun f => { f with dem := decide (o'.wrote = []) }
    else r

/-- An access takes its instant; a load or store of several words may take it for `k` of them only
(R106, R116). -/
def Run.takeAccess (r : Run s0) (id : Nat) (o : Op) (k : Nat := 4) : Run s0 :=
  match o.kind with
  | .load form => r.takeLoad id o form k
  | .store bytes masks => r.takeStore id o bytes masks k
  | .atom code w64 v ret => r.takeAtom id o ret fun m => some (atomFn code w64 m v)
  | .cas _ x n => r.takeCas id o x n
  | _ => r

/-! ### Completion -/

/-- R222: the FPX record's address field. -/
def fpxAddr (x ten : BitVec 5) (pc : VAddr) : DWord := (x &&& ten) ++ 0#5 ++ pc

/-- R166: a POLL load's value meets the poll record. -/
def Fibre.polled (f : Fibre) (a : Acc) (v : List Word) : Fibre :=
  let new : Poll := { scr := a.scr, va := if a.scr then BitVec.ofNat 54 a.pa else ptrVa a.ptr, v := v }
  match f.poll with
  | some p =>
    if p.va = new.va ∧ p.scr = new.scr then { f with dem := decide (p.v = v), poll := some new }
    else { f with poll := some new }
  | none => { f with poll := some new }

/-- The completion reaches one fibre: its flag is DONE, with the fault it carries and the p7 that
becomes readable with it; without a flag p7 is readable at once. -/
def Fibre.flagDone (f : Fibre) (n : Nat) (x : Option Note) (p7 : Option Bool) : Fibre :=
  if n < 16 then f.setFlag n { f.flag n with st := .done, note := x, p7 := p7 }
  else match p7 with | some b => f.setPred 7 b | none => f

/-- R352: the candidates of a completed operation. -/
def Op.cands (o : Op) : List Cand :=
  if o.acc.scr || o.note.isSome then [] else
  match o.kind with
  | .load _ => [.val false (o.res.map fun w => w.v)] ++ (if o.exc = 0 then [] else [.exc o.exc])
  | .atom _ _ _ ret => (if ret then [.val false (o.res.map fun w => w.v)] else []) ++ [.val true o.wrote]
  | .cas _ _ _ => [.val false (o.res.map fun w => w.v), .val true o.wrote]
  | .value true x => if x = 0 then [] else [.exc x]
  | _ => []

/-- R355: what a predicate that fired on a completed operation does to its fibre. -/
def Run.firedAfter (r : Run s0) (o : Op) (x : Fired) : Run s0 :=
  let f := r.s.fibre o.fibre
  if x.act = 4 then
    r.raise [{ key := o.fibre, lane := f.lane, cls := .watch, addr := x.cand, reason := x.n,
               pc := f.pc, gph := some o.gph }]
  else
    let crew := match f.slot with
      | none => [o.fibre]
      | some sl => match KV.find? (ckey f.site sl) r.s.crews with
        | some c => c.fids.map (fkey c.gang)
        | none => [o.fibre]
    r.doHalts f.site f.gang crew [(o.fibre, x)] true

/-- R122, R241, R368: a load's push to a queue waits for the lower lanes, and being a release, for the
fibre's earlier accesses. -/
def State.pushWaits (s : State) (id : Nat) (o : Op) : Bool :=
  isQueue o.dst && (o.after.any (fun n => KV.has n s.ops) || !(s.earlier id o.fibre).isEmpty)

/-- R181: a performed operation completes. Its results reach its fibre, its flag is DONE, and the
value and exception predicates see it. The FPX of a converting LDE is taken as that of an FDIV is, at the
observing word with ENG = 1: R222 places it at neither (log entry 56, DESIGN CHOICE). -/
def Run.finish (r : Run s0) (id : Nat) : Run s0 :=
  match KV.find? id r.s.ops with
  | none => r
  | some o =>
    if o.stage ≠ .performed ∨ r.s.pushWaits id o then r else
    let gk := o.gang
    let exc := match o.kind with | .value _ x => x | _ => o.exc
    let note := match o.note with
      | some n => some n
      | none => if exc &&& o.ten = 0 then none
        else some { cls := .fpx, addr := fpxAddr exc o.ten o.pc, gph := o.gph }
    let poisoned : Bool := match o.note with
      | some n => decide (n.cls = Cls.poison ∨ n.cls = Cls.homelost)
      | none => false
    let r := r.delOp id
    let r := if isQueue o.dst then
        let r := r.unreserve gk o.dst
        if poisoned ∨ o.res = [] then r else r.push gk (o.dst - 112) o.res
      else r.updFibre o.fibre fun f =>
        if poisoned then f.discard id else f.deliver id o.dst o.res
    let r := r.updFibre o.fibre fun f =>
      let f := f.stick exc
      let f := if o.acc.poll ∧ !poisoned then f.polled o.acc (o.res.map PW.v) else f
      f.flagDone o.flag note o.p7
    let r := r.each o.joint fun r x => r.updFibre x.1 fun f => f.flagDone x.2 none none
    let w := r.watch o.site gk (r.s.fibre o.fibre).fid o.wskip o.cands
    match w.2 with
    | none => w.1
    | some x => w.1.firedAfter o x

/-- An operation without a flag and without results is done once performed. -/
def Run.settleOp (r : Run s0) (id : Nat) : Run s0 :=
  match KV.find? id r.s.ops with
  | some o => if o.flag = 16 ∧ o.stage = .performed then r.finish id else r
  | none => r

/-- An access that its own core or sculler can perform takes its instant and completes at once. -/
def Run.tryNow (r : Run s0) (id : Nat) : Run s0 :=
  match KV.find? id r.s.ops with
  | none => r
  | some o =>
    if o.stage = .performed then r.finish id
    else if decide (o.stage = .pending) && r.s.mayTake id o &&
        (decide (r.s.via o = .scr) || decide (r.s.via o = .l1)) then
      (r.takeAccess id o).finish id
    else r

/-- R114: what a fibre's operation reaches lies in lost storage: HOMELOST, under its flag where it has
one. -/
def Run.recordLost (r : Run s0) (op fibre : Nat) (va : VAddr) : Run s0 :=
  match KV.find? op r.s.ops with
  | none => r
  | some o =>
    let fl := if fibre = o.fibre then o.flag
      else ((o.joint.find? fun x => decide (x.1 = fibre)).map Prod.snd).getD 16
    let note := { o with flag := fl }.fault .homelost (va.zeroExtend 64)
    if fl = 16 then r.raise [{ key := fibre, lane := (r.s.fibre fibre).lane, cls := .homelost,
                               addr := va.zeroExtend 64, pc := (r.s.fibre fibre).pc, gph := some o.gph }]
    else if fibre = o.fibre then r.updOp op fun o => { o with note := some note }
    else (r.updFibre fibre fun f => f.flagDone fl (some note) none).updOp op fun o => { o with
      joint := o.joint.filter fun x => decide (x.1 ≠ fibre) }

/-- An operation in flight has come to lost storage: it does no more, and faults for each of its fibres. -/
def Run.loseAll (r : Run s0) (id : Nat) (va : VAddr) : Run s0 :=
  match KV.find? id r.s.ops with
  | none => r
  | some o => ((r.each o.fibres fun r k => r.recordLost id k va).updOp id fun o => { o with
      stage := .performed }).settleOp id

/-! ### Starting an access -/

/-- Start an access of a lane: `w` destination registers; `full` where the next word waits for it. -/
def Run.access (r : Run s0) (e : Env) (o : Op) (w : Nat) (full : Bool) : Run s0 :=
  let id := r.s.nextId
  let arr := if o.acc.bank then (r.s.pch (scullerOf o.acc.pa)).clk else 0
  let r := r.startOp e { o with arr := arr } w full false
  let r := if o.acc.acq then r.updFibre e.key fun f => { f with fence := [id] } else r
  if e.wait then r else r.tryNow id

/-- R166: a store, atomic or request of the fibre clears its demoted bit. -/
def Run.undemote (r : Run s0) (k : Nat) : Run s0 := r.updFibre k fun f => { f with dem := false }

end Sys2Proof.Machine
end

