-- ==== Sys2Proof/Machine/Int.lean ====
section
/-! DEFINITION. Integer, address and predicate instructions (R189 to R198). All are fixed-latency:
register results are readable four counts later (R182), predicates by the next word (R197). -/

namespace Sys2Proof.Machine
variable {s0 : State}

/-! ### Shapes -/

/-- d := f a b. -/
def binDesc (i : Instr) (g : BitVec 4) (d a b : BitVec 7) (f : Word → Word → Word) : Desc s0 where
  i := i
  guard := g
  uses := [src a, src b, dst d]
  act := perLane fun r e => r.result32 e d (f (e.w 0) (e.w 1))

/-- R184: the immediate of an FI word. -/
def immVal (i : BitVec 7) (e : Env) : Word :=
  match e.imm with
  | some p => (p ++ i).signExtend 32
  | none => i.signExtend 32

/-- d := f a i. -/
def immDesc (i : Instr) (g : BitVec 4) (d a imm : BitVec 7) (f : Word → Word → Word) : Desc s0 where
  i := i
  guard := g
  uses := [src a, dst d]
  immOk := true
  act := perLane fun r e => r.result32 e d (f (e.w 0) (immVal imm e))

/-- R190: a shift by an immediate; one that IMM takes outside 0 to 31 is ILLEG, reason 1. -/
def shiftDesc (i : Instr) (g : BitVec 4) (d a imm : BitVec 7) (f : Word → Word → Word) : Desc s0 where
  i := i
  guard := g
  uses := [src a, dst d]
  immOk := true
  illeg := fun _ e => match e.imm with
    | some p => if p = 0 then none else some 1
    | none => none
  act := perLane fun r e => r.result32 e d (f (e.w 0) (immVal imm e))

/-- d := f a b d, d read as a source. -/
def triDesc (i : Instr) (g : BitVec 4) (d a b : BitVec 7) (f : Word → Word → Word → Word) :
    Desc s0 where
  i := i
  guard := g
  uses := [src a, src b, src d, dst d]
  act := perLane fun r e => r.result32 e d (f (e.w 0) (e.w 1) (e.w 2))

/-! ### What they compute (R189 to R195) -/

def aluMulhi (a b : Word) : Word := ((a.signExtend 64 * b.signExtend 64).extractLsb' 32 32)
def aluMulhiu (a b : Word) : Word := ((a.zeroExtend 64 * b.zeroExtend 64).extractLsb' 32 32)
def aluShl (a b : Word) : Word := a <<< (b.extractLsb' 0 5).toNat
def aluShr (a b : Word) : Word := a >>> (b.extractLsb' 0 5).toNat
def aluSar (a b : Word) : Word := a.sshiftRight (b.extractLsb' 0 5).toNat
def aluMin (a b : Word) : Word := if a.slt b then a else b
def aluMax (a b : Word) : Word := if a.slt b then b else a
def aluMinu (a b : Word) : Word := if a.ult b then a else b
def aluMaxu (a b : Word) : Word := if a.ult b then b else a

/-- R192: number of leading 0 bits. -/
def clz (a : Word) : Nat := ((List.range 32).find? fun k => a.getLsbD (31 - k)).getD 32
/-- R192: number of 1 bits. -/
def popc (a : Word) : Nat := ((List.range 32).filter fun k => a.getLsbD k).length
/-- R192: bit i moved to bit 31 - i. -/
def brev (a : Word) : Word := (List.range 32).foldl (fun r k =>
  if a.getLsbD k then r ||| (1#32 <<< (31 - k)) else r) 0

/-- R192: the functions of IUN. -/
def iunFn (f : Nat) (a : Word) : Word :=
  match f with
  | 0 => ~~~a
  | 1 => -a
  | 2 => if a.msb then -a else a
  | 3 => BitVec.ofNat 32 (popc a)
  | 4 => BitVec.ofNat 32 (clz a)
  | 5 => brev a
  | 6 => (a.extractLsb' 0 8).signExtend 32
  | 7 => (a.extractLsb' 0 16).signExtend 32
  | 8 => (a.extractLsb' 0 8).zeroExtend 32
  | 9 => (a.extractLsb' 0 16).zeroExtend 32
  | _ => a

/-- R194: position and width of a bit field, and its mask. -/
def fieldPos (b : Word) : Nat := efld b 0 5
def fieldWidth (b : Word) : Nat := Nat.min 32 (efld b 8 6)
def fieldMask (b : Word) : Word := BitVec.ofNat 32 ((2 ^ fieldWidth b - 1) * 2 ^ fieldPos b)

def aluBfx (a b : Word) : Word :=
  let f := (a &&& fieldMask b) >>> fieldPos b
  let n := Nat.min (fieldWidth b) (32 - fieldPos b)
  if b.getLsbD 15 ∧ 0 < fieldWidth b ∧ f.getLsbD (n - 1) then
    f ||| BitVec.ofNat 32 (2 ^ 32 - 2 ^ n)
  else f

def aluBfi (a b d : Word) : Word :=
  (d &&& ~~~fieldMask b) ||| ((a <<< fieldPos b) &&& fieldMask b)

/-- R193. -/
def aluSel (a b d : Word) : Word := (a &&& d) ||| (b &&& ~~~d)

/-- R195: add a signed 32-bit value to bits 53:0 of a pointer. -/
def aluAdda (p : DWord) (b : Word) : DWord :=
  p.extractLsb' 54 10 ++ (p.extractLsb' 0 54 + b.signExtend 54)

/-! ### Register to register (R189) -/

def execAdd (g : BitVec 4) (d a b : BitVec 7) (s : State) : Host.Outcome State Fault Refusal :=
  runWord s (binDesc (.add g d a b) g d a b (· + ·))
def execSub (g : BitVec 4) (d a b : BitVec 7) (s : State) : Host.Outcome State Fault Refusal :=
  runWord s (binDesc (.sub g d a b) g d a b (· - ·))
def execMul (g : BitVec 4) (d a b : BitVec 7) (s : State) : Host.Outcome State Fault Refusal :=
  runWord s (binDesc (.mul g d a b) g d a b (· * ·))
def execMulhi (g : BitVec 4) (d a b : BitVec 7) (s : State) : Host.Outcome State Fault Refusal :=
  runWord s (binDesc (.mulhi g d a b) g d a b aluMulhi)
def execMulhiu (g : BitVec 4) (d a b : BitVec 7) (s : State) : Host.Outcome State Fault Refusal :=
  runWord s (binDesc (.mulhiu g d a b) g d a b aluMulhiu)
def execMad (g : BitVec 4) (d a b : BitVec 7) (s : State) : Host.Outcome State Fault Refusal :=
  runWord s (triDesc (.mad g d a b) g d a b fun x y z => x * y + z)
def execAnd (g : BitVec 4) (d a b : BitVec 7) (s : State) : Host.Outcome State Fault Refusal :=
  runWord s (binDesc (.and g d a b) g d a b (· &&& ·))
def execOr (g : BitVec 4) (d a b : BitVec 7) (s : State) : Host.Outcome State Fault Refusal :=
  runWord s (binDesc (.or g d a b) g d a b (· ||| ·))
def execXor (g : BitVec 4) (d a b : BitVec 7) (s : State) : Host.Outcome State Fault Refusal :=
  runWord s (binDesc (.xor g d a b) g d a b (· ^^^ ·))
def execShl (g : BitVec 4) (d a b : BitVec 7) (s : State) : Host.Outcome State Fault Refusal :=
  runWord s (binDesc (.shl g d a b) g d a b aluShl)
def execShr (g : BitVec 4) (d a b : BitVec 7) (s : State) : Host.Outcome State Fault Refusal :=
  runWord s (binDesc (.shr g d a b) g d a b aluShr)
def execSar (g : BitVec 4) (d a b : BitVec 7) (s : State) : Host.Outcome State Fault Refusal :=
  runWord s (binDesc (.sar g d a b) g d a b aluSar)
def execMin (g : BitVec 4) (d a b : BitVec 7) (s : State) : Host.Outcome State Fault Refusal :=
  runWord s (binDesc (.min g d a b) g d a b aluMin)
def execMax (g : BitVec 4) (d a b : BitVec 7) (s : State) : Host.Outcome State Fault Refusal :=
  runWord s (binDesc (.max g d a b) g d a b aluMax)
def execMinu (g : BitVec 4) (d a b : BitVec 7) (s : State) : Host.Outcome State Fault Refusal :=
  runWord s (binDesc (.minu g d a b) g d a b aluMinu)
def execMaxu (g : BitVec 4) (d a b : BitVec 7) (s : State) : Host.Outcome State Fault Refusal :=
  runWord s (binDesc (.maxu g d a b) g d a b aluMaxu)

/-! ### Register and immediate (R190, R191) -/

def execAddi (g : BitVec 4) (d a i : BitVec 7) (s : State) : Host.Outcome State Fault Refusal :=
  runWord s (immDesc (.addi g d a i) g d a i (· + ·))
def execAndi (g : BitVec 4) (d a i : BitVec 7) (s : State) : Host.Outcome State Fault Refusal :=
  runWord s (immDesc (.andi g d a i) g d a i (· &&& ·))
def execOri (g : BitVec 4) (d a i : BitVec 7) (s : State) : Host.Outcome State Fault Refusal :=
  runWord s (immDesc (.ori g d a i) g d a i (· ||| ·))
def execXori (g : BitVec 4) (d a i : BitVec 7) (s : State) : Host.Outcome State Fault Refusal :=
  runWord s (immDesc (.xori g d a i) g d a i (· ^^^ ·))
def execShli (g : BitVec 4) (d a i : BitVec 7) (s : State) : Host.Outcome State Fault Refusal :=
  runWord s (shiftDesc (.shli g d a i) g d a i aluShl)
def execShri (g : BitVec 4) (d a i : BitVec 7) (s : State) : Host.Outcome State Fault Refusal :=
  runWord s (shiftDesc (.shri g d a i) g d a i aluShr)
def execSari (g : BitVec 4) (d a i : BitVec 7) (s : State) : Host.Outcome State Fault Refusal :=
  runWord s (shiftDesc (.sari g d a i) g d a i aluSar)

/-- R184: the immediate of LDI and BRDEC. -/
def imm14Val (i : BitVec 14) (e : Env) : BitVec 29 :=
  match e.imm with
  | some p => p ++ i.extractLsb' 0 7
  | none => i.signExtend 29

/-- R184: bits 13:7 of imm14 must be 0 under IMM. -/
def imm14Err (i : BitVec 14) (_ : BitVec 22) : Bool := decide (i.extractLsb' 7 7 ≠ 0)

def execLdi (g : BitVec 4) (d : BitVec 7) (i : BitVec 14) (s : State) :
    Host.Outcome State Fault Refusal :=
  runWord s {
    i := .ldi g d i, guard := g, uses := [dst d], immOk := true, immErr := imm14Err i,
    act := perLane fun r e => r.result32 e d ((imm14Val i e).signExtend 32) }

/-! ### Bits, selection, pointers (R192 to R195) -/

def execIun (g : BitVec 4) (d a f : BitVec 7) (s : State) : Host.Outcome State Fault Refusal :=
  runWord s {
    i := .iun g d a f, guard := g, uses := [src a, dst d],
    act := perLane fun r e => r.result32 e d (iunFn f.toNat (e.w 0)) }
def execSel (g : BitVec 4) (d a b : BitVec 7) (s : State) : Host.Outcome State Fault Refusal :=
  runWord s (triDesc (.sel g d a b) g d a b aluSel)
def execBfx (g : BitVec 4) (d a b : BitVec 7) (s : State) : Host.Outcome State Fault Refusal :=
  runWord s (binDesc (.bfx g d a b) g d a b aluBfx)
def execBfi (g : BitVec 4) (d a b : BitVec 7) (s : State) : Host.Outcome State Fault Refusal :=
  runWord s (triDesc (.bfi g d a b) g d a b aluBfi)

/-- R195. -/
def add64Desc (g : BitVec 4) (d a b : BitVec 7) : Desc s0 where
  i := .add64 g d a b
  guard := g
  uses := [src a 2, src b 2, dst d 2]
  act := perLane fun r e => r.result e d (words2 (e.d 0 + e.d 1))
def execAdd64 (g : BitVec 4) (d a b : BitVec 7) (s : State) : Host.Outcome State Fault Refusal :=
  runWord s (add64Desc g d a b)

def addaDesc (g : BitVec 4) (d a b : BitVec 7) : Desc s0 where
  i := .adda g d a b
  guard := g
  uses := [src a 2, src b, dst d 2]
  act := perLane fun r e => r.result e d (words2 (aluAdda (e.d 0) (e.w 1)))
def execAdda (g : BitVec 4) (d a b : BitVec 7) (s : State) : Host.Outcome State Fault Refusal :=
  runWord s (addaDesc g d a b)

/-! ### Predicates (R196 to R198) -/

/-- A predicate result of a lane (R197). -/
def Run.setPred (r : Run s0) (e : Env) (p : BitVec 3) (b : Bool) : Run s0 :=
  r.updFibre e.key fun f => f.setPred p.toNat b

def execSetp (g c : BitVec 4) (p : BitVec 3) (a b : BitVec 7) (s : State) :
    Host.Outcome State Fault Refusal :=
  runWord s {
    i := .setp g c p a b, guard := g, uses := [src a, src b],
    act := perLane fun r e => r.setPred e p (cond c.toNat (e.w 0) (e.w 1)) }
def execSetpi (g c : BitVec 4) (p : BitVec 3) (a i : BitVec 7) (s : State) :
    Host.Outcome State Fault Refusal :=
  runWord s {
    i := .setpi g c p a i, guard := g, uses := [src a], immOk := true,
    act := perLane fun r e => r.setPred e p (cond c.toNat (e.w 0) (immVal i e)) }

/-- R198: the logic of PLOG sub 0 to 6. -/
def plogFn (sub : Nat) (x y : Bool) : Bool :=
  match sub with
  | 0 => x && y
  | 1 => x || y
  | 2 => x ^^ y
  | 3 => x && !y
  | 4 => x || !y
  | 5 => x
  | _ => !x

/-- R198. -/
def execPlog (g : BitVec 4) (a b sub : BitVec 7) (s : State) : Host.Outcome State Fault Refusal :=
  let pa (e : Env) : Bool := e.f.pred (efld b 0 3)
  let pb (e : Env) : Bool := e.f.pred (efld b 3 3)
  match sub.toNat with
  | 0x10 => runWord s {
      i := .plog g a b sub, guard := g, uses := [dst a],
      act := perLane fun r e => r.result32 e a (if pa e then 0xFFFF_FFFF else 0) }
  | 0x11 => runWord s {
      i := .plog g a b sub, guard := g, uses := [dst a],
      act := perLane fun r e => r.result32 e a ((e.f.preds ||| 1).zeroExtend 32) }
  | 0x12 => runWord s {
      i := .plog g a b sub, guard := g, uses := [src a],
      act := perLane fun r e => r.updFibre e.key fun f =>
        (List.range 7).foldl (fun f k =>
          if b.getLsbD k then f.setPred (k + 1) ((e.w 0).getLsbD (k + 1)) else f) f }
  | n => runWord s {
      i := .plog g a b sub, guard := g,
      act := perLane fun r e => r.setPred e (a.extractLsb' 0 3) (plogFn n (pa e) (pb e)) }

/-! ### Exchange within a crew (R203 to R205) -/

/-- The active lanes of the issuing word (R149). -/
def State.activeLanes (s : State) (d : Desc s0) : List Env :=
  match s.cur with
  | none => []
  | some c => match KV.find? (ckey c.site c.slot) s.crews with
    | none => []
    | some cr => (crewEnvs s c cr d).filter Env.active

/-- R203: what the lane numbered l holds in g[a]. -/
def laneVal (es : List Env) (l : Nat) : Option PW :=
  (es.find? fun e => decide (e.lane = l)).map fun e => (e.op 0).getD 0 {}

/-- R203: an active lane that traps at the word gives its value all the same, with its poison
(log entry 47). -/
def execLxch (g : BitVec 4) (d a b : BitVec 7) (s : State) : Host.Outcome State Fault Refusal :=
  let lanes := s.activeLanes (s0 := s)
    { i := .lxch g d a b, guard := g, uses := [src a, src b, dst d], act := fun r _ => r }
  runWord s {
    i := .lxch g d a b, guard := g, uses := [src a, src b, dst d],
    act := fun r es => r.each es fun r e =>
      r.result e d [(laneVal (es ++ lanes) (e.w 1).toNat).getD { v := e.w 0 }] }

/-- R204: the ballot of the lanes whose value is not 0. -/
def ballot (es : List Env) : Word :=
  laneMask ((es.filter fun e => decide (e.w 0 ≠ 0)).map Env.lane)

def agree (op : Nat) (es : List Env) : Bool :=
  match op with
  | 0 => decide (ballot es ≠ 0)
  | 1 => es.all fun e => decide (e.w 0 ≠ 0)
  | _ => es.all fun e => decide (some (e.w 0) = es.head?.map fun x => x.w 0)

def execLagr (g c : BitVec 4) (q : BitVec 3) (a b : BitVec 7) (s : State) :
    Host.Outcome State Fault Refusal :=
  runWord s {
    i := .lagr g c q a b, guard := g, uses := [src a, dst b],
    act := fun r es => r.each es fun r e =>
      (r.result32 e b (ballot es)).setPred e q (agree c.toNat es) }

/-- R205: the folds over all values; SCAN and XSCAN take the values of lanes up to the lane's own. -/
def foldFn (op : Nat) (vs : List Word) : Word :=
  let f : Word → Word → Word := match op with
    | 1 => aluMin
    | 2 => aluMax
    | 3 => aluMinu
    | 4 => aluMaxu
    | 5 => (· &&& ·)
    | 6 => (· ||| ·)
    | 7 => (· ^^^ ·)
    | _ => (· + ·)
  match vs with
  | [] => 0
  | v :: rest => rest.foldl f v

def execLfold (g : BitVec 4) (d a o : BitVec 7) (s : State) : Host.Outcome State Fault Refusal :=
  runWord s {
    i := .lfold g d a o, guard := g, uses := [src a, dst d],
    act := fun r es => r.each es fun r e =>
      let vs := (es.filter fun x => match o.toNat with
        | 8 => decide (x.lane ≤ e.lane)
        | 9 => decide (x.lane < e.lane)
        | _ => true).map fun x => x.w 0
      r.result32 e d (foldFn o.toNat vs) }

end Sys2Proof.Machine
end

