-- ==== Sys2Proof/Machine/Barrier.lean ====
section
/-! DEFINITION. Barriers (R169, R302 to R306): the unit takes arrivals, departures and exits one at a
time. Level 0 is a gang's barrier, 1 a cluster group's, 2 a launch's. -/

namespace Sys2Proof.Machine
variable {s0 : State}

/-- A barrier of the gang `gk` at a level (R303). -/
def State.bar (s : State) (gk level n : Nat) : Bar :=
  let g := s.gang gk
  KV.getD n {} (match level with
    | 0 => g.bars
    | 1 => (s.group g.group).bars
    | _ => (s.launch g.launch).bars)

def Run.setBar (r : Run s0) (gk level n : Nat) (b : Bar) : Run s0 :=
  let g := r.s.gang gk
  match level with
  | 0 => r.updGang gk fun g => { g with bars := KV.put n b g.bars }
  | 1 => r.mod fun s => { s with groups := (
      KV.update g.group (fun x => { x with bars := KV.put n b x.bars }) s.groups) }
  | _ => r.mod fun s => { s with launches := (
      KV.update g.launch (fun x => { x with bars := KV.put n b x.bars }) s.launches) }

/-- Whether gangs `a` and `b` share the barriers of a level. -/
def State.sameBar (s : State) (level a b : Nat) : Bool :=
  match level with
  | 0 => decide (a = b)
  | 1 => decide ((s.gang a).group = (s.gang b).group)
  | _ => decide ((s.gang a).launch = (s.gang b).launch)

/-- A fibre leaves its wait for the word after it, with acquire meaning where `acq` (R161, R163). -/
def Run.depart (r : Run s0) (k : Nat) (acq : Bool) : Run s0 :=
  match (r.s.fibre k).wait with
  | none => r
  | some w =>
    let r := if acq then r.acquire (r.s.fibre k).site else r
    (r.updFibre k fun f => { f with wait := none, pc := w.next, age := 0 }).stopStep k

/-- The fibres of a barrier's members that wait in a way. -/
def State.waiters (s : State) (gk level n : Nat) (p : WaitK → Bool) : List Nat :=
  (s.fibres.filter fun f => decide (f.2.halt = none) && s.sameBar level f.2.gang gk &&
    match f.2.wait with
    | some w => p w.kind && (match w.kind with
        | .bar l m _ => decide (l = level ∧ m = n)
        | .rearrive l m _ _ _ _ => decide (l = level ∧ m = n)
        | _ => false)
    | none => false).map Prod.fst

/-- R304: an arrival counted in the current phase. -/
def Run.count (r : Run s0) (k gk level n : Nat) : Run s0 :=
  let b := r.s.bar gk level n
  (r.setBar gk level n { b with arrived := b.arrived ++ [k] }).updFibre k fun f => { f with dem := false }

/-- R304: a fibre that has waited for the phase to change arrives in the new one, once a queue that
takes the result has room. -/
def Run.rearrive (r : Run s0) (gk level n : Nat) (k : Nat) : Run s0 :=
  match (r.s.fibre k).wait with
  | some ⟨.rearrive _ _ _ hold dst sig, next⟩ =>
    let p := (r.s.bar gk level n).phase
    let fgk := (r.s.fibre k).gang
    if r.s.queueFull fgk dst then r else
    let r := (r.count k gk level n).resultAt k sig dst { v := p }
    if hold then r.updFibre k fun f => { f with wait := some ⟨.bar level n p, next⟩ }
    else r.depart k false
  | _ => r

/-- R304: a phase completes where every expected arrival is in; fibres that arrive anew may complete
the next one, so the check is made once more. -/
def Run.completeBar (r : Run s0) (gk level n : Nat) : Nat → Run s0
  | 0 => r
  | again + 1 =>
    let b := r.s.bar gk level n
    if b.arrived.length ≠ b.expected then r else
    let old := b.phase
    let r := r.setBar gk level n { b with phase := old + 1, arrived := [] }
    let out := r.s.waiters gk level n fun w => match w with
      | .bar _ _ x => decide (x = old)
      | _ => false
    let back := r.s.waiters gk level n fun w => match w with
      | .rearrive _ _ x _ _ _ => decide (x = old)
      | _ => false
    let r := r.each out fun r k => r.depart k true
    let r := r.each back fun r k => r.rearrive gk level n k
    if back = [] then r else r.completeBar gk level n again

/-- R304: Arrive, and Wait where `hold`, by a lane of the issuing word. -/
def Run.arriveLane (r : Run s0) (e : Env) (level n : Nat) (hold : Bool) (d : BitVec 7) : Run s0 :=
  let b := r.s.bar e.gk level n
  let park (r : Run s0) (w : WaitK) : Run s0 :=
    (r.leaveCrew e.key).updFibre e.key fun f => { f with
      pc := e.start, wait := some { kind := w, next := e.pc + 4 } }
  if b.arrived.contains e.key then park r (.rearrive level n b.phase hold d.toNat e.sig)
  else
    let r := (r.resultAt e.key e.sig d.toNat { v := b.phase }).count e.key e.gk level n
    if b.arrived.length + 1 = b.expected then
      -- the phase completes, so the lane does not wait; passing is its departure (R306)
      let r := r.completeBar e.gk level n 2
      if hold then r.acquire e.site else r
    else if hold then park r (.bar level n b.phase) else r

/-- R304: Wait(x) by a lane of the issuing word. -/
def Run.waitLane (r : Run s0) (e : Env) (level n : Nat) (x : Word) : Run s0 :=
  let p := (r.s.bar e.gk level n).phase
  if p = x then
    (r.leaveCrew e.key).updFibre e.key fun f => { f with
      pc := e.start, wait := some { kind := .bar level n x, next := e.pc + 4 } }
  else if (p - x).toNat ≤ 2 ^ 31 then r.acquire e.site
  else r

/-- R305: an EXIT lowers the expected count of a barrier, withdrawing the fibre's own arrival. -/
def Run.exitBar (r : Run s0) (k gk level n : Nat) : Run s0 :=
  let b := r.s.bar gk level n
  (r.setBar gk level n { b with expected := b.expected - 1, arrived := b.arrived.filter (· ≠ k) }).completeBar
    gk level n 2

/-- R306: an arrival has release meaning: the fibre's earlier accesses have reached their points. -/
def State.accessPending (s : State) (k : Nat) : Bool :=
  s.ops.any fun o => o.2.hasFibre k && o.2.isOpen &&
    match o.2.kind with
    | .load _ => true
    | .store _ _ => true
    | .atom _ _ _ _ => true
    | .cas _ _ _ => true
    | .cache _ _ => true
    | .put _ _ _ => true
    | .drain _ _ _ _ _ _ => true
    | .biter _ _ _ _ => true
    | .bcount _ => true
    | .bseal _ => true
    | .bfree _ => true
    | _ => false

/-- R303: a launch barrier outside a co-resident launch. -/
def State.noLaunchBar (s : State) (e : Env) (level : Nat) : Bool :=
  decide (level = 2) && !(s.launch e.g.launch).cor

/-- R320: the check of a gang barrier beyond bg15. -/
def barCheck (level n : Nat) : Option Bad :=
  if level = 0 ∧ 16 ≤ n then some { cls := .syncx, addr := BitVec.ofNat 64 n, reason := 0 } else none

/-- BARG, BARC, BARL and BARA. -/
def arriveDesc (i : Instr) (g : BitVec 4) (d : BitVec 7) (level n : Nat) (hold : Bool) : Desc s0 where
  i := i
  guard := g
  uses := [dst d]
  noRegion := true
  homeOnly := true
  illeg := fun s e => if s.noLaunchBar e level then some 5 else none
  hold := fun s e => s.accessPending e.key
  check := fun _ _ => barCheck level n
  act := perLane fun r e => r.arriveLane e level n hold d

def execBarg (g : BitVec 4) (d n : BitVec 7) (s : State) : Host.Outcome State Fault Refusal :=
  runWord s (arriveDesc (.barg g d n) g d 0 n.toNat true)
def execBara (g : BitVec 4) (d : BitVec 7) (l : BitVec 2) (n : BitVec 5) (s : State) :
    Host.Outcome State Fault Refusal :=
  runWord s (arriveDesc (.bara g d l n) g d l.toNat n.toNat false)
def execBarc (g : BitVec 4) (d : BitVec 7) (n : BitVec 2) (s : State) :
    Host.Outcome State Fault Refusal :=
  runWord s (arriveDesc (.barc g d n) g d 1 n.toNat true)
def execBarl (g : BitVec 4) (d : BitVec 7) (n : BitVec 1) (s : State) :
    Host.Outcome State Fault Refusal :=
  runWord s (arriveDesc (.barl g d n) g d 2 n.toNat true)

def execBarw (g : BitVec 4) (v : BitVec 7) (l : BitVec 2) (n : BitVec 5) (s : State) :
    Host.Outcome State Fault Refusal :=
  runWord s {
    i := .barw g v l n, guard := g, uses := [src v], noRegion := true, homeOnly := true,
    illeg := fun s e => if s.noLaunchBar e l.toNat then some 5 else none,
    check := fun _ _ => barCheck l.toNat n.toNat,
    act := perLane fun r e => r.waitLane e l.toNat n.toNat (e.w 0) }

/-- A fibre whose wait may have ended while it was halted looks again (R356). -/
def Run.recheckWait (r : Run s0) (k : Nat) : Run s0 :=
  let f := r.s.fibre k
  match f.wait with
  | some ⟨.bar l n x, _⟩ =>
    if (r.s.bar f.gang l n).phase ≠ x then r.depart k true else r
  | some ⟨.rearrive l n x _ _ _, _⟩ =>
    if (r.s.bar f.gang l n).phase ≠ x then (r.rearrive f.gang l n k).completeBar f.gang l n 2 else r
  | _ => r

end Sys2Proof.Machine
end

