-- ==== Sys2Proof/Machine/MemOps.lean ====
section
/-! DEFINITION. Loads, stores, atomics, fences, cache operations, scratchpad accesses, line regions
and queue bindings (R238 to R262). -/

namespace Sys2Proof.Machine
variable {s0 : State}

/-! ### The checks of an access -/

/-- R238: the pointer of operand n with the offset added. -/
def Env.ptr (e : Env) (n : Nat) : DWord := ptrAdd (e.d n) e.off

/-- R25, R70: the checks of one access of n bytes; a writer's also that no input row is touched. -/
def memCheck (s : State) (e : Env) (p : DWord) (n : Nat) (nd : Need) : Except Bad Xl :=
  match s.check e.site e.ctx p n n nd with
  | .error b => .error b
  | .ok x =>
    if nd.wr && s.inputRow x.key then
      .error { cls := .input, addr := (ptrVa p).zeroExtend 64, reason := 0 }
    else if nd.rd && !nd.wr && ownRow e.site x.key x.bank &&
        s.rowsFull e.site x.key (efld x.leaf 15 3) then
      .error { cls := .input, addr := (ptrVa p).zeroExtend 64, reason := 1 }
    else .ok x

def errOf {α : Type} (x : Except Bad α) : Option Bad :=
  match x with
  | .error b => some b
  | .ok _ => none

/-- Act on the lanes with the translations that their checks gave. -/
def withXl {α : Type} (chk : State → Env → Except Bad α) (f : Run s0 → Env → α → Run s0) (r : Run s0)
    (es : List Env) : Run s0 :=
  let s := r.s
  r.each es fun r e => match chk s e with
    | .ok x => f r e x
    | .error _ => r

/-- The access of a lane. -/
def mkAcc (p : DWord) (x : Xl) (n pol : Nat) (acq rel poll noal : Bool) : Acc where
  ptr := p
  pa := x.key
  n := n
  pol := polOf x pol
  bank := x.bank
  acq := acq
  rel := rel
  poll := poll
  noal := noal

/-- R242: bytes and registers of an FM size. -/
def sizeBytes (s : BitVec 2) : Nat := match s.toNat with | 0 => 4 | 1 => 8 | 2 => 16 | _ => 2
def sizeRegs (s : BitVec 2) : Nat := match s.toNat with | 1 => 2 | 2 => 4 | _ => 1

/-! ### Loads -/

/-- Start the loads of a word's lanes. -/
def Run.startLoads (r : Run s0) (d : BitVec 7) (w : Nat) (l : List (Env × Op)) : Run s0 :=
  r.each l fun r x => r.access x.1 { x.2 with dst := d.toNat } w true

/-- R70: register the rows that lanes on a sculler read; a lane that finds the table full traps. -/
def Run.enterRows (r : Run s0) (l : List (Env × Xl)) : Run s0 × List (Env × Xl) :=
  l.foldl (fun (a : Run s0 × List (Env × Xl)) x =>
    let e := x.1
    let rowl := efld x.2.leaf 15 3
    if !ownRow e.site x.2.key x.2.bank then (a.1, a.2 ++ [x])
    else if a.1.s.rowsFull e.site x.2.key rowl then
      let x : Fail := { key := e.key, lane := e.lane, cls := .input, reason := 1,
                        addr := (ptrVa (e.ptr 0)).zeroExtend 64, pc := e.start }
      ((a.1.unissue e).raise [x], a.2)
    else (a.1.addRow e.site x.2.key rowl e.key, a.2 ++ [x])) (r, [])

/-- The lanes whose checks pass, with their translations. -/
def passing {α : Type} (chk : State → Env → Except Bad α) (s : State) (es : List Env) :
    List (Env × α) :=
  es.filterMap fun e => match chk s e with | .ok x => some (e, x) | .error _ => none

/-- LD and LDB. -/
def loadDesc (i : Instr) (g : BitVec 4) (d a : BitVec 7) (p : BitVec 3) (o : BitVec 2) (n w : Nat)
    (form : LdForm) : Desc s0 where
  i := i
  guard := g
  uses := [src a 2, dst d w]
  immOk := true
  noal := true
  addrs := fun _ e => [(false, ptrVa (e.ptr 0), n)]
  check := fun s e => errOf (memCheck s e (e.ptr 0) n { rd := true, pol := some p.toNat })
  act := fun r es =>
    let l := passing (fun s e => memCheck s e (e.ptr 0) n { rd := true, pol := some p.toNat }) r.s es
    let r := r.each l fun r x => r.cacheXl x.1.site x.1.ctx (x.1.ptr 0)
    let y := r.enterRows l
    y.1.startLoads d w (y.2.map fun x => (x.1,
      { kind := .load form,
        acc := mkAcc (x.1.ptr 0) x.2 n p.toNat (decide (o = 1)) false (decide (o = 2)) x.1.noal }))

def execLd (g : BitVec 4) (d a : BitVec 7) (p : BitVec 3) (o sz : BitVec 2) (s : State) :
    Host.Outcome State Fault Refusal :=
  runWord s (loadDesc (.ld g d a p o sz) g d a p o (sizeBytes sz) (sizeRegs sz)
    (if sz = 3 then .zext else .words))

def execLdb (g : BitVec 4) (d a : BitVec 7) (p : BitVec 3) (o sz : BitVec 2) (s : State) :
    Host.Outcome State Fault Refusal :=
  runWord s (loadDesc (.ldb g d a p o sz) g d a p o 1 1 (if sz = 1 then .sext else .zext))

/-! ### Stores -/

/-- ST and STB: the low n bytes of the data register. -/
def storeDesc (i : Instr) (g : BitVec 4) (d a : BitVec 7) (p : BitVec 3) (o : BitVec 2) (n w : Nat) :
    Desc s0 where
  i := i
  guard := g
  uses := [src a 2, src d w]
  immOk := true
  noal := true
  addrs := fun _ e => [(true, ptrVa (e.ptr 0), n)]
  check := fun s e => errOf (memCheck s e (e.ptr 0) n { wr := true, pol := some p.toNat })
  stored := fun _ e => (List.range w).map fun k =>
    BitVec.ofNat 32 (((e.op 1).getD k {}).v.toNat % 2 ^ (8 * n))
  act := withXl (fun s e => memCheck s e (e.ptr 0) n { wr := true, pol := some p.toNat })
    fun r e x =>
      ((r.cacheXl e.site e.ctx (e.ptr 0)).undemote e.key).access e
        { kind := .store (bytesOf n (wordsVal (e.op 1))) [],
          acc := mkAcc (e.ptr 0) x n p.toNat false (decide (o = 1)) false e.noal } 0 false

def execSt (g : BitVec 4) (d a : BitVec 7) (p : BitVec 3) (o sz : BitVec 2) (s : State) :
    Host.Outcome State Fault Refusal :=
  runWord s (storeDesc (.st g d a p o sz) g d a p o (sizeBytes sz) (sizeRegs sz))

def execStb (g : BitVec 4) (d a : BitVec 7) (p : BitVec 3) (o : BitVec 2) (s : State) :
    Host.Outcome State Fault Refusal :=
  runWord s (storeDesc (.stb g d a p o) g d a p o 1 1)

/-! ### Decoding loads and stores (R244) -/

/-- Elements and registers of an LDE or STE size. -/
def elemCount (s : BitVec 2) : Nat := match s.toNat with | 1 => 2 | 2 => 4 | _ => 1

/-- R244: the span of e elements of a page format; 1 where no width is known. -/
def elemSpan (f e : Nat) : Nat := match fmtWidth f with | some w => max 1 (e * w / 8) | none => 1

/-- R21, R244: the FMT reason of a page's format. -/
def fmtBad (leaf : DWord) (groups : Nat) : Option Nat :=
  let f := leafFmt leaf
  if f = 0 ∨ 9 ≤ f then some 0
  else if (f = 7 ∨ f = 8) ∧ groups = 3 then some 1 else none

/-- GSZ of a leaf (R19). -/
def leafGsz (leaf : DWord) : Nat := efld leaf 12 2

/-- R244: the checks of LDE and STE, in their own order. -/
def elemCheck (s : State) (e : Env) (p : DWord) (cnt : Nat) (nd : Need) : Except Bad Xl :=
  match s.xlate e.site e.ctx (ptrVa p) 1 with
  | .error (rs, lv) =>
    .error { cls := .xlat, addr := (ptrVa p).zeroExtend 64, reason := rs, level := lv }
  | .ok x =>
    match memCheck s e p (elemSpan (leafFmt x.leaf) cnt) nd with
    | .error b =>
      if b.cls = .input then
        match fmtBad x.leaf (leafGsz x.leaf) with
        | some rs => .error { cls := .fmt, addr := (ptrVa p).zeroExtend 64, reason := rs }
        | none => .error b
      else .error b
    | .ok y =>
      match fmtBad x.leaf (leafGsz x.leaf) with
      | some rs => .error { cls := .fmt, addr := (ptrVa p).zeroExtend 64, reason := rs }
      | none => .ok y

def execLde (g : BitVec 4) (d a : BitVec 7) (p : BitVec 3) (o sz : BitVec 2) (s : State) :
    Host.Outcome State Fault Refusal :=
  let c := elemCount sz
  let chk (s : State) (e : Env) : Except Bad Xl :=
    elemCheck s e (e.ptr 0) c { rd := true, pol := some p.toNat }
  let span (s : State) (e : Env) : Nat := match s.xlate e.site e.ctx (ptrVa (e.ptr 0)) 1 with
    | .ok x => elemSpan (leafFmt x.leaf) c
    | .error _ => 1
  runWord s {
    i := .lde g d a p o sz, guard := g, uses := [src a 2, dst d c], immOk := true, noal := true,
    homeOnly := true,
    addrs := fun s e => [(false, ptrVa (e.ptr 0), span s e)],
    check := fun s e => errOf (chk s e),
    act := fun r es =>
      let l := passing chk r.s es
      let r := r.each l fun r x => r.cacheXl x.1.site x.1.ctx (x.1.ptr 0)
      r.startLoads d c (l.map fun x => (x.1,
        { kind := .load (.elems (leafFmt x.2.leaf) c),
          acc := mkAcc (x.1.ptr 0) x.2 (elemSpan (leafFmt x.2.leaf) c) p.toNat (decide (o = 1)) false
            (decide (o = 2)) x.1.noal })) }

/-- R244: the code of one element that STE stores, and its events. -/
def steElem (f : Nat) (rm : BitVec 2) (v : Word) : Nat × Exc :=
  match f with
  | 1 => (v.toNat, {})
  | 6 => (v.toNat % 256, {})
  | 7 => (v.toNat % 256, {})
  | 8 => (v.toNat % 16, {})
  | _ => cvtElem (f - 1) 0 rm false v.toNat

/-- R244, R245: bytes, bit masks and events of an STE of elements `vs`. -/
def steBytes (f : Nat) (rm : BitVec 2) (vs : List Word) : List Byte × List Byte × BitVec 5 :=
  let w := (fmtWidth f).getD 8
  let xs := vs.map (steElem f rm)
  let n := (List.range xs.length).foldl (fun a i => a + (xs.getD i (0, {})).1 * 2 ^ (w * i)) 0
  let len := elemSpan f vs.length
  (bytesOf len n, if w * vs.length < 8 then [0x0F] else [],
    (xs.foldl (fun a x => a.or x.2) ({} : Exc)).bits)

def execSte (g : BitVec 4) (d a : BitVec 7) (p : BitVec 3) (o sz : BitVec 2) (s : State) :
    Host.Outcome State Fault Refusal :=
  let c := elemCount sz
  let chk (s : State) (e : Env) : Except Bad Xl :=
    elemCheck s e (e.ptr 0) c { wr := true, pol := some p.toNat }
  let fmt (s : State) (e : Env) : Nat := match s.xlate e.site e.ctx (ptrVa (e.ptr 0)) 1 with
    | .ok x => leafFmt x.leaf
    | .error _ => 0
  let out (s : State) (e : Env) : List Byte × List Byte × BitVec 5 :=
    steBytes (fmt s e) e.g.rm ((List.range c).map fun k => ((e.op 1).getD k {}).v)
  runWord s {
    i := .ste g d a p o sz, guard := g, uses := [src a 2, src d c], immOk := true, noal := true,
    homeOnly := true,
    addrs := fun s e => [(true, ptrVa (e.ptr 0), elemSpan (fmt s e) c)],
    check := fun s e => errOf (chk s e),
    stored := fun s e =>
      let b := (out s e).1
      (wordsOf ((b.length + 3) / 4) (ofBytes b)).map PW.v,
    exc := fun e => (out s e).2.2,
    act := fun r es =>
      let s1 := r.s
      withXl chk (fun r e x =>
        let b := out s1 e
        ((r.cacheXl e.site e.ctx (e.ptr 0)).undemote e.key).access e
          { kind := .store b.1 b.2.1,
            acc := mkAcc (e.ptr 0) x b.1.length p.toNat false (decide (o = 1)) false e.noal }
          0 false) r es }

/-! ### Atomics on memory (R246 to R249) -/

/-- R119: release and acquire halves of an atomic's ORD. -/
def ordRel (o : BitVec 2) : Bool := o.getLsbD 0
def ordAcq (o : BitVec 2) : Bool := o.getLsbD 1

/-- ATOM and RED. -/
def atomDesc (i : Instr) (g : BitVec 4) (d a : BitVec 7) (code : Nat) (o : BitVec 2) (w64 ret : Bool) :
    Desc s0 where
  i := i
  guard := g
  uses := [src a 2, src d (if w64 then 2 else 1)] ++ (if ret then [dst d (if w64 then 2 else 1)] else [])
  immOk := true
  all := true
  illeg := fun _ _ => if ret ∧ isQueue d.toNat then some 3 else none
  addrs := fun _ e =>
    (if ret then [(false, ptrVa (e.ptr 0), if w64 then 8 else 4)] else []) ++
    [(true, ptrVa (e.ptr 0), if w64 then 8 else 4)]
  check := fun s e => errOf (memCheck s e (e.ptr 0) (if w64 then 8 else 4) { rd := true, wr := true })
  act := withXl (fun s e => memCheck s e (e.ptr 0) (if w64 then 8 else 4) { rd := true, wr := true })
    fun r e x =>
      ((r.cacheXl e.site e.ctx (e.ptr 0)).undemote e.key).access e
        { kind := .atom code w64 (wordsVal (e.op 1)) ret, dst := if ret then d.toNat else 124,
          acc := mkAcc (e.ptr 0) x (if w64 then 8 else 4) 5 (ordAcq o) (ordRel o) false false }
        (if ret then (if w64 then 2 else 1) else 0) ret

def execAtom (g : BitVec 4) (d a : BitVec 7) (h : BitVec 3) (o : BitVec 2) (l w : BitVec 1)
    (s : State) : Host.Outcome State Fault Refusal :=
  runWord s (atomDesc (.atom g d a h o l w) g d a (2 * h.toNat + l.toNat) o (decide (w = 1)) true)

def execRed (g : BitVec 4) (d a : BitVec 7) (h : BitVec 3) (o : BitVec 2) (l w : BitVec 1)
    (s : State) : Host.Outcome State Fault Refusal :=
  runWord s (atomDesc (.red g d a h o l w) g d a (2 * h.toNat + l.toNat) o (decide (w = 1)) false)

def execCas (g : BitVec 4) (d a : BitVec 7) (p : BitVec 3) (o sz : BitVec 2) (s : State) :
    Host.Outcome State Fault Refusal :=
  let k := sizeRegs sz
  let chk (s : State) (e : Env) : Except Bad Xl :=
    memCheck s e (e.ptr 0) (4 * k) { rd := true, wr := true, pol := some p.toNat }
  runWord s {
    i := .cas g d a p o sz, guard := g, uses := [src a 2, src d (2 * k), dst d k], immOk := true,
    all := true,
    illeg := fun _ _ => if isQueue d.toNat then some 3 else none,
    addrs := fun _ e => [(false, ptrVa (e.ptr 0), 4 * k), (true, ptrVa (e.ptr 0), 4 * k)],
    check := fun s e => errOf (chk s e),
    act := withXl chk fun r e x =>
      (r.cacheXl e.site e.ctx (e.ptr 0)).access e
        { kind := .cas (decide (k = 2)) (wordsVal ((e.op 1).take k)) (wordsVal ((e.op 1).drop k)),
          dst := d.toNat,
          acc := mkAcc (e.ptr 0) x (4 * k) p.toNat (ordAcq o) (ordRel o) false false } k true }

/-! ### Scratchpad (R250 to R252) -/

/-- R61, R369: bytes that a lane addresses under a PEER field. -/
def Env.scrSize (e : Env) (peer : Nat) : Nat :=
  if isSuper e.site then 262144 else if isSculler e.site ∧ peer = 0 then 16384 else e.g.ssize

/-- R131: a gang that can be reached. -/
def State.present (s : State) (gk : Nat) : Bool :=
  match KV.find? gk s.gangs with
  | some g => g.started && decide (g.exited < g.nfib)
  | none => false

/-- The scratchpad key of offset 0 that a PEER field names; none where the peer is absent (R251). -/
def State.peerBase (s : State) (e : Env) (peer : Nat) : Option Nat :=
  if peer < 4 then
    if isSuper e.site then some (e.site * 2 ^ 20)
    else if isSculler e.site then
      match (s.site e.site).lslots.find? fun x => decide (x.2 = e.gk) with
      | some x => some (e.site * 2 ^ 20 + x.1 * 16384)
      | none => none
    else some (e.g.scrKey 0)
  else if isSuper e.site then none
  else match (s.group e.g.group).gangs[peer - 4]? with
    | some k => if s.present k then some ((s.gang k).scrKey 0) else none
    | none => if peer - 4 = e.g.rank then some (e.g.scrKey 0) else none

/-- R250: the offset of a lane. -/
def Env.scrOff (e : Env) (n : Nat) : Nat := (e.w n + BitVec.ofInt 32 e.off).toNat

/-- R239, R35, R131: the checks of a scratchpad access. -/
def scrCheck (s : State) (e : Env) (peer x n : Nat) : Option Bad :=
  if x % n ≠ 0 then some { cls := .align, addr := BitVec.ofNat 64 x }
  else if e.scrSize peer < x + n then some { cls := .bounds, addr := BitVec.ofNat 64 x }
  else if (s.peerBase e peer).isNone && !e.tol then some { cls := .peer, addr := BitVec.ofNat 64 x, reason := peer - 4 }
  else none

def scrAcc (base x n : Nat) (acq rel poll : Bool) : Acc where
  scr := true
  ptr := BitVec.ofNat 64 x
  pa := base + x
  n := n
  acq := acq
  rel := rel
  poll := poll

/-- R251: a remote access makes its presence check, and takes its instant, at issue; it waits until
the fibre's earlier accesses allow that (R118 to R120). `op` is the access on an allotment. -/
def remoteHold (op : Env → Nat → Op) (peer : Env → Nat) (s : State) (e : Env) : Bool :=
  decide (4 ≤ peer e) && match s.peerBase e (peer e) with
  | some base => !s.mayTake s.nextId { op e base with fibre := e.key, site := e.site }
  | none => false

/-- An access to scratchpad. A remote one takes its instant now, whatever the turn's choice. -/
def Run.scrAccess (r : Run s0) (e : Env) (o : Op) (w : Nat) (full remote : Bool) : Run s0 :=
  let id := r.s.nextId
  let r := r.access e o w full
  if remote && e.wait then
    match KV.find? id r.s.ops with
    | some o => r.takeAccess id o
    | none => r
  else r

/-- R131: a tolerated absent lane. -/
def Run.tolerate (r : Run s0) (e : Env) (d : BitVec 7) (w : Nat) : Run s0 :=
  let r := r.updFibre e.key fun f => f.setPred 7 false
  if w = 0 then r
  else
    let id := r.s.nextId
    let r := r.startOp e { kind := .value false 0, stage := .performed, dst := d.toNat,
                           res := List.replicate w {} } w true false
    if e.wait then r else r.finish id

def execLds (g : BitVec 4) (d o : BitVec 7) (e : BitVec 3) (q sz : BitVec 2) (s : State) :
    Host.Outcome State Fault Refusal :=
  let peer := e.toNat
  let n := sizeBytes sz
  let w := sizeRegs sz
  let op (e : Env) (base : Nat) : Op :=
    { kind := .load (if sz = 3 then .zext else .words), dst := d.toNat,
      acc := scrAcc base (e.scrOff 0) n (decide (q = 1)) false (decide (q = 2)) }
  runWord s {
    i := .lds g d o e q sz, guard := g, uses := [src o, dst d w], immOk := true, tol := true,
    hold := remoteHold op fun _ => peer,
    check := fun s e => scrCheck s e peer (e.scrOff 0) n,
    act := perLane fun r e =>
      match r.s.peerBase e peer with
      | none => r.tolerate e d w
      | some base => r.scrAccess e (op e base) w true (decide (4 ≤ peer)) }

def execSts (g : BitVec 4) (d o : BitVec 7) (e : BitVec 3) (q sz : BitVec 2) (s : State) :
    Host.Outcome State Fault Refusal :=
  let peer := e.toNat
  let n := sizeBytes sz
  let w := sizeRegs sz
  let op (e : Env) (base : Nat) : Op :=
    { kind := .store (bytesOf n (wordsVal (e.op 1))) [],
      acc := scrAcc base (e.scrOff 0) n false (decide (q = 1)) false }
  runWord s {
    i := .sts g d o e q sz, guard := g, uses := [src o, src d w], immOk := true, tol := true,
    hold := remoteHold op fun _ => peer,
    check := fun s e => scrCheck s e peer (e.scrOff 0) n,
    act := perLane fun r e =>
      let r := r.undemote e.key
      match r.s.peerBase e peer with
      | none => r.tolerate e d 0
      | some base => r.scrAccess e (op e base) 0 false (decide (4 ≤ peer)) }

/-- R252: PEER and offset of an address word. The IMM is added to the offset field alone, modulo 2^20: what
becomes of a carry the spec does not say (log entry 54, DESIGN CHOICE). -/
def atomsPeer (e : Env) : Nat := efld (e.w 0) 29 3
def atomsOff (e : Env) : Nat := (((e.w 0).extractLsb' 0 20) + BitVec.ofInt 20 e.off).toNat

/-- R252, R132: alignment and bounds. -/
def atomsCheck (e : Env) : Option Bad :=
  let x := atomsOff e
  if x % 4 ≠ 0 then some { cls := .align, addr := BitVec.ofNat 64 x }
  else if efld (e.w 0) 20 9 ≠ 0 ∨ (1 ≤ atomsPeer e ∧ atomsPeer e ≤ 3) ∨ e.scrSize (atomsPeer e) < x + 4 then
    some { cls := .bounds, addr := BitVec.ofNat 64 x }
  else none

def execAtoms (g : BitVec 4) (d a : BitVec 7) (h : BitVec 3) (o : BitVec 2) (l : BitVec 1)
    (s : State) : Host.Outcome State Fault Refusal :=
  let op (e : Env) (base : Nat) : Op :=
    { kind := .atom (2 * h.toNat + l.toNat) false (e.w 1).toNat true, dst := d.toNat,
      acc := scrAcc base (atomsOff e) 4 (ordAcq o) (ordRel o) false }
  runWord s {
    i := .atoms g d a h o l, guard := g, uses := [src a, src d, dst d], immOk := true, tol := true,
    all := true, ownPops := true,
    illeg := fun _ _ => if isQueue d.toNat then some 3 else none,
    hold := remoteHold op atomsPeer,
    check := fun _ e => atomsCheck e,
    -- presence is checked per lane at its instant, after R132 (R252)
    act := inTurn [src a, src d, dst d] fun r e => match atomsCheck e with
      | some b => .error b
      | none => match r.s.peerBase e (atomsPeer e) with
        | some base => .ok ((r.undemote e.key).scrAccess e (op e base) 1 true (decide (4 ≤ atomsPeer e)))
        | none =>
          if e.tol then .ok ((r.undemote e.key).tolerate e d 1)
          else .error { cls := .peer, addr := BitVec.ofNat 64 (atomsOff e), reason := atomsPeer e - 4 } }

/-! ### Line regions (R253 to R255) -/

/-- R253: the line of an LRBEGIN, and its checks. -/
def regionCheck (s : State) (e : Env) : Except Bad Xl :=
  let p := ptrAdd (e.d 0) e.off
  let base := p &&& ~~~(127#64)
  match s.check e.site e.ctx base 128 1 { rd := true, wr := true } with
  | .error b => .error (if b.cls = .bounds ∨ b.cls = .align then { b with addr := p }
      else { b with addr := (ptrVa p).zeroExtend 64 })
  | .ok x =>
    let foreign := match place x.pa with
      | .sram d _ => decide (d ≠ dieOf e.site)
      | .mgmt _ => true
      | .hole => true
      | _ => false
    if x.bank || isWindow x.pa || foreign then
      .error { cls := .perm, addr := (ptrVa p).zeroExtend 64, reason := 4 }
    else .ok x

/-- R253: whether the directory can hold a line for a fibre: it is free, and the fibre's earlier
accesses to it are done. -/
def State.canHold (s : State) (k line : Nat) : Bool :=
  decide ((s.dir line).held = none) && decide (s.regionOps k line = []) && !s.l2Full line

/-- R255: the clk of a line's slice: that of the uncore of its holder die, which the supervisor core
counts too (log entry 45). -/
def State.sliceClk (s : State) (line : Nat) : Nat := (s.site (576 + (s.dir line).holder)).clk.toNat

/-- R178: a lower lane of the same LRBEGIN still has its push into the queue to make. -/
def State.pushesFirst (s : State) (k reg : Nat) : Bool :=
  let f := s.fibre k
  isQueue reg && s.fibres.any fun x => decide (x.2.gang = f.gang) && decide (x.2.slot = f.slot) &&
    decide (x.2.site = f.site) && decide (x.2.lane < f.lane) && match x.2.region with
      | some g => decide (g.reg = reg) && !g.held
      | none => false

/-- R254, R255: the region's bytes reach the home copy in one instant, and the line is free. -/
def Run.closeRegion (r : Run s0) (k : Nat) : Run s0 :=
  let f := r.s.fibre k
  match f.region with
  | none => r
  | some g =>
    let r := if g.buf = [] then r else
      r.writeHome (g.line * 128) ((List.range 128).map fun i => KV.getD i 0 g.buf)
        ((List.range 128).map fun i => if KV.has i g.buf then 0xFF else 0) false
    let r := r.staleFetch f.site k (g.line * 128) 128
    ((r.dropUntracked f.site g.line allWords).freeLine g.line).updFibre k fun f =>
      { (if g.ending then f.setFlag 15 { st := .done } else f) with region := none }

/-- R253: the directory holds the line for the fibre, and LRBEGIN completes with acquire meaning. A lane
whose line a lower lane named only makes its push (R255, reason 4). An LREND that has issued completes once
the fibre's earlier accesses have (R255). -/
def Run.holdLine (r : Run s0) (k : Nat) : Run s0 :=
  match (r.s.fibre k).region with
  | none => r
  | some g =>
    if g.ending then (if r.s.accessPending k then r else r.closeRegion k)
    else if r.s.pushesFirst k g.reg then r
    else if g.dup then
      ((r.unreserve (r.s.fibre k).gang g.reg).push (r.s.fibre k).gang (g.reg - 112) [{ v := 4 }]).updFibre k
        fun f => { f.setFlag 15 { st := .done } with region := none }
    else if g.held || !r.s.canHold k g.line then r else
    let site := (r.s.fibre k).site
    let r := (((r.countReq g.line site).fillL2 g.line).recallAll g.line allWords).merge g.line
    let r := r.invalSharers g.line none
    let r := r.updDir g.line fun d => { d with held := some k }
    let r := r.acquire site
    let r := r.dropUntracked site g.line allWords
    let clk := r.s.sliceClk g.line
    let gk := (r.s.fibre k).gang
    let r := if isQueue g.reg then (r.unreserve gk g.reg).push gk (g.reg - 112) [{}] else r
    r.updFibre k fun f =>
      let f := f.writeNow g.reg {}
      { f.setFlag 15 { st := .done } with region := some { g with held := true, born := clk } }

def execLrbegin (g : BitVec 4) (sr p : BitVec 7) (s : State) : Host.Outcome State Fault Refusal :=
  runWord s {
    i := .lrbegin g sr p, guard := g, uses := [src p 2, dst sr], immOk := true, sigOk := false,
    illeg := fun _ e => if e.f.region.isSome then some 5 else none,
    check := fun s e => errOf (regionCheck s e),
    act := fun r es =>
      let l := passing regionCheck r.s es
      (l.foldl (fun (a : Run s × List Nat) x =>
        let e := x.1
        let line := x.2.key / 128
        let r := a.1.cacheXl e.site e.ctx (e.ptr 0)
        let dup := a.2.contains line
        if dup && !isQueue sr.toNat then
          -- R255, reason 4
          (r.resultNow e sr [{ v := 4 }], a.2)
        else
          let r := (r.reserve e.gk sr.toNat).updFibre e.key fun f =>
            { f.setFlag 15 { st := .busy } with
              region := some { line := line, ret := e.pc + 4, reg := sr.toNat, dup := dup } }
          (if e.wait then r else r.holdLine e.key, if dup then a.2 else a.2 ++ [line])) (r, [])).1 }

/-- R255: LREND issues. It completes at once, or as soon as the fibre's earlier accesses have; a region
whose time has passed aborts instead. -/
def Run.endRegion (r : Run s0) (e : Env) : Run s0 :=
  match (r.s.fibre e.key).region with
  | none => r
  | some g =>
    if 4096 ≤ r.s.sliceClk g.line - g.born then r.abortRegion e.key 1
    else if r.s.accessPending e.key then r.updFibre e.key fun f =>
      { f.setFlag 15 { st := .busy } with region := some { g with ending := true } }
    else r.closeRegion e.key

def execLrend (g : BitVec 4) (s : State) : Host.Outcome State Fault Refusal :=
  runWord s {
    i := .lrend g, guard := g,
    illeg := fun _ e => if e.f.region.isNone then some 5 else none,
    act := perLane fun r e => r.endRegion e }

/-! ### Fences (R120, R256) -/

/-- An earlier load of the fibre, or what counts as one (R93, R257), is still to take its instant. -/
def State.loadPending (s : State) (k : Nat) : Bool :=
  s.ops.any fun o => decide (o.2.fibre = k) && o.2.isOpen &&
    (o.2.isLoad || (match o.2.kind with
      | .cache sub _ => decide (sub ≠ 2)
      | .drain _ _ _ _ _ _ => true
      | .bcount _ => true
      | .biter _ _ _ _ => true
      | _ => false))

def execFenceAcq (g : BitVec 4) (s : State) : Host.Outcome State Fault Refusal :=
  runWord s {
    i := .fenceAcq g, guard := g, sigOk := false, noRegion := true,
    hold := fun s e => s.loadPending e.key,
    act := perLane fun r e => r.acquire e.site }

/-- Later stores of the fibre wait for its earlier accesses (R120). -/
def Run.markRel (r : Run s0) (k : Nat) : Run s0 :=
  let n := r.s.nextId
  r.updFibre k fun f => { f with relMark := n }

def execFenceRel (g : BitVec 4) (s : State) : Host.Outcome State Fault Refusal :=
  runWord s {
    i := .fenceRel g, guard := g, sigOk := false, noRegion := true,
    act := perLane fun r e => r.markRel e.key }

def execFenceFull (g : BitVec 4) (s : State) : Host.Outcome State Fault Refusal :=
  runWord s {
    i := .fenceFull g, guard := g, sigOk := false, noRegion := true,
    hold := fun s e => s.accessPending e.key,
    act := perLane fun r e => (r.acquire e.site).markRel e.key }

/-! ### Cache operations (R257, R133) -/

/-- The lines of an extent of n bytes at va over its pages' translations: first byte, bytes, and
virtual address; compute-region pages have no copies (R58). -/
def extentLines (va : VAddr) (n : Nat) (xs : List Xl) : List (Nat × Nat × VAddr) :=
  ((List.range xs.length).filter fun i =>
      !(xs.getD i { pa := 0, leaf := 0, key := 0, bank := false }).bank).flatMap fun i =>
    let x := xs.getD i { pa := 0, leaf := 0, key := 0, bank := false }
    let lo := if i = 0 then va.toNat else (va.toNat / 4096 + i) * 4096
    let hi := min (va.toNat + n) ((va.toNat / 4096 + i + 1) * 4096)
    let off := x.pa % 128
    (List.range ((off + (hi - lo) + 127) / 128)).map fun j =>
      let a := if j = 0 then x.pa else x.pa / 128 * 128 + 128 * j
      (a, min (x.pa + (hi - lo)) (x.pa / 128 * 128 + 128 * (j + 1)) - a, BitVec.ofNat 54 (lo + (a - x.pa)))

/-- R257: the checks of a range. -/
def rangeCheck (s : State) (e : Env) (sub : Nat) : Except Bad (List Xl) :=
  let n := (e.w 1).toNat
  let p := e.ptr 0
  if n = 0 then .ok []
  else if sub = 2 ∧ n % 4 ≠ 0 then .error { cls := .align, addr := (ptrVa p).zeroExtend 64 }
  else s.checkExtent e.site e.ctx p n (if sub = 2 then 4 else 1)
    { rd := decide (sub ≠ 2), wr := decide (sub = 2) }

def cacheDesc (i : Instr) (g : BitVec 4) (p l : BitVec 7) (sub : Nat) : Desc s0 where
  i := i
  guard := g
  uses := [src p 2, src l]
  immOk := true
  noal := decide (sub = 3)
  noRegion := true
  check := fun s e => if sub = 3 then none else errOf (rangeCheck s e sub)
  act := withXl (fun s e => rangeCheck s e sub) fun r e xs =>
    let lines := extentLines (ptrVa (e.ptr 0)) (e.w 1).toNat xs
    if lines = [] then r
    else r.startOp e { kind := .cache sub lines, acc := { n := 0, noal := e.noal } } 0 false false

def execCacheWb (g : BitVec 4) (p l : BitVec 7) (s : State) : Host.Outcome State Fault Refusal :=
  runWord s (cacheDesc (.cacheWb g p l) g p l 0)
def execCacheInv (g : BitVec 4) (p l : BitVec 7) (s : State) : Host.Outcome State Fault Refusal :=
  runWord s (cacheDesc (.cacheInv g p l) g p l 1)
def execCacheInvd (g : BitVec 4) (p l : BitVec 7) (s : State) : Host.Outcome State Fault Refusal :=
  runWord s (cacheDesc (.cacheInvd g p l) g p l 2)
def execCachePref (g : BitVec 4) (p l : BitVec 7) (s : State) : Host.Outcome State Fault Refusal :=
  runWord s (cacheDesc (.cachePref g p l) g p l 3)

/-- The cores of a die drop their copies of words of a line. -/
def Run.dropDie (r : Run s0) (die line : Nat) (ws : List Nat) (untracked : Bool) : Run s0 :=
  r.each (List.range 48) fun r c => r.each ws fun r w =>
    if untracked then r.dropUntracked (48 * die + c) line [w]
    else r.dropL1 (48 * die + c) (line * 128 + 4 * w)

/-- R133: INVD on the words `ws` of a line. -/
def Run.invd (r : Run s0) (line : Nat) (ws : List Nat) : Run s0 :=
  let rest := allWords.filter fun w => !ws.contains w
  let bytes : BitVec 128 := ws.foldl (fun m w => m ||| lineMask w 0xF) 0
  let bits : BitVec 32 := ws.foldl (fun m w => m ||| (1#32 <<< w)) 0
  let die := (r.s.dir line).holder
  let r := r.recallAll line rest
  -- the directory forgets the words of the range before the rest is merged
  let r := r.updDir line fun d => { d with
    owners := (d.owners.map fun x => (x.1, x.2 &&& ~~~bits)).filter fun x => decide (x.2 ≠ 0),
    pmasks := d.pmasks.map fun x => (x.1, x.2 &&& ~~~bytes),
    t := d.t &&& ~~~bits }
  (r.dropDie die line ws false).merge line

/-- R257: a CACHE operation reaches one of its lines. -/
def Run.cacheLine (r : Run s0) (site sub : Nat) (noal : Bool) (pa n : Nat) : Run s0 :=
  let line := pa / 128
  if isWindow pa then
    if sub = 1 ∨ sub = 2 then r.dropDie (dieOf site) line allWords true else r
  else if !r.s.ready pa || (match place pa with | .dram _ => false | .sram _ _ => false | _ => true) then r
  else
    let r := if sub = 3 then r else r.countReq line site
    match sub with
    | 0 => ((r.recallAll line allWords).merge line).writeMemory line
    | 1 =>
      let die := (r.s.dir line).holder
      let r := ((r.recallAll line allWords).merge line).writeMemory line
      ((r.dropDie die line allWords false).updDir line fun d => { d with t := 0, sharers := 0 }).evictL2 line
    | 2 => r.invd line (wordsAt pa n)
    | _ => if noal then r.fillSram line else
      let r := (r.countReq line site).fillL2 line
      if isCore site && decide (dieOf site = (r.s.dir line).holder) then
        (r.roomL1 site line).fill site line allWords .untracked
      else r

/-- A CACHE operation takes its next line; it is performed when none is left. At a line that has been
lost meanwhile it faults, but for PREF, whose faults are dropped (R114, R257). -/
def Run.takeCache (r : Run s0) (id : Nat) (o : Op) (sub : Nat) (lines : List (Nat × Nat × VAddr)) :
    Run s0 :=
  match lines with
  | [] => r.updOp id fun o => { o with stage := .performed }
  | (pa, n, va) :: rest =>
    if r.s.isLost pa && decide (sub ≠ 3) then r.loseAll id va else
    let r := if r.s.isLost pa then r else r.cacheLine o.site sub o.acc.noal pa n
    r.updOp id fun o => { o with
      kind := .cache sub rest, stage := if rest = [] then .performed else .pending }

/-! ### Queues (R258, R260) -/

/-- R258: the ILLEG reason of a binding word. -/
def bindErr (b : DWord) : Option Nat :=
  let kind := efld b 62 2
  let ew := efld b 60 2
  let ring := decide (kind = 1 ∨ kind = 2)
  if efld b 51 9 ≠ 0 ∨ (kind ≠ 0 ∧ ew = 3) ∨ (kind = 0 ∧ b ≠ 0) ∨
      (kind ≠ 2 ∧ efld b 48 3 ≠ 0) ∨ (kind ≠ 3 ∧ efld b 32 16 ≠ 0) ∨
      (!ring ∧ efld b 0 32 ≠ 0) ∨ (ring ∧ efld b 0 20 % (4 * 2 ^ ew) ≠ 0) then some 1
  else none

/-- Elements, or a push or pop in flight. -/
def Queue.inUse (q : Queue) : Bool :=
  decide (q.inFlight ≠ 0) || decide (q.count ≠ 0) || (decide (q.kind = 3) && decide (q.unread ≠ 0))

/-- R258: the queue that a binding word makes; `box` is what has arrived at its mailbox. -/
def mkQueue (b : DWord) (box : List (List PW)) : Queue where
  kind := efld b 62 2
  ew := efld b 60 2
  ch := efld b 48 3
  mbox := efld b 32 16
  slm1 := efld b 20 12
  base := efld b 0 20
  box := if efld b 62 2 = 3 then box else []

/-- R320: bound queues of a core, across its gangs. -/
def State.boundQueues (s : State) (core : Nat) : Nat :=
  s.gangs.foldl (fun n g => if g.2.core = core then n + g.2.queues.length else n) 0

def execQbind (g : BitVec 4) (q b : BitVec 7) (s : State) : Host.Outcome State Fault Refusal :=
  let n := q.toNat - 112
  runWord s {
    i := .qbind g q b, guard := g, uses := [src b 2], noRegion := true, homeOnly := true,
    illeg := fun _ e => match bindErr (e.d 0) with
      | some r => some r
      | none => match KV.find? n e.g.queues with
        | some x => if x.inUse then some 5 else none
        | none => none,
    check := fun s e =>
      let x := mkQueue (e.d 0) []
      if (x.kind = 1 ∨ x.kind = 2) ∧ e.g.ssize < x.base + x.slots * (4 * x.regs) then
        some { cls := .bounds, addr := BitVec.ofNat 64 x.base }
      else if x.kind ≠ 0 ∧ !KV.has n e.g.queues ∧ 64 ≤ s.boundQueues e.g.core then
        some { cls := .syncx, addr := BitVec.ofNat 64 q.toNat, reason := 4 }
      else none,
    act := perLane fun r e =>
      let x := mkQueue (e.d 0) ((KV.getD (boxOf e.ctx (efld (e.d 0) 32 16)) [] r.s.pkg.boxes).map Prod.snd)
      r.updGang e.gk fun g => { g with queues := (
        if x.kind = 0 then KV.del n g.queues else KV.put n x g.queues) } }

/-- R260. -/
def Queue.stat (q : Queue) : Word :=
  BitVec.ofNat 2 q.kind ++ BitVec.ofNat 2 q.ew ++ 0#3 ++
    BitVec.ofNat 12 (if q.kind = 3 then 63 else q.slm1) ++ BitVec.ofNat 13 q.count

def execQstat (g : BitVec 4) (d q : BitVec 7) (s : State) : Host.Outcome State Fault Refusal :=
  runWord s {
    i := .qstat g d q, guard := g, uses := [dst d], noRegion := true, homeOnly := true,
    act := perLane fun r e => r.resultNow e d [{ v := match KV.find? (q.toNat - 112) e.g.queues with
      | some x => x.stat
      | none => 0 }] }

end Sys2Proof.Machine
end

