-- ==== Sys2Proof/Machine/Nc.lean ====
section
/-! DEFINITION. The accesses of engines (R126): reads and writes with NC meaning, at the directory, at
the bank, or by packets to a peer or the host; descriptors; the fetch unit's cache (R270). A cell is
the address where a byte is held and whether it is held at the bank (R58). -/

namespace Sys2Proof.Machine
variable {s0 : State}

/-! ### Reading -/

/-- The cells of the aligned words that n bytes at va touch. -/
def State.cellsAt (s : State) (site ctx : Nat) (va : VAddr) (n : Nat) : List (Nat × Bool) :=
  (List.range ((va.toNat % 4 + n + 3) / 4)).filterMap fun i =>
    s.keyAt site ctx (BitVec.ofNat 54 (va.toNat / 4 * 4 + 4 * i))

/-- A window whose accesses leave the device. -/
def State.remote (s : State) (pa : Nat) : Bool :=
  match place pa with
  | .peer w _ => (KV.getD w 0 s.pkg.peerwin).getLsbD 63 && s.linked
  | .host _ => s.linked
  | _ => false

/-- R367: the state as the accesses of an operation see it: its addresses were translated at issue, but for
a copy's, which every beat translates. -/
def State.asOf (s : State) (op : Nat) : State :=
  match KV.find? op s.ops with
  | some o => match o.kind with
    | .copy _ _ _ _ _ _ => s
    | .command _ => s
    | .take _ => s
    | _ => { s with pkg := { s.pkg with peerwin := o.wins } }
  | none => s

/-- The word of a cell as an NC read gives it; `got` holds what has come from windows and banks (R58),
and none is a word of theirs that has not come yet. -/
def State.ncWord (s : State) (got : List (Nat × PW)) (c : Nat × Bool) : Option PW :=
  let a := c.1 / 4 * 4
  if c.2 || s.remote a then KV.find? (a / 4) got
  else match place a with
    | .dram _ => some (s.coh a)
    | .sram _ _ => some (if s.ready a then s.coh a else {})
    | _ => some { p := true }

/-- A cell whose line is held for a line region, or finds no room in its slice: the access waits (R253,
R42). -/
def State.cellHeld (s : State) (c : Nat × Bool) : Bool :=
  !c.2 && (((s.dir (c.1 / 128)).held).isSome || s.l2Full (c.1 / 128))

/-- The words among `cs` that cannot be read yet: those of windows and banks that have not come, and those
that wait (R253). -/
def State.unread (s : State) (got : List (Nat × PW)) (cs : List (Nat × Bool)) : List (Nat × Bool) :=
  (cs.filter fun c => (s.ncWord got c).isNone || s.cellHeld c).map fun c => (c.1 / 4 * 4, c.2)

/-- The words of cells; one that is unread counts as poisoned. -/
def State.ncWords (s : State) (got : List (Nat × PW)) (cs : List (Nat × Bool)) : List PW :=
  cs.map fun c => (s.ncWord got c).getD { p := true }

/-- Addresses of words grouped by line: first byte and bytes of each piece. -/
def byLine (l : List Nat) : List (Nat × Nat) :=
  let lines := l.foldl (fun a x => if a.contains (x / 128) then a else a ++ [x / 128]) []
  lines.map fun n =>
    let xs := l.filter fun x => decide (x / 128 = n)
    let lo := xs.foldl min (n * 128 + 124)
    (lo, xs.foldl max lo + 4 - lo)

/-- A read or write of a window or at a bank on behalf of an operation is under way. -/
def State.hasChild (s : State) (id : Nat) : Bool :=
  s.ops.any fun o => match o.2.kind with
    | .wread n => decide (n = id)
    | .wwrite n => decide (n = id)
    | .bwrite n _ _ _ => decide (n = id)
    | _ => false

/-- A read or write on behalf of operation `op` starts: at a bank it waits for the controller (R65), to a
peer or the host its packet leaves. -/
def Run.startChild (r : Run s0) (op : Nat) (o : Op) (pkt : OutPkt) : Run s0 :=
  let id := r.s.nextId
  let put (o : Op) : Run s0 := r.bump.mod fun s => { s with ops := KV.put id o s.ops }
  if o.acc.bank then put { o with arr := (r.s.pch (scullerOf o.acc.pa)).clk }
  else
    let w := wholeWords o.acc.pa o.acc.n
    let to_ := r.s.packetTo (r.s.asOf op).pkg.peerwin w.1
    (put { o with stage := .away, port := r.s.portFor id }).updPkg fun p => { p with out := p.out ++
      [{ pkt with dest := to_.1, tag := id, addr := to_.2, len := w.2 }] }

/-- Start one read for each line of the words of windows and banks at `l`, but for those already asked
for. -/
def Run.askWords (r : Run s0) (k site op : Nat) (l : List (Nat × Bool)) : Run s0 :=
  r.each [true, false] fun r bank =>
    r.each (byLine ((l.filter fun c =>
        decide (c.2 = bank) && (bank || (r.s.asOf op).remote c.1)).map Prod.fst)) fun r x =>
      if r.s.ops.any fun o => decide (o.2.kind = .wread op) && decide (o.2.fibre = k) &&
          decide (o.2.acc.pa = x.1) then r
      else
        let o : Op := { kind := .wread op, fibre := k, site := site, acc := { pa := x.1, n := x.2, bank := bank } }
        r.startChild op o { kind := .read, dest := 0 }

/-- The directories of the cells take the NC reads (R100). -/
def Run.ncTouch (r : Run s0) (site : Nat) (cs : List (Nat × Bool)) : Run s0 :=
  let l := (cs.filter fun c => !c.2 && r.s.ready c.1 &&
    (match place c.1 with | .dram _ => true | .sram _ _ => true | _ => false)).map fun c => c.1 / 4 * 4
  r.each (byLine l) fun r x => r.dirLoad site x.1 x.2 5 false

/-- Bytes of n at va out of the words of its cells, each with its word's poison. -/
def bytesOut (va : VAddr) (n : Nat) (ws : List PW) : List (Byte × Bool) :=
  (List.range n).map fun i =>
    let j := va.toNat % 4 + i
    let w := ws.getD (j / 4) {}
    (w.v.extractLsb' (8 * (j % 4)) 8, w.p)

/-! ### Writing -/

/-- A byte that an engine writes: its cell, value, and whether it is poisoned. -/
structure NcByte where
  key : Nat
  bank : Bool
  v : Byte
  p : Bool := false
  deriving DecidableEq, Repr

/-- Value and mask of the bytes of a range of n from lo. -/
def spread (lo n : Nat) (l : List NcByte) : List Byte × List Byte :=
  let at_ (i : Nat) : Option NcByte := l.find? fun b => decide (b.key = lo + i)
  ((List.range n).map fun i => match at_ i with | some b => b.v | none => 0,
   (List.range n).map fun i => if (at_ i).isSome then 0xFF else 0)

/-- A write of the device itself (operation 0) that waits at a slice for a held line (R253). The device's
later ones wait behind it. -/
def Op.isDevWrite (o : Op) : Bool :=
  !o.acc.bank && match o.kind with | .bwrite 0 _ _ _ => true | _ => false
def State.devBusy (s : State) : Bool := s.ops.any fun o => o.2.isDevWrite
/-- A write of the device at an address would wait. -/
def State.devHeld (s : State) (pa : Nat) : Bool := s.devBusy || s.cellHeld (pa, false)

/-- Write the bytes of one 64-byte block with NC meaning; a lost line takes none (R114). -/
def Run.ncBlock (r : Run s0) (k site op blk : Nat) (l : List NcByte) : Run s0 :=
  let lo := (l.map NcByte.key).foldl min (blk * 64 + 63)
  let n := (l.map NcByte.key).foldl max lo + 1 - lo
  let x := spread lo n l
  let masks := if x.2.all fun m => decide (m = 0xFF) then [] else x.2
  if l.any NcByte.bank then
    let o : Op := { kind := .bwrite op x.1 masks (l.any NcByte.p), fibre := k, site := site,
                    acc := { pa := lo, n := n, bank := true } }
    r.startChild op o { kind := .write, dest := 0 }
  else if (r.s.asOf op).remote lo then
    let poison := (List.range (n / 4 + 2)).filter fun i =>
      l.any fun b => b.p && decide (b.key / 4 - lo / 4 = i)
    let w := wordWrite lo x.1 masks
    r.startChild op { kind := .wwrite op, fibre := k, site := site, acc := { pa := lo, n := n } }
      { kind := .write, dest := 0, data := w.1, masks := w.2, poison := poison }
  else match place lo with
    | .dram _ => at_ r lo
    | .sram _ _ => if r.s.ready lo then at_ r lo else r
    | _ => r.logStoreErr site (r.s.portFor op) lo
where
  at_ (r : Run s0) (lo : Nat) : Run s0 :=
    if r.s.isLost lo then r
    else if op = 0 && (r.s.cellHeld (lo, false) || r.s.devBusy) then queue r
    else dir r
  queue (r : Run s0) : Run s0 :=
    r.each ((List.range 16).filter fun w => l.any fun b => decide (b.key / 4 = blk * 16 + w)) fun r w =>
      let pa := blk * 64 + 4 * w
      let mine := l.filter fun b => decide (b.key / 4 = pa / 4)
      let x := spread pa 4 mine
      let o : Op := { kind := .bwrite 0 x.1 x.2 (mine.any NcByte.p), fibre := k, site := site,
                      acc := { pa := pa, n := 4 } }
      let id := r.s.nextId
      r.bump.mod fun s => { s with ops := KV.put id o s.ops }
  dir (r : Run s0) : Run s0 :=
    let line := blk / 2
    let words := (List.range 16).filter fun w => l.any fun b => decide (b.key / 4 = blk * 16 + w)
    let ws := words.map fun w => blk % 2 * 16 + w
    let r := ((r.countReq line site).dirClaim line ws).dropUntracked site line ws
    r.each words fun r w =>
      let pa := blk * 64 + 4 * w
      let mine := l.filter fun b => decide (b.key / 4 = pa / 4)
      let x := spread pa 4 mine
      r.writeHome pa x.1 x.2 (mine.any NcByte.p)

/-- A write of the device that has waited is performed, the oldest first. -/
def Run.takeDev (r : Run s0) (id : Nat) : Run s0 :=
  match KV.find? id r.s.ops with
  | none => r
  | some o => match o.kind with
    | .bwrite 0 bytes masks poi =>
      let first := r.s.ops.all fun p => !p.2.isDevWrite || decide (id ≤ p.1)
      if o.acc.bank || !first || r.s.cellHeld (o.acc.pa, false) then r
      else
        let line := o.acc.pa / 128
        let r := if r.s.isLost o.acc.pa then r
          else (((r.countReq line o.site).dirClaim line (wordsAt o.acc.pa 4)).dropUntracked o.site line
            (wordsAt o.acc.pa 4)).writeHome o.acc.pa bytes masks poi
        r.delOp id
    | _ => r

/-- Write bytes with NC meaning. -/
def Run.ncWrite (r : Run s0) (k site op : Nat) (l : List NcByte) : Run s0 :=
  let blks := l.foldl (fun a b => if a.contains (b.key / 64) then a else a ++ [b.key / 64]) []
  r.each blks fun r n => r.ncBlock k site op n (l.filter fun b => decide (b.key / 64 = n))

/-- R126: an engine operation may make its accesses: the fibre's earlier stores and acquires are done,
and so are its earlier loads of the bytes written, `w`. -/
def State.engineMay (s : State) (id k : Nat) (w : List (Bool × Nat × Nat)) : Bool :=
  (s.earlier id k).all fun p => !p.2.isWrite && !p.2.acc.acq &&
    !(p.2.spans.any fun x => w.any fun y => decide (x.1 = y.1) &&
      decide (x.2.1 < y.2.1 + y.2.2) && decide (y.2.1 < x.2.1 + x.2.2))

/-- The same at issue: the word waits until an engine operation may read (R126). -/
def engineHold (s : State) (e : Env) : Bool := !s.engineMay s.nextId e.key []

/-! ### Descriptors -/

/-- The cells of a descriptor of n bytes, aligned to `al`, after its checks. -/
def descCheck (s : State) (e : Env) (p : DWord) (n al : Nat) : Except Bad (List (Nat × Bool)) :=
  match s.checkExtent e.site e.ctx p n al { rd := true } with
  | .error b => .error b
  | .ok _ => .ok (s.cellsAt e.site e.ctx (ptrVa p) n)

/-- The words of cells that an instruction reads at issue, or the POISON they raise. -/
def readWords (s : State) (e : Env) (p : DWord) (cs : List (Nat × Bool)) : Except Bad (List PW) :=
  let ws := s.ncWords e.f.wbuf cs
  if ws.any (fun w => w.p) then .error { cls := .poison, addr := (ptrVa p).zeroExtend 64 } else .ok ws

/-- A field of a descriptor. -/
def dfld (m lo n : Nat) : Nat := m / 2 ^ lo % 2 ^ n
def dptr (m lo : Nat) : DWord := BitVec.ofNat 64 (m / 2 ^ lo)

/-- Ask for what the lanes still have to read from windows and banks before the word can issue, once
what comes before their reads is done: `wait` (R126, R128). -/
def askHeld (wait : State → Env → Bool) (need : State → Env → List (Nat × Bool)) (r : Run s0)
    (es : List Env) : Run s0 :=
  r.each es fun r e => if wait r.s e then r else r.askWords e.key e.site 0 (need r.s e)

/-- The words that a read on behalf of an operation has brought. -/
def Run.gotWords (r : Run s0) (id op : Nat) (o : Op) (ws : List PW) : Run s0 :=
  let got (m : List (Nat × PW)) : List (Nat × PW) :=
    (List.range ws.length).foldl (fun m i => KV.put (o.acc.pa / 4 + i) (ws.getD i {}) m) m
  let r := r.delOp id
  if op = 0 then r.updFibre o.fibre fun f => { f with wbuf := got f.wbuf }
  else r.updOp op fun x => { x with got := got x.got }

/-! ### The fetch unit (R270) -/

/-- A word that the fetch unit of a core holds and that fibre `k` may take: the fibre has not stored to
it since (R126). -/
def State.inFetch (s : State) (core k pa : Nat) : Option PW :=
  match KV.find? (l1key core pa) s.fcache with
  | some x => if x.stale.contains k then none else some x.w
  | none => none

/-- The word of a cell as the fetch unit of a core gives it to fibre `k`. -/
def State.fetched (s : State) (core k : Nat) (got : List (Nat × PW)) (c : Nat × Bool) : Option PW :=
  if c.2 || s.remote c.1 then s.ncWord got c
  else match s.inFetch core k c.1 with
    | some w => some w
    | none => s.ncWord got c

/-- R270: the cache holds 256 KiB: one that takes in a line drops another where it is full. -/
def Run.roomFetch (r : Run s0) (core line : Nat) : Run s0 :=
  let ls := (((KV.range (core * 2 ^ 50) (2 ^ 50) r.s.fcache).map fun e => e.1 % 2 ^ 50 / 32).eraseDups).filter
    (· ≠ line)
  if ls.length < 2048 then r
  else
    let out := r.s.pick ls
    r.ticked.mod fun s => { s with fcache := KV.delRange (core * 2 ^ 50 + out * 32) 32 s.fcache }

/-- The fetch unit of a core on the line's holder die fills the line of a word that it lacks, with SI
meaning; for another the read acts as NC (R109). -/
def Run.fetchFill (r : Run s0) (core k : Nat) (c : Nat × Bool) : Run s0 :=
  if c.2 || (r.s.inFetch core k c.1).isSome || !r.s.ready c.1 ||
      (match place c.1 with | .dram _ => false | .sram _ _ => false | _ => true) then r
  else if dieOf core ≠ (r.s.dir (c.1 / 128)).holder then r.dirLoad core (c.1 / 4 * 4) 4 5 false
  else
    let line := c.1 / 128
    let r := (r.dirLoad core (c.1 / 4 * 4) 4 3 true).roomFetch core line
    let d := r.s.dir line
    r.each allWords fun r w =>
      let pa := line * 128 + 4 * w
      let free := match d.wst w with | .h => true | .t => true | _ => false
      if (free && !KV.has (l1key core pa) r.s.fcache) || decide (pa / 4 = c.1 / 4) then
        let v := r.s.coh pa
        r.mod fun s => { s with fcache := KV.put (l1key core pa) { w := v } s.fcache }
      else r

end Sys2Proof.Machine
end

