-- ==== Sys2Proof/Machine/Bags.lean ====
section
/-! DEFINITION. Bag regions: storage and placer (R71 to R93), and the bag instructions (R263 to
R268). -/

namespace Sys2Proof.Machine
variable {s0 : State}

/-! ### Storage and handles -/

/-- R73: the block of the area that holds record n of share i, and the record's place in the block. -/
def Bag.recAt (b : Bag) (i n : Nat) : Nat × Nat :=
  let y := n % b.caps * b.rs
  let rho := y / 2048
  let sigma := b.sfirst + i
  let k := (sigma / 32 - b.sfirst / 32) * b.blk + rho / 32
  let j := 32 * (rho % 32) + (sigma % 32 ^^^ b.blocks.getD k 0 % 2 ^ 36 / 2 ^ 21 % 32)
  (k, j * 2048 + y % 2048)
/-- The cell of its first byte. -/
def Bag.recKey (b : Bag) (i n : Nat) : Nat :=
  let x := b.recAt i n
  crKey (b.blocks.getD x.1 0 + x.2) 2048
/-- Its virtual address. -/
def Bag.recVa (b : Bag) (i n : Nat) : VAddr :=
  let x := b.recAt i n
  b.area + BitVec.ofNat 54 (x.1 * 2 ^ 21 + x.2)

def Bag.fill (b : Bag) (i : Nat) : Nat := KV.getD i 0 b.f
def Bag.head (b : Bag) (i : Nat) : Nat := KV.getD i 0 b.h
def Bag.shares (b : Bag) : List Nat := List.range b.scount

/-- R79: F and H have 48 bits: one more, how far one is ahead of another, and whether it is. -/
def next48 (n : Nat) : Nat := (n + 1) % 2 ^ 48
def ahead (a b : Nat) : Nat := (a + 2 ^ 48 - b) % 2 ^ 48
def behind (a b : Nat) : Bool := decide (a ≠ b) && decide (ahead b a < 2 ^ 47)

/-- R77: the slot that a handle names: die * 256 + slot. -/
def bagKey (h : Nat) : Nat := h / 2 ^ 10 % 4 * 256 + h % 256
/-- R77: the handle of a slot. -/
def handleOf (k gen : Nat) : Nat := gen % 1024 * 2 ^ 20 + k / 256 * 2 ^ 10 + k % 256

/-- R77, R90: the BAGSTATE reason of a handle for a context. -/
def State.handleBad (s : State) (ctx h : Nat) : Option Nat :=
  let b := s.bag (bagKey h)
  if handleOf (bagKey h) (h / 2 ^ 20 % 1024) ≠ h ∨ !b.isOpen ∨ b.closing ∨ b.gen ≠ h / 2 ^ 20 % 1024 then some 1
  else if b.ctx ≠ ctx then some 2 else none
/-- R88, R90: the same for a PUT or PUTM, which a sealed bag refuses. -/
def State.putBad (s : State) (ctx h : Nat) : Option Nat :=
  match s.handleBad ctx h with
  | some n => some n
  | none => if (s.bag (bagKey h)).isSealed then some 0 else none

/-- The check of operand n as a handle, and as one to put to. -/
def bagCheck (s : State) (e : Env) (n : Nat) : Option Bad :=
  (s.handleBad e.ctx (e.w n).toNat).map fun r =>
    { cls := .bagstate, addr := (e.w n).zeroExtend 64, reason := r }
def sealCheck (s : State) (e : Env) (n : Nat) : Option Bad :=
  (s.putBad e.ctx (e.w n).toNat).map fun r =>
    { cls := .bagstate, addr := (e.w n).zeroExtend 64, reason := r }

/-- R81: the hashed share of a key. -/
def Bag.hash (b : Bag) (key : Word) : Nat :=
  let k := if b.kw then key.toNat else key.toNat % 2 ^ 16
  k * 0x9E37_79B1 % 2 ^ 32 * b.scount / 2 ^ 32

/-! ### Requests at the placer (R78) -/

/-- The bag that an operation's request is for, by its handle. -/
def Op.bag? (o : Op) : Option Nat :=
  match o.kind with
  | .put h _ _ => some h
  | .drain h _ _ _ _ _ => some h
  | .bcount h => some h
  | .bseal h => some h
  | .bfree h => some h
  | .biter h _ _ _ => some h
  | _ => none

/-- Two requests to one bag. -/
def Op.sameBag (o p : Op) : Bool := decide (o.bag?.map bagKey = p.bag?.map bagKey)

/-- R78, R93: the placer may take the request: those of its fibres to the bag that came earlier are
taken, those of the word's lower lanes too (R263), and so is what order qualifiers put before it. -/
def State.bagTurn (s : State) (id : Nat) (o : Op) : Bool :=
  decide (o.stage = .pending) && s.mayTake id o &&
  !(s.ops.any fun p => decide (p.1 < id) && decide (p.2.stage = .pending) && p.2.sameBag o &&
    (o.fibres.any p.2.hasFibre || o.after.contains p.1))

/-- The requests to the same bag that lower lanes of the word have under way (R263). -/
def State.lowerLanes (s : State) (e : Env) (o : Op) : List Nat :=
  (s.ops.filter fun p => decide (p.2.stage = .pending) && p.2.sameBag o &&
    decide (p.2.site = e.site ∧ p.2.pc = e.start ∧ p.2.lane < e.lane ∧ p.2.gang = e.gk)).map Prod.fst

/-- Start a bag request of a lane; `full`: without a flag the next word waits for its completion. In any
case it waits until the placer has taken the request, since its faults are precise (R386 for PUT and
PUTM; for the others log entry 12). -/
def Run.request (r : Run s0) (e : Env) (o : Op) (w : Nat) (full eng : Bool) : Run s0 :=
  let id := r.s.nextId
  let lower := r.s.lowerLanes e o
  ((r.startOp e o w full eng).updOp id fun o => { o with after := o.after ++ lower }).updFibre e.key
    fun f => { f with fence := [id] }

/-- R389: a request whose handle comes from a queue is taken as its word issues: a lane that fails leaves its
element in the queue. It waits until the placer can take it. -/
def fedHold (us : List Use) (k : Env → OpK) (s : State) (e : Env) : Bool :=
  decide (queueSrcs us ≠ []) && !s.bagTurn s.nextId { kind := k e, fibre := e.key, mark := e.f.relMark }

/-- The requests of a word that makes one per lane (R263). -/
def requestEach (us : List Use) (o : Run s0 → Env → Op) (w : Nat) (eng : Bool)
    (place : Run s0 → Nat → Run s0) (r : Run s0) (es : List Env) : Run s0 :=
  let start (r : Run s0) (e : Env) (wait : Bool) : Run s0 :=
    let id := r.s.nextId
    let r := r.request e (o r e) w true eng
    if wait then r else place r id
  if queueSrcs us = [] then r.each es fun r e => start r e e.wait
  else inTurn us (fun r e =>
    let h := (e.w 0).toNat
    match r.s.handleBad e.ctx h with
    | some n => .error { cls := .bagstate, addr := BitVec.ofNat 64 h, reason := n }
    | none => .ok (start r e false)) r es

/-- The request fails for some fibres: the trap is taken at the instruction, which performs nothing
for them. -/
def Run.refuse (r : Run s0) (id : Nat) (o : Op) (fs : List Fail) : Run s0 :=
  let flagOf (k : Nat) : Nat := if k = o.fibre then o.flag else ((o.joint.find? fun x => decide (x.1 = k)).map Prod.snd).getD 16
  let r := r.each fs fun r x => r.updFibre x.key fun f =>
    { f.discard id with flags := KV.del (flagOf x.key) f.flags }
  r.raise fs

/-- The lanes of an operation as failures of one class. -/
def Op.fails (o : Op) (s : State) (cls : Cls) (addr : DWord) (reason : Nat) : List Fail :=
  o.fibres.map fun k => { key := k, lane := (s.fibre k).lane, cls := cls, addr := addr,
                          reason := reason, pc := o.pc, gph := some o.gph }

/-- R90: a request whose handle has become stale by the time it is taken. -/
def State.staleBag (s : State) (o : Op) (h : Nat) : Option Nat :=
  s.handleBad (s.gang o.gang).ctx h

/-! ### Placement (R82) -/

/-- What a placement in progress has come to. -/
def Bag.place (b : Bag) (ns : Nat) (key : Word) : Option Nat :=
  let room (i : Nat) := decide (ahead (b.fill i) (b.head i) < b.caps)
  let h := b.hash key
  if b.affine then
    ((List.range b.scount).map fun k => (h + k) % b.scount).find? room
  else
    match b.shares.filter room with
    | [] => none
    | i :: is =>
      let m := is.foldl (fun m j => min m (b.fill j)) (b.fill i)
      if room h && decide (b.fill h + 1 ≤ m + 2 * ns) then some h
      else (i :: is).find? fun j => decide (b.fill j = m)

/-- Some item of the operation is still on its way to a controller. -/
def BagItem.op : BagItem → Nat
  | .write _ _ op _ _ => op
  | .remove _ op _ => op
def Bag.owes (b : Bag) (id : Nat) : Bool := b.fifo.any fun x => x.2.any fun i => decide (i.op = id)

/-- Every record of the operation is written or delivered. -/
def State.landed (s : State) (id : Nat) : Bool := s.bags.all fun b => !b.2.owes id

/-- An item of share i leaves for its controller. -/
def Bag.send (b : Bag) (i : Nat) (x : BagItem) : Bag :=
  { b with fifo := KV.put i (KV.getD i [] b.fifo ++ [x]) b.fifo }
/-- The clk of a share's controller. -/
def State.shareClk (s : State) (b : Bag) (i : Nat) : Nat := (s.pch (b.sfirst + i)).clk

/-- Place the records of one lane in order; the number placed before one finds no room. -/
def Bag.placeLane (b : Bag) (clk : Nat → Nat) (ns id fibre : Nat) (key : Word) :
    List Record → Bag × Nat × Bool
  | [] => (b, 0, true)
  | rec_ :: rest =>
    match b.place ns key with
    | none => (b, 0, false)
    | some s =>
      let n := b.fill s
      let b := ({ b with f := KV.put s (next48 n) b.f, count := b.count + 1 } : Bag).send s
        (.write n rec_ id fibre (clk s))
      let x := b.placeLane clk ns id fibre key rest
      (x.1, x.2.1 + 1, x.2.2)

/-- Ns of R82: `seen` is how many requests have reached the placer, of the `n` on their way. -/
def slack (seen n : Nat) : Nat := max 1 (min seen n)
/-- The requests of PUT and PUTM at a bag that are not yet taken. -/
def State.putsAt (s : State) (k : Nat) : Nat :=
  (s.ops.filter fun p => decide (p.2.stage = .pending) && (match p.2.kind with
    | .put h _ _ => decide (bagKey h = k)
    | _ => false)).length

/-- A PUT or PUTM whose records are all written completes (R264). -/
def Run.putLanded (r : Run s0) (id : Nat) : Run s0 :=
  match KV.find? id r.s.ops with
  | none => r
  | some o =>
    match o.kind with
    | .put _ _ _ =>
      if o.stage = .away ∧ r.s.landed id then
        r.updOp id fun o => { o with stage := .performed }
      else r
    | _ => r

/-- R82, R84, R88: the placer takes a PUT or PUTM request. `seen` is how many requests had reached
the placer, of those on their way. The lanes' next words wait no longer (R386); the request stands for
their stores until its records are written (R93). -/
def Run.placePut (r : Run s0) (id seen : Nat) : Run s0 :=
  match KV.find? id r.s.ops with
  | none => r
  | some o =>
    match o.kind with
    | .put h multi lanes =>
      if !r.s.bagTurn id o then r else
      let k := bagKey h
      let b := r.s.bag k
      match r.s.putBad (r.s.gang o.gang).ctx h with
      | some n => (r.delOp id).refuse id o (o.fails r.s .bagstate (BitVec.ofNat 64 h) n)
      | none =>
        let ns := slack seen (r.s.putsAt k)
        let x := lanes.foldl (fun (a : Bag × List (PutLane × Nat)) l =>
          let y := a.1.placeLane (r.s.shareClk b) ns id l.fibre l.key l.records
          (y.1, if y.2.2 then a.2 else a.2 ++ [(l, y.2.1)])) (b, [])
        let failed := x.2.map fun l => l.1.fibre
        let b' := if x.1.count = b.count then x.1
          else { x.1 with mirror := x.1.mirror ++ [(x.1.count, id)] }
        let fs : List Fail := x.2.map fun l =>
          { key := l.1.fibre, lane := l.1.lane, cls := .bagcap, pc := o.pc, gph := some o.gph,
            addr := BitVec.ofNat 64 (if multi then l.2 else 0) }
        let r := (r.updBag k fun _ => b').refuse id o fs
        (r.updOp id fun o => { o with
          stage := .away,
          flag := if failed.contains o.fibre then 16 else o.flag,
          joint := o.joint.filter fun x => !failed.contains x.1 }).putLanded id |>.settleOp id
    | _ => r

/-! ### The count word (R80) -/

/-- A store of the count word is on its way to its bank or to a peer. -/
def State.storing (s : State) (b : Bag) : Bool :=
  s.ops.any fun o => decide (o.2.fibre = 0) && o.2.isOpen && decide (o.2.acc.pa = b.cnt) &&
    decide (o.2.acc.bank = b.cntBank)
/-- The store waits for the one before it, and for a line region that holds the line (R142, R253). -/
def State.countWaits (s : State) (b : Bag) : Bool := s.storing b || s.cellHeld (b.cnt, b.cntBank)

/-- Store the count word with NC meaning, as no operation's own write; a lost line takes nothing
(R114). -/
def Run.storeCount (r : Run s0) (k : Nat) (b : Bag) (v : Nat) : Run s0 :=
  if r.s.isLost b.cnt then r
  else r.ncWrite 0 (576 + k / 256) 0 ((List.range 8).map fun i =>
    { key := b.cnt + i, bank := b.cntBank, v := BitVec.ofNat 8 (v / 2 ^ (8 * i)) })

/-- R80: the mirror stores that may land, in placer order. -/
def Run.flushMirror (r : Run s0) (k : Nat) : Nat → Run s0
  | 0 => r
  | n + 1 =>
    let b := r.s.bag k
    match b.mirror with
    | [] => r
    | (v, id) :: rest =>
      if b.owes id || r.s.countWaits b then r
      else ((r.updBag k fun b => { b with mirror := rest }).storeCount k b v).flushMirror k n

/-- R89: a bag whose BFREE has been taken is freed once the requests before it are complete: its area and
count word become 0, its slot is free under the next generation, and the BFREE completes. -/
def Run.freeBag (r : Run s0) (k : Nat) : Run s0 :=
  let b := r.s.bag k
  if !b.isOpen || !b.closing || !(b.fifo.all fun x => decide (x.2 = [])) || decide (b.mirror ≠ []) ||
      r.s.countWaits b then r
  else
    let r := r.each b.blocks fun r a =>
      (r.zeroMem a (2 ^ 21)).mod fun s => { s with
        mpoison := KV.delRange (a / 4) (2 ^ 19) s.mpoison,
        dpoison := KV.delRange (a / 64) (2 ^ 15) s.dpoison }
    let r := (r.storeCount k b 0).updBag k fun b => { gen := (b.gen + 1) % 1024 }
    let frees := r.s.ops.filter fun o => decide (o.2.stage = .away) && (match o.2.kind with
      | .bfree h => decide (bagKey h = k)
      | _ => false)
    r.each frees fun r o => (r.updOp o.1 fun o => { o with stage := .performed }).settleOp o.1

/-- What the placer may do at a bag: count words are stored, and a bag that closes is freed. -/
def Run.bagStep (r : Run s0) (k : Nat) : Run s0 := (r.flushMirror k (r.s.bag k).mirror.length).freeBag k

/-- R89: the step of a BFREE: the handle is stale from now on. -/
def Run.closeBag (r : Run s0) (k : Nat) : Run s0 :=
  if (r.s.bag k).isOpen then r.updBag k fun b => { b with closing := true } else r

/-! ### Drain (R85) -/

/-- Take up to n records: the bag, and the records in the order taken. -/
def Bag.takeRecords (b : Bag) (clk : Nat → Nat) (id : Nat) : Nat → Bag × List (Nat × Nat)
  | 0 => (b, [])
  | n + 1 =>
    match ((List.range b.scount).map fun k => (b.dcur + k) % b.scount).find? fun i =>
        decide (b.head i ≠ b.fill i) with
    | none => (b, [])
    | some i =>
      let m := b.head i
      let x := (({ b with h := KV.put i (next48 m) b.h, count := b.count - 1,
                          dcur := (i + 1) % b.scount } : Bag).send i
        (.remove m id (clk i))).takeRecords clk id n
      (x.1, (i, m) :: x.2)

/-- The placer takes a DRAIN. -/
def Run.placeDrain (r : Run s0) (id : Nat) : Run s0 :=
  match KV.find? id r.s.ops with
  | none => r
  | some o =>
    match o.kind with
    | .drain h limit queue scr _ _ =>
      if !r.s.bagTurn id o then r else
      match r.s.staleBag o h with
      | some n => (r.delOp id).refuse id o (o.fails r.s .bagstate (BitVec.ofNat 64 h) n)
      | none =>
        let k := bagKey h
        let b := r.s.bag k
        let gk := o.gang
        let n := match queue with
          | none => limit
          | some q => match KV.find? q (r.s.gang gk).queues with
            | some x => min limit (r.s.room (r.s.gang gk).ctx x * 16 / b.rs)
            | none => 0
        let x := b.takeRecords (r.s.shareClk b) id n
        let t := x.2
        let b' := if t = [] then x.1 else { x.1 with mirror := x.1.mirror ++ [(x.1.count, 0)] }
        let r := r.updBag k fun _ => b'
        let r := match queue with
          | some q => r.updGang gk fun g => { g with queues := (KV.update q (fun x =>
              { x with inFlight := x.inFlight + t.length * b.rs / 16 }) g.queues) }
          | none => r
        r.updOp id fun o => { o with
          stage := .performed, kind := .drain h limit queue scr (some t) (t.map fun _ => []),
          res := [{ v := BitVec.ofNat 32 t.length }] }
    | _ => r

/-- A DRAIN whose records have all reached its queue's buffer pushes them, in the order taken, a release
as every push to a ring (R122). -/
def Run.drained (r : Run s0) (id rs : Nat) : Run s0 :=
  match KV.find? id r.s.ops with
  | none => r
  | some o =>
    match o.kind with
    | .drain _ _ (some q) _ (some t) buf =>
      if !r.s.landed id then r else
      let gk := o.gang
      let elems := buf.flatMap fun ws => (List.range (ws.length / 4)).map fun i => (ws.drop (4 * i)).take 4
      let r := r.each elems fun r x => r.push gk q x
      r.updGang gk fun g => { g with queues := (KV.update q (fun x =>
        { x with inFlight := x.inFlight - t.length * rs / 16 }) g.queues) }
    | _ => r

/-! ### The shares' controllers (R85, R86) -/

/-- The words of a record's storage. -/
def State.recWords (s : State) (key rs : Nat) : List PW :=
  (List.range (rs / 4)).map fun i => s.home (key + 4 * i)

/-- Write poisoned or clean words into scratchpad. -/
def Run.scrWords (r : Run s0) (k : Nat) (ws : List PW) : Run s0 :=
  r.each (List.range ws.length) fun r i => r.putScrWord (k + 4 * i) (ws.getD i {})

/-- R126, R85: the controller may take an item: a removed record goes to scratchpad only after the
fibre's earlier loads of the bytes it overwrites, and to a queue only after its earlier accesses
(R122). -/
def State.itemReady (s : State) (b : Bag) (i : Nat) : BagItem → Bool
  | .write _ _ _ _ _ => true
  | .remove n op _ =>
    match KV.find? op s.ops with
    | none => true
    | some o => match o.kind with
      | .drain _ _ none scr (some t) _ =>
        s.engineMay op o.fibre [(true, scr + (t.findIdx fun x => decide (x = (i, n))) * b.rs, b.rs)]
      | .drain _ _ (some _) _ _ _ => (s.earlier op o.fibre).isEmpty
      | _ => true

/-- A share's controller carries out its next item: a placed record is written, or a removed one is
read and delivered. Mirror stores that may land then do. -/
def Run.shareStep (r : Run s0) (k i : Nat) : Run s0 :=
  let b := r.s.bag k
  match KV.getD i [] b.fifo with
  | [] => r.bagStep k
  | item :: rest =>
    let r := r.updBag k fun b => { b with fifo := KV.put i rest b.fifo }
    let r := match item with
      | .write n rec_ op fibre _ =>
        let key := b.recKey i n
        let r := if r.s.isLost key then r.recordLost op fibre (b.recVa i n)
          else r.bankWrite key rec_.bytes [] (rec_.poison.any id)
        ((r.updBag k fun b => { b with cf := KV.put i (next48 n) b.cf }).putLanded op).settleOp op
      | .remove n op _ =>
        let key := b.recKey i n
        let ws := r.s.recWords key b.rs
        let r := r.updBag k fun b => { b with ch := KV.put i (next48 n) b.ch }
        match KV.find? op r.s.ops with
        | none => r
        | some o =>
          if r.s.isLost key then (r.recordLost op o.fibre (b.recVa i n)).drained op b.rs else
          match o.kind with
          | .drain h limit queue scr (some t) buf =>
            let at_ := t.findIdx fun x => decide (x = (i, n))
            match queue with
            | none => r.scrWords (scr + at_ * b.rs) ws
            | some _ => (r.updOp op fun o => { o with
                kind := .drain h limit queue scr (some t) (buf.set at_ ws) }).drained op b.rs
          | _ => r
    r.bagStep k

/-! ### Count, seal, free (R79, R88, R89) -/

def Run.placeBcount (r : Run s0) (id : Nat) : Run s0 :=
  match KV.find? id r.s.ops with
  | none => r
  | some o =>
    match o.kind with
    | .bcount h =>
      if !r.s.bagTurn id o then r else
      match r.s.staleBag o h with
      | some n => (r.delOp id).refuse id o (o.fails r.s .bagstate (BitVec.ofNat 64 h) n)
      | none =>
        let n := (r.s.bag (bagKey h)).count
        r.updOp id fun o => { o with stage := .performed, res := words2 (BitVec.ofNat 64 n) }
    | _ => r

def Run.placeBseal (r : Run s0) (id : Nat) : Run s0 :=
  match KV.find? id r.s.ops with
  | none => r
  | some o =>
    match o.kind with
    | .bseal h =>
      if !r.s.bagTurn id o then r else
      match r.s.staleBag o h with
      | some n => (r.delOp id).refuse id o (o.fails r.s .bagstate (BitVec.ofNat 64 h) n)
      | none => (r.updBag (bagKey h) fun b => { b with isSealed := true }).updOp id fun o =>
          { o with stage := .performed }
    | _ => r

def Run.placeBfree (r : Run s0) (id : Nat) : Run s0 :=
  match KV.find? id r.s.ops with
  | none => r
  | some o =>
    match o.kind with
    | .bfree h =>
      if !r.s.bagTurn id o then r else
      match r.s.staleBag o h with
      | some n => (r.delOp id).refuse id o (o.fails r.s .bagstate (BitVec.ofNat 64 h) n)
      | none => ((r.closeBag (bagKey h)).updOp id fun o => { o with stage := .away }).bagStep (bagKey h)
    | _ => r

/-! ### Iteration (R86) -/

/-- R86: where an iteration of a share has come to: the record that it delivers next, past those
removed meanwhile; a wait for a record of the snapshot that is not written yet; or its end. -/
inductive Visit where
  | deliver (n : Nat)
  | wait
  | close
  deriving DecidableEq, Repr

def Bag.visit (b : Bag) (it : Iter) : Visit :=
  let h := KV.getD it.share 0 b.ch
  let n := if behind it.next h then h else it.next
  if behind n (KV.getD it.share 0 b.cf) then .deliver n
  else if ahead n it.first < it.count then .wait else .close

/-- What a BITER step of a fibre comes to. -/
def State.biterVisit (s : State) (k h : Nat) : Visit :=
  match (s.fibre k).iter with
  | some it => (s.bag (bagKey h)).visit it
  | none => .close

/-- R78, R86: the placer takes the start of an iteration: the snapshot is what the share's controller
comes to when the step reaches it. -/
def Run.placeBiter (r : Run s0) (id : Nat) : Run s0 :=
  match KV.find? id r.s.ops with
  | none => r
  | some o =>
    match o.kind with
    | .biter h i true scr =>
      if !r.s.bagTurn id o then r else
      match r.s.staleBag o h with
      | some n => (r.delOp id).refuse id o (o.fails r.s .bagstate (BitVec.ofNat 64 h) n)
      | none =>
        let b := r.s.bag (bagKey h)
        (r.updFibre o.fibre fun f => { f with
            iter := some ⟨h, i, b.head i, ahead (b.fill i) (b.head i), b.head i⟩ }).updOp id fun o =>
          { o with kind := .biter h i false scr }
    | _ => r

/-- R86, R268: a BITER step at its share's controller: the next record is copied into the local
slot, or the iteration closes. -/
def Run.takeBiter (r : Run s0) (id : Nat) : Run s0 :=
  match KV.find? id r.s.ops with
  | none => r
  | some o =>
    match o.kind with
    | .biter h i false scr =>
      if !r.s.bagTurn id o then r else
      match r.s.staleBag o h with
      | some n => (r.delOp id).refuse id o (o.fails r.s .bagstate (BitVec.ofNat 64 h) n)
      | none =>
        let b := r.s.bag (bagKey h)
        match r.s.biterVisit o.fibre h with
        | .wait => r
        | .close =>
          let r := r.updFibre o.fibre fun f => { f with iter := none }
          r.updOp id fun o => { o with stage := .performed, res := words2 (BitVec.allOnes 64) }
        | .deliver n =>
          let key := b.recKey i n
          if r.s.isLost key then
            (r.updOp id fun o => { o with stage := .performed }).recordLost id o.fibre (b.recVa i n)
          else
            let r := r.scrWords scr (r.s.recWords key b.rs)
            let r := r.updFibre o.fibre fun f => { f with
              iter := f.iter.map fun it => { it with next := next48 n } }
            r.updOp id fun o => { o with stage := .performed, res := words2 (BitVec.ofNat 64 n) }
    | _ => r

/-! ### PUT and PUTM (R264, R265) -/

/-- R264: the ILLEG reason of PUT's record field. -/
def putErr (e : Env) (d : Nat) : Option Nat :=
  if d = 127 ∨ (d < 96 ∧ e.g.window ≤ d) then some 2
  else if d % 4 ≠ 0 then some 3
  else if isQueue d then
    match KV.find? (d - 112) e.g.queues with
    | some q => if q.ew ≠ 2 then some 3
        else if q.slots < laneCount e.mask ∨ isSuper e.site then some 5 else none
    | none => some 3
  else none

/-- Elements of EW 128 that a lane's record takes. -/
def State.putElems (s : State) (e : Env) : Nat := (s.bag (bagKey (e.w 0).toNat)).rs / 16

/-- The words of a lane's record in registers; none past the registers (R263, reason 6). -/
def putRegs (e : Env) (d n : Nat) : Option (List PW) :=
  if d = 124 then some (List.replicate n {})
  else if d < 96 then (if e.g.window < d + n then none else some ((List.range n).map fun i => readReg e.g e.f (d + i)))
  else if 112 < d + n then none
  else some ((List.range n).map fun i => readReg e.g e.f (d + i))

def putCheck (d : Nat) (s : State) (e : Env) : Option Bad :=
  match sealCheck s e 0 with
  | some b => some b
  | none =>
    if isQueue d then none else
    match putRegs e d ((s.bag (bagKey (e.w 0).toNat)).rs / 4) with
    | none => some { cls := .bagstate, addr := (e.w 0).zeroExtend 64, reason := 6 }
    | some ws => (((List.range ws.length).find? fun i => (ws.getD i {}).p)).map fun i =>
        { cls := .poison, addr := BitVec.ofNat 64 (d + i), reason := 1 }

def recordOf (ws : List PW) : Record where
  bytes := ws.flatMap fun w => bytesOf 4 w.v.toNat
  poison := ws.map fun w => w.p

/-- R78: one request to each bag that the lanes name, in the order of each bag's lowest lane. -/
def Run.putRequests (r : Run s0) (multi wait : Bool) (l : List (Env × Nat × Word × List Record)) : Run s0 :=
  let bags := (l.map fun x => bagKey x.2.1).foldl (fun a k => if a.contains k then a else a ++ [k]) []
  let a := bags.foldl (fun (a : Run s0 × List Nat) k =>
    match l.filter fun x => decide (bagKey x.2.1 = k) with
    | [] => a
    | x :: xs =>
      let r := a.1
      let fl (e : Env) : Nat := if e.sig < 12 then e.sig else 16
      let id := r.s.nextId
      let lanes := (x :: xs).map fun y =>
        ({ fibre := y.1.key, lane := y.1.lane, flag := fl y.1, key := y.2.2.1,
           records := y.2.2.2 } : PutLane)
      let r := r.request x.1 { kind := .put x.2.1 multi lanes,
                               joint := xs.map fun y => (y.1.key, fl y.1) } 0 false false
      let r := r.each xs fun r y => r.updFibre y.1.key fun f =>
        if fl y.1 < 16 then f.setFlag (fl y.1) { st := .busy } else f
      (r, a.2 ++ [id])) (r, [])
  -- R386: every lane waits for the placers to take all of the word's requests
  let r := a.1.each l fun r x => (r.updFibre x.1.key fun f => { f with fence := a.2 }).undemote x.1.key
  if wait then r else r.each a.2 fun r id => r.ticked.placePut id (Config.reached r.s.tick)

/-- PUT's lanes with a record in registers. -/
def putLanes (s : State) (d : Nat) (es : List Env) : List (Env × Nat × Word × List Record) :=
  es.filterMap fun e =>
    let h := (e.w 0).toNat
    (putRegs e d ((s.bag (bagKey h)).rs / 4)).map fun ws => (e, h, e.w 1, [recordOf ws])

/-- What the lanes of a PUT or PUTM that takes an operand from a queue have come to: the bags, elements of
records popped, lanes that place and lanes that perform nothing. -/
structure Feed where
  bags : List (Nat × Bag) := []
  popped : Nat := 0
  ok : List (Env × Nat × Word × List Record) := []
  fails : List Fail := []

/-- The elements of EW 128 behind those that lower lanes take, `n` of them, or the poisoned one that stands
first (R54). -/
def feedElems (s : State) (g : Gang) (q : Queue) (at_ n : Nat) : Except Nat (List PW) :=
  let els := (List.range n).map fun i => peek s g q (at_ + i)
  match (List.range n).find? fun i => (els.getD i []).any fun w => w.p with
  | some i => .error (if q.kind = 3 then q.mbox else q.base + ((q.head + at_ + i) % q.slots) * 16)
  | none => .ok els.flatten

/-- R264, R54, R84, R389: a lane of a PUT, on the elements that the lanes before it have left, places its
record. One that meets a poisoned element, or finds no room, performs nothing: it pops none. `us` are its
handle and key, `d` its record. -/
def Feed.lane (s : State) (d : Nat) (us : List Use) (a : Feed) (e : Env) : Feed :=
  let e := if queueSrcs us = [] then e
    else { e with v := us.map fun u => readUse s e.g e.f a.ok.length u }
  let h := (e.w 0).toNat
  let k := bagKey h
  let b := (KV.find? k a.bags).getD (s.bag k)
  let fail (c : Cls) (addr : DWord) (reason : Nat) : Feed := { a with fails := a.fails ++
    [{ key := e.key, lane := e.lane, cls := c, reason := reason, pc := e.start, addr := addr }] }
  match putCheck d s e with
  | some x => fail x.cls x.addr x.reason
  | none =>
    let n := if isQueue d then b.rs / 16 else 0
    let words : Except Nat (List PW) := match KV.find? (d - 112) e.g.queues with
      | some q => if isQueue d then feedElems s e.g q a.popped n else .ok ((putRegs e d (b.rs / 4)).getD [])
      | none => .ok ((putRegs e d (b.rs / 4)).getD [])
    match words with
    | .error x => fail .poison (BitVec.ofNat 64 x) 3
    | .ok ws =>
      -- whether there is room does not depend on Ns
      let x := b.placeLane (fun _ => 0) 1 0 0 (e.w 1) [recordOf ws]
      if x.2.2 then { a with
        bags := KV.put k x.1 a.bags, popped := a.popped + n, ok := a.ok ++ [(e, h, e.w 1, [recordOf ws])] }
      else fail .bagcap 0 0

/-- R264, R389: a PUT that takes an operand from a queue takes its placer's step as it issues, since a lane
that finds no room leaves its elements in the queue. -/
def Run.putFed (r : Run s0) (d : Nat) (us : List Use) (es : List Env) : Run s0 :=
  let x := es.foldl (Feed.lane r.s d us) {}
  let r := r.each x.ok fun r y => r.takeElems us y.1
  let r := match es with
    | e :: _ => if 0 < x.popped then
        (r.each (List.range x.popped) fun r _ => r.pop e.gk (d - 112)).acquire e.site else r
    | [] => r
  let failed := x.fails.map Fail.key
  let r := r.each (es.filter fun e => failed.contains e.key) fun r e => r.unissue e
  (r.putRequests false false x.ok).raise x.fails

/-- A word of the PUT family takes an operand from a queue; it waits until the placer can take its request. -/
def putHold (us : List Use) (n : Nat) (s : State) (e : Env) : Bool :=
  us.any (fun u => isQueue u.reg) && !s.bagTurn s.nextId
    { kind := .put (e.w n).toNat false [], fibre := e.key, mark := e.f.relMark }

def execPut (g : BitVec 4) (d a b : BitVec 7) (s : State) : Host.Outcome State Fault Refusal :=
  let q := d.toNat
  runWord s {
    i := .put g d a b, guard := g, uses := [src a, src b], noRegion := true, ownPops := true,
    illeg := fun _ e => match putErr e q with
      | some n => some n
      | none => if a = b ∧ isQueue a.toNat then some 3
        else if isQueue q ∧ (a = d ∨ b = d) then some 3 else none,
    toSculler := fun _ e => if isSculler e.site ∧ isQueue q then some e.g.core else none,
    hold := putHold [src d, src a, src b] 0,
    stallAll := 8,
    holdAll := fun s es => isQueue q && es.any fun e =>
      match KV.find? (q - 112) e.g.queues with
      | some x => decide (x.count < (es.map s.putElems).foldl (· + ·) 0)
      | none => false,
    check := putCheck q,
    act := fun r es =>
      if isQueue q ∨ isQueue a.toNat ∨ isQueue b.toNat then r.putFed q [src a, src b] es
      else r.putRequests false (es.any Env.wait) (putLanes r.s q es) }

/-- R265: the scratchpad words of a lane's records, as its own loads give them. -/
def State.putmWords (s : State) (e : Env) (rs : Nat) : List (List PW) :=
  match s.peerBase e 0 with
  | none => []
  | some base => (List.range (w1 (e.op 2)).toNat).map fun j =>
      (List.range (rs / 4)).map fun i => s.scrWord (base + (e.w 0).toNat + j * rs + 4 * i)

/-- R265: the checks of a PUTM lane. -/
def putmCheck (s : State) (e : Env) : Option Bad :=
  match sealCheck s e 1 with
  | some b => some b
  | none =>
    let rs := (s.bag (bagKey (e.w 1).toNat)).rs
    let x := (e.w 0).toNat
    let c := (w1 (e.op 2)).toNat
    if 64 < c then some { cls := .bagstate, addr := (e.w 1).zeroExtend 64, reason := 6 }
    else if c = 0 then none
    else if x % 16 ≠ 0 then some { cls := .align, addr := BitVec.ofNat 64 x }
    else if e.scrSize 0 < x + c * rs then some { cls := .bounds, addr := BitVec.ofNat 64 x }
    else
      let ws := (s.putmWords e rs).flatten
      ((List.range ws.length).find? fun i => (ws.getD i {}).p).map fun i =>
        { cls := .poison, addr := BitVec.ofNat 64 (x + 4 * i) }

/-- A scratchpad access of the fibre is still to be performed. -/
def State.scrPending (s : State) (k : Nat) : Bool :=
  s.ops.any fun o => o.2.hasFibre k && o.2.isOpen && o.2.acc.scr

/-- The records of a PUTM lane, with its handle and key; none for a count of 0. -/
def putmLane (s : State) (e : Env) : Option (Env × Nat × Word × List Record) :=
  let h := (e.w 1).toNat
  let recs := (s.putmWords e (s.bag (bagKey h)).rs).map recordOf
  if recs = [] then none else some (e, h, e.w 2, recs)

/-- R389: a lane of a PUTM that takes an operand from a queue, on the elements that the lanes before it have
left. The lanes that take all of their records pop; one whose records find room in part places that part,
traps, and pops nothing. -/
def Feed.lanem (s : State) (us : List Use) (a : Feed × Nat) (e : Env) : Feed × Nat :=
  let e := { e with v := us.map fun u => readUse s e.g e.f a.2 u }
  match putmCheck s e with
  | some x => ({ a.1 with fails := a.1.fails ++
      [{ key := e.key, lane := e.lane, cls := x.cls, reason := x.reason, pc := e.start, addr := x.addr }] }, a.2)
  | none => match putmLane s e with
    | none => (a.1, a.2 + 1)
    | some l =>
      let k := bagKey l.2.1
      let x := ((KV.find? k a.1.bags).getD (s.bag k)).placeLane (fun _ => 0) 1 0 0 l.2.2.1 l.2.2.2
      ({ a.1 with bags := KV.put k x.1 a.1.bags, ok := a.1.ok ++ [l] }, if x.2.2 then a.2 + 1 else a.2)

/-- A PUTM with operands from a queue takes its placer's step as it issues. -/
def Run.putmFed (r : Run s0) (us : List Use) (es : List Env) : Run s0 :=
  let x := es.foldl (Feed.lanem r.s us) ({}, 0)
  let r := match es with
    | e :: _ => r.each (List.range x.2) fun r _ => r.takeElems us e
    | [] => r
  let failed := x.1.fails.map Fail.key
  let r := r.each (es.filter fun e => failed.contains e.key) fun r e => r.unissue e
  (r.putRequests true false x.1.ok).raise x.1.fails

def execPutm (g : BitVec 4) (d a b : BitVec 7) (s : State) : Host.Outcome State Fault Refusal :=
  let us := [src d, src a, src b 2]
  runWord s {
    i := .putm g d a b, guard := g, uses := us, noRegion := true, ownPops := true,
    hold := fun s e => s.scrPending e.key || putHold us 1 s e,
    check := putmCheck,
    act := fun r es =>
      let r := r.each es fun r e => r.undemote e.key
      if us.any fun u => isQueue u.reg then r.putmFed us es
      else r.putRequests true (es.any Env.wait) (es.filterMap (putmLane r.s)) }

/-! ### DRAIN (R266) -/

def drainLimit (e : Env) : Nat := min 4096 (e.w 1).toNat
def drainTarget (e : Env) : Word := w1 (e.op 1)

/-- R266: the queue that a target word names, where it can serve. -/
def drainQueue (e : Env) : Option Nat :=
  let t := drainTarget e
  if t.getLsbD 31 then some (efld t 0 4) else none

def drainCheck (s : State) (e : Env) : Option Bad :=
  match bagCheck s e 0 with
  | some b => some b
  | none =>
    let t := drainTarget e
    let rs := (s.bag (bagKey (e.w 0).toNat)).rs
    let x := efld t 0 20
    if efld t 20 11 ≠ 0 ∨ (t.getLsbD 31 ∧ efld t 4 16 ≠ 0) then
      some { cls := .bounds, addr := t.zeroExtend 64 }
    else if t.getLsbD 31 then none
    else if x % 16 ≠ 0 then some { cls := .align, addr := BitVec.ofNat 64 x }
    else if e.scrSize 0 < x + drainLimit e * rs then some { cls := .bounds, addr := BitVec.ofNat 64 x }
    else none

def execDrain (g : BitVec 4) (d a b : BitVec 7) (s : State) : Host.Outcome State Fault Refusal :=
  runWord s {
    i := .drain g d a b, guard := g, uses := [src a, src b 2, dst d], noRegion := true, ownPops := true,
    hold := fedHold [src a, src b 2] fun e => .drain (e.w 0).toNat 0 none 0 none [],
    illeg := fun _ e => match drainQueue e with
      | none => none
      | some q => match KV.find? q e.g.queues with
        | some x => if x.kind = 1 ∧ x.ew = 2 then none else some 3
        | none => some 3,
    toSculler := fun _ e => if isSculler e.site ∧ (drainQueue e).isSome then some e.g.core else none,
    check := drainCheck,
    act := requestEach [src a, src b 2] (fun r e =>
      { kind := .drain (e.w 0).toNat (drainLimit e) (drainQueue e)
          ((r.s.peerBase e 0).getD 0 + efld (drainTarget e) 0 20) none [], dst := d.toNat })
      1 true Run.placeDrain }

/-! ### Requests of one lane (R267) -/

def execBcount (g : BitVec 4) (d h : BitVec 7) (s : State) : Host.Outcome State Fault Refusal :=
  runWord s {
    i := .bcount g d h, guard := g, uses := [src h, dst d 2], noRegion := true, ownPops := true,
    hold := fedHold [src h] fun e => .bcount (e.w 0).toNat,
    check := fun s e => bagCheck s e 0,
    act := requestEach [src h] (fun _ e => { kind := .bcount (e.w 0).toNat, dst := d.toNat }) 2 false
      Run.placeBcount }

def execBseal (g : BitVec 4) (h : BitVec 7) (s : State) : Host.Outcome State Fault Refusal :=
  runWord s {
    i := .bseal g h, guard := g, uses := [src h], noRegion := true, ownPops := true,
    hold := fedHold [src h] fun e => .bseal (e.w 0).toNat,
    check := fun s e => bagCheck s e 0,
    act := requestEach [src h] (fun _ e => { kind := .bseal (e.w 0).toNat }) 0 false Run.placeBseal }

def execBfree (g : BitVec 4) (h : BitVec 7) (s : State) : Host.Outcome State Fault Refusal :=
  runWord s {
    i := .bfree g h, guard := g, uses := [src h], noRegion := true, ownPops := true,
    hold := fedHold [src h] fun e => .bfree (e.w 0).toNat,
    check := fun s e => bagCheck s e 0,
    act := requestEach [src h] (fun _ e => { kind := .bfree (e.w 0).toNat }) 0 false Run.placeBfree }

/-! ### BOPEN (R74 to R77) -/

/-- R74: the bag that an image describes; its storage is not yet found. -/
def imageBag (m : Nat) (ctx : Nat) : Bag where
  isOpen := true
  ctx := ctx
  caps := m / 2 ^ 160 % 2 ^ 32
  scount := m / 2 ^ 151 % 2 ^ 9
  sfirst := m / 2 ^ 142 % 2 ^ 9
  affine := decide (m / 2 ^ 135 % 2 = 1)
  kw := decide (m / 2 ^ 134 % 2 = 1)
  rs := 16 * 2 ^ (m / 2 ^ 132 % 4)
  blk := m / 2 ^ 69 % 2 ^ 16
  area := BitVec.ofNat 54 (m / 2 ^ 85 % 2 ^ 33 * 2 ^ 21)

/-- R75: reason 3. -/
def imageBad (m : Nat) : Bool :=
  let b := imageBag m 0
  let fld (lo n : Nat) : Nat := m / 2 ^ lo % 2 ^ n
  decide (fld 192 320 ≠ 0 ∨ fld 136 6 ≠ 0 ∨ fld 118 14 ≠ 0 ∨ fld 54 15 ≠ 0 ∨ fld 0 3 ≠ 0 ∨
    b.scount = 0 ∨ 384 < b.scount ∨ 384 < b.sfirst + b.scount ∨ b.blk = 0 ∨ b.caps = 0 ∨
    b.blk * 65536 / b.rs < b.caps)

/-- R72: the stacks that a bag spans. -/
def Bag.groups (b : Bag) : Nat := (b.sfirst + b.scount - 1) / 32 - b.sfirst / 32 + 1

/-- R72: the physical block behind a block of the area, or the first address that breaks the rule. A
block past the end of the address space has no translation. -/
def State.areaBlock (s : State) (site ctx at_ : Nat) (stack : Nat) : Except DWord Nat :=
  let va : VAddr := BitVec.ofNat 54 at_
  let bad (k : Nat) : Except DWord Nat := .error (BitVec.ofNat 64 (at_ + 4096 * k))
  let base : Nat := match s.xlate site ctx va 1 with
    | .ok x => x.pa
    | .error _ => 0
  let inUse := s.bags.any fun b => b.2.isOpen && b.2.blocks.contains base
  let pageBad (k : Nat) : Bool :=
    match s.xlate site ctx (va + BitVec.ofNat 54 (4096 * k)) 1 with
    | .error _ => true
    | .ok x => !(decide (x.pa = base + 4096 * k) && decide (base % 2 ^ 21 = 0) &&
        decide (base / 2 ^ 36 = stack) && x.leaf.getLsbD 19 && leafCr x.leaf &&
        decide (efld x.leaf 15 3 = 0) && x.leaf.getLsbD 4 && x.leaf.getLsbD 1 && x.leaf.getLsbD 2)
  if 2 ^ 54 ≤ at_ ∨ inUse then bad 0
  else match (List.range 512).find? pageBad with
    | some k => bad k
    | none => .ok base

/-- The blocks of an area in ascending order. -/
def State.areaBlocks (s : State) (site ctx t0 blk area : Nat) : List Nat → Except DWord (List Nat)
  | [] => .ok []
  | k :: rest =>
    match s.areaBlock site ctx (area + 2 ^ 21 * k) (t0 + k / blk) with
    | .error va => .error va
    | .ok a => match s.areaBlocks site ctx t0 blk area rest with
      | .error va => .error va
      | .ok as => .ok (a :: as)

/-- R77: a free slot, of the issuing die first. The spec does not say which of several that is: the model
takes the lowest (log entry 55, DESIGN CHOICE). -/
def State.freeBagSlot (s : State) (die : Nat) : Option Nat :=
  (die :: (List.range 4).filter (· ≠ die)).findSome? fun d =>
    if (s.die d).failed then none
    else ((List.range 256).find? fun n => !(s.bag (256 * d + n)).isOpen).map fun n => 256 * d + n

/-- The cells of BOPEN's image, and what is still to be read of it. -/
def openCells (s : State) (e : Env) : List (Nat × Bool) :=
  match descCheck s e (e.ptr 0) 64 8 with
  | .ok cs => cs
  | .error _ => []
def openNeed (s : State) (e : Env) : List (Nat × Bool) := s.unread e.f.wbuf (openCells s e)

/-- R75 to R77: the bag that a lane opens and its slot, or what stops it. The record of reason 3 gives 0
as the address: there is no handle yet (log entry 19). -/
def openBag (s : State) (e : Env) : Except Bad (Bag × Nat) := do
  let p := e.ptr 0
  let cs ← descCheck s e p 64 8
  let ws ← readWords s e p cs
  let m := wordsVal ws
  let b := imageBag m e.ctx
  let state (a : DWord) (n : Nat) : Except Bad (Bag × Nat) := .error { cls := .bagstate, addr := a, reason := n }
  if imageBad m then state 0 3
  else
    let cnt : VAddr := BitVec.ofNat 54 (m / 2 ^ 3 % 2 ^ 51 * 8)
    match s.areaBlocks e.site e.ctx (b.sfirst / 32) b.blk b.area.toNat (List.range (b.groups * b.blk)) with
    | .error a => state a 4
    | .ok blocks =>
      match s.xlate e.site e.ctx cnt 8 with
      | .error _ => state (cnt.zeroExtend 64) 4
      | .ok y =>
        if (permBad y { wr := true }).isSome then state (cnt.zeroExtend 64) 4
        else match s.freeBagSlot (dieOf e.site) with
          | none => .error { cls := .syncx, addr := BitVec.ofNat 64 (dieOf e.site), reason := 2 }
          | some k => .ok ({ b with
              blocks := blocks, cnt := y.key, cntBank := y.bank, gen := (s.bag k).gen }, k)

def execBopen (g : BitVec 4) (d p : BitVec 7) (s : State) : Host.Outcome State Fault Refusal :=
  runWord s {
    i := .bopen g d p, guard := g, uses := [src p 2, dst d], immOk := true, noRegion := true,
    ownPops := true,
    hold := fun s e => s.accessPending e.key || decide (openNeed s e ≠ []),
    held := askHeld (fun s e => s.accessPending e.key) openNeed,
    check := fun s e => errOf (openBag s e),
    act := inTurn [src p 2, dst d] fun r e => do
      let x ← openBag r.s e
      let r := (r.cacheXl e.site e.ctx (e.ptr 0)).ncTouch e.site (openCells r.s e)
      let r := r.updBag x.2 fun _ => x.1
      let id := r.s.nextId
      let r := r.startOp e
        { kind := .value false 0, stage := .performed, dst := d.toNat,
          res := [{ v := BitVec.ofNat 32 (handleOf x.2 x.1.gen) }] } 1 true false
      return if e.wait then r else r.finish id }

/-! ### BITER (R268) -/

/-- R268: the share of the control word, and its START bit. -/
def biterShare (e : Env) : Nat := efld (e.w 1) 0 9
def biterStart (e : Env) : Bool := (e.w 1).getLsbD 31
def biterOff (e : Env) : Nat := (w1 (e.op 1)).toNat

/-- The sculler of the lane's share. -/
def State.biterSite (s : State) (e : Env) : Nat :=
  192 + (s.bag (bagKey (e.w 0).toNat)).sfirst + biterShare e

/-- The checks that come before shipping. -/
def biterFirst (s : State) (e : Env) : Option Bad :=
  match bagCheck s e 0 with
  | some b => some b
  | none =>
    if efld (e.w 1) 9 22 ≠ 0 ∨ (s.bag (bagKey (e.w 0).toNat)).scount ≤ biterShare e then
      some { cls := .bagstate, addr := (e.w 0).zeroExtend 64, reason := 5 }
    else none

def biterCheck (s : State) (e : Env) : Option Bad :=
  match biterFirst s e with
  | some b => some b
  | none =>
    let x := biterOff e
    let running := match e.f.iter with
      | some it => decide (it.bag = (e.w 0).toNat) && decide (it.share = biterShare e)
      | none => false
    if !biterStart e && !running then
      some { cls := .bagstate, addr := (e.w 0).zeroExtend 64, reason := 5 }
    else if x % 16 ≠ 0 then some { cls := .align, addr := BitVec.ofNat 64 x }
    else if 16384 < x + (s.bag (bagKey (e.w 0).toNat)).rs then
      some { cls := .bounds, addr := BitVec.ofNat 64 x }
    else none

def execBiter (g : BitVec 4) (d a b : BitVec 7) (s : State) : Host.Outcome State Fault Refusal :=
  runWord s {
    i := .biter g d a b, guard := g, uses := [src a, src b 2, dst d 2], noRegion := true,
    scullerOnly := true,
    toSculler := fun s e =>
      if (biterFirst s e).isSome ∨ s.biterSite e = e.site then none
      else if isSculler e.site then some e.g.core else some (s.biterSite e),
    check := biterCheck,
    act := perLane fun r e =>
      let base := (r.s.peerBase e 0).getD 0
      let id := r.s.nextId
      let r := r.request e { kind := .biter (e.w 0).toNat (biterShare e) (biterStart e) (base + biterOff e),
                             dst := d.toNat,
                             acc := { scr := true, pa := base + biterOff e,
                                      n := (r.s.bag (bagKey (e.w 0).toNat)).rs } } 2 true false
      if e.wait then r else r.placeBiter id }

end Sys2Proof.Machine
end

