-- ==== Sys2Proof/Machine/Engine.lean ====
section
/-! DEFINITION. The fetch unit, the index engine, REBAL and the copy channels (R48 to R51, R269 to
R276). -/

namespace Sys2Proof.Machine
variable {s0 : State}

/-! ### GFETCH (R269, R270) -/

/-- R216: (q - z) x s in F32, from the code of the F16 scale. -/
def dequant (q z : Nat) (sc : Nat) : Nat :=
  let n : Int := q - z
  if f16.isNan sc then cvtNan f16 f32 sc
  else if f16.isInf sc then
    if n = 0 then f32.qnan else f32.signBit (f16.neg sc ^^ decide (n < 0)) + f32.infCode
  else (f32.round 0 (mulEx { s := decide (n < 0), m := n.natAbs, e := 0 } (f16.val sc))).code

/-- R269: the code of an element as F32. -/
def gfetchElem (f c z sc : Nat) : Nat :=
  match f with
  | 1 => c
  | 7 => dequant c z sc
  | 8 => dequant c z sc
  | _ => (cvtElem 0 (fmtCode f) 0 false c).1

/-- R19: the group size of a leaf under Q8 and Q4. -/
def gszOf (leaf : DWord) : Nat := 32 * 2 ^ leafGsz leaf
/-- ZP of a leaf (R19). -/
def leafZp (leaf : DWord) : Bool := leaf.getLsbD 14

/-- What one lane of a GFETCH reads. -/
structure Fetch where
  fmt : Nat
  ptr : DWord
  n : Nat
  sptr : Option DWord := none
  zptr : Option DWord := none
  z : Nat := 0
  deriving DecidableEq, Repr

/-- The lane's reads, after every check; none where the descriptor is still to come or is poisoned. The
element page is walked for its format first (log entry 48); one that gives no width is checked over 1
byte (R25, R244). -/
def gfetchPlan (s : State) (e : Env) : Except Bad (Option Fetch) := do
  let p := e.d 0
  let c := (e.w 1).toNat
  let va := (ptrVa p).zeroExtend 64
  let bad (n : Nat) (a : DWord) : Except Bad (Option Fetch) := .error { cls := .fmt, addr := a, reason := n }
  if c % 4 ≠ 0 ∧ (ptrVa p).toNat % 64 = 0 then .error { cls := .align, addr := va }
  else
    let cs ← descCheck s e p 64 64
    let ws := cs.map fun x => s.fetched e.site e.key e.f.wbuf x
    if ws.any (fun w => match w with | some x => x.p | none => true) then .ok none
    else
      let m := wordsVal (ws.map fun w => w.getD {})
      let count := dfld m 0 32
      if dfld m 256 256 ≠ 0 ∨ dfld m 32 32 ≠ 0 ∨ count = 0 ∨ dfld m 128 1 ≠ 0 then bad 3 va
      else
        let eb := dptr m 64
        match s.xlate e.site e.ctx (ptrVa eb) 1 with
        | .error (rs, lv) =>
          .error { cls := .xlat, addr := (ptrVa eb).zeroExtend 64, reason := rs, level := lv }
        | .ok x =>
          let f := leafFmt x.leaf
          let w := (fmtWidth f).getD 2
          let bytes := 4 * w / 8
          if (fmtWidth f).isSome ∧ (ptrVa eb).toNat % bytes ≠ 0 then bad 3 va
          else if count < c + 4 then .error { cls := .bounds, addr := BitVec.ofNat 64 c }
          else
            let ep := if (fmtWidth f).isSome then ptrAdd eb (c * w / 8 : Nat) else eb
            let _ ← s.check e.site e.ctx ep bytes 1 { rd := true }
            match fmtBad x.leaf (leafGsz x.leaf) with
            | some n => bad n ((ptrVa ep).zeroExtend 64)
            | none =>
              if f < 7 then .ok (some { fmt := f, ptr := ep, n := bytes })
              else
                let g := c / gszOf x.leaf
                let sp := ptrAdd (dptr m 128) (2 * g : Nat)
                let _ ← s.check e.site e.ctx sp 2 1 { rd := true }
                if leafZp x.leaf then
                  let zp := ptrAdd (dptr m 192) (g : Nat)
                  let _ ← s.check e.site e.ctx zp 1 1 { rd := true }
                  .ok (some { fmt := f, ptr := ep, n := bytes, sptr := some sp, zptr := some zp })
                else .ok (some { fmt := f, ptr := ep, n := bytes, sptr := some sp,
                                 z := if f = 7 then 128 else 8 })

/-- The cells of the reads, in order: elements, scale, zero point. -/
def Fetch.parts (x : Fetch) : List (DWord × Nat) :=
  (x.ptr, x.n) :: ((x.sptr.map fun p => (p, 2)).toList ++ (x.zptr.map fun p => (p, 1)).toList)

def partCells (s : State) (e : Env) (p : DWord × Nat) : List (Nat × Bool) :=
  s.cellsAt e.site e.ctx (ptrVa p.1) p.2

def gfetchNeed (s : State) (e : Env) : List (Nat × Bool) :=
  match descCheck s e (e.d 0) 64 64 with
  | .error _ => []
  | .ok cs =>
    match s.unread e.f.wbuf cs with
    | [] => match gfetchPlan s e with
      | .ok (some x) => s.unread e.f.wbuf (x.parts.flatMap (partCells s e))
      | _ => []
    | l => l

/-- The bytes of a part as the fetch unit gives them, and whether a word is poisoned. -/
def fetchPart (s : State) (e : Env) (p : DWord × Nat) : Nat × Bool :=
  let l := bytesOut (ptrVa p.1) p.2 ((partCells s e p).map fun c => (s.fetched e.site e.key e.f.wbuf c).getD { p := true })
  (ofBytes (l.map Prod.fst), l.any Prod.snd)

/-- The four values of a lane; none where a source word is poisoned. -/
def Fetch.value (x : Fetch) (s : State) (e : Env) : Option (List PW) :=
  let el := fetchPart s e (x.ptr, x.n)
  let sc := match x.sptr with | some p => fetchPart s e (p, 2) | none => (0, false)
  let z := match x.zptr with | some p => fetchPart s e (p, 1) | none => (x.z, false)
  let w := (fmtWidth x.fmt).getD 32
  if el.2 || sc.2 || z.2 then none
  else some ((List.range 4).map fun i =>
    { v := BitVec.ofNat 32 (gfetchElem x.fmt (el.1 / 2 ^ (w * i) % 2 ^ w) z.1 sc.1) })

/-- An operation whose results are known at issue. -/
def Run.known (r : Run s0) (e : Env) (o : Op) (w : Nat) (eng : Bool) : Run s0 :=
  let id := r.s.nextId
  let r := r.startOp e { o with stage := .performed } w true eng
  if e.wait then r else r.finish id

def execGfetch (g : BitVec 4) (d a b : BitVec 7) (s : State) : Host.Outcome State Fault Refusal :=
  runWord s {
    i := .gfetch g d a b, guard := g, uses := [src a 2, src b, dst d 4], noRegion := true,
    homeOnly := true,
    hold := fun s e => engineHold s e || decide (gfetchNeed s e ≠ []),
    held := askHeld engineHold gfetchNeed,
    check := fun s e => errOf (gfetchPlan s e),
    act := perLane fun r e =>
      let cs := match descCheck r.s e (e.d 0) 64 64 with | .ok cs => cs | .error _ => []
      let plan := gfetchPlan r.s e
      let vs := match plan with
        | .ok (some x) => x.value r.s e
        | _ => none
      let r := r.cacheXl e.site e.ctx (e.d 0)
      let r := r.each cs fun r c => r.fetchFill e.site e.key c
      let o : Op := { kind := .value false 0, dst := d.toNat, acc := { ptr := e.d 0 } }
      match plan with
      | .ok (some x) =>
        let r := r.each x.parts fun r p =>
          (r.cacheXl e.site e.ctx p.1).each (partCells r.s e p) fun r c => r.fetchFill e.site e.key c
        match vs with
        | some vs => r.known e { o with res := vs } 4 true
        | none => r.known e { o with
            acc := { ptr := x.ptr },
            note := some { cls := .poison, addr := (ptrVa x.ptr).zeroExtend 64, gph := e.g.gphase,
                           pc := if e.sig < 12 then none else some e.start } } 4 true
      | _ => r.known e { o with
          note := some { cls := .poison, addr := (ptrVa (e.d 0)).zeroExtend 64, gph := e.g.gphase,
                         pc := if e.sig < 12 then none else some e.start } } 4 true }

/-! ### The index engine (R271, R272) -/

/-- An index descriptor. -/
structure Index where
  idx : DWord
  data : DWord
  nrows : Nat
  len : Nat
  es : Nat
  soff : Nat
  deriving DecidableEq, Repr

/-- R271: the descriptor's fields, or reason 3. -/
def indexDesc (m : Nat) : Option Index :=
  let x : Index := {
    idx := dptr m 448, data := dptr m 384, nrows := dfld m 352 32, len := dfld m 336 16,
    es := 4 * 2 ^ dfld m 320 3, soff := dfld m 0 20 }
  if dfld m 323 13 ≠ 0 ∨ dfld m 20 300 ≠ 0 ∨ 5 < dfld m 320 3 ∨ (ptrVa x.idx).toNat % 4 ≠ 0 ∨
      (ptrVa x.data).toNat % x.es ≠ 0 ∨ x.soff % 4 ≠ 0 then none
  else some x

/-- What the probe pass comes to. -/
inductive Probe where
  | status (n : Nat)
  /-- the cells and virtual addresses of the rows, and the pages to pin -/
  | move (x : Index) (rows : List (Nat × Bool × VAddr)) (pages : List Nat)
  deriving Repr

/-- The mapped page of a virtual address: its first virtual page (R23). -/
def State.mappedPage (s : State) (site ctx : Nat) (va : VAddr) : Nat :=
  match s.leafOf site ctx va with
  | .ok (lv, e) => va.toNat / (pageSize lv * runLen e) * (pageSize lv * runLen e) / 4096
  | .error _ => va.toNat / 4096

def nubNat (l : List Nat) : List Nat :=
  l.foldl (fun a x => if a.contains x then a else a ++ [x]) []

/-- The checks of each row in list order (R25 steps 2 to 4). -/
def rowChecks (s : State) (e : Env) (scatter : Bool) (x : Index) :
    List Nat → Except Bad (List (Nat × Bool × VAddr))
  | [] => .ok []
  | i :: rest => do
    let p := ptrAdd x.data (i * x.es : Nat)
    let y ← s.check e.site e.ctx p x.es 1 { rd := !scatter, wr := scatter }
    if scatter && s.inputRow y.key then
      .error { cls := .input, addr := (ptrVa p).zeroExtend 64, reason := 0 }
    else
      let ys ← rowChecks s e scatter x rest
      .ok ((y.key, y.bank, ptrVa p) :: ys)

/-- R272: the probe pass. -/
def probePass (s : State) (e : Env) (scatter : Bool) : Except Bad Probe := do
  let p := e.ptr 0
  let cs ← descCheck s e p 64 64
  let ws ← readWords s e p cs
  match indexDesc (wordsVal ws) with
  | none => .error { cls := .fmt, addr := (ptrVa p).zeroExtend 64, reason := 3 }
  | some x =>
    if x.len = 0 then
      if e.g.ssize < x.soff then .error { cls := .bounds, addr := BitVec.ofNat 64 x.soff } else .ok (.status 0)
    else
      let ics ← descCheck s e x.idx (4 * x.len) 4
      let is ← readWords s e x.idx ics
      let l := is.map fun w => w.v.toNat
      if e.g.ssize < x.soff + x.len * x.es then .error { cls := .bounds, addr := BitVec.ofNat 64 x.soff }
      else match l.findIdx? fun i => decide (x.nrows ≤ i) with
        | some j => .ok (.status (2 ^ 31 + j))
        | none =>
          let pages := nubNat (l.map fun i =>
            s.mappedPage e.site e.ctx (ptrVa (ptrAdd x.data (i * x.es : Nat))))
          if 1024 < pages.length then .ok (.status (2 ^ 30))
          else
            let rows ← rowChecks s e scatter x l
            .ok (.move x rows pages)

def indexNeed (s : State) (e : Env) : List (Nat × Bool) :=
  match descCheck s e (e.ptr 0) 64 64 with
  | .error _ => []
  | .ok cs => match s.unread e.f.wbuf cs with
    | [] => match indexDesc (wordsVal (s.ncWords e.f.wbuf cs)) with
      | none => []
      | some x => match descCheck s e x.idx (4 * x.len) 4 with
        | .ok ics => s.unread e.f.wbuf ics
        | .error _ => []
    | l => l

/-- The data pass moves the next row (R272): positions in ascending order. -/
def Run.indexRow (r : Run s0) (id : Nat) (o : Op) (scatter : Bool)
    (rows : List (Nat × Nat × Bool × VAddr)) (es scr : Nat) (pages : List Nat) : Run s0 :=
  match rows with
  | [] => if r.s.hasChild id then r else r.updOp id fun o => { o with stage := .performed }
  | (j, key, bank, va) :: rest =>
    let dst := scr + j * es
    let cells := (List.range (es / 4)).map fun i => (key + 4 * i, bank)
    let done (r : Run s0) : Run s0 := r.updOp id fun o => { o with kind := .index scatter rest es scr pages }
    if cells.any r.s.cellHeld then r
    else if cells.any fun c => r.s.isLost c.1 then (if r.s.hasChild id then r else r.loseAll id va)
    else if scatter then
      let bs : List NcByte := (List.range es).map fun i =>
        { key := key + i, bank := bank, v := Memory.read r.s.scr (dst + i),
          p := KV.has ((dst + i) / 4) r.s.spoison }
      done (r.ncWrite o.fibre o.site id bs)
    else
      match (r.s.asOf id).unread o.got cells with
      | [] =>
        let ws := (r.s.asOf id).ncWords o.got cells
        let r := r.ncTouch o.site cells
        done (r.each (List.range (es / 4)) fun r i => r.putScrWord (dst + 4 * i) (ws.getD i {}))
      | l => r.askWords o.fibre o.site id l

/-- Index operations take their next step where order allows it (R126). -/
def Run.indexStep (r : Run s0) (id : Nat) : Run s0 :=
  match KV.find? id r.s.ops with
  | none => r
  | some o =>
    match o.kind with
    | .index scatter rows es scr pages =>
      let w : List (Bool × Nat × Nat) := if scatter then rows.map fun x => (false, x.2.1, es)
        else rows.map fun x => (true, scr + x.1 * es, es)
      if o.stage ≠ .pending ∨ !r.s.engineMay id o.fibre w then r
      else r.indexRow id o scatter rows es scr pages
    | _ => r

def indexWord (i : Instr) (g : BitVec 4) (d p : BitVec 7) (move scatter : Bool) : Desc s0 where
  i := i
  guard := g
  uses := [src p 2, dst d]
  immOk := true
  noRegion := true
  homeOnly := move
  hold := fun s e => engineHold s e || decide (indexNeed s e ≠ [])
  held := askHeld engineHold indexNeed
  check := fun s e => errOf (probePass s e scatter)
  act := fun r es =>
    let l := passing (fun s e => probePass s e scatter) r.s es
    r.each l fun r x =>
      let e := x.1
      let r := (r.cacheXl e.site e.ctx (e.ptr 0)).ncTouch e.site
        (match descCheck r.s e (e.ptr 0) 64 64 with | .ok cs => cs | .error _ => [])
      let status (n : Nat) : Run s0 := r.known e
        { kind := .value false 0, dst := d.toNat, res := [{ v := BitVec.ofNat 32 n }] } 1 true
      match x.2 with
      | .status n => status n
      | .move ix rows pages =>
        if !move then status 0
        else
          let id := r.s.nextId
          let rows := (List.range rows.length).map fun j => (j, rows.getD j (0, false, 0))
          let o : Op := { kind := .index scatter rows ix.es (e.g.scrKey ix.soff)
                            (pages.map fun v => e.ctx * 2 ^ 42 + v),
                          dst := d.toNat, res := [{}] }
          let r := r.startOp e o 1 true true
          if e.wait then r else r.each (List.range (rows.length + 1)) fun r _ => r.indexStep id

def execProbe (g : BitVec 4) (d p : BitVec 7) (s : State) : Host.Outcome State Fault Refusal :=
  runWord s (indexWord (.probe g d p) g d p false false)
def execIgather (g : BitVec 4) (d p : BitVec 7) (s : State) : Host.Outcome State Fault Refusal :=
  runWord s (indexWord (.igather g d p) g d p true false)
def execIscatter (g : BitVec 4) (d p : BitVec 7) (s : State) : Host.Outcome State Fault Refusal :=
  runWord s (indexWord (.iscatter g d p) g d p true true)

/-! ### REBAL (R273) -/

/-- The prefix sums P[0] .. P[n] of the lengths. -/
def prefixSums (l : List Nat) : List Nat :=
  (List.range (l.length + 1)).map fun i => (l.take i).foldl (· + ·) 0

/-- R273: row lane, offset and p7 of the lane of a rank. -/
def rebal (lanes lens : List Nat) (c rank : Nat) : Word × Word × Bool :=
  let ps := prefixSums lens
  let n := lens.length
  let t := ps.getD n 0
  let p := c * n + rank
  if p < t then
    let i := ((List.range n).filter fun i => decide (ps.getD i 0 ≤ p)).getLastD 0
    (BitVec.ofNat 32 (lanes.getD i 0), BitVec.ofNat 32 (p - ps.getD i 0), true)
  else (BitVec.allOnes 32, BitVec.ofNat 32 (p - t), false)

def execRebal (g : BitVec 4) (d a b : BitVec 7) (s : State) : Host.Outcome State Fault Refusal :=
  runWord s {
    i := .rebal g d a b, guard := g, uses := [src a, src b, dst d 2], noRegion := true,
    act := fun r es =>
      let lanes := es.map Env.lane
      let lens := es.map fun e => (e.w 0).toNat
      let c := match es with | [] => 0 | e :: _ => (e.w 1).toNat
      r.each ((List.range es.length).zip es) fun r x =>
        let y := rebal lanes lens c x.1
        r.known x.2 { kind := .value false 0, dst := d.toNat, p7 := some y.2.2,
                      res := [{ v := y.1 }, { v := y.2.1 }] } 2 false }

/-! ### Copies: addresses of a beat (R48, R274, R275) -/

/-- R' and C' of a reshaping copy. -/
def Shape.dims (h : Shape) : Nat × Nat := if h.tr then (h.cols, h.rows) else (h.rows, h.cols)
def Shape.dw (h : Shape) : Nat := (fmtWidth h.dfmt).getD 8
def Shape.sw (h : Shape) : Nat := (fmtWidth h.sfmt).getD 8
/-- Bytes of a destination row, and blocks of it. -/
def Shape.drow (h : Shape) : Nat := (h.dims.2 * h.dw + 7) / 8
def Shape.nb (h : Shape) : Nat := (h.dims.2 * h.dw + 1023) / 1024
/-- R275: the copy's stream length. -/
def Shape.len (h : Shape) : Nat :=
  if h.blk then 4096 * ((h.dims.1 + 31) / 32) * h.nb else (h.dims.1 - 1) * h.dpitch + h.drow
/-- Bytes between the first and the last source byte. -/
def Shape.slen (h : Shape) : Nat := (h.rows - 1) * h.spitch + (h.cols * h.sw + 7) / 8

/-- R275: what byte x of the destination stream holds: nothing (a gap), or the row and the first
column of the elements in it and the byte's place in the element. -/
def Shape.place (h : Shape) (x : Nat) : Option (Nat × Nat × Nat) :=
  let w := h.dw
  let col (y : Nat) : Nat × Nat := if w < 8 then (2 * y, 0) else (8 * y / w, y % (w / 8))
  if h.blk then
    let b := x / 4096
    let c := col (x % 128)
    some (b / h.nb * 32 + x % 4096 / 128, b % h.nb * (1024 / w) + c.1, c.2)
  else
    let y := x % h.dpitch
    if h.drow ≤ y then none else some (x / h.dpitch, (col y).1, (col y).2)

/-- Offset from SRC of the source element of destination element (i, j), and its place in the byte;
none for padding. -/
def Shape.source (h : Shape) (i j : Nat) : Option (Nat × Nat) :=
  if h.dims.1 ≤ i ∨ h.dims.2 ≤ j then none
  else
    let rc := if h.tr then (j, i) else (i, j)
    some (rc.1 * h.spitch + rc.2 * h.sw / 8, if h.sw < 8 then rc.2 % 2 else 0)

/-- The source elements of byte x, lowest first. -/
def Shape.elems (h : Shape) (x : Nat) : List (Option (Nat × Nat)) :=
  match h.place x with
  | none => []
  | some (i, j, _) => if h.dw < 8 then [h.source i j, h.source i (j + 1)] else [h.source i j]

/-- R275: the code of a destination element. -/
def Shape.convert (h : Shape) (c : Nat) : Nat :=
  if h.sfmt = h.dfmt then c else (cvtElem (fmtCode h.dfmt) (fmtCode h.sfmt) h.rm h.sat c).1 % 2 ^ h.dw

/-- The value of byte x from the codes of its source elements. -/
def Shape.byte (h : Shape) (x : Nat) (codes : List Nat) : Byte :=
  match h.place x with
  | none => 0
  | some (_, _, b) =>
    if h.dw < 8 then BitVec.ofNat 8 (h.convert (codes.getD 0 0) + 16 * h.convert (codes.getD 1 0))
    else BitVec.ofNat 8 (h.convert (codes.getD 0 0) >>> (8 * b))

/-- Bytes of the next beat (R48); into a ring smaller than a beat, the ring's size. -/
def beatLen (g : Gang) (dst : End) (len done : Nat) : Nat :=
  let m := match dst with
    | .queue q => match KV.find? q g.queues with
      | some x => min 128 (x.slots * (4 * x.regs))
      | none => 128
    | _ => 128
  min m (len - done)

/-- The memory that a beat reads: pointers and lengths. -/
def beatReads (src : End) (shape : Option Shape) (done n : Nat) : List (DWord × Nat) :=
  match src with
  | .mem p => match shape with
    | none => [(ptrAdd p done, n)]
    | some h => (List.range n).flatMap fun i => (h.elems (done + i)).filterMap fun x =>
        x.map fun y => (ptrAdd p y.1, max 1 (h.sw / 8))
  | _ => []

def checkReads (s : State) (site ctx : Nat) : List (DWord × Nat) → Except Bad Unit
  | [] => .ok ()
  | (p, n) :: rest => do
    let _ ← s.checkExtent site ctx p n 1 { rd := true }
    checkReads s site ctx rest

/-- R51: the fault that stops a copy at its next beat. -/
def beatFault (s : State) (site ctx : Nat) (reads : List (DWord × Nat)) (dst : End) (done n : Nat) :
    Option Bad :=
  match checkReads s site ctx reads with
  | .error b => some b
  | .ok _ =>
    match dst with
    | .mem p =>
      let q := ptrAdd p done
      match s.checkExtent site ctx q n 1 { wr := true } with
      | .error b => some b
      | .ok _ => if (s.cellsAt site ctx (ptrVa q) n).any fun c => s.inputRow c.1 then
          some { cls := .input, addr := (ptrVa q).zeroExtend 64, reason := 0 } else none
    | _ => none

/-- n bytes at a pointer, each with its word's poison. -/
def State.engineBytes (s : State) (site ctx : Nat) (got : List (Nat × PW)) (p : DWord) (n : Nat) :
    List (Byte × Bool) :=
  bytesOut (ptrVa p) n (s.ncWords got (s.cellsAt site ctx (ptrVa p) n))

/-- The bytes of a beat; none for a gap. -/
def beatBytes (s : State) (site ctx : Nat) (g : Gang) (got : List (Nat × PW)) (src : End)
    (shape : Option Shape) (done n : Nat) : List (Option (Byte × Bool)) :=
  match src with
  | .mem p => match shape with
    | none => (s.engineBytes site ctx got (ptrAdd p done) n).map some
    | some h => (List.range n).map fun i =>
      let x := done + i
      match h.place x with
      | none => none
      | some _ =>
        let cs := (h.elems x).map fun y => match y with
          | none => (0, false)
          | some (off, nib) =>
            let bs := s.engineBytes site ctx got (ptrAdd p off) (max 1 (h.sw / 8))
            let v := ofBytes (bs.map Prod.fst)
            (if h.sw < 8 then v / 16 ^ nib % 16 else v, bs.any Prod.snd)
        some (h.byte x (cs.map Prod.fst), cs.any Prod.snd)
  | .scr off => (List.range n).map fun i =>
    let k := g.scrKey (off + done + i)
    some (Memory.read s.scr k, KV.has (k / 4) s.spoison)
  | .queue _ => []

/-- Write bytes into scratchpad word by word. -/
def Run.scrMarked (r : Run s0) (k : Nat) (l : List (Byte × Bool)) : Run s0 :=
  r.each (List.range (l.length / 4 + 2)) fun r w =>
    let lo := max k ((k / 4 + w) * 4)
    let hi := min (k + l.length) ((k / 4 + w) * 4 + 4)
    if hi ≤ lo then r
    else
      let part := (l.drop (lo - k)).take (hi - lo)
      r.scrBytes lo (part.map Prod.fst) [] (part.any Prod.snd)

/-- The beat is delivered: the pointer moves on, and the copy ends with its last beat (R49). -/
def Run.beatDone (r : Run s0) (gk ch id : Nat) : Run s0 :=
  match KV.find? id r.s.ops with
  | none => r
  | some o =>
    match o.kind with
    | .copy src dst len done _ shape =>
      let n := beatLen (r.s.gang gk) dst len done
      let last := decide (len ≤ done + n)
      let r := r.updOp id fun o => { o with
        kind := .copy src dst len (done + n) ch shape, got := [],
        stage := if last then .performed else .pending }
      let r := r.updGang gk fun g => { g with chans := (KV.update ch (fun c =>
        let copies := if last then c.copies.filter (· ≠ id) else c.copies
        { c with
          count := (c.count + n) % 2 ^ 56, copies := copies,
          st := if copies = [] then .idle else c.st }) g.chans) }
      if last then r.finish id else r
    | _ => r

/-- A read or write on behalf of operation `op` is done: a beat of a copy is delivered with its last. -/
def Run.childDone (r : Run s0) (op : Nat) : Run s0 :=
  match KV.find? op r.s.ops with
  | none => r
  | some x => match x.kind with
    | .copy _ _ _ _ ch _ => if r.s.hasChild op then r else r.beatDone x.gang ch op
    | _ => r

/-- Deliver the bytes of a beat at their destination. -/
def Run.deliverBeat (r : Run s0) (gk id : Nat) (o : Op) (ctx : Nat) (dst : End) (done : Nat)
    (l : List (Option (Byte × Bool))) : Run s0 :=
  match dst with
  | .mem p =>
    let bs := (List.range l.length).filterMap fun i =>
      match l.getD i none, r.s.keyAt o.site ctx (ptrVa (ptrAdd p ((done + i : Nat) : Int))) with
      | some x, some c => some ({ key := c.1, bank := c.2, v := x.1, p := x.2 } : NcByte)
      | _, _ => none
    r.ncWrite o.fibre o.site id bs
  | .scr off => r.scrMarked ((r.s.gang gk).scrKey (off + done)) (l.map fun x => x.getD (0, false))
  | .queue q =>
    match KV.find? q (r.s.gang gk).queues with
    | none => r
    | some x =>
      let bs := l.map fun y => y.getD (0, false)
      let w := 4 * x.regs
      let r := r.each (List.range (bs.length / w)) fun r i =>
        let el := (bs.drop (i * w)).take w
        r.push gk q ((List.range x.regs).map fun j =>
          let b := (el.drop (4 * j)).take 4
          { v := BitVec.ofNat 32 (ofBytes (b.map Prod.fst)), p := b.any Prod.snd })
      r.updGang gk fun g => { g with queues := (KV.update q (fun x =>
        { x with inFlight := x.inFlight - bs.length / w }) g.queues) }

/-- R51: a fault stops the channel; the copy's flag keeps BUSY with the mark (R274). -/
def Run.stopChan (r : Run s0) (gk ch id : Nat) (b : Bad) : Run s0 :=
  match KV.find? id r.s.ops with
  | none => r
  | some o =>
    let n : Note := { cls := b.cls, addr := b.addr, reason := b.reason, level := b.level,
                      engine := true, ch := ch, gph := o.gph }
    let r := r.updOp id fun o => { o with stage := .faulted, note := some n }
    let r := r.updGang gk fun g => { g with chans := KV.update ch (fun c => { c with st := .faulted }) g.chans }
    if o.flag < 16 then r.updFibre o.fibre fun f => f.setFlag o.flag { f.flag o.flag with note := some n }
    else r

/-- The ring slots that the next n elements fill, as spans of scratchpad. -/
def Queue.ringBytes (q : Queue) (g : Gang) (n : Nat) : List (Bool × Nat × Nat) :=
  (List.range n).map fun i => (true, g.scrKey (q.base + ((q.tail + i) % q.slots) * (4 * q.regs)), 4 * q.regs)

/-- R48: a channel delivers its next beat. It stands while its context does not run, under a gang
halt (R355), while its ring is full, and while order or a line region holds its accesses back. -/
def Run.copyBeat (r : Run s0) (gk ch : Nat) : Run s0 :=
  let g := r.s.gang gk
  match KV.find? ch g.chans with
  | none => r
  | some c =>
    match c.copies with
    | [] => r
    | id :: _ =>
      match KV.find? id r.s.ops with
      | none => r
      | some o =>
        match o.kind with
        | .copy src dst len done _ shape =>
          let n := beatLen g dst len done
          let full : Bool := match dst with
            | .queue q => match KV.find? q g.queues with
              | some x => decide (x.slots < (x.tail - x.head) + n / (4 * x.regs))
              | none => true
            | _ => false
          if c.st ≠ .running ∨ c.held ∨ o.stage ≠ .pending ∨ full ∨ r.s.hasChild id ∨
              !r.s.issues o.site g then r
          else
            let reads := beatReads src shape done n
            match beatFault r.s o.site g.ctx reads dst done n with
            | some b => if r.s.engineMay id o.fibre [] then r.stopChan gk ch id b else r
            | none =>
              let cells := reads.flatMap fun p => r.s.cellsAt o.site g.ctx (ptrVa p.1) p.2
              let out := match dst with
                | .mem p => r.s.cellsAt o.site g.ctx (ptrVa (ptrAdd p done)) n
                | _ => []
              let w := (out.map fun c => (false, c.1, 4)) ++ (match dst with
                | .scr off => [(true, g.scrKey (off + done), n)]
                | .queue q => (KV.find? q g.queues).toList.flatMap fun x => x.ringBytes g (n / (4 * x.regs))
                | _ => [])
              if !r.s.engineMay id o.fibre w ∨ (cells ++ out).any r.s.cellHeld then r
              else match r.s.unread o.got cells with
                | [] =>
                  let l := beatBytes r.s o.site g.ctx g o.got src shape done n
                  let r := (r.ncTouch o.site cells).deliverBeat gk id o g.ctx dst done l
                  if r.s.hasChild id then r else r.beatDone gk ch id
                | l => r.askWords o.fibre o.site id l
        | _ => r

/-! ### COPY, COPYB, CPWAIT -/

/-- Append a copy to a channel. -/
def Run.appendCopy (r : Run s0) (e : Env) (src dst : End) (len ch : Nat) (shape : Option Shape) : Run s0 :=
  let id := r.s.nextId
  let r := r.startOp e { kind := .copy src dst len 0 ch shape } 0 true true
  let r := match dst with
    | .queue q => r.updGang e.gk fun g => { g with queues := (KV.update q (fun x =>
        { x with inFlight := x.inFlight + len / (4 * x.regs) }) g.queues) }
    | _ => r
  r.updGang e.gk fun g =>
    let c := KV.getD ch {} g.chans
    { g with chans := KV.put ch { c with
        copies := c.copies ++ [id],
        st := if c.st = .idle then .running else c.st } g.chans }

/-- R274: source and destination of a COPY. -/
def copyEnds (ss ds dq : Bool) (e : Env) : End × End :=
  let v := e.op 0
  (if ss then .scr (w0 v).toNat else .mem (pair v),
   if dq then .queue ((w0 (v.drop 2)).toNat - 112)
   else if ds then .scr (w0 (v.drop 2)).toNat else .mem (pair (v.drop 2)))

/-- R274: the checks of one end. -/
def endCheck (s : State) (e : Env) (n : Nat) (wr : Bool) : End → Option Bad
  | .mem p => errOf (s.checkExtent e.site e.ctx p n 1 { rd := !wr, wr := wr })
  | .scr off => if e.g.ssize < off + n then some { cls := .bounds, addr := BitVec.ofNat 64 off } else none
  | .queue q => match KV.find? q e.g.queues with
    | some x => if n % (4 * x.regs) ≠ 0 then some { cls := .align, addr := BitVec.ofNat 64 (112 + q) }
      else none
    | none => none

def execCopy (g : BitVec 4) (sr l : BitVec 7) (ch : BitVec 3) (ss ds dq : BitVec 1) (s : State) :
    Host.Outcome State Fault Refusal :=
  let ends (e : Env) : End × End := copyEnds (decide (ss = 1)) (decide (ds = 1)) (decide (dq = 1)) e
  runWord s {
    i := .copy g sr l ch ss ds dq, guard := g, uses := [src sr 4, src l], noRegion := true,
    homeOnly := true,
    illeg := fun _ e =>
      if dq = 1 ∧ e.w 1 ≠ 0 then
        match KV.find? ((w0 ((e.op 0).drop 2)).toNat - 112) e.g.queues with
        | some x => if 112 ≤ (w0 ((e.op 0).drop 2)).toNat ∧ x.kind = 2 ∧ x.ch = ch.toNat then none
          else some 3
        | none => some 3
      else none,
    check := fun s e =>
      let n := (e.w 1).toNat
      if n = 0 then none
      else firstBad (endCheck s e n false (ends e).1) (endCheck s e n true (ends e).2),
    act := perLane fun r e =>
      if e.w 1 = 0 then r
      else r.appendCopy e (ends e).1 (ends e).2 (e.w 1).toNat ch.toNat none }

/-- R275: the pair of formats that a COPYB copies as they are or converts; the FMT reason of any other.
What a copy without conversion does with a format of no element width, or with GSZ = 11, is log
entry 20. -/
def pairBad (sf df : Nat) : Option Nat :=
  if sf = df ∨ (1 ≤ sf ∧ sf ≤ 6 ∧ 1 ≤ df ∧ df ≤ 6) then none else some 2

/-- A COPYB after its checks. -/
structure Reshape where
  src : DWord
  dst : DWord
  shape : Shape
  deriving DecidableEq, Repr

/-- R275: the descriptor's fields under two page formats. -/
def copybShape (m sf df : Nat) (rm : BitVec 2) : Reshape where
  src := dptr m 448
  dst := dptr m 384
  shape := {
    spitch := dfld m 352 32, dpitch := dfld m 320 32, rows := dfld m 304 16, cols := dfld m 288 16,
    sat := decide (dfld m 258 1 = 1), blk := decide (dfld m 257 1 = 1), tr := decide (dfld m 256 1 = 1),
    sfmt := sf, dfmt := df, rm := rm }

def xlErr (va : VAddr) (x : Nat × Nat) : Bad :=
  { cls := .xlat, addr := va.zeroExtend 64, reason := x.1, level := x.2 }

/-- R275: the checks of COPYB. Both pages are walked for their formats first (log entry 48). -/
def copybPlan (s : State) (e : Env) : Except Bad Reshape := do
  let p := e.ptr 0
  let cs ← descCheck s e p 64 64
  let ws ← readWords s e p cs
  let m := wordsVal ws
  let bad (n : Nat) : Except Bad Reshape :=
    .error { cls := .fmt, addr := (ptrVa p).zeroExtend 64, reason := n }
  let x := copybShape m 0 0 e.g.rm
  let q4odd (f : Nat) : Bool := decide (f = 8) && decide (x.shape.cols % 2 = 1)
  if dfld m 0 256 ≠ 0 ∨ dfld m 259 29 ≠ 0 ∨ x.shape.rows = 0 ∨ x.shape.cols = 0 ∨
      (x.shape.blk ∧ (ptrVa x.dst).toNat % 4096 ≠ 0) then bad 3
  else match s.xlate e.site e.ctx (ptrVa x.src) 1 with
    | .error b => .error (xlErr (ptrVa x.src) b)
    | .ok sx => match s.xlate e.site e.ctx (ptrVa x.dst) 1 with
      | .error b => .error (xlErr (ptrVa x.dst) b)
      | .ok dx =>
        let sf := leafFmt sx.leaf
        let df := leafFmt dx.leaf
        let y := copybShape m sf df e.g.rm
        match firstBad (errOf (s.checkExtent e.site e.ctx y.src y.shape.slen 1 { rd := true }))
          (errOf (s.checkExtent e.site e.ctx y.dst y.shape.len 1 { wr := true })), pairBad sf df with
        | some b, _ => .error b
        | none, some n => bad n
        | none, none =>
          if (!y.shape.blk ∧ y.shape.dpitch < y.shape.drow) ∨ q4odd sf then bad 3 else .ok y

def copybNeed (s : State) (e : Env) : List (Nat × Bool) :=
  match descCheck s e (e.ptr 0) 64 64 with
  | .ok cs => s.unread e.f.wbuf cs
  | .error _ => []

def execCopyb (g : BitVec 4) (p : BitVec 7) (ch : BitVec 3) (s : State) :
    Host.Outcome State Fault Refusal :=
  runWord s {
    i := .copyb g p ch, guard := g, uses := [src p 2], immOk := true, noRegion := true,
    homeOnly := true,
    hold := fun s e => engineHold s e || decide (copybNeed s e ≠ []),
    held := askHeld engineHold copybNeed,
    check := fun s e => errOf (copybPlan s e),
    act := withXl copybPlan fun r e x =>
      let cs := match descCheck r.s e (e.ptr 0) 64 64 with | .ok cs => cs | .error _ => []
      ((r.cacheXl e.site e.ctx (e.ptr 0)).ncTouch e.site cs).appendCopy e (.mem x.src) (.mem x.dst)
        x.shape.len ch.toNat (some x.shape) }

/-- R276: the condition that CPWAIT waits for. -/
def cpReached (c : Chan) (x : Nat) : Bool := decide ((c.count + 2 ^ 56 - x % 2 ^ 56) % 2 ^ 56 < 2 ^ 55)

/-- The fault of a stopped channel, raised at a word of fibre e (R274). -/
def Run.chanFault (r : Run s0) (e : Env) (ch : Nat) : Run s0 :=
  let c := KV.getD ch {} e.g.chans
  let note := c.copies.findSome? fun id => (KV.find? id r.s.ops).bind fun o => o.note
  match note with
  | none => r
  | some n => ((r.unissue e).updFibre e.key fun f => { f with
      restart := f.restart ||| (1#8 <<< ch) }).raise [n.fail e.key e.lane e.start]

/-- R276. R161 lists no CPWAIT among what blocks a fibre, though R346 has a code for one that is: while it
waits in its crew, its fibre counts as runnable, and its age goes on (log entry 61, DESIGN CHOICE). -/
def execCpwait (g : BitVec 4) (t : BitVec 7) (ch : BitVec 3) (s : State) :
    Host.Outcome State Fault Refusal :=
  let chan (s : State) (e : Env) : Chan := KV.getD ch.toNat {} (s.gang e.gk).chans
  runWord s {
    i := .cpwait g t ch, guard := g, stall := 6, uses := [src t 2], sigOk := false, noRegion := true,
    homeOnly := true,
    hold := fun s e => !cpReached (chan s e) (e.d 0).toNat && decide ((chan s e).st ≠ .faulted),
    act := perLane fun r e =>
      if cpReached (chan r.s e) (e.d 0).toNat then r.acquire e.site else r.chanFault e ch.toNat }

end Sys2Proof.Machine
end

