-- ==== Sys2Proof/Machine/Bank.lean ====
section
/-! DEFINITION. The pseudo-channel controllers (R65 to R68), and WAVE (R277). -/

namespace Sys2Proof.Machine
variable {s0 : State}

/-! ### WAVE: issue -/

/-- The rows of a WAVE: cells of their first bytes, their bank shares, and X's row length code. -/
structure WaveRows where
  x : Nat
  sx : Nat
  y : Nat := 0
  sy : Nat := 0
  rowl : Nat
  deriving DecidableEq, Repr

def Env.waveX (e : Env) : DWord := pair (e.op 0)
def Env.waveY (e : Env) : DWord := pair ((e.op 0).drop 2)

/-- R277: a pointer that must start a row of a compute-region page. ALIGN needs the page's row length, so
a failing translation comes first (log entry 48). -/
def waveRow (s : State) (e : Env) (p : DWord) : Except Bad Xl :=
  let va := ptrVa p
  match s.xlate e.site e.ctx va 1 with
  | .error b => .error { cls := .xlat, addr := va.zeroExtend 64, reason := b.1, level := b.2 }
  | .ok x =>
    if x.bank && decide (x.pa % 2 ^ 21 % rowLen x.leaf = 0) then .ok x
    else .error { cls := .align, addr := va.zeroExtend 64 }

/-- R277, R70: the checks of a WAVE lane, by the steps of R25 over both rows. PERM 4 is a step of PERM, for
a row Y that has no lower reason. -/
def wavePlan (code : Nat) (s : State) (e : Env) : Except Bad WaveRows := do
  let px := e.waveX
  let py := e.waveY
  let x ← waveRow s e px
  let rowl := efld x.leaf 15 3
  let extX := errOf (s.checkExtent e.site e.ctx px (rowLen x.leaf) 1 { rd := true, wr := decide (code = 0) })
  let input (p : DWord) (n : Nat) : Except Bad WaveRows :=
    .error { cls := .input, addr := (ptrVa p).zeroExtend 64, reason := n }
  if code = 1 then
    let y ← waveRow s e py
    let outside := decide (scullerOf y.key ≠ scullerOf x.key)
    let perm4 : Option Bad :=
      if outside then some { cls := .perm, addr := (ptrVa py).zeroExtend 64, reason := 4 } else none
    let extY := errOf (s.checkExtent e.site e.ctx py (rowLen y.leaf) 1 { wr := true })
    match firstBad extX (firstBad extY perm4) with
    | some b => .error b
    | none =>
      if s.inputRow y.key ∨ y.key = x.key then input py 0
      else if s.rowsFull e.site x.key rowl then input px 1
      else .ok { x := x.key, sx := rowLen x.leaf / 16, y := y.key, sy := rowLen y.leaf / 16,
                 rowl := rowl }
  else match extX with
    | some b => .error b
    | none =>
      if code = 0 then
        if s.inputRow x.key then input px 0
        else .ok { x := x.key, sx := rowLen x.leaf / 16, rowl := rowl }
      else if s.rowsFull e.site x.key rowl then input px 1
      else .ok { x := x.key, sx := rowLen x.leaf / 16, rowl := rowl }

/-- R62: the sculler that owns X's pseudo-channel, by way of the home core. -/
def waveSite (s : State) (e : Env) : Option Nat :=
  match s.xlate e.site e.ctx (ptrVa e.waveX) 1 with
  | .error _ => none
  | .ok x =>
    if !x.bank then none
    else
      let to_ := 192 + scullerOf x.key
      if to_ = e.site then none else if isSculler e.site then some e.g.core else some to_

/-- R277: WAVE. A lane that no longer finds room for its row traps at its turn. -/
def execWave (g : BitVec 4) (x rr o : BitVec 7) (s : State) : Host.Outcome State Fault Refusal :=
  let code := o.toNat
  let reads := decide (code = 0 ∨ code = 4)
  let gives := decide (2 ≤ code)
  runWord s {
    i := .wave g x rr o, guard := g,
    uses := [src x 4] ++ (if reads then [src rr] else []) ++ [dst rr 4],
    noRegion := true, scullerOnly := true,
    toSculler := waveSite,
    check := fun s e => errOf (wavePlan code s e),
    act := perLane fun r e =>
      match wavePlan code r.s e with
      | .error b =>
        let x : Fail := { key := e.key, lane := e.lane, cls := b.cls, addr := b.addr,
                          reason := b.reason, level := b.level, pc := e.start }
        (r.unissue e).raise [x]
      | .ok w =>
        let r := if code = 0 then r else r.addRow e.site w.x w.rowl e.key
        let o : Op := {
          kind := .wave code w.x w.y w.sx w.sy (e.w 1) (List.range 16) [] 0 [],
          dst := rr.toNat + (if gives then 0 else 2), arr := (r.s.pch (scullerOf w.x)).clk }
        r.startOp e o (if gives then 4 else 2) true true }

/-! ### WAVE: a bank -/

/-- The cell of place k of a row's share in a bank; `key` is the cell of the row's first byte. -/
def bankCell (key bank k : Nat) : Nat :=
  key / 2 ^ 36 * 2 ^ 36 +
    ordOffset (rowBlock key) (scullerOf key % 32) bank (rowPos key + k)

/-- The words of a row's share in a bank. -/
def State.shareWords (s : State) (key bank n : Nat) : List PW :=
  (List.range (n / 4)).map fun i => s.home (bankCell key bank (4 * i))

/-- R277: what a bank's sixteenth of the row comes to. -/
def wavePart (code : Nat) (v : Word) (ws : List Word) : Int :=
  match code with
  | 2 => ws.foldl (fun a w => a + w.toInt) 0
  | 3 => match ws with
    | [] => 0
    | w :: ws => ws.foldl (fun a w => max a w.toInt) w.toInt
  | 4 => (ws.filter fun w => decide (w = v)).length
  | _ => 0

/-- R277: the result words; `bad`: a word of X was poisoned (R54). -/
def waveResult (code : Nat) (parts : List (Nat × Int)) (bad : Bool) : List PW :=
  let vs := parts.map Prod.snd
  let done : List PW := [{ v := 16 }, { v := 0 }]
  let v : DWord := match code with
    | 3 => (BitVec.ofInt 32 (vs.foldl max (vs.headD 0))).zeroExtend 64
    | _ => BitVec.ofInt 64 (vs.foldl (· + ·) 0)
  if code < 2 then done
  else [{ v := v.extractLsb' 0 32, p := bad }, { v := v.extractLsb' 32 32, p := bad }] ++ done

/-- One bank does its sixteenth of a WAVE. -/
def Run.waveBank (r : Run s0) (id bank : Nat) : Run s0 :=
  match KV.find? id r.s.ops with
  | none => r
  | some o =>
    match o.kind with
    | .wave code x y sx sy v left cur started parts =>
      let ws := r.s.shareWords x bank sx
      let r := match code with
        | 0 => r.each (List.range (sx / 64)) fun r i =>
            r.bankWrite (bankCell x bank (64 * i))
              ((List.replicate 16 (bytesOf 4 v.toNat)).flatten) [] false
        | 1 => r.each (List.range (min sx sy / 64)) fun r i =>
            let l := (ws.drop (16 * i)).take 16
            r.bankWrite (bankCell y bank (64 * i)) (l.flatMap fun (w : PW) => bytesOf 4 w.v.toNat) []
              (l.any fun (w : PW) => w.p)
        | _ => r
      let parts := parts ++ [(bank, wavePart code v (ws.map PW.v))]
      let bad := o.note.isSome || (decide (2 ≤ code) && ws.any fun (w : PW) => w.p)
      let cur := cur.filter (· ≠ bank)
      let last := decide (left = []) && decide (cur = [])
      r.updOp id fun o => { o with
        kind := .wave code x y sx sy v left cur (started + 1) parts,
        note := if bad && !last then some { cls := .poison, addr := 0 } else none,
        res := if last then waveResult code parts bad else [],
        stage := if last then .performed else .pending }
    | _ => r

/-! ### Waves (R68) -/

/-- A bank busy at the controller's clk, with compute work or with any. -/
def Pch.busyWith (p : Pch) (bank : Nat) (compute : Bool) : Bool :=
  p.busy.any fun b => decide (b.1 = bank) && decide (p.clk < b.2.1) && (!compute || b.2.2)

/-- R68: the next wave begins when every bank of the current one has finished. -/
def Run.nextWave (r : Run s0) (id : Nat) : Run s0 :=
  match KV.find? id r.s.ops with
  | none => r
  | some o =>
    match o.kind with
    | .wave code x y sx sy v left [] _ parts =>
      let p := scullerOf x
      let c := r.s.pch p
      if o.stage ≠ .pending ∨ (List.range 16).any (fun b => !left.contains b && c.busyWith b true) then r
      else
        let n := (r.s.stack (p / 32)).abcur
        r.updOp id fun o => { o with
          kind := .wave code x y sx sy v (left.drop n) (left.take n) 0 parts }
    | _ => r

/-- The thermal control sets the bank limit of a stack, no higher than its power mode allows
(R378, R381). -/
def Run.thermalLimit (r : Run s0) (stack n : Nat) : Run s0 :=
  if 12 ≤ stack ∨ n = 0 ∨ r.s.pkg.therm < n then r
  else
    (r.mod fun s => { s with stks := KV.put stack { s.stack stack with therm := n } s.stks }).deferAll

/-! ### The controller (R65) -/

/-- A command that waits at a controller. -/
structure BankCmd where
  work : BankWork
  bank : Nat
  arr : Nat
  deriving DecidableEq, Repr

/-- The oldest command, of those that arrived together the first. -/
def oldestCmd (l : List BankCmd) : Option BankCmd :=
  l.foldl (fun b x => match b with
    | none => some x
    | some y => if x.arr < y.arr then some x else b) none

/-- An access, or a read or write on behalf of an operation, that waits at the banks of pseudo-channel p
and may take its instant. -/
def State.bankAccess (s : State) (p id : Nat) (o : Op) : Bool :=
  decide (o.stage = .pending) && o.acc.bank && !o.acc.scr && decide (scullerOf o.acc.pa = p) &&
  match o.kind with
  | .wread _ => true
  | .bwrite _ _ _ _ => true
  | k => k.isAccess && s.mayTake id o

/-- R91: the next items of the bags' shares in a pseudo-channel. -/
def State.shareCmds (s : State) (p : Nat) : List BankCmd :=
  s.bags.filterMap fun b =>
    let i := p - b.2.sfirst
    if !b.2.isOpen || decide (p < b.2.sfirst) then none
    else match KV.getD i [] b.2.fifo with
      | [] => none
      | x :: _ =>
        let at_ : Nat × Nat := match x with
          | .write n _ _ _ arr => (n, arr)
          | .remove n _ arr => (n, arr)
        if s.itemReady b.2 i x then some ⟨.item b.1 i, bankOf (b.2.recKey i at_.1), at_.2⟩ else none

/-- R65, R91: normal requests at a pseudo-channel: accesses of sites other than its own sculler, and the
items of bags. -/
def State.normalCmds (s : State) (p : Nat) : List BankCmd :=
  (s.ops.filterMap fun o =>
    if s.bankAccess p o.1 o.2 && decide (o.2.site ≠ 192 + p) then
      some ⟨.op o.1, bankOf o.2.acc.pa, o.2.arr⟩
    else none) ++ s.shareCmds p

/-- The cells of a bank's share of a row that a WAVE writes. -/
def waveCells (code x y sx sy bank : Nat) : List (Bool × Nat × Nat) :=
  let at_ := if code = 0 then some (x, sx) else if code = 1 then some (y, min sx sy) else none
  match at_ with
  | none => []
  | some (key, n) => (List.range (n / 64)).map fun i => (false, bankCell key bank (64 * i), 64)

/-- Compute commands: bank accesses of the pseudo-channel's sculler, steps of bag iterations there, and
the next bank of each current wave: its banks start in ascending order (R68). A WAVE's commands count as
waiting for AL from its issue on, those of later waves too (log entry 59, DESIGN CHOICE: R65 does not say
from when). -/
def State.computeCmds (s : State) (p : Nat) : List BankCmd :=
  s.ops.filterMap fun o =>
    if o.2.stage ≠ .pending ∨ o.2.site ≠ 192 + p then none else
    match o.2.kind with
    | .wave code x y sx sy _ _ cur _ _ => match cur with
      | [] => none
      | b :: _ => if s.engineMay o.1 o.2.fibre (waveCells code x y sx sy b) then
          some ⟨.op o.1, b, o.2.arr⟩ else none
    | .biter h i false _ =>
      match s.biterVisit o.2.fibre h with
      | .deliver n => if s.bagTurn o.1 o.2 then
          some ⟨.op o.1, bankOf ((s.bag (bagKey h)).recKey i n), o.2.arr⟩ else none
      | _ => none
    | _ => if s.bankAccess p o.1 o.2 then some ⟨.op o.1, bankOf o.2.acc.pa, o.2.arr⟩ else none

/-- Carry out a read, a write or an access at its bank. -/
def Run.bankOp (r : Run s0) (id : Nat) (o : Op) : Run s0 :=
  match o.kind with
  | .wread op => r.gotWords id op o ((List.range ((o.acc.n + 3) / 4)).map fun i => r.s.home (o.acc.pa + 4 * i))
  | .bwrite op bytes masks poi =>
    ((if r.s.isLost o.acc.pa then r else r.bankWrite o.acc.pa bytes masks poi).delOp id).childDone op
  | _ => (r.takeAccess id o).settleOp id

/-- Carry out a bank command. -/
def Run.runCmd (r : Run s0) (c : BankCmd) : Run s0 :=
  match c.work with
  | .item k i => r.shareStep k i
  | .op id =>
    match KV.find? id r.s.ops with
    | none => r
    | some o =>
      match o.kind with
      | .wave _ _ _ _ _ _ _ _ _ _ => r.waveBank id c.bank
      | .biter _ _ _ _ => r.takeBiter id
      | _ => r.bankOp id o

/-- Start a command: a compute command holds its bank for 48 clk, a normal one for 1. -/
def Run.startCmd (r : Run s0) (p : Nat) (c : BankCmd) (compute : Bool) : Run s0 :=
  let r := r.updPch p fun x => { x with
    busy := (x.busy.filter fun b => decide (x.clk < b.2.1)) ++
      [(c.bank, x.clk + (if compute then 48 else 1), compute)],
    owed := if x.owed = some c.work then none else x.owed }
  r.runCmd c

/-- The normal request that is owed the next start of its bank, while it still waits. -/
def State.owedNow (s : State) (p : Nat) : Option BankWork :=
  match (s.pch p).owed with
  | some (.op id) => match KV.find? id s.ops with
    | some o => if o.stage = .pending then some (.op id) else none
    | none => none
  | some (.item k i) => if KV.getD i [] (s.bag k).fifo = [] then none else some (.item k i)
  | none => none

/-- A controller's choice: the command, whether it is a compute command, and whether it is forced. -/
structure Pick where
  cmd : BankCmd
  compute : Bool
  forced : Bool := false
  deriving DecidableEq, Repr

/-- R65: what a controller starts in its clk. `choice`: which of the compute commands that may start
does, from 1; 0 for none. -/
def State.bankPick (s : State) (p choice : Nat) : Option Pick :=
  let x := s.pch p
  let k := s.stack (p / 32)
  let idle (c : BankCmd) : Bool := !x.busyWith c.bank false
  let normal := s.normalCmds p
  let compute := s.computeCmds p
  let late (c : BankCmd) : Bool := decide (c.arr + 16 * k.lb ≤ x.clk)
  let owed := s.owedNow p
  let due := if owed.isNone && (match x.forced with
      | some t => decide (t + 64 ≤ x.clk)
      | none => true) then
    oldestCmd (compute.filter fun c => decide (c.arr + 16 * k.al ≤ x.clk)) else none
  match due.filter idle with
  | some c => some ⟨c, true, true⟩
  | none =>
    -- a command that is due keeps its bank from normal traffic, and so does a request that is owed
    let kept (c : BankCmd) : Bool :=
      (match due with | some d => decide (d.bank = c.bank) | none => false) ||
      normal.any fun n => decide (some n.work = owed) && decide (n.bank = c.bank) &&
        decide (n.work ≠ c.work)
    let ready := normal.filter fun c => idle c && !kept c
    match (match ready.find? fun c => decide (some c.work = owed) with
      | some c => some c
      | none => oldestCmd ready) with
    | some c => some ⟨c, false, false⟩
    | none =>
      let running := (List.range 16).filter fun b => x.busyWith b true
      if choice = 0 ∨ normal.any late ∨ k.abcur ≤ running.length then none
      else ((compute.filter fun c => idle c && !normal.any fun n => decide (n.bank = c.bank))[choice - 1]?).map
        fun c => ⟨c, true, false⟩

/-- R65: one clk of a controller. A normal request past LB starts before the next forced command. -/
def Run.bankClk (r : Run s0) (p choice : Nat) : Run s0 :=
  if 384 ≤ p then r else
  let r := r.updPch p fun x => { x with clk := x.clk + 1 }
  match r.s.bankPick p choice with
  | none => r
  | some x =>
    let late (c : BankCmd) : Bool := decide (c.arr + 16 * (r.s.stack (p / 32)).lb ≤ (r.s.pch p).clk)
    let owed := (oldestCmd ((r.s.normalCmds p).filter late)).map BankCmd.work
    let r := if x.forced then r.updPch p fun y => { y with forced := some y.clk, owed := owed } else r
    r.startCmd p x.cmd x.compute

/-- R91: the controller of a share comes to the share's next item, where it is the normal request that
the controller starts; count words that may be stored are. -/
def Run.shareTurn (r : Run s0) (k i : Nat) : Run s0 :=
  let b := r.s.bag k
  let p := b.sfirst + i
  if !b.isOpen then r
  else match r.s.bankPick p 0 with
    | some x => if x.cmd.work = .item k i then r.bankClk p 0 else r.bagStep k
    | none => r.bagStep k

def execBankCommandStart (pch choice : Nat) (s : State) : Host.Outcome State Fault Refusal :=
  ((Run.start s).bankClk pch choice).out
def execShareRecordWrite (bag share : Nat) (s : State) : Host.Outcome State Fault Refusal :=
  ((Run.start s).shareTurn bag share).out
def execWaveNextWave (op : Nat) (s : State) : Host.Outcome State Fault Refusal :=
  ((Run.start s).nextWave op).out
def execThermalLimitChange (stack limit : Nat) (s : State) : Host.Outcome State Fault Refusal :=
  ((Run.start s).thermalLimit stack limit).out

end Sys2Proof.Machine
end

