-- ==== Sys2Proof/Machine/Branch.lean ====
section
/-! DEFINITION. Branches, calls and the instructions by which a fibre leaves its crew (R156 to R160,
R168, R199 to R202, R206 to R208). -/

namespace Sys2Proof.Machine
variable {s0 : State}

/-! ### Targets -/

/-- R184, R199: the target of an FB word. -/
def fbTarget (o : BitVec 21) (e : Env) : VAddr :=
  let words : BitVec 54 := match e.imm with
    | some p => (p ++ o.extractLsb' 0 7).signExtend 54
    | none => o.signExtend 54
  e.pc + 4 * words

/-- R184: bits 20:7 of the offset must be 0 under IMM. -/
def fbErr (o : BitVec 21) (_ : BitVec 22) : Bool := decide (o.extractLsb' 7 14 ≠ 0)

def execBra (g : BitVec 4) (o : BitVec 21) (s : State) : Host.Outcome State Fault Refusal :=
  runWord s {
    i := .bra g o, guard := g, branch := true, immOk := true, immErr := fbErr o,
    target := some fun e => if guardOk g e.f then fbTarget o e else e.pc + 4,
    act := fun r _ => r }

/-- R158: the guard value of the lowest occupied lane of the issuing crew. -/
def State.leadGuard (s : State) (d : Desc s0) : Bool :=
  match s.cur with
  | none => false
  | some c => match KV.find? (ckey c.site c.slot) s.crews with
    | none => false
    | some cr => match crewEnvs s c cr d with
      | [] => false
      | e :: _ => guardOk d.guard e.f

def execBru (g : BitVec 4) (o : BitVec 21) (s : State) : Host.Outcome State Fault Refusal :=
  let lead := s.leadGuard (s0 := s) { i := .bru g o, guard := g, branch := true, act := fun r _ => r }
  runWord s {
    i := .bru g o, guard := g, branch := true, immOk := true, immErr := fbErr o,
    check := fun _ e =>
      if e.g.uchk ∧ guardOk g e.f ≠ lead then
        some { cls := .nonuni, addr := (fbTarget o e).zeroExtend 64 }
      else none,
    act := perLane fun r e =>
      if lead then r.updFibre e.key fun f => { f with pc := fbTarget o e } else r }

def execCall (g : BitVec 4) (o : BitVec 21) (s : State) : Host.Outcome State Fault Refusal :=
  runWord s {
    i := .call g o, guard := g, immOk := true, immErr := fbErr o,
    target := some (fbTarget o),
    act := perLane fun r e => r.resultNow e 0 (words2 ((e.pc + 4).zeroExtend 64)) }

/-- R200, R201: a target, bits 53:0 of its pair, that is not word-aligned. -/
def targetCheck (t : DWord) : Option Bad :=
  if efld t 0 2 ≠ 0 then some { cls := .align, addr := (ptrVa t).zeroExtend 64 } else none

def execRet (g : BitVec 4) (a : BitVec 7) (s : State) : Host.Outcome State Fault Refusal :=
  runWord s {
    i := .ret g a, guard := g, uses := [src a 2],
    target := some fun e => ptrVa (e.d 0),
    check := fun _ e => targetCheck (e.d 0),
    act := fun r _ => r }

def execJmpi (g : BitVec 4) (a : BitVec 7) (s : State) : Host.Outcome State Fault Refusal :=
  runWord s {
    i := .jmpi g a, guard := g, branch := true, uses := [src a 2],
    target := some fun e => if guardOk g e.f then ptrVa (e.d 0) else e.pc + 4,
    check := fun _ e => if guardOk g e.f then targetCheck (e.d 0) else none,
    act := fun r _ => r }

/-- R202: the count of a lane that BRDEC counts down. -/
def decCount (g : BitVec 4) (e : Env) : Option Word :=
  if guardOk g e.f then some (e.w 0 - 1) else none

def execBrdec (g : BitVec 4) (d : BitVec 7) (i : BitVec 14) (s : State) :
    Host.Outcome State Fault Refusal :=
  runWord s {
    i := .brdec g d i, guard := g, branch := true, uses := [src d, dst d],
    immOk := true, immErr := imm14Err i,
    target := some fun e => match decCount g e with
      | some n => if n = 0 then e.pc + 4 else e.pc + 4 * (imm14Val i e).signExtend 54
      | none => e.pc + 4,
    act := perLane fun r e => match decCount g e with
      | some n => r.resultNow e d [{ v := n }]
      | none => r }

/-! ### Leaving the crew -/

/-- R61, R70, R268: a fibre's stay on a sculler ends: its input rows, its bag iteration, and the gang's
local slot where it was the last of the gang there. -/
def Run.endStay (r : Run s0) (k : Nat) : Run s0 :=
  let f := r.s.fibre k
  if !isSculler f.site then r else
  let others := r.s.fibres.any fun x =>
    decide (x.1 ≠ k) && decide (x.2.gang = f.gang) && decide (x.2.site = f.site)
  (r.updFibre k fun f => { f with iter := none }).updSite f.site fun x => { x with
    rows := (x.rows.map fun y => (y.1, y.2.filter (· ≠ k))).filter fun y => decide (y.2 ≠ []),
    lslots := if others then x.lslots else x.lslots.filter fun y => decide (y.2 ≠ f.gang) }

/-- R168, R305: a fibre leaves for good. -/
def Run.exitFibre (r : Run s0) (k : Nat) : Run s0 :=
  let gk := (r.s.fibre k).gang
  -- R255: the region is discarded, and nothing is written to s
  let r := (r.leaveCrew k).updFibre k fun f => { f with region := f.region.map fun g => { g with reg := 124 } }
  let r := (r.abortRegion k 0).endStay k
  let r := r.each (List.range 16) fun r n => r.exitBar k gk 0 n
  let r := r.each (List.range 4) fun r n => r.exitBar k gk 1 n
  let r := r.each (List.range 2) fun r n => r.exitBar k gk 2 n
  (r.delFibre k).updGang gk fun g => { g with exited := g.exited + 1 }

def execExit (g : BitVec 4) (s : State) : Host.Outcome State Fault Refusal :=
  runWord s {
    i := .exit g, guard := g, drain := 1,
    act := perLane fun r e => r.exitFibre e.key }

/-- The members of the issuing crew. -/
def State.curCrew (s : State) : List Nat :=
  match s.cur with
  | none => []
  | some c => match KV.find? (ckey c.site c.slot) s.crews with
    | none => []
    | some cr => cr.fids.map (fkey cr.gang)

/-- R206: YIELD dissolves the crew. -/
def execYield (g : BitVec 4) (s : State) : Host.Outcome State Fault Refusal :=
  runWord s {
    i := .yield g, guard := g, drain := 2, noRegion := true,
    act := fun r es => if es = [] then r else r.each r.s.curCrew fun r k => r.leaveCrew k }

/-- A lane of the issuing word starts to wait in the boathouse (R161). -/
def Run.waitIn (r : Run s0) (e : Env) (w : WaitK) : Run s0 :=
  (r.leaveCrew e.key).updFibre e.key fun f => { f with
    pc := e.start, wait := some { kind := w, next := e.pc + 4 } }

/-- R160: CREWJOIN; the former lets the crew go once it is whole (CREW_FORM). It is no barrier arrival in
the sense of R166: the demoted bit stays (log entry 53, DESIGN CHOICE). -/
def execCrewjoin (g : BitVec 4) (s : State) : Host.Outcome State Fault Refusal :=
  runWord s {
    i := .crewjoin g, guard := g, noRegion := true,
    act := perLane fun r e => r.waitIn e (.join e.pc) }

/-- R207: SLEEP; a count of 0 acts as YIELD for the fibre, so it observes the fibre's flags (R181). -/
def execSleep (g : BitVec 4) (a : BitVec 7) (s : State) : Host.Outcome State Fault Refusal :=
  runWord s {
    i := .sleep g a, guard := g, uses := [src a], noRegion := true,
    drainIf := fun _ e => decide (e.w 0 = 0),
    act := perLane fun r e =>
      if e.w 0 = 0 then r.leaveCrew e.key
      else r.waitIn e (.sleep (16 * (e.w 0).toNat)) }

end Sys2Proof.Machine
end

