-- ==== Sys2Proof/Machine/Hints.lean ====
section
/-! DEFINITION. The hint words (R179, R180, R184, R185) and the words that are no instruction
(R187). A hint word is an issue of its own, in an issue slot of the crew (R164): it opens or extends the
group of the crew. -/

namespace Sys2Proof.Machine
variable {s0 : State}

/-- What holds a hint word back: a full-completion wait of a member, or a fence (R183, R119), as a leaf
of R362; the matrix units' where an eight-op is waited for (R43). -/
def State.hintHeld (s : State) (c : Cur) (cr : Crew) : Option Nat :=
  let ks := cr.fids.map (fkey cr.gang)
  if ks.any fun k => (s.fibre k).holds 15 then some (if ks.any fun k => s.matrixWait k [15] then 10 else 9)
  else if ks.any fun k => s.fenced (s.fibre k) || s.watchWait c.site cr.gang (k % 1024) k then some 25
  else none

/-- Issue a hint word for the crew: `upd` is what it adds to the group, `dist` the issue opportunities
to be spent idle after it (R182). -/
def Run.issueHint (r : Run s0) (upd : Hints → Hints) (dist : Nat := 0) : Run s0 :=
  match r.s.cur with
  | none => r
  | some c =>
    match KV.find? (ckey c.site c.slot) r.s.crews with
    | none => r
    | some cr =>
      if !r.s.issues c.site (r.s.gang cr.gang) then r else
      match r.s.hintHeld c cr with
      | some leaf => r.stallCrew c leaf
      | none =>
      let r := (r.stallCrew c 0).spend c.site 3 0
      let keys := cr.fids.map (fkey cr.gang)
      let pc := (keys.head?.map fun k => (r.s.fibre k).pc).getD 0
      let h := upd (cr.hints.getD (noHints pc))
      let bad := keys.filterMap fun k => ((r.s.fibre k).flag 15).note.map fun x => (k, x)
      let good := keys.filter fun k => decide (((r.s.fibre k).flag 15).note = none)
      let r := r.each bad fun r x => r.updFibre x.1 fun f =>
        if x.2.engine then { f with restart := f.restart ||| (1#8 <<< x.2.ch) } else f.observe 15
      let r := (r.raise (bad.map fun x => x.2.fail x.1 (r.s.fibre x.1).lane h.start)).each bad fun r x =>
        r.stopStep x.1
      if good = [] then r else
      let r := if good.any fun k => ((r.s.fibre k).flag 15).eng then r.acquire c.site else r
      let r := r.each good fun r k => r.updFibre k fun f =>
        { f.observe 15 with count := f.count + 1, age := 0, pc := f.pc + 4 }
      r.updCrew (ckey c.site c.slot) fun cr => { cr with
        hints := some { h with n := h.n + 1 }, idle := if h.err = none then dist else 0 }

/-- The hint group with an erroneous word; the first is kept. -/
def Hints.wrong (h : Hints) (w : Word) : Hints := { h with err := some (h.err.getD w) }

/-- R180, R182: PACE. DIST spends issue opportunities of the crew idle before the instruction. -/
def execPace (w : BitVec 12) (sig : BitVec 4) (d : BitVec 3) (s : State) :
    Host.Outcome State Fault Refusal :=
  let word := (Instr.pace w sig d).word
  let upd (h : Hints) : Hints :=
    if h.pace ∨ !(Instr.pace w sig d).wf then h.wrong word
    else { h with pace := true, wait := w, sig := sig.toNat, dist := d.toNat }
  ((Run.start s).issueHint upd d.toNat).out

/-- R184: IMM. -/
def execImm (i : BitVec 22) (s : State) : Host.Outcome State Fault Refusal :=
  ((Run.start s).issueHint fun h =>
    if h.imm.isSome then h.wrong (Instr.imm i).word else { h with imm := some i }).out

/-- R185: MOD. -/
def execMod (r : BitVec 1) (m : BitVec 2) (sat t n w : BitVec 1) (s : State) :
    Host.Outcome State Fault Refusal :=
  ((Run.start s).issueHint fun h =>
    if h.mods.isSome then h.wrong (Instr.mod r m sat t n w).word
    else { h with mods := some (r ++ m ++ sat ++ t ++ n ++ w ++ 0#15) }).out

/-- R187, R188: a word that is no instruction raises ILLEG for its active lanes; a faulty hint word
is remembered for the group's instruction (R179). -/
def execUndefinedEncoding (w : BitVec 32) (s : State) : Host.Outcome State Fault Refusal :=
  if fld w 25 7 = 0x7F#7 then ((Run.start s).issueHint fun h => h.wrong w).out
  else runWord s {
    i := .undefinedEncoding w, guard := fld w 21 4, word := w,
    -- of the majors of R149 whose guard is no guard, only JMPI has undefined encodings
    branch := decide (fld w 25 7 = 0x24#7),
    bad := some (match decode w with
      | .error .reservedMajor => 0
      | _ => 1),
    act := fun r _ => r }

end Sys2Proof.Machine
end

