-- ==== Sys2Proof/Machine/Fetch.lean ====
section
/-! DEFINITION. Fetching a word for the crew whose turn it is (R173, R188, R296), and placing a word
where the next step fetches it. -/

namespace Sys2Proof.Machine
variable {s0 : State}

/-- R188: a word of the line that holds a key is poisoned. -/
def State.linePoison (s : State) (bank : Bool) (key : Nat) : Bool :=
  let line := key / 128
  let spotless := (KV.range (32 * line) 32 s.mpoison).isEmpty
  if bank then !spotless
  else
    let d := s.dir line
    if spotless && d.owners.isEmpty && d.pmasks.isEmpty then false
    else (List.range 32).any fun i => (s.coh (128 * line + 4 * i)).p

/-- R188: the word at an address for a site and context, or the trap of a fetch that fails. -/
def State.fetchWord (s : State) (site ctx : Nat) (pc : VAddr) : Except Bad Word :=
  match s.xlate site ctx pc 4 with
  | .error (rs, lv) => .error { cls := .xlat, addr := pc.zeroExtend 64, reason := rs, level := lv }
  | .ok x =>
    match (if isSuper site then none else permBad x { ex := true }) with
    | some rs => .error { cls := .perm, addr := pc.zeroExtend 64, reason := rs }
    | none =>
      if s.isLost x.pa then .error { cls := .homelost, addr := pc.zeroExtend 64 }
      else
        let w : PW := if x.bank then s.home x.key else s.coh x.key
        if w.p || s.linePoison x.bank x.key then .error { cls := .poison, addr := pc.zeroExtend 64 }
        else .ok w.v

/-- What an issue turn comes to. -/
inductive Fetched where
  /-- nothing issues: no crew, an idle opportunity spent, or a fetch that failed -/
  | none
  | instr (i : Instr)
  /-- the slots of the clk are full: whether the word waits is looked at, and no more -/
  | later (i : Instr)
  deriving Repr

/-- What only a crew at its turn does: no agent does it of its own accord. -/
def ofCrew : Instr → Bool
  | .undefinedEncoding _ => true
  | .walkBodyWordIssue _ _ => true
  | i => i.isWord

/-- The crew waits no more. -/
def Run.ready (r : Run s0) (site slot : Nat) : Run s0 := r.stallCrew { site := site, slot := slot } 0

/-- A crew whose turn comes when the slots of the clk are full, `o` being what its word would come to:
if the word waits, it does so now; if not, the crew is ready for the next clk. -/
def Run.later (r : Run s0) (site slot : Nat) (o : Host.Outcome State Fault Refusal) :
    Host.Outcome State Fault Refusal :=
  match o with
  | .next t => match KV.find? (ckey site slot) t.crews with
    | some c => if c.stall = 0 then (r.ready site slot).out else o
    | none => (r.ready site slot).out
  | _ => (r.ready site slot).out

/-- R360: the turn of a stepped fibre that has issued its instruction: it halts once that has completed, or
takes the trap that it came to. -/
def Run.stepTurn (r : Run s0) (site slot k : Nat) : Run s0 :=
  let f := r.s.fibre k
  if f.holds 15 then r.stallCrew { site := site, slot := slot } (if r.s.matrixWait k [15] then 10 else 9)
  else match (f.flag 15).note with
    | some n => (r.notedFault k 15 n).stopStep k
    | none => r.stopStep k

/-- The issue turn of a crew slot: the state in which its next word is issued, and the word. A slot whose
fetch fails carries no word (R362). -/
def Run.fetch (r : Run s0) (site slot : Nat) (wait cold : Bool) : Run s0 × Fetched :=
  let r := r.mod fun s => { s with cur := some { site := site, slot := slot, wait := wait } }
  let r := if cold then r.coldCaches site else r
  match KV.find? (ckey site slot) r.s.crews with
  | none => (r, .none)
  | some cr =>
    let full := decide ((r.s.site site).budget = 0)
    let turn (i : Instr) : Fetched := if full then .later i else .instr i
    if cr.evict && cr.hints.isNone then (r, .none)
    else if 0 < cr.idle then
      if full then (r, .none) else
      ((r.stallCrew { site := site, slot := slot } 22).updCrew (ckey site slot) fun cr =>
        { cr with idle := cr.idle - 1 }, .none)
    else match cr.fids with
    | [] => (r, .none)
    | fid :: _ =>
      let f := r.s.fibre (fkey cr.gang fid)
      let g := r.s.gang cr.gang
      if f.stepped && !f.walking && cr.hints.isNone then (r.stepTurn site slot (fkey cr.gang fid), .none)
      else if f.walking then (r, turn (.walkBodyWordIssue site slot))
      else match r.s.fetchWord site g.ctx f.pc with
      | .ok w =>
        (r.cacheXl site g.ctx (f.pc.zeroExtend 64), turn (match decode w with
          | .ok i => i
          | .error _ => .undefinedEncoding w))
      | .error b =>
        if full then (r.ready site slot, .none) else
        let start := match cr.hints with | some h => h.start | none => f.pc
        let keys := cr.fids.map (fkey cr.gang)
        ((r.raise (keys.map fun k =>
          { key := k, lane := (r.s.fibre k).lane, cls := b.cls, addr := b.addr, reason := b.reason,
            level := b.level, pc := start })).each keys Run.stopStep, .none)

/-- The leaf that `placeWord` gives the page: physical page 1, policy NC, all permissions. -/
def fetchLeaf : DWord := 0xC000_0000_0040_00BE

/-- R173: `s` with the word `w` placed where the next step fetches it: a crew of one fibre stands on
core 0 at virtual address 4096, which is physical address 4096, and it is the crew's turn. -/
def State.placeWord (s : State) (w : Nat) : State :=
  { s with
    mem := (List.range 4).foldl (fun m k =>
      Memory.write (2 ^ 52) (4096 + k) (byteOf w k) m) s.mem,
    mpoison := KV.del 1024 s.mpoison,
    dirs := KV.del 32 s.dirs,
    ctxs := KV.put 0 { st := .running, live := true } s.ctxs,
    gangs := KV.put 0 { nfib := 1, window := 96, ssize := 4096, tiles := 16 } s.gangs,
    fibres := KV.put 0 { slot := some 0, pc := 4096 } s.fibres,
    crews := KV.put 0 { fids := [0] } s.crews,
    sites := KV.put 0 { s.site 0 with budget := 1, tlb := KV.put 1 (1, fetchLeaf) (s.site 0).tlb } s.sites,
    agenda := [.issue 0 0 false false] }

end Sys2Proof.Machine
end

