-- ==== Sys2Proof/Machine/Matrix.lean ====
section
/-! DEFINITION. The matrix engine (R279 to R294): eight-ops, their operand tiles and accumulation, the
accumulator instructions, power tokens. A tile is named as State.acc names it. -/

namespace Sys2Proof.Machine
variable {s0 : State}

/-! ### Accumulation (R286, R287, R385) -/

/-- An exact value rounded to p significant bits, to nearest even, with no exponent limit. -/
def Ex.toBits (x : Ex) (p : Nat) : Ex :=
  let top := Nat.log2 x.m + 1
  if x.m = 0 ∨ top ≤ p then x
  else
    let q : Int := x.e + ((top - p : Nat) : Int)
    { s := x.s, m := (roundQ 0 x.s x.m x.e q false).1, e := q }

def planItems : Config.Plan → List Nat
  | .item n => [n]
  | .add l r _ => planItems l ++ planItems r

/-- R385: the sum that a plan forms. -/
def planSum (xs : List Ex) : Config.Plan → Ex
  | .item n => xs.getD n { s := false, m := 0, e := 0 }
  | .add l r p => (addEx 0 (planSum xs l) (planSum xs r)).toBits (24 + p)

/-- A plan that takes each of n items once. -/
def planOk (p : Config.Plan) (n : Nat) : Bool :=
  decide ((planItems p).length = n) && (List.range n).all fun i => (planItems p).contains i

/-- The sum of the items in the order of the plan; exact where the plan fits no such sum. -/
def accSum (p : Config.Plan) (xs : List Ex) : Ex :=
  if planOk p xs.length then planSum xs p else xs.foldl (addEx 0) { s := false, m := 0, e := 0 }

/-- A product term, or a NaN factor. -/
abbrev Factor := Option Term

def mulFactor : Factor → Factor → Term
  | some x, some y => mulTerm x y
  | _, _ => .bad

/-- The sum of an element over the iterations of a walk so far: as the plans give it, and exact. -/
structure Wide where
  v : Ex
  e : Ex
  deriving DecidableEq, Repr

/-- R286 to R288: a planned sum on the other side of 0 than the exact one gives way to +0, so that the
results stay monotone where an exact sum of 0 gives +0. -/
def clampSum (v e : Ex) : Ex :=
  if e.m = 0 ∨ v.m = 0 ∨ v.s ≠ e.s then { s := false, m := 0, e := 0 } else v

/-- R286, R287: the new value of an element: its code, and the sum it rounds where that is finite.
`wide` is the sum that a walk has carried so far, in place of the code it was rounded to. -/
def accumulate (p : Config.Plan) (c : Nat) (wide : Option Wide) (ps : List Term) : Nat × Option Wide :=
  let ts := (if wide.isSome then [] else [f32.term c]) ++ ps
  let infs := ts.filterMap fun t => match t with | .inf s => some s | _ => none
  if (wide.isNone && f32.isNan c) ∨ ps.any (fun t => decide (t = .bad)) ∨
      (infs.contains true ∧ infs.contains false) then
    (f32.qnan, none)
  else match infs with
    | s :: _ => (f32.signBit s + f32.infCode, none)
    | [] =>
      let w := wide.getD ⟨f32.val c, f32.val c⟩
      let xs := ps.filterMap fun t => match t with | .fin x => some x | _ => none
      let e := xs.foldl (addEx 0) w.e
      let v := clampSum (accSum p (w.v :: xs)) e
      ((f32.round 0 v).code, some ⟨v, e⟩)

/-- R282: an I8 element, exactly modulo 2^32. -/
def accumulateInt (c : Nat) (ps : List (Int × Int)) : Nat :=
  (ps.foldl (fun (a : Int) x => a + x.1 * x.2) c).emod (2 ^ 32) |>.toNat

/-! ### Operand tiles (R279) -/

/-- Bytes of a tile of row span S, from its pointer. -/
def tileBytes (w k : Nat) : Nat :=
  let sp := k * w / 8
  if sp ≤ 128 then 31 * 128 + sp
  else
    let blocks := (sp + 127) / 128
    (blocks - 1) * 4096 + 31 * 128 + (sp - (blocks - 1) * 128)

/-- R279: a pointer that no tile of row span S may have. -/
def tileAlign (va : VAddr) (w k : Nat) : Bool :=
  let sp := k * w / 8
  let a := va.toNat
  if sp ≤ 128 then decide (a % 4096 / 128 ≠ 0 ∨ a % 128 % sp ≠ 0) else decide (a % 4096 ≠ 0)

/-- Bit of element (r, k) from the pointer. -/
def tileBit (w kk r k : Nat) : Nat :=
  let e := 1024 / w
  if kk * w / 8 ≤ 128 then 1024 * r + k * w else 32768 * (k / e) + 1024 * r + k % e * w

/-- The pieces of an extent whose pages translate to `xs`. -/
def piecesOf (va : VAddr) (n : Nat) (xs : List Xl) : List Piece :=
  (List.range xs.length).map fun i =>
    let x := xs.getD i { pa := 0, leaf := 0, key := 0, bank := false }
    let lo := if i = 0 then va.toNat else (va.toNat / 4096 + i) * 4096
    let hi := min (va.toNat + n) ((va.toNat / 4096 + i + 1) * 4096)
    { pa := x.pa, lr := if x.bank then rowLen x.leaf else 0, n := hi - lo, va := BitVec.ofNat 54 lo }

/-- The cells of the words of pieces, in ascending order. -/
def pieceCells (l : List Piece) : List (Nat × Bool) :=
  l.flatMap fun p => (List.range ((p.n + 3) / 4)).map fun i =>
    if p.lr = 0 then (p.pa + 4 * i, false) else (crKey (p.pa + 4 * i) p.lr, true)

/-- R114: the virtual address of the first word of pieces that has been lost since they were checked. -/
def State.lostPiece (s : State) (l : List Piece) : Option VAddr :=
  l.findSome? fun p => ((List.range ((p.n + 3) / 4)).find? fun i =>
    s.isLost (if p.lr = 0 then p.pa + 4 * i else crKey (p.pa + 4 * i) p.lr)).map fun i =>
      p.va + BitVec.ofNat 54 (4 * i)

/-- The element of w bits at a bit offset among words. -/
def bitElem (ws : List PW) (w bit : Nat) : Nat × Bool :=
  let x := ws.getD (bit / 32) {}
  (x.v.toNat / 2 ^ (bit % 32) % 2 ^ w, x.p)

/-! ### Eight-ops (R280 to R285) -/

def fmtName (f : Nat) : Fmt := fmtOf (f - 1)

/-- R280: kept products per element, logical K, and the width of B's rows in elements. -/
def Eight.kd (e : Eight) : Nat :=
  if e.form = 2 then 64 else if (fmtWidth e.afmt).getD 8 = 16 then 32 else 64
def Eight.kl (e : Eight) : Nat := e.kd * e.m / e.n
def Eight.aw (e : Eight) : Nat := (fmtWidth e.afmt).getD 8
def Eight.bw (e : Eight) : Nat := (fmtWidth e.bfmt).getD 8

/-- R280: the reason of a combination that the instruction refuses. -/
def comboBad (form af bf : Nat) : Option Nat :=
  let dead (f : Nat) := decide (f = 0) || decide (9 ≤ f)
  if dead af || dead bf then some 0
  else if form = 2 then
    if (af = 2 ∨ af = 3) ∧ (bf = 7 ∨ bf = 8) then none else some 2
  else if (af = bf ∧ (af = 2 ∨ af = 3 ∨ af = 6)) ∨ ((af = 4 ∨ af = 5) ∧ (bf = 4 ∨ bf = 5)) then none
  else some 2

/-- R283: N and M of a pattern code, and the width of an index. -/
def pattern (c : Nat) : Nat × Nat :=
  match c with
  | 0 => (1, 4) | 1 => (2, 4) | 2 => (2, 8) | 3 => (4, 8) | 4 => (4, 16) | 5 => (8, 16) | _ => (8, 24)
def idxWidth (m : Nat) : Nat := match m with | 4 => 2 | 8 => 3 | 16 => 4 | _ => 5

/-- The logical position of kept value t of row i. -/
def Eight.pos (e : Eight) (i t : Nat) : Nat :=
  if e.form = 1 then t / e.n * e.m + (e.idx.getD []).getD (i * e.kd + t) 0 else t

/-- A factor of a floating-point format. -/
def floatFactor (f c : Nat) : Factor :=
  if (fmtName f).isNan c then none else some ((fmtName f).term c)

/-- R285: slot of product k; scale and zero point of a slot for column j. -/
def Eight.slotOf (e : Eight) (k : Nat) : Nat := if e.gsz = 0 ∧ 32 ≤ k then e.slot + 1 else e.slot
def Eight.scale (e : Eight) (h j : Nat) : Nat :=
  let w := (e.vq.getD (j % 8) []).getD (4 * (h / 2) + j / 8) 0
  w.toNat / 2 ^ (16 * (h % 2)) % 2 ^ 16
def Eight.zero (e : Eight) (h j : Nat) : Nat :=
  if e.zp then ((e.vq.getD (j % 8) []).getD (8 + j / 8) 0).toNat / 2 ^ (8 * h) % 256
  else if e.bfmt = 7 then 128 else 8

/-- R285: (q - z) x s as a factor. -/
def quantFactor (q z sc : Nat) : Factor :=
  let n : Int := q - z
  if f16.isNan sc then none
  else if f16.isInf sc then (if n = 0 then none else some (.inf (f16.neg sc ^^ decide (n < 0))))
  else some (.fin (mulEx { s := decide (n < 0), m := n.natAbs, e := 0 } (f16.val sc)))

/-- The factor of B at (k, j). -/
def Eight.bFactor (e : Eight) (bs : List PW) (k j : Nat) : Factor :=
  let c := (bitElem bs e.bw (tileBit e.bw e.kl j k)).1
  if e.form = 2 then quantFactor c (e.zero (e.slotOf k) j) (e.scale (e.slotOf k) j)
  else floatFactor e.bfmt c

def elemInt (c : Nat) : Int := (BitVec.ofNat 8 c).toInt

/-- The words that the operation uses hold poison (R292). -/
def Eight.poisoned (e : Eight) (as bs : List PW) : Bool :=
  e.idx.isNone ||
  ((List.range 32).any fun i => (List.range e.kd).any fun t =>
    (bitElem as e.aw (tileBit e.aw e.kd i t)).2 ||
    (if e.form = 1 then (List.range 32).any fun j => (bitElem bs e.bw (tileBit e.bw e.kl j (e.pos i t))).2
     else false)) ||
  (decide (e.form ≠ 1) && (List.range 32).any fun j => (List.range e.kl).any fun k =>
    (bitElem bs e.bw (tileBit e.bw e.kl j k)).2)

/-- R282 to R285: element (i, j) after the operation, in the order of accumulation of a run (R4). -/
def Eight.elem (e : Eight) (run : Nat) (as bs : List PW) (c : Nat) (wide : Option Wide) (i j : Nat) :
    Nat × Option Wide :=
  let ts := List.range e.kd
  let a (t : Nat) : Nat := (bitElem as e.aw (tileBit e.aw e.kd i t)).1
  if e.afmt = 6 then
    (accumulateInt c (ts.map fun t =>
      (elemInt (a t), elemInt (bitElem bs e.bw (tileBit e.bw e.kl j (e.pos i t))).1)), none)
  else accumulate (Config.accPlan run e.form e.afmt e.bfmt e.kd) c wide (ts.map fun t =>
    mulFactor (floatFactor e.afmt (a t)) (e.bFactor bs (e.pos i t) j))

/-! ### Tiles in operation (R291) -/

/-- The tiles that an operation acts on. -/
def Op.tiles (o : Op) : List Nat :=
  match o.kind with
  | .eight _ t => [t]
  | .accz t => [t]
  | .accld t _ => [t]
  | .accst t _ => [t]
  | .accrd x => [x / 1024]
  | .accwr l => l.map fun x => x.1 / 1024
  | _ => []

/-- R291: the operations on the tile that one of the fibres issued before are done. -/
def State.tileMay (s : State) (id : Nat) (o : Op) : Bool :=
  !(s.ops.any fun p => decide (p.1 < id) && p.2.isOpen && (p.2.tiles.any fun t => o.tiles.contains t) &&
    (o.fibres.any p.2.hasFibre))

def State.accElem (s : State) (k : Nat) : PW := KV.getD k {} s.acc
def Run.putAcc (r : Run s0) (k : Nat) (w : PW) : Run s0 :=
  r.mod fun s => { s with acc := KV.putD k {} w s.acc }

/-- R314: an armed flip of the element that an eight-op of the gang writes. -/
def Run.inject (r : Run s0) (gk tile : Nat) : Run s0 :=
  let g := r.s.gang gk
  let n := g.inject.toNat
  let t := g.core * 256 + g.tbase + n / 2 ^ 20 % 16
  if g.inject.getLsbD 63 ∧ t = tile ∧ n / 2 ^ 20 % 16 < g.tiles then
    let k := tile * 1024 + n / 2 ^ 10 % 1024
    let w := r.s.accElem k
    (r.putAcc k { w with v := w.v ^^^ (1#32 <<< (n % 32)) }).updGang gk fun g =>
      { g with inject := g.inject &&& ~~~(1#64 <<< 63) }
  else r

/-- The sum that a walk of the fibre holds for an element, where it is what the element was rounded
from. -/
def Fibre.wide (f : Fibre) (k c : Nat) : Option Wide :=
  if !f.walking then none
  else match KV.find? k f.walk.parts with
    | some ((s, m, e), (s', m', e')) =>
      if (f32.round 0 ⟨s, m, e⟩).code = c then some ⟨⟨s, m, e⟩, ⟨s', m', e'⟩⟩ else none
    | none => none

/-- The cells of the operand tiles, and the lines of those that are not at the bank. -/
def Eight.cells (e : Eight) : List (Nat × Bool) := pieceCells e.a ++ pieceCells e.b
def Eight.lines (e : Eight) : List Nat := nubNat ((e.cells.filter fun c => !c.2).map fun c => c.1 / 128)

/-- R42: a line may be pinned: a set of a slice holds at most 12 pinned lines, and the slice has room for
the line. -/
def State.canPin (s : State) (line : Nat) : Bool :=
  let d := s.dir line
  !s.l2Full line && (decide (d.pins ≠ []) ||
    (let ls := (s.dirs.filter fun x => decide (x.2.pins ≠ []) && decide (x.2.holder = d.holder) &&
        decide (x.2.slice = d.slice)).map Prod.fst
     decide (ls.length < 12) || decide ((sameSet 1 2048 line ls).length < 12)))

/-- R42: fetch and pin the operand lines of an eight-op, but for those that have to wait. -/
def Run.pinTiles (r : Run s0) (id : Nat) (e : Eight) : Run s0 :=
  r.each e.lines fun r n =>
    if (r.s.dir n).pins.contains id || !r.s.canPin n then r
    else (r.fillL2 n).updDir n fun d => { d with pins := d.pins ++ [id] }
/-- Let the pins of an operation go. -/
def Run.unpin (r : Run s0) (id : Nat) : Run s0 :=
  r.mod fun s => { s with dirs := s.dirs.map fun d =>
    (d.1, { d.2 with pins := d.2.pins.filter (· ≠ id) }) }
/-- An eight-op has fetched all its operand lines. -/
def State.pinned (s : State) (id : Nat) (e : Eight) : Bool :=
  e.lines.all fun n => (s.dir n).pins.contains id

/-- R126: an operation of an eight may make its accesses, by every fibre of the eight. -/
def State.eightMay (s : State) (id : Nat) (o : Op) (w : List (Bool × Nat × Nat)) : Bool :=
  o.fibres.all fun k => s.engineMay id k w

/-- An eight-op takes its operands and writes its tile. -/
def Run.takeEight (r : Run s0) (id : Nat) (o : Op) (e : Eight) (tile : Nat) : Run s0 :=
  let as := (r.s.asOf id).ncWords o.got (pieceCells e.a)
  let bs := (r.s.asOf id).ncWords o.got (pieceCells e.b)
  let f := r.s.fibre o.fibre
  let bad := e.poisoned as bs
  let new := (List.range 1024).map fun x =>
    let k := tile * 1024 + x
    let c := r.s.accElem k
    if bad then (k, { c with p := true }, none)
    else
      let y := e.elem r.s.runs as bs c.v.toNat (f.wide k c.v.toNat) (x / 32) (x % 32)
      (k, ({ v := BitVec.ofNat 32 y.1, p := c.p } : PW), y.2)
  let r := r.ncTouch o.site e.cells
  let r := r.each new fun r x => r.putAcc x.1 x.2.1
  let r := if f.walking then r.updFibre o.fibre fun f => { f with walk := { f.walk with
      parts := new.foldl (fun m x => match x.2.2 with
        | some (w : Wide) => KV.put x.1 ((w.v.s, w.v.m, w.v.e), (w.e.s, w.e.m, w.e.e)) m
        | none => KV.del x.1 m) f.walk.parts } }
    else r
  ((r.inject o.gang tile).unpin id).updOp id fun o => { o with stage := .performed }

/-- R42: an eight-op fetches what it still lacks of its operands, and begins once it has them all. -/
def Run.eightStep (r : Run s0) (id : Nat) (o : Op) (e : Eight) (tile : Nat) : Run s0 :=
  if !r.s.eightMay id o [] then r
  else match r.s.lostPiece (e.a ++ e.b) with
  | some va => (r.unpin id).loseAll id va
  | none =>
    let r := r.pinTiles id e
    match (r.s.asOf id).unread o.got e.cells with
    | [] => if r.s.pinned id e && !(e.cells.any r.s.cellHeld) then r.takeEight id o e tile else r
    | l => r.askWords o.fibre o.site id l

/-- An operation on accumulator tiles takes effect where order allows it. -/
def Run.tileStep (r : Run s0) (id : Nat) : Run s0 :=
  match KV.find? id r.s.ops with
  | none => r
  | some o =>
    if o.stage ≠ .pending ∨ !r.s.tileMay id o then r else
    let done (r : Run s0) : Run s0 := r.updOp id fun o => { o with stage := .performed }
    match o.kind with
    | .eight e t => r.eightStep id o e t
    | .accz t => done (r.mod fun s => { s with acc := KV.delRange (t * 1024) 1024 s.acc })
    | .accld t mem =>
      let cs := pieceCells mem
      if cs.any r.s.cellHeld || !r.s.eightMay id o [] then r
      else match r.s.lostPiece mem with
      | some va => r.loseAll id va
      | none =>
        match (r.s.asOf id).unread o.got cs with
        | [] =>
          let ws := (r.s.asOf id).ncWords o.got cs
          let bad := ws.any fun w => w.p
          done ((r.ncTouch o.site cs).each (List.range 1024) fun r x =>
            r.putAcc (t * 1024 + x) { ws.getD x {} with p := bad })
        | l => r.askWords o.fibre o.site id l
    | .accst t mem =>
      let cs := pieceCells mem
      if r.s.hasChild id then r
      else if o.res ≠ [] then done r
      else if cs.any r.s.cellHeld || !r.s.eightMay id o (cs.map fun c => (false, c.1, 4)) then r
      else match r.s.lostPiece mem with
      | some va => r.loseAll id va
      | none =>
        let bs := (List.range 1024).flatMap fun x =>
          let w := r.s.accElem (t * 1024 + x)
          let c := cs.getD x (0, false)
          (List.range 4).map fun i =>
            ({ key := c.1 + i, bank := c.2, v := w.v.extractLsb' (8 * i) 8, p := w.p } : NcByte)
        -- written once; done when the packets towards windows are answered
        let r := (r.ncWrite o.fibre o.site id bs).updOp id fun o => { o with res := [{}] }
        if r.s.hasChild id then r else done r
    | .accrd x =>
      let w := r.s.accElem x
      if w.p then r.updOp id fun o => { o with
        stage := .performed,
        note := some (o.fault .poison (BitVec.ofNat 64 (x % 1024)) 2) }
      else r.updOp id fun o => { o with stage := .performed, res := [w] }
    | .accwr l => done (r.each l fun r x => r.putAcc x.1 { v := x.2 })
    | _ => r

/-! ### Issue by eights (R281) -/

/-- The lanes that pass, by eight, with the eight's number. -/
def eightsOf (es : List Env) : List (Nat × List Env) :=
  (List.range 4).filterMap fun k =>
    match es.filter fun e => decide (e.lane / 8 = k) with
    | [] => none
    | l => some (k, l)

/-- R281: tile of the lane's eight. -/
def eightTile (t : Nat) (e : Env) : Nat := t + e.lane / 8
def tileIlleg (t : Nat) (e : Env) : Option Nat :=
  if 16 ≤ t ∨ e.g.tiles ≤ eightTile t e then some 2 else none
def absTile (t : Nat) (e : Env) : Nat := e.g.core * 256 + e.g.tbase + eightTile t e

/-- Start an operation that the fibres of an eight issue together. In a walk it takes effect at
once. -/
def Run.jointOp (r : Run s0) (es : List Env) (o : Op) : Run s0 × Nat :=
  match es with
  | [] => (r, 0)
  | e :: rest =>
    let id := r.s.nextId
    let fl (x : Env) : Nat := if x.sig < 12 then x.sig else if x.sig ≠ 16 then 15 else 16
    let r := r.startOp e { o with
      joint := rest.map fun x => (x.key, fl x), arr := (r.s.site e.site).clk.toNat } 0 true true
    (r.each rest fun r x => r.updFibre x.key fun f =>
      if fl x < 16 then f.setFlag (fl x) { st := .busy, eng := true } else f, id)

/-- Run an operation on tiles now, unless the turn leaves it in flight. -/
def Run.tileNow (r : Run s0) (e : Env) (id : Nat) : Run s0 :=
  if e.wait && !e.body then r
  else
    let r := r.tileStep id
    r.finish id

/-- An eight that a trap of one of its lanes has broken up does nothing; its other lanes issue the
word again. -/
def Run.breakEight (r : Run s0) (es : List Env) : Run s0 :=
  r.each es fun r e => (r.unissue e).toBoathouse e.key e.start

/-- Run `f` on each whole eight. -/
def Run.byEights (r : Run s0) (es : List Env) (f : Run s0 → Env → List Env → Run s0) : Run s0 :=
  r.each (eightsOf es) fun r x =>
    match x.2 with
    | [] => r
    | e :: _ => if x.2.length = 8 then f r e x.2 else r.breakEight x.2

/-! ### Power tokens (R294) -/

/-- Cluster of a core in its die. -/
def clusterOf (core : Nat) : Nat := core % 48 / 4
def Die.holdsTok (d : Die) (c : Nat) : Bool := d.toks.any fun t => decide (t.cluster = c)

/-- The eight waits for a token. -/
def State.tokenHold (s : State) (es : List Env) : Bool :=
  es.any fun e =>
    let d := s.die (dieOf e.site)
    isCore e.site && !d.holdsTok (clusterOf e.site) && decide (d.free = [])

/-- The cluster waits on the ring. -/
def Run.queueToken (r : Run s0) (es : List Env) : Run s0 :=
  match es with
  | [] => r
  | e :: _ => if !r.s.tokenHold es then r else r.updDie (dieOf e.site) fun d =>
      if d.tokWait.contains (clusterOf e.site) then d else { d with tokWait := d.tokWait ++ [clusterOf e.site] }

/-- A cluster starts an eight-op: it takes a token that stands free where it holds none. -/
def Run.useToken (r : Run s0) (site : Nat) : Run s0 :=
  let c := clusterOf site
  r.updDie (dieOf site) fun d =>
    if d.holdsTok c then
      { d with toks := d.toks.map fun t => if t.cluster = c then { t with idle := 0 } else t }
    else { d with toks := d.toks ++ [{ cluster := c }], free := d.free.drop 1,
                  tokWait := d.tokWait.filter (· ≠ c) }

/-! ### MMA, MMAS, MMAQ -/

/-- The operands of an eight-op word: its form, tile, pattern code, group slot, and pointers. -/
structure MmaWord where
  form : Nat
  t : Nat
  code : Nat := 1
  slot : Nat := 0
  /-- source operands and word offsets of the pointers to A, B and metadata -/
  a : Nat × Nat := (0, 0)
  b : Nat × Nat := (1, 0)
  m : Nat × Nat := (0, 2)
  deriving DecidableEq, Repr

def Env.ptrAt (e : Env) (x : Nat × Nat) : DWord := pair ((e.op x.1).drop x.2)

def tileNeed : Need := { rd := true, no4 := true }

/-- R281 step 1: translate a pointer's first byte and check it as a load. -/
def firstByte (s : State) (e : Env) (p : DWord) : Except Bad Xl :=
  match s.xlate e.site e.ctx (ptrVa p) 1 with
  | .error b => .error (xlErr (ptrVa p) b)
  | .ok x => match permBad x tileNeed with
    | some n => .error { cls := .perm, addr := (ptrVa p).zeroExtend 64, reason := n }
    | none => .ok x

/-- R281 step 3: the extent of a tile. -/
def tileCheck (s : State) (e : Env) (p : DWord) (w k : Nat) : Except Bad (List Piece) :=
  if tileAlign (ptrVa p) w k then .error { cls := .align, addr := (ptrVa p).zeroExtend 64 }
  else match s.checkExtent e.site e.ctx p (tileBytes w k) 1 tileNeed with
    | .error b => .error b
    | .ok xs => .ok (piecesOf (ptrVa p) (tileBytes w k) xs)

/-- R284: the first group of the stream that breaks the rule. -/
def badGroup (n m : Nat) (idx : List Nat) : Option Nat :=
  (List.range (idx.length / n)).find? fun g =>
    let xs := (idx.drop (g * n)).take n
    xs.any (fun x => decide (m ≤ x)) ||
      (List.range (n - 1)).any fun i => decide (xs.getD (i + 1) 0 ≤ xs.getD i 0)

/-- R283: the indices that a metadata stream holds. -/
def indicesOf (ws : List PW) (kd w : Nat) : List Nat :=
  let v := wordsVal ws
  (List.range (32 * kd)).map fun t => v / 2 ^ (t * w) % 2 ^ w

/-- R281, R283: the metadata's extent. -/
def metaCheck (s : State) (e : Env) (x : MmaWord) (kd : Nat) : Except Bad (List (Nat × Bool)) :=
  descCheck s e (e.ptrAt x.m) (4 * kd * idxWidth (pattern x.code).2) 16

/-- The words of windows and banks that the lane read which the eight takes its operands from. -/
def State.leadWords (s : State) (e : Env) : List (Nat × PW) :=
  if e.key = e.lead then e.f.wbuf else (s.fibre e.lead).wbuf

/-- R281: the checks of an eight, in their order, and the operation. -/
def mmaPlan (s : State) (x : MmaWord) (e : Env) : Except Bad Eight := do
  match maskCheck e with
  | some b => .error b
  | none =>
    let pa := e.ptrAt x.a
    let pb := e.ptrAt x.b
    let xa ← firstByte s e pa
    let xb ← firstByte s e pb
    let af := leafFmt xa.leaf
    let bf := leafFmt xb.leaf
    let fmt (n : Nat) (p : DWord) : Except Bad Eight :=
      .error { cls := .fmt, addr := (ptrVa p).zeroExtend 64, reason := n }
    match comboBad x.form af bf with
    | some n => fmt n (if af = 0 ∨ 9 ≤ af then pa else pb)
    | none =>
      let gsz := leafGsz xb.leaf
      if x.form = 2 ∧ gsz = 3 then fmt 1 pb
      else if x.form = 2 ∧ gsz = 0 ∧ x.slot % 2 = 1 then fmt 4 pb
      else
        let nm := if x.form = 1 then pattern x.code else (1, 1)
        let o : Eight := { form := x.form, afmt := af, bfmt := bf, zp := leafZp xb.leaf, gsz := gsz,
                           slot := x.slot, n := nm.1, m := nm.2,
                           vq := e.own.map fun ws => ws.map PW.v }
        let a ← tileCheck s e pa o.aw o.kd
        let b ← tileCheck s e pb o.bw o.kl
        let o := { o with a := a, b := b }
        if x.form ≠ 1 then .ok o
        else
          let cs ← metaCheck s e x o.kd
          let ws := s.ncWords (s.leadWords e) cs
          if ws.any (fun w => w.p) then .ok { o with idx := none }
          else
            let is := indicesOf ws o.kd (idxWidth o.m)
            match badGroup o.n o.m is with
            | some g => .error { cls := .spmeta, addr := BitVec.ofNat 64 g }
            | none => .ok { o with idx := some is }

/-- What an eight still has to read of windows and banks before its word can issue: the metadata, and in
a walk's body the operands too. -/
def mmaNeed (x : MmaWord) (s : State) (e : Env) : List (Nat × Bool) :=
  if e.lane % 8 ≠ 0 then []
  else
    (if x.form ≠ 1 then []
    else match s.xlate e.site e.ctx (ptrVa (e.ptrAt x.a)) 1 with
      | .error _ => []
      | .ok y =>
        match metaCheck s e x (if (fmtWidth (leafFmt y.leaf)).getD 8 = 16 then 32 else 64) with
        | .ok cs => s.unread e.f.wbuf cs
        | .error _ => []) ++
    (if !e.body then []
    else match mmaPlan s x e with
      | .ok o => s.unread e.f.wbuf o.cells
      | .error _ => [])

/-- An eight that reads as its word issues: metadata, and in a walk's body all it takes (R126). -/
def mmaWait (x : MmaWord) (s : State) (e : Env) : Bool :=
  (decide (x.form = 1) || e.body) && engineHold s e

/-- In a walk's body an eight-op takes effect as it issues: it waits for what its tile and its operand
lines still owe. -/
def bodyHold (x : MmaWord) (s : State) (e : Env) : Bool :=
  (s.ops.any fun o => o.2.isOpen && o.2.hasFibre e.key && o.2.tiles.contains (absTile x.t e)) ||
  match mmaPlan s x e with
  | .ok o => o.cells.any s.cellHeld || !((Run.start s).pinTiles s.nextId o).s.pinned s.nextId o
  | .error _ => false

/-- R300: in a walk's body the word has no flag of its own. -/
def mmaDesc (i : Instr) (g : BitVec 4) (uses own : List Use) (x : MmaWord) (bad : Option Nat) :
    Desc s0 where
  i := i
  guard := g
  uses := uses
  bad := bad
  eights := some own
  noRegion := true
  homeOnly := true
  illeg := fun _ e => tileIlleg x.t e
  hold := fun s e => mmaWait x s e || decide (mmaNeed x s e ≠ []) || (e.body && bodyHold x s e)
  stall := 10
  holdAll := fun s es => s.tokenHold es
  held := fun r es => (askHeld (mmaWait x) (mmaNeed x) r es).queueToken es
  check := fun s e => errOf (mmaPlan s x e)
  act := fun r es =>
    let s := r.s
    r.byEights es fun r e l =>
      match mmaPlan s x e with
      | .error _ => r
      | .ok o =>
        let y := (r.useToken e.site).jointOp l
          { kind := .eight o (absTile x.t e), got := if e.body then e.f.wbuf else [] }
        (y.1.pinTiles y.2 o).tileNow e y.2

def plainDesc (g t : BitVec 4) (a b : BitVec 7) : Desc s0 :=
  mmaDesc (.mma g t a b) g [src a 2, src b 2] [] { form := 0, t := t.toNat } none
def sparseDesc (g : BitVec 4) (c : BitVec 3) (t : BitVec 4) (a b : BitVec 7) : Desc s0 :=
  mmaDesc (.mmas g c t a b) g [src a 4, src b 2] [] { form := 1, t := t.toNat, code := c.toNat } none

def execMma (g t : BitVec 4) (a b : BitVec 7) (s : State) : Host.Outcome State Fault Refusal :=
  runWord s (plainDesc g t a b)
def execMmas (g : BitVec 4) (c : BitVec 3) (t : BitVec 4) (a b : BitVec 7) (s : State) :
    Host.Outcome State Fault Refusal :=
  runWord s (sparseDesc g c t a b)

/-- R285: the ILLEG reason of the first of 12 registers. -/
def vqErr (g : Gang) (b : Nat) : Option Nat :=
  minReason (if 96 ≤ b ∨ b % 4 ≠ 0 then some 3 else none)
    (if b < 96 ∧ g.window < b + 12 then some 2 else none)

/-- The gang of the crew now issuing. -/
def State.curGang (s : State) : Gang :=
  match s.cur with
  | none => {}
  | some c => match KV.find? (ckey c.site c.slot) s.crews with
    | some cr => s.gang cr.gang
    | none => {}

def mmaqDesc (g : BitVec 4) (k : BitVec 2) (t : BitVec 4) (a b : BitVec 7) (gang : Gang) : Desc s0 :=
  let bad := vqErr gang b.toNat
  mmaDesc (.mmaq g k t a b) g [src a 4]
    (if bad = none then [src b 4, { src b 4 with reg := b.toNat + 4 }, { src b 4 with reg := b.toNat + 8 }]
      else [])
    { form := 2, t := t.toNat, slot := k.toNat, b := (0, 2) } bad

def execMmaq (g : BitVec 4) (k : BitVec 2) (t : BitVec 4) (a b : BitVec 7) (s : State) :
    Host.Outcome State Fault Refusal :=
  runWord s (mmaqDesc g k t a b s.curGang)

/-! ### Accumulator instructions (R289, R290) -/

def execAccz (g : BitVec 4) (t : BitVec 7) (s : State) : Host.Outcome State Fault Refusal :=
  runWord s {
    i := .accz g t, guard := g, eights := some [], noRegion := true, homeOnly := true,
    illeg := fun _ e => tileIlleg t.toNat e,
    check := fun _ e => maskCheck e,
    act := fun r es => r.byEights es fun r e l =>
      let y := r.jointOp l { kind := .accz (absTile t.toNat e) }
      y.1.tileNow e y.2 }

/-- The 4 KiB that a tile is loaded from or stored to. -/
def accMem (s : State) (e : Env) (wr : Bool) : Except Bad (List Piece) :=
  match maskCheck e with
  | some b => .error b
  | none =>
    let p := e.ptr 0
    match s.checkExtent e.site e.ctx p 4096 4096 { rd := !wr, wr := wr, no4 := true } with
    | .error b => .error b
    | .ok xs =>
      let l := piecesOf (ptrVa p) 4096 xs
      if wr && (pieceCells l).any (fun c => s.inputRow c.1) then
        .error { cls := .input, addr := (ptrVa p).zeroExtend 64, reason := 0 }
      else .ok l

def accMemDesc (i : Instr) (g : BitVec 4) (t p : BitVec 7) (wr : Bool) : Desc s0 where
  i := i
  guard := g
  uses := [src p 2]
  eights := some []
  immOk := true
  noRegion := true
  homeOnly := true
  illeg := fun _ e => tileIlleg t.toNat e
  check := fun s e => errOf (accMem s e wr)
  act := fun r es =>
    let s := r.s
    r.byEights es fun r e l => match accMem s e wr with
      | .error _ => r
      | .ok ps =>
        let k := absTile t.toNat e
        let y := (r.cacheXl e.site e.ctx (e.ptr 0)).jointOp l
          { kind := if wr then .accst k ps else .accld k ps }
        y.1.tileNow e y.2

def execAccld (g : BitVec 4) (t p : BitVec 7) (s : State) : Host.Outcome State Fault Refusal :=
  runWord s (accMemDesc (.accld g t p) g t p false)
def execAccst (g : BitVec 4) (t p : BitVec 7) (s : State) : Host.Outcome State Fault Refusal :=
  runWord s (accMemDesc (.accst g t p) g t p true)

/-- R290: the element index of operand n. -/
def elemCheck32 (n : Nat) (e : Env) : Option Bad :=
  if 1024 ≤ (e.w n).toNat then some { cls := .bounds, addr := BitVec.ofNat 64 (e.w n).toNat } else none
def laneTileIlleg (t : Nat) (e : Env) : Option Nat :=
  if 16 ≤ t ∨ e.g.tiles ≤ t then some 2 else none
def elemKey (t n : Nat) (e : Env) : Nat := (e.g.core * 256 + e.g.tbase + t) * 1024 + (e.w n).toNat

def execAccrd (g : BitVec 4) (d t b : BitVec 7) (s : State) : Host.Outcome State Fault Refusal :=
  runWord s {
    i := .accrd g d t b, guard := g, uses := [src b, dst d], noRegion := true, homeOnly := true,
    illeg := fun _ e => laneTileIlleg t.toNat e,
    check := fun _ e => elemCheck32 0 e,
    act := perLane fun r e =>
      let id := r.s.nextId
      let r := r.startOp e { kind := .accrd (elemKey t.toNat 0 e), dst := d.toNat } 1 true false
      r.tileNow e id }

def execAccwr (g : BitVec 4) (t a b : BitVec 7) (s : State) : Host.Outcome State Fault Refusal :=
  runWord s {
    i := .accwr g t a b, guard := g, uses := [src a, src b], noRegion := true, homeOnly := true,
    illeg := fun _ e => laneTileIlleg t.toNat e,
    check := fun _ e => elemCheck32 1 e,
    act := fun r es => match es with
      | [] => r
      | e :: _ =>
        let y := r.jointOp es { kind := .accwr (es.map fun x => (elemKey t.toNat 1 x, x.w 0)) }
        y.1.tileNow e y.2 }

end Sys2Proof.Machine
end

