-- ==== Sys2Proof/Machine/Walk.lean ====
section
/-! DEFINITION. The tile sequencer (R295 to R299): WALK, NEST and ENDW, and the issue of a body word
of a walk in progress. -/

namespace Sys2Proof.Machine
variable {s0 : State}

/-! ### Sequencer state (R299) -/

/-- Component l of the iteration vector. -/
def Walk.vec (w : Walk) (l : Nat) : Nat := if l < 4 then efld w.v0 (16 * l) 16 else efld w.v1 0 16
/-- Level at depth q. -/
def Walk.level (w : Walk) (q : Nat) : Nat := efld w.v1 (42 + 3 * q) 3
/-- Level l runs downwards. -/
def Walk.down (w : Walk) (l : Nat) : Bool := w.v1.getLsbD (57 + l)
/-- Next body word. -/
def Walk.pos (w : Walk) : Nat := efld w.v1 32 5
/-- Bound of level l. -/
def Walk.bound (w : Walk) (l : Nat) : Nat := w.dims.getD l 0

/-- SEQV0 and SEQV1 of a walk in progress: KIND, DIR, levels by depth, position, vector. -/
def seqv (free : Bool) (dir : Nat) (order : List Nat) (pos : Nat) (v : List Nat) : DWord × DWord :=
  let ord := (List.range order.length).foldl (fun n q => n + order.getD q 0 * 2 ^ (42 + 3 * q)) 0
  (BitVec.ofNat 64 ((List.range 4).foldl (fun n l => n + v.getD l 0 * 2 ^ (16 * l)) 0),
   BitVec.ofNat 64 (2 ^ 63 + (if free then 2 ^ 62 else 0) + dir % 32 * 2 ^ 57 + ord + pos * 2 ^ 32
     + v.getD 4 0))

/-- The same order at another position and vector. -/
def Walk.at_ (w : Walk) (pos : Nat) (v : List Nat) : Walk :=
  let x := seqv false 0 [] pos v
  { w with v0 := x.1, v1 := (w.v1.extractLsb' 42 22 ++ (0#42)) ||| x.2 }

/-- The vector after this one, if any: the deepest level moves first. -/
def Walk.next? (w : Walk) : Option (List Nat) :=
  let n := w.dims.length
  let v := (List.range n).map w.vec
  ((List.range n).map fun q => w.level (n - 1 - q)).foldl
    (fun (a : Option (List Nat) × List Nat) l =>
      match a.1 with
      | some _ => a
      | none =>
        let x := a.2.getD l 0
        if w.down l then
          (if 0 < x then (some (a.2.set l (x - 1)), a.2) else (none, a.2.set l (w.bound l - 1)))
        else if x + 1 < w.bound l then (some (a.2.set l (x + 1)), a.2)
        else (none, a.2.set l 0)) (none, v) |>.1

/-- R296: a pointer pair at the walk's vector. -/
def Walk.pointer (w : Walk) (p : Nat × DWord × List Int) : DWord :=
  ptrAdd p.2.1 ((List.range w.dims.length).foldl (fun (n : Int) l => n + w.vec l * p.2.2.getD l 0) 0)

/-- The pointer pairs of a fibre take the values `val` gives them. -/
def Fibre.setPairs (f : Fibre) (val : Nat × DWord × List Int → DWord) : Fibre :=
  f.walk.ptrs.foldl (fun f p =>
    let v := val p
    (f.writeNow p.1 { v := v.extractLsb' 0 32 }).writeNow (p.1 + 1) { v := v.extractLsb' 32 32 }) f

/-- The pairs at the vector of the fibre's walk. -/
def Fibre.placePairs (f : Fibre) : Fibre := f.setPairs f.walk.pointer

/-- The walk ends: the bases come back, and the fibre goes on after the ENDW. The word that observes
its flag has the join edge of an engine completion. -/
def Fibre.endWalk (f : Fibre) : Fibre :=
  let w := f.walk
  let f := f.setPairs fun p => p.2.1
  let n := if w.flag < 12 then w.flag else 15
  let f := { f with walk := {}, pc := w.next }
  f.setFlag n { st := .done, eng := true }

/-- R298: a fibre completes a body word. -/
def Fibre.stepWalk (f : Fibre) : Fibre :=
  let w := f.walk
  let n := w.dims.length
  let v := (List.range n).map w.vec
  if w.pos + 1 < w.words.length then { f with walk := w.at_ (w.pos + 1) v }
  else match w.next? with
    | some v => { f with walk := w.at_ 0 v }.placePairs
    | none => f.endWalk

/-! ### Issue (R295, R297) -/

/-- R297: the words that a body may hold. -/
def bodyWord : Instr → Bool
  | .mma g _ _ _ => decide (g = 0)
  | .mmas g _ _ _ _ => decide (g = 0)
  | .mmaq g _ _ _ _ => decide (g = 0)
  | .add g _ _ _ => decide (g = 0)
  | .addi g _ _ _ => decide (g = 0)
  | .add64 g _ _ _ => decide (g = 0)
  | .adda g _ _ _ => decide (g = 0)
  | .min g _ _ _ => decide (g = 0)
  | .max g _ _ _ => decide (g = 0)
  | .minu g _ _ _ => decide (g = 0)
  | .maxu g _ _ _ => decide (g = 0)
  | .and g _ _ _ => decide (g = 0)
  | .andi g _ _ _ => decide (g = 0)
  | .or g _ _ _ => decide (g = 0)
  | .ori g _ _ _ => decide (g = 0)
  | _ => false

def isEight : Instr → Bool
  | .mma _ _ _ _ => true
  | .mmas _ _ _ _ _ => true
  | .mmaq _ _ _ _ _ => true
  | _ => false

def okWord (p : Instr → Bool) (w : Word) : Bool :=
  match decode w with
  | .ok i => p i
  | .error _ => false

/-- What the words from the WALK on come to. -/
inductive Body where
  | words (l : List Word)
  /-- a word that no body may hold -/
  | wrong (w : Word)
  | unread (b : Bad)
  deriving Repr

/-- The body from an address: up to the next ENDW, at most `n` words before it. -/
def State.body (s : State) (site ctx : Nat) (pc : VAddr) : Nat → Body
  | 0 => match s.fetchWord site ctx pc with
    | .error b => .unread b
    | .ok w => if w = (Instr.endw 0).word then .words [] else .wrong w
  | n + 1 => match s.fetchWord site ctx pc with
    | .error b => .unread b
    | .ok w =>
      if w = (Instr.endw 0).word then .words []
      else if okWord bodyWord w then
        match s.body site ctx (pc + 4) n with
        | .words l => .words (w :: l)
        | x => x
      else .wrong w

/-- A loop descriptor (R295). -/
structure Loop where
  pairs : Nat
  dims : List Nat
  /-- by pair and level -/
  strides : List (List Int)
  deriving DecidableEq, Repr

/-- The fields of a descriptor; none where a reserved value stands. -/
def loopOf (m : Nat) : Option Loop :=
  let p := dfld m 83 3
  let l := dfld m 80 3
  let stride (x y : Nat) : Word := BitVec.ofNat 32 (m / 2 ^ (128 + 128 * x + 32 * y))
  if dfld m 768 256 ≠ 0 ∨ dfld m 86 42 ≠ 0 ∨ p = 0 ∨ 4 < p ∨ l = 0 ∨ 5 < l ∨
      ((List.range 5).any fun x => decide (l ≤ x) && decide (dfld m (16 * x) 16 ≠ 0)) ∨
      ((List.range 5).any fun x => (List.range 4).any fun y =>
        decide (l ≤ x ∨ p ≤ y) && decide (stride x y ≠ 0)) then none
  else some {
    pairs := p
    dims := (List.range l).map fun x => dfld m (16 * x) 16
    strides := (List.range p).map fun y => (List.range l).map fun x => (stride x y).toInt }

/-- R295, R25: the descriptor, read from the lowest active lane, and the registers it names. -/
def loopCheck (s : State) (e : Env) : Except Bad Loop := do
  let p := e.ptr 0
  let cs ← descCheck s e p 128 128
  let ws ← readWords s e p cs
  match loopOf (wordsVal ws) with
  | none => .error { cls := .fmt, addr := (ptrVa p).zeroExtend 64, reason := 3 }
  | some l => .ok l

/-- R54: the lowest poisoned register of the pointer pairs that a walk moves. -/
def basePoison (e : Env) (x : Nat) (l : Loop) : Option Nat :=
  ((List.range (2 * l.pairs)).find? fun i => (readReg e.g e.f (x + i)).p).map (x + ·)

/-- The cells of the descriptor. -/
def loopCells (s : State) (e : Env) : List (Nat × Bool) :=
  match descCheck s e (e.ptr 0) 128 128 with
  | .ok cs => cs
  | .error _ => []

/-- What is still to be read of the descriptor from a window or a bank. -/
def walkNeed (s : State) (e : Env) : List (Nat × Bool) :=
  s.unread e.f.wbuf (loopCells s e)

/-- The body that the crew's lowest active lane fetches. -/
def Env.bodyOf (s : State) (e : Env) : Body := s.body e.site e.ctx (e.pc + 4) 32

/-- R296: the order that a walk takes: NEST by level, WALK as the free choice says, where that is an
order of the levels at all. -/
def walkOrder (free : Bool) (tick n : Nat) : List Nat × Nat :=
  let c := Config.walkOrder tick
  if free ∧ c.1.length = n ∧ (List.range n).all (fun l => c.1.contains l) then (c.1, c.2 % 2 ^ n)
  else (List.range n, 0)

/-- The walk of a lane, at its first vector. -/
def mkWalk (e : Env) (x : Nat) (l : Loop) (words : List Word) (free : Bool) (order : List Nat × Nat) :
    Walk :=
  let v := (List.range l.dims.length).map fun n =>
    if order.2.testBit n then l.dims.getD n 0 - 1 else 0
  let q := seqv free order.2 order.1 0 v
  { v0 := q.1, v1 := q.2, dims := l.dims,
    ptrs := (List.range l.pairs).map fun m =>
      (x + 2 * m, pair [readReg e.g e.f (x + 2 * m), readReg e.g e.f (x + 2 * m + 1)],
        l.strides.getD m []),
    words := words,
    next := e.pc + BitVec.ofNat 54 (4 * (words.length + 2)),
    flag := if e.sig < 12 then e.sig else 16,
    hm := e.f.hm }

/-- R295: the ILLEG reason of field a. -/
def walkBad (g : Gang) (x : Nat) : Option Nat :=
  minReason (if x % 2 = 1 then some 3 else none) (if g.window ≤ x then some 2 else none)

/-- WALK and NEST before the checks that need the lowest active lane. -/
def walkShape (i : Instr) (g : BitVec 4) (x p : BitVec 7) (gang : Gang) : Desc s0 where
  i := i
  guard := g
  bad := walkBad gang x.toNat
  uses := [src p 2]
  immOk := true
  noRegion := true
  homeOnly := true
  act := fun r _ => r

/-- The lowest active lane of the crew now issuing, but for lanes that an observed fault takes. -/
def leadEnv (s : State) (d : Desc s0) : Option Env :=
  match s.cur with
  | none => none
  | some c => match KV.find? (ckey c.site c.slot) s.crews with
    | none => none
    | some cr =>
      let es := crewEnvs s c cr d
      let h := groupOf c cr d es
      es.find? fun e => e.active && (waitSet h true false).all fun n => decide ((e.f.flag n).note = none)

/-- Start the walk of a crew. Lanes whose guard fails are at the next word, in the boathouse. -/
def Run.startWalk (r : Run s0) (x : Nat) (free : Bool) (l : Loop) (words : List Word) (es : List Env) :
    Run s0 :=
  let whole (e : Env) : Bool := !words.any (okWord isEight) ||
    decide ((es.filter fun y => decide (y.lane / 8 = e.lane / 8)).length = 8)
  let broken := es.filter fun e => !whole e
  let es := es.filter whole
  let order := walkOrder free r.s.tick l.dims.length
  let r := if free then r.mod fun s => { s with tick := s.tick + 1 } else r
  let r := r.breakEight broken
  let none_ := l.dims.contains 0 || decide (words = [])
  let others := r.s.curCrew.filter fun k => !(es.any fun e => decide (e.key = k))
  let r := if es = [] ∨ none_ then r else r.each others fun r k => r.leaveCrew k
  r.each es fun r e => r.updFibre e.key fun f =>
    let w := mkWalk e x l words free order
    let f := if w.flag < 12 then f.setFlag w.flag { st := .busy, eng := true } else f
    let f := { f with walk := w, pc := e.start }
    if none_ then f.endWalk else f.placePairs

def walkDesc (i : Instr) (g : BitVec 4) (x p : BitVec 7) (free : Bool) (s : State) : Desc s :=
  let d : Desc s := walkShape i g x p s.curGang
  match leadEnv s d with
  | none => d
  | some lead =>
    let body := lead.bodyOf s
    let words := match body with | .words l => l | _ => []
    { d with
      illeg := fun _ _ => match body with | .wrong _ => some 5 | _ => none
      illegWord := fun _ _ => match body with | .wrong w => some w | _ => none
      hold := fun s e => decide (e.lane = lead.lane) && (engineHold s e || decide (walkNeed s e ≠ []))
      held := fun r es => askHeld engineHold walkNeed r (es.filter fun e => decide (e.lane = lead.lane))
      full := words.any (okWord isEight)
      check := fun s e => match body with
        | .unread b => some b
        | _ => match loopCheck s lead with
          | .error b => some b
          | .ok l =>
            if e.g.window < x.toNat + 2 * l.pairs then
              some { cls := .illeg, addr := i.word.zeroExtend 64, reason := 2 }
            else (basePoison e x.toNat l).map fun n =>
              { cls := .poison, addr := BitVec.ofNat 64 n, reason := 1 }
      act := fun r es => match loopCheck s lead with
        | .error _ => r
        | .ok l =>
          ((r.cacheXl lead.site lead.ctx (lead.ptr 0)).ncTouch lead.site (loopCells r.s lead)).startWalk
            x.toNat free l words es }

def execWalk (g : BitVec 4) (x p : BitVec 7) (s : State) : Host.Outcome State Fault Refusal :=
  runWord s (walkDesc (.walk g x p) g x p true s)
def execNest (g : BitVec 4) (x p : BitVec 7) (s : State) : Host.Outcome State Fault Refusal :=
  runWord s (walkDesc (.nest g x p) g x p false s)

/-- R296: an ENDW reached without a walk. -/
def execEndw (g : BitVec 4) (s : State) : Host.Outcome State Fault Refusal :=
  runWord s {
    i := .endw g, guard := g, paceOk := false, noRegion := true,
    illeg := fun _ _ => some 5,
    act := fun r _ => r }

/-! ### Body words (R296, R298) -/

/-- A body word as an issuing word. -/
def bodyDesc (gang : Gang) : Instr → Option (Desc s0)
  | .mma g t a b => some (plainDesc g t a b)
  | .mmas g c t a b => some (sparseDesc g c t a b)
  | .mmaq g k t a b => some (mmaqDesc g k t a b gang)
  | .add g d a b => some (binDesc (.add g d a b) g d a b (· + ·))
  | .addi g d a i => some (immDesc (.addi g d a i) g d a i (· + ·))
  | .add64 g d a b => some (add64Desc g d a b)
  | .adda g d a b => some (addaDesc g d a b)
  | .min g d a b => some (binDesc (.min g d a b) g d a b aluMin)
  | .max g d a b => some (binDesc (.max g d a b) g d a b aluMax)
  | .minu g d a b => some (binDesc (.minu g d a b) g d a b aluMinu)
  | .maxu g d a b => some (binDesc (.maxu g d a b) g d a b aluMaxu)
  | .and g d a b => some (binDesc (.and g d a b) g d a b (· &&& ·))
  | .andi g d a i => some (immDesc (.andi g d a i) g d a i (· &&& ·))
  | .or g d a b => some (binDesc (.or g d a b) g d a b (· ||| ·))
  | .ori g d a i => some (immDesc (.ori g d a i) g d a i (· ||| ·))
  | _ => none

/-- The crew that stands in a walk issues its next body word; the members that complete it go on to
the next step, and from the last one to the word after the ENDW. -/
def Run.walkWord (r : Run s0) (site slot : Nat) : Run s0 :=
  match KV.find? (ckey site slot) r.s.crews with
  | none => r
  | some cr =>
    let keys := cr.fids.map (fkey cr.gang)
    match keys with
    | [] => r
    | k :: _ =>
      let w := (r.s.fibre k).walk
      if !(r.s.fibre k).walking then r
      else match w.words[w.pos]? with
        | none => r.each keys fun r k => r.updFibre k fun f => { f with walk := {} }
        | some word =>
          let d? : Option (Desc s0) := match decode word with
            | .ok i => bodyDesc (r.s.gang cr.gang) i
            | .error _ => none
          match d? with
          | none => r.each keys fun r k => r.updFibre k fun f => { f with walk := {} }
          | some d =>
            let old (k : Nat) : Nat := (r.s.fibre k).count
            let r := r.mod fun s => { s with cur := some { site := site, slot := slot, body := true } }
            let r := r.issueWord d
            let r := r.each keys fun r k =>
              if (r.s.fibre k).walking ∧ (r.s.fibre k).count ≠ old k then
                let r := r.updFibre k Fibre.stepWalk
                if (r.s.fibre k).walking && (r.s.fibre k).stepping then
                  r.haltFibre k { after := true, step := true }
                else r.stopStep k
              else r
            -- R298: where some members have left, those that walk on leave too, to form again by their step
            let left := keys.any fun k => decide ((r.s.fibre k).slot = none)
            let r := if left then r.each (keys.filter fun k => (r.s.fibre k).walking) Run.leaveCrew else r
            if (r.s.fibre k).walking then r else r.joinCrew site slot

def execWalkBodyWordIssue (site slot : Nat) (s : State) : Host.Outcome State Fault Refusal :=
  ((Run.start s).walkWord site slot).out

end Sys2Proof.Machine
end

