-- ==== Sys2Proof/Machine/Launch.lean ====
section
/-! DEFINITION. Launches (R209 to R211, R324 to R329): records, the dispatcher's pending list,
placement of gangs, their start and end, and operating points. -/

namespace Sys2Proof.Machine
variable {s0 : State}

/-! ### Launch records (R210) -/

def recWin (m : Nat) : Nat := 16 * (dfld m 175 3 + 1)
def recCw (m : Nat) : Nat := 2 ^ dfld m 183 2
def recCompl (m : Nat) : DWord := dptr m 448
def recArgs (m : Nat) : DWord := dptr m 384

/-- R211: status 1. -/
def recBad (m : Nat) : Bool :=
  decide (dfld m 374 10 ≠ 0 ∨ dfld m 256 64 ≠ 0 ∨ dfld m 171 4 ≠ 0 ∨ dfld m 0 160 ≠ 0) ||
  decide (dfld m 224 32 = 0 ∨ dfld m 160 11 = 0 ∨ 1024 < dfld m 160 11 ∨ 786432 < dfld m 192 32) ||
  decide (16 < dfld m 178 5 ∨ dfld m 183 2 = 3 ∨ 6 ≤ dfld m 175 3 ∨ dfld m 320 2 ≠ 0) ||
  decide (efld (recCompl m) 0 2 ≠ 0 ∨ efld (recArgs m) 0 6 ≠ 0)

/-- The launch that a record describes. -/
def recLaunch (m ctx : Nat) (dies : BitVec 4) : Launch where
  ctx := ctx
  entry := BitVec.ofNat 54 (dfld m 320 54)
  nfib := dfld m 160 11
  window := recWin m
  acc := dfld m 178 5
  cw := recCw m
  prio := dfld m 185 2
  cor := decide (dfld m 187 1 = 1)
  vf := dfld m 188 4
  scr := dfld m 192 32
  gangs := dfld m 224 32
  dies := dies

/-! ### Placement (R34, R35, R327) -/

/-- Registers of its lane-banks that a gang takes. -/
def Launch.regs (l : Launch) : Nat := (l.nfib + 31) / 32 * l.window
def roundScr (n : Nat) : Nat := (n + 1535) / 1536 * 1536

/-- The lowest base of a free block of `n` below `top`, given the blocks in use. -/
def freeBlock (used : List (Nat × Nat)) (top n : Nat) : Option Nat :=
  let ok (b : Nat) : Bool := decide (b + n ≤ top) &&
    used.all fun u => decide (b + n ≤ u.1 ∨ u.1 + u.2 ≤ b ∨ u.2 = 0 ∨ n = 0)
  ((0 :: used.map fun u => u.1 + u.2).filter ok).foldl (fun b x => match b with
    | none => some x
    | some y => some (min x y)) none

/-- The gangs that are on a core. -/
def State.coreGangs (s : State) (core : Nat) : List Gang :=
  (s.gangs.filter fun g => decide (g.2.core = core)).map Prod.snd

def gangRegs (g : Gang) : Nat := (g.nfib + 31) / 32 * g.window

/-- Slot, register base and scratchpad base of a gang that a core can hold. -/
def State.roomOn (s : State) (core : Nat) (l : Launch) : Option (Nat × Nat × Nat) :=
  let gs := s.coreGangs core
  let used (f : Gang → Nat × Nat) := gs.map f
  if (s.die (dieOf core)).failed ∨ 64 < gs.foldl (fun n g => n + g.tiles) l.acc then none
  else
    match (List.range 16).find? (fun n => gs.all fun g => decide (g.slot ≠ n)),
      freeBlock (used fun g => (g.rbase, gangRegs g)) 2048 l.regs,
      freeBlock (used fun g => (g.sbase, roundScr g.ssize)) 786432 (roundScr l.scr) with
    | some n, some rb, some sb => some (n, rb, sb)
    | _, _, _ => none

/-- Resident fibres of a core. -/
def State.load (s : State) (core : Nat) : Nat :=
  (s.coreGangs core).foldl (fun n g => n + (g.nfib - g.exited)) 0

/-- Insert by key, equal keys keeping their order. -/
def insertBy (key : Nat → Nat) (x : Nat) : List Nat → List Nat
  | [] => [x]
  | y :: ys => if key x < key y then x :: y :: ys else y :: insertBy key x ys
def sortBy (key : Nat → Nat) (l : List Nat) : List Nat := l.foldl (fun a x => insertBy key x a) []

/-- R327: PlaceGroup: the cores for the n gangs of a group, in rank order. -/
def State.placeGroup (s : State) (l : Launch) (dies : BitVec 4) (n : Nat) : Option (List Nat) :=
  let clusters := (List.range 48).filterMap fun c =>
    let cores := (List.range 4).map fun k => 4 * c + k
    let can := cores.filter fun k => (s.roomOn k l).isSome
    if dies.getLsbD (c / 12) ∧ n ≤ can.length then
      some ((cores.map s.load).foldl (· + ·) 0, (sortBy s.load can).take n)
    else none
  (clusters.foldl (fun (b : Option (Nat × List Nat)) x => match b with
    | none => some x
    | some y => if x.1 < y.1 then some x else some y) none).map Prod.snd

/-- R328: a child launch tries the die of its parent alone first, and then the dies in ascending order. -/
def State.placeAny (s : State) (l : Launch) (n : Nat) : Option (List Nat) :=
  match l.child with
  | none => s.placeGroup l l.dies n
  | some d => (d :: List.range 4).findSome? fun d => s.placeGroup l (l.dies &&& (1#4 <<< d)) n

/-- The gang that a launch starts on a core. -/
def State.newGang (s : State) (lk : Nat) (l : Launch) (group rank number core : Nat) : Gang :=
  let x := (s.roomOn core l).getD (0, 0, 0)
  let c := s.ctx l.ctx
  { ctx := l.ctx, launch := lk, group := group, rank := rank, number := number, core := core,
    slot := x.1, nfib := l.nfib, window := l.window, rbase := x.2.1, sbase := x.2.2, ssize := l.scr,
    tbase := 16 * x.1, tiles := l.acc, consts := l.consts,
    bars := (List.range 16).map fun n => (n, { expected := l.nfib }),
    dbg := c.defctl.getLsbD 1, uchk := c.defctl.getLsbD 0,
    trapvec := vecBits c.defvec, traproute := routeBits c.defroute }

/-- Cores of the next `n` groups of a launch, each found with the gangs of those before in place. -/
def State.placeGroups (s : State) (l : Launch) (placed : Nat) : Nat → Option (List (List Nat))
  | 0 => some []
  | n + 1 =>
    let size := min l.cw (l.gangs - placed)
    match s.placeAny l size with
    | none => none
    | some cores =>
      let s' := cores.foldl (fun (a : State × Nat) core =>
        ({ a.1 with gangs := KV.put a.2 (a.1.newGang 0 l 0 0 0 core) a.1.gangs }, a.2 + 1))
        (s, s.nextId + placed) |>.1
      match s'.placeGroups l (placed + size) n with
      | none => none
      | some rest => some (cores :: rest)

def Launch.groups (l : Launch) : Nat := (l.gangs + l.cw - 1) / l.cw

/-- R211: status 2. No die holds more than 768 gangs. -/
def State.neverFits (s : State) (l : Launch) : Bool :=
  decide (2048 < l.regs) || (l.cor &&
    (decide (3072 < l.gangs) ||
      (({ s with gangs := s.gangs.filter fun g => !l.dies.getLsbD (dieOf g.2.core) } : State).placeGroups
        l 0 l.groups).isNone))

/-! ### Taking a record (R209, R325) -/

inductive Take where
  /-- words of windows and banks that must be read first, or that wait -/
  | need (l : List (Nat × Bool))
  | bad (b : Bad)
  | status (n : Nat)
  | ok (l : Launch)
  deriving Repr

/-- The cells of n bytes at a pointer, after their checks. -/
def State.blockCells (s : State) (site ctx : Nat) (p : DWord) (n al : Nat) :
    Except Bad (List (Nat × Bool)) :=
  (s.checkExtent site ctx p n al { rd := true }).map fun _ => s.cellsAt site ctx (ptrVa p) n

/-- n bytes at a pointer: words still to be read, a fault, or their value. -/
def State.takeBytes (s : State) (site ctx : Nat) (got : List (Nat × PW)) (p : DWord) (n al : Nat) :
    Except Take Nat :=
  match s.blockCells site ctx p n al with
  | .error b => .error (.bad b)
  | .ok cs =>
    match s.unread got cs with
    | [] =>
      let ws := s.ncWords got cs
      if ws.any (fun w => w.p) then
        .error (.bad { cls := .poison, addr := (ptrVa p).zeroExtend 64 })
      else .ok (wordsVal ws)
    | l => .error (.need l)

/-- Steps 1 to 3 of R209: the record, and the launch that it describes. A record that fails its checks
has nothing further of it read or translated. -/
def State.takeHead (s : State) (site ctx : Nat) (got : List (Nat × PW)) (dies : BitVec 4)
    (child : Option Nat) (p : DWord) : Except Take (Nat × Launch) := do
  let m ← s.takeBytes site ctx got p 64 64
  if recBad m then .error (.status 1)
  else
    let l : Launch := { recLaunch m ctx dies with child := child }
    if s.neverFits l then .error (.status 2) else .ok (m, l)

/-- Step 5 of R209: the cell of the completion word. -/
def State.takeCompl (s : State) (site ctx : Nat) (p : DWord) : Except Take (Option (Nat × Bool)) :=
  if p = 0 then .ok none
  else match s.check site ctx p 4 4 { wr := true } with
    | .error b => .error (.bad b)
    | .ok x =>
      if s.inputRow x.key then
        .error (.bad { cls := .input, addr := (ptrVa p).zeroExtend 64, reason := 0 })
      else .ok (some (x.key, x.bank))

/-- Steps 1 to 5 of R209. -/
def State.takeRecord (s : State) (site ctx : Nat) (got : List (Nat × PW)) (dies : BitVec 4)
    (child : Option Nat) (p : DWord) : Take :=
  let x : Except Take Launch := do
    let h ← s.takeHead site ctx got dies child p
    let ks ← if recArgs h.1 = 0 then .ok (List.replicate 16 0)
      else (s.takeBytes site ctx got (recArgs h.1) 64 64).map fun n => (wordsOf 16 n).map PW.v
    let c ← s.takeCompl site ctx (recCompl h.1)
    return { h.2 with consts := ks, compl := c }
  match x with
  | .ok l => .ok l
  | .error t => t

/-- The cells that taking a record reads: the record, and the arguments that it names. -/
def State.takeCells (s : State) (site ctx : Nat) (got : List (Nat × PW)) (dies : BitVec 4)
    (child : Option Nat) (p : DWord) : List (Nat × Bool) :=
  let cells (p : DWord) : List (Nat × Bool) :=
    match s.blockCells site ctx p 64 64 with
    | .ok cs => cs
    | .error _ => []
  cells p ++ match s.takeHead site ctx got dies child p with
    | .ok h => if recArgs h.1 = 0 then [] else cells (recArgs h.1)
    | .error _ => []

/-- R327: the pending list by priority, then by order of acceptance. -/
def Run.accept (r : Run s0) (l : Launch) : Run s0 :=
  let k := r.s.nextId
  let r := r.bump.mod fun s => { s with launches := (KV.put k
    { l with bars := (List.range 2).map fun n => (n, { expected := l.gangs * l.nfib }) } s.launches) }
  r.updCtx l.ctx fun c => { c with
    pending := (c.pending.takeWhile fun x => decide (l.prio ≤ (r.s.launch x).prio)) ++
      k :: (c.pending.dropWhile fun x => decide (l.prio ≤ (r.s.launch x).prio)) }

/-! ### SPAWN -/

def spawnTake (s : State) (e : Env) : Take :=
  s.takeRecord e.site e.ctx e.f.wbuf (s.ctx e.ctx).dies (some (dieOf e.site)) (e.d 0)
def spawnCells (s : State) (e : Env) : List (Nat × Bool) :=
  s.takeCells e.site e.ctx e.f.wbuf (s.ctx e.ctx).dies (some (dieOf e.site)) (e.d 0)

def spawnNeed (s : State) (e : Env) : List (Nat × Bool) :=
  match spawnTake s e with
  | .need l => l
  | _ => []

/-- R128: an earlier store of the fibre to bytes of the cells has not taken its instant. -/
def State.storeDue (s : State) (id k : Nat) (cs : List (Nat × Bool)) : Bool :=
  (s.earlier id k).any fun p => p.2.isWrite && p.2.spans.any fun x => !x.1 && cs.any fun c =>
    decide (x.2.1 < c.1 + 4) && decide (c.1 < x.2.1 + x.2.2)

/-- A SPAWN whose record the dispatcher is to accept. -/
def Run.takeSpawn (r : Run s0) (id : Nat) : Run s0 :=
  match KV.find? id r.s.ops with
  | none => r
  | some o =>
    match o.kind with
    | .spawn l =>
      if o.stage ≠ .pending then r
      else (r.accept l).updOp id fun o => { o with stage := .performed, res := [{}] }
    | _ => r

def execSpawn (g : BitVec 4) (d b : BitVec 7) (s : State) : Host.Outcome State Fault Refusal :=
  runWord s {
    i := .spawn g d b, guard := g, uses := [src b 2, dst d], noRegion := true, homeOnly := true,
    ownPops := true,
    hold := fun s e => s.storeDue s.nextId e.key (spawnCells s e) || decide (spawnNeed s e ≠ []),
    held := askHeld (fun s e => s.storeDue s.nextId e.key (spawnCells s e)) spawnNeed,
    check := fun s e => match spawnTake s e with | .bad b => some b | _ => none,
    act := inTurn [src b 2, dst d] fun r e =>
      let r1 := r.ncTouch e.site (spawnCells r.s e)
      match spawnTake r.s e with
      | .status n => .ok (r1.known e { kind := .value false 0, dst := d.toNat,
                                       res := [{ v := BitVec.ofNat 32 n }] } 1 false)
      | .ok l =>
        let die := dieOf e.site
        if 1024 ≤ (r.s.die die).children then
          .error { cls := .syncx, addr := BitVec.ofNat 64 die, reason := 1 }
        else
          let id := r1.s.nextId
          let r := r1.updDie die fun d => { d with children := d.children + 1 }
          let r := r.startOp e { kind := .spawn l, dst := d.toNat } 1 true false
          .ok (if e.wait then r else (r.takeSpawn id).finish id)
      | _ => .ok r }

/-! ### Work queues (R325, R326) -/

/-- R326: the queue of a context whose turn it is. -/
def State.turnQueue (s : State) (ctx : Nat) : Option Nat :=
  let qs := (s.wqs.filter fun w => w.2.ready && decide (w.2.ctx = ctx)).map Prod.fst
  match qs.find? fun q => decide ((s.ctx ctx).turn ≤ q) with
  | some q => some q
  | none => qs.head?

/-- A record fails: WQERR says why, and the queue stops. -/
def Run.failQueue (r : Run s0) (q code : Nat) : Run s0 :=
  r.updWq q fun w => { w with
    err := BitVec.ofNat 64 (code * 2 ^ 56 + w.head.toNat), cfg := w.cfg &&& ~~~(1#64 <<< 63) }

/-- R325: the dispatcher takes the next record of a queue. It translates without a site's caches. -/
def Run.takeQueue (r : Run s0) (q : Nat) : Run s0 :=
  let w := r.s.wq q
  let ctx := w.ctx
  let c := r.s.ctx ctx
  if 65536 ≤ q ∨ !w.ready ∨ !c.live ∨ c.st ≠ .running ∨ r.s.turnQueue ctx ≠ some q then r
  else if 2 ^ w.logn < (w.tail - w.head).toNat then (r.dropTake q).failQueue q 4
  else
    let old := r.s.ops.find? fun o => decide (o.2.kind = .take q)
    let got := match old with | some o => o.2.got | none => []
    let dies : BitVec 4 := w.cfg.extractLsb' 56 4
    let va : DWord := w.base + BitVec.ofNat 64 (w.head.toNat % 2 ^ w.logn * 64)
    let ds := if dies = 0 then c.dies else dies
    let p := ptrAdd 0 va.toNat
    let cold : State := { r.s with sites := [] }
    let fin (r : Run s0) : Run s0 :=
      let r := r.ncTouch 576 (cold.takeCells 0 ctx got ds none p)
      let r := match old with | some o => r.delOp o.1 | none => r
      r.updCtx ctx fun c => { c with turn := q + 1 }
    let next (r : Run s0) : Run s0 := (fin r).updWq q fun w => { w with head := w.head + 1 }
    match cold.takeRecord 0 ctx got ds none p with
    | .need l =>
      match old with
      | some o => r.askWords 0 0 o.1 l
      | none =>
        let id := r.s.nextId
        (r.bump.mod fun s => { s with ops := KV.put id { kind := .take q } s.ops }).askWords 0 0 id l
    | .bad _ => (fin r).failQueue q 3
    | .status n => (fin r).failQueue q n
    | .ok l => (next r).accept l

def execWqTakeRecord (queue : Nat) (s : State) : Host.Outcome State Fault Refusal :=
  ((Run.start s).takeQueue queue).out

/-! ### Gangs start (R167, R170, R327, R329) -/

/-- Start a gang on a core: storage zeroed, fibres in the boathouse at the entry PC. -/
def Run.startGang (r : Run s0) (lk group rank number core : Nat) : Run s0 :=
  let l := r.s.launch lk
  let k := r.s.nextId
  let g := r.s.newGang lk l group rank number core
  let r := r.bump.mod fun s => { s with gangs := KV.put k g s.gangs }
  let r := r.zeroScr (g.scrKey 0) (roundScr g.ssize)
  let r := r.mod fun s => { s with
    spoison := KV.delRange (g.scrKey 0 / 4) (roundScr g.ssize / 4) s.spoison,
    acc := KV.delRange ((core * 256 + g.tbase) * 1024) (16 * 1024) s.acc,
    groups := (KV.update group (fun x => { x with gangs := x.gangs ++ [k] }) s.groups) }
  r.each (List.range l.nfib) fun r n => r.setFibre (fkey k n)
    { gang := k, fid := n, site := core, pc := l.entry, wbase := g.rbase + n / 32 * l.window }

/-- Place a group of a launch on cores. -/
def Run.startGroup (r : Run s0) (lk : Nat) (cores : List Nat) : Run s0 :=
  let l := r.s.launch lk
  let gk := r.s.nextId
  let x : Group := { bars := (List.range 4).map fun n => (n, { expected := cores.length * l.nfib }) }
  let r := r.bump.mod fun s => { s with groups := KV.put gk x s.groups }
  let r := r.each (List.range cores.length) fun r i =>
    r.startGang lk gk i (l.placed + i) (cores.getD i 0)
  r.mod fun s => { s with launches := (
    KV.update lk (fun l => { l with placed := l.placed + cores.length }) s.launches) }

/-- R329: gangs on an island that has to change wait for the new point. -/
def Run.holdStart (r : Run s0) (lk old : Nat) : Run s0 :=
  let r := r.retune
  r.mod fun s => { s with gangs := s.gangs.map fun g =>
    if g.2.launch = lk ∧ old ≤ g.1 then
      (g.1, { g.2 with started := !KV.has (islandOf g.2.core) s.pkg.vfNext })
    else g }

/-- GANG_PLACE: the next group of the context's first launch, or all of a co-resident one. -/
def Run.placeGang (r : Run s0) (ctx : Nat) : Run s0 :=
  let c := r.s.ctx ctx
  if !c.live ∨ c.st ≠ .running then r
  else match c.pending with
    | [] => r
    | lk :: _ =>
      let l := r.s.launch lk
      let old := r.s.nextId
      let want := if l.cor then l.groups else 1
      match r.s.placeGroups l l.placed want with
      | none => r
      | some places =>
        let r := (r.each places fun r cores => r.startGroup lk cores).holdStart lk old
        if (r.s.launch lk).placed < l.gangs then r
        else
          -- R211: the child-launch slot is free, and the launch leaves the list
          let r := match l.child with
            | some d => r.updDie d fun d => { d with children := d.children - 1 }
            | none => r
          r.updCtx ctx fun c => { c with pending := c.pending.filter (· ≠ lk) }

def execGangPlace (ctx : Nat) (s : State) : Host.Outcome State Fault Refusal :=
  ((Run.start s).placeGang ctx).out

/-- R329, R379: an island has settled at its new point; gangs that waited for it start. -/
def Run.vfStable (r : Run s0) (island : Nat) : Run s0 :=
  match KV.find? island r.s.pkg.vfNext with
  | none => r
  | some v => (r.updPkg fun p => { p with
      vf := KV.put island v p.vf, vfNext := KV.del island p.vfNext }).startIsland island

def execVfChangeStable (island : Nat) (s : State) : Host.Outcome State Fault Refusal :=
  ((Run.start s).vfStable island).out

/-! ### Gangs end (R168, R128) -/

/-- Bytes of a word as an engine writes them to a cell. -/
def wordAt (c : Nat × Bool) (v : Nat) : List NcByte :=
  (List.range 4).map fun i => { key := c.1 + i, bank := c.2, v := byteOf v i }

/-- The gang's storage is free, and its rank names no gang any more. Predicates that it holds are released (R353). -/
def Run.dropGang (r : Run s0) (gk : Nat) : Run s0 :=
  let g := r.s.gang gk
  let left := (r.s.group g.group).gangs.map fun k => if k = gk then 0 else k
  let r := r.mod fun s => { s with
    gangs := KV.del gk s.gangs,
    groups := (if left.all (· = 0) then KV.del g.group s.groups
      else KV.update g.group (fun x => { x with gangs := left }) s.groups) }
  let free (p : Nat × WPred) : Nat × WPred :=
    if p.2.gang = some gk then (p.1, { p.2 with gang := none, desc := 0, count := 0 }) else p
  (r.updSite g.core fun x => { x with preds := x.preds.map free }).retune

/-- The completion word that the end of a gang writes: the launch's, where it is the last (R168). -/
def State.lastWord (s : State) (g : Gang) : Option (Nat × Bool) :=
  let l := s.launch g.launch
  if l.ended + 1 < l.gangs then none else l.compl

/-- GANG_END: the last fibre has exited and all that the gang issued has reached its points. The
completion word waits while its line is held (R253); in a lost line it is not written (R114). -/
def Run.endGang (r : Run s0) (gk : Nat) : Run s0 :=
  match KV.find? gk r.s.gangs with
  | none => r
  | some g =>
    if g.exited < g.nfib ∨ r.s.gangFibres gk ≠ [] ∨
        r.s.ops.any (fun o => decide (o.2.gang = gk)) ∨
        (r.s.lastWord g).any r.s.cellHeld then r
    else
      let word := r.s.lastWord g
      let r := r.dropGang gk
      let l := r.s.launch g.launch
      if l.ended + 1 < l.gangs then
        r.mod fun s => { s with launches := (
          KV.update g.launch (fun l => { l with ended := l.ended + 1 }) s.launches) }
      else
        let r := r.mod fun s => { s with launches := KV.del g.launch s.launches }
        match word with
        | none => r
        | some c => if r.s.isLost c.1 then r else r.ncWrite 0 576 0 (wordAt c 1)

def execGangEnd (gang : Nat) (s : State) : Host.Outcome State Fault Refusal :=
  ((Run.start s).endGang gang).out

end Sys2Proof.Machine
end

