-- ==== Sys2Proof/Machine/Sync.lean ====
section
/-! DEFINITION. Waits, control registers, and traps by program (R307 to R318, R354), with the steps
that end a WAITV or a SLEEP. -/

namespace Sys2Proof.Machine
variable {s0 : State}

/-! ### WAITF (R307) -/

def execWaitf (g : BitVec 4) (m : BitVec 12) (s : State) : Host.Outcome State Fault Refusal :=
  runWord s {
    i := .waitf g m, guard := g, sigOk := false, waits := m,
    act := perLane fun r e => r.undemote e.key }

/-! ### WAITV (R308) -/

/-- The load of a WAITV, with WI meaning. -/
def waitvLoad (k site : Nat) (p : DWord) (x : Xl) (acq : Bool) : Op where
  kind := .load .words
  fibre := k
  site := site
  acc := {
    ptr := p, pa := x.key, n := 4, pol := if x.bank then 5 else 4, bank := x.bank, acq := acq }

def waitvNeed : Need := { rd := true, pol := some 4 }

/-- What one load of a WAITV comes to. -/
inductive Reload where
  /-- it cannot take its instant yet -/
  | later
  | value (w : PW)
  deriving Repr

/-- The load takes its instant. A register of the management space is read as a word (R371). -/
def Run.waitvTake (r : Run s0) (o : Op) : Run s0 × Reload :=
  let o := { o with wins := r.s.pkg.peerwin }
  let a := o.acc.pa
  let k := o.fibre
  if !r.s.mayTake r.s.nextId o || r.s.lineBusy o then (r, .later)
  else match r.s.via o with
    | .packet => brought a k
    | .bank => brought a k
    | .mreg =>
      let w : PW := match place a with
        | .mgmt off => match mreg off with
          | some m => { v := (r.s.mread m).extractLsb' 0 32 }
          | none => r.s.errWord o.site 0
        | _ => r.s.errWord o.site 0
      (r.errTick o.site, .value w)
    | .dir =>
      let r := r.dirLoad o.site a 4 o.acc.pol false
      (r, .value ((r.s.accWords o .dir).headD {}))
    | v => (r, .value ((r.s.accWords o v).headD {}))
where
  -- a window's packet, or the controller of a bank, brings the word
  brought (a k : Nat) : Run s0 × Reload := match KV.find? (a / 4) (r.s.fibre k).wbuf with
    | some w => (r.updFibre k fun f => { f with wbuf := [] }, .value w)
    | none => (r.askWords k o.site 0 [(a, o.acc.bank)], .later)

/-- The lane as a failure at an address, of a word that was issued at a phase sum of its gang (R335). -/
def State.failAt (s : State) (k : Nat) (b : Bad) (pc : VAddr) (gph : Word) : Fail :=
  { key := k, lane := (s.fibre k).lane, cls := b.cls, addr := b.addr, reason := b.reason,
    level := b.level, pc := pc, gph := some gph }

/-- One lane's load, which registers an input row that it reads (R70): the word, none while it cannot
take its instant, or the trap it comes to. -/
def Run.waitvTry (r : Run s0) (k : Nat) (p : DWord) (acq : Bool) (pc : VAddr) (gph : Word) :
    Run s0 × Option (Option Word) :=
  let f := r.s.fibre k
  let ctx := (r.s.gang f.gang).ctx
  match r.s.check f.site ctx p 4 4 waitvNeed with
  | .error b => (r.raise [r.s.failAt k b pc gph], none)
  | .ok x =>
    let own := ownRow f.site x.key x.bank
    let rowl := efld x.leaf 15 3
    if own && r.s.rowsFull f.site x.key rowl then
      (r.raise [r.s.failAt k { cls := .input, addr := (ptrVa p).zeroExtend 64, reason := 1 } pc gph], none)
    else
    let o := waitvLoad k f.site p x acq
    let r := if own then r.addRow f.site x.key rowl k else r
    let y := (r.cacheXl f.site ctx p).waitvTake o
    match y.2 with
    | .later => (y.1, some none)
    | .value w =>
      let w := y.1.s.ownWord y.1.s.nextId o (o.acc.pa / 4 * 4) w
      if w.p then (y.1.raise [y.1.s.failAt k { cls := .poison, addr := (ptrVa p).zeroExtend 64 } pc gph], none)
      else (y.1, some (some w.v))

/-- R352: a value predicate that sees loads covers the fibre. -/
def State.loadWatched (s : State) (site gk fid : Nat) (wskip : Bool) : Bool :=
  isCore site && !wskip && !(s.site site).woff &&
    (s.site site).preds.any fun p => s.covers p.2 gk fid && decide (efld p.2.desc 121 3 = 2)

/-- R352, R355: a predicate fires on a reload: the fibre stops at the WAITV, but for a value action on
the load that satisfies the condition. -/
def Run.waitvFired (r : Run s0) (k : Nat) (x : Fired) (met acq : Bool) (gph : Word) : Run s0 :=
  let f := r.s.fibre k
  let after := met && decide (efld (KV.getD x.n {} (r.s.site f.site).preds).desc 121 3 = 2)
  let r := if after then r.depart k acq else r.updFibre k fun f => { f with wait := none }
  if x.act = 4 then
    let y : Fail := r.s.failAt k { cls := .watch, addr := x.cand, reason := x.n } (r.s.fibre k).pc gph
    r.raise [y]
  else r.doHalts f.site f.gang [k] [(k, x)] after

/-- A waiting fibre loads again. -/
def Run.reload (r : Run s0) (k : Nat) : Run s0 :=
  let f := r.s.fibre k
  match f.wait with
  | some ⟨.waitv p c v acq wskip again gph, next⟩ =>
    if f.halt.isSome ∨ f.park.isSome ∨ !r.s.issues f.site (r.s.gang f.gang) then r
    else
      let y := r.waitvTry k p acq f.pc gph
      match y.2 with
      | some (some w) =>
        let r := y.1.updFibre k fun f => { f with wait := some ⟨.waitv p c v acq wskip true gph, next⟩ }
        let met := cond c w v
        let z := r.watch f.site f.gang f.fid wskip
          ((if again then [.addr false (ptrVa p) 4] else []) ++ [.val false [w]])
        match z.2 with
        | some x => z.1.waitvFired k x met acq gph
        | none => if met then z.1.depart k acq else z.1
      | _ => y.1
  | _ => r

/-- Lanes act in turn on the elements at the heads of their queues; one that performs nothing leaves its
own (R389). -/
def fedLanes (us : List Use) (f : Run s0 → Env → Run s0 × Bool) (r : Run s0) (es : List Env) : Run s0 :=
  r.each es fun r e =>
    let x := f r (e.atHeads us r.s)
    if x.2 then x.1.takeElems us e else x.1

/-- A WAITV that waits has popped: one that traps at a later load keeps no element for its next issue (log
entry 50). -/
def execWaitv (g : BitVec 4) (v p : BitVec 7) (c : BitVec 4) (o : BitVec 1) (s : State) :
    Host.Outcome State Fault Refusal :=
  let acq := decide (o = 1)
  runWord s {
    i := .waitv g v p c o, guard := g, uses := [src v, src p 2], sigOk := false, immOk := true,
    noRegion := true, ownPops := true,
    addrs := fun _ e => [(false, ptrVa (e.ptr 1), 4)],
    check := fun s e => errOf (memCheck s e (e.ptr 1) 4 waitvNeed),
    act := fedLanes [src v, src p 2] fun r e =>
      let p := e.ptr 1
      let w (again : Bool) : WaitK := .waitv p c.toNat (e.w 0) acq e.wskip again e.g.gphase
      if e.wait || r.s.loadWatched e.site e.gk e.f.fid e.wskip then (r.waitIn e (w false), true)
      else
        let f := r.s.fibre e.key
        let y := (r.unissue e).waitvTry e.key p acq e.start e.g.gphase
        match y.2 with
        | none => (y.1, false)
        | some x =>
          let r := y.1.updFibre e.key fun x => { x with
            count := f.count, pc := f.pc, flags := f.flags, age := f.age, fresh := f.fresh }
          (match x with
          | some m => if cond c.toNat m (e.w 0) then (if acq then r.acquire e.site else r)
                      else r.waitIn e (w true)
          | none => r.waitIn e (w false), true) }

def execWaitvReload (fibre : Nat) (s : State) : Host.Outcome State Fault Refusal :=
  ((Run.start s).reload fibre).out

/-- R207: a sleeping fibre whose time has passed is runnable. -/
def execSleepExpire (fibre : Nat) (s : State) : Host.Outcome State Fault Refusal :=
  let f := s.fibre fibre
  (match f.wait with
    | some ⟨.sleep 0, _⟩ => if f.halt.isSome then Run.start s else (Run.start s).depart fibre false
    | _ => Run.start s).out

/-! ### Control and status registers (R309) -/

/-- R49: CPWPn. -/
def Chan.csr (c : Chan) : DWord :=
  BitVec.ofNat 64 ((match c.st with | .idle => 0 | .running => 1 | .saved => 2 | .faulted => 3) * 2 ^ 62
    + c.count % 2 ^ 56)

/-- R220. -/
def fpctl (g : Gang) (f : Fibre) : DWord :=
  BitVec.ofNat 64 ((if g.pkf then 2 ^ 16 else 0) + g.rm.toNat * 2 ^ 12 + g.ten.toNat * 2 ^ 5 + f.fpf.toNat)

/-- R313: GANGID. That a supervisor core gives 576 + die modulo 256 as CORE is the model's choice (log
entry 39). -/
def gangid (g : Gang) : DWord :=
  BitVec.ofNat 64 (g.core * 2 ^ 56 + g.slot * 2 ^ 52 + g.rank * 2 ^ 50 + g.nfib * 2 ^ 32 + g.number % 2 ^ 32)

/-- R354: predicates enabled and held by a gang of a context. -/
def State.heldPreds (s : State) (site ctx : Nat) : Nat :=
  (s.site site).preds.foldl (fun n p => match p.2.gang with
    | some k => if p.2.desc.getLsbD 127 ∧ (s.gang k).ctx = ctx then n ||| 2 ^ p.1 else n
    | none => n) 0

def State.wctl (s : State) (site ctx : Nat) : DWord :=
  let x := s.site site
  BitVec.ofNat 64 (x.hit.toNat * 2 ^ 48 + s.heldPreds site ctx * 2 ^ 32 +
    (if x.tfrz then 2 else 0) + (if x.woff then 1 else 0))

def csrListed (n : Nat) : Bool :=
  decide (n < 0x18) || (decide (0x20 ≤ n) && decide (n < 0x40))

/-- R309: the ILLEG reason of a read. -/
def csrReadErr (n : Nat) (g : Gang) : Option Nat :=
  if !csrListed n then some 1
  else if n = 8 ∨ n = 9 ∨ (n = 0xA ∧ !g.dbg) then some 5 else none

/-- The value of a register for a fibre as it stands on its site. -/
def State.csr (s : State) (n : Nat) (g : Gang) (f : Fibre) : DWord :=
  let x := s.site f.site
  match n with
  | 0 => BitVec.ofNat 64 ((if g.dbg then 2 else 0) + (if g.uchk then 1 else 0))
  | 1 => fpctl g f
  | 2 => g.trapvec.zeroExtend 64
  | 3 => g.traproute.zeroExtend 64
  | 4 => f.trec.r0
  | 5 => f.trec.r1
  | 6 => f.trec.r2
  | 7 => f.trec.r3
  | 8 => (s.ctx g.ctx).bndtbl
  | 9 => (s.ctx g.ctx).pgroot
  | 0xA => g.inject
  | 0xB => s.wctl f.site g.ctx
  | 0xC => gangid g
  | 0xD => x.clk
  | 0xE => f.walk.v0
  | 0xF => f.walk.v1
  | n =>
    if n < 0x18 then (KV.getD (n - 0x10) {} g.chans).csr
    else if n < 0x30 then KV.getD (n - 0x20) 0 x.tdc
    else (KV.getD (n - 0x30) {} x.preds).count

/-- R221: an operation of the fibre that can still raise a floating-point flag. -/
def State.flagsDue (s : State) (k : Nat) : Bool :=
  s.ops.any fun o => decide (o.2.fibre = k) && match o.2.kind with
    | .value fp _ => fp
    | .load (.elems _ _) => true
    | _ => false

def execCsrrd (g : BitVec 4) (d c : BitVec 7) (s : State) : Host.Outcome State Fault Refusal :=
  let n := c.toNat
  runWord s {
    i := .csrrd g d c, guard := g, uses := [dst d 2],
    illeg := fun _ e => csrReadErr n e.g,
    hold := fun s e => decide (n = 1) && s.flagsDue e.key,
    act := perLane fun r e =>
      let v := r.s.csr n (r.s.gang e.gk) (r.s.fibre e.key)
      -- R127: a read of a copy channel's pointer observes what it counts
      let r := if 0x10 ≤ n ∧ n < 0x18 then r.acquire e.site else r
      r.known e { kind := .value false 0, dst := d.toNat, res := words2 v } 2 false }

/-- The ILLEG reason of a write of v. -/
def csrWriteErr (n : Nat) (g : Gang) (f : Fibre) (v : DWord) : Option Nat :=
  if !csrListed n then some 1
  else match n with
    | 0 => if v.getLsbD 1 ≠ g.dbg then some 5 else none
    | 1 => none
    | 2 => none
    | 3 => none
    | 5 => if f.hm ∧ efld v 0 2 = 0 then none else some 5
    | 0xA => if g.dbg then none else some 5
    | 0xB => if g.dbg then none else some 5
    | _ => some 5

/-- R314. -/
def injectBits (v : DWord) : DWord :=
  maskBits v 63 1 ||| maskBits v 20 4 ||| maskBits v 10 10 ||| maskBits v 0 5

/-- R354: a write to WCTL. -/
def Run.writeWctl (r : Run s0) (site : Nat) (v : DWord) : Run s0 :=
  r.updSite site fun x => { x with
    hit := v.extractLsb' 48 16, tdc := if v.getLsbD 2 then [] else x.tdc,
    tfrz := v.getLsbD 1, woff := v.getLsbD 0 }

/-- A write that its access column permits. -/
def Run.csrWrite (r : Run s0) (e : Env) (n : Nat) (v : DWord) : Run s0 :=
  match n with
  | 0 => r.updGang e.gk fun g => { g with uchk := v.getLsbD 0 }
  | 1 => (r.updGang e.gk fun g => { g with
      pkf := v.getLsbD 16, rm := v.extractLsb' 12 2, ten := v.extractLsb' 5 5 }).updFibre e.key
        fun f => { f with fpf := v.extractLsb' 0 5 }
  | 2 => r.updGang e.gk fun g => { g with trapvec := vecBits v }
  | 3 => r.updGang e.gk fun g => { g with traproute := routeBits v }
  | 5 => r.updFibre e.key fun f => { f with trec := f.trec.withPc (v.extractLsb' 0 54) }
  | 0xA => r.updGang e.gk fun g => { g with inject := injectBits v }
  | 0xB => r.writeWctl e.site v
  | _ => r

def execCsrwr (g : BitVec 4) (sc c : BitVec 7) (s : State) : Host.Outcome State Fault Refusal :=
  let n := c.toNat
  runWord s {
    i := .csrwr g sc c, guard := g, uses := [src sc 2],
    illeg := fun _ e => csrWriteErr n e.g e.f (e.d 0),
    act := perLane fun r e => r.csrWrite e n (e.d 0) }

/-! ### TRAP and RETT (R315, R318) -/

def execTrap (g : BitVec 4) (a : BitVec 7) (sc : BitVec 1) (n : BitVec 6) (s : State) :
    Host.Outcome State Fault Refusal :=
  runWord s {
    i := .trap g a sc n, guard := g, uses := [src a 2], sigOk := false,
    act := fun r es => r.raise (es.map fun e =>
      { key := e.key, lane := e.lane, cls := .swtrap, addr := e.d 0, reason := n.toNat,
        pc := e.pc + 4, sup := decide (sc = 1) }) }

def execRett (g : BitVec 4) (s : State) : Host.Outcome State Fault Refusal :=
  runWord s {
    i := .rett g, guard := g, sigOk := false,
    illeg := fun _ e => if e.f.hm then none else some 5,
    act := perLane fun r e => (r.leaveCrew e.key).returnFrom e.key }

/-- R318: the fibre that RETT.F names, where it is parked under disposition 10. -/
def rettTarget (s : State) (e : Env) (n : Nat) : Option Nat :=
  let k := fkey e.gk n
  match KV.find? k s.fibres with
  | some f => match f.park with
    | some p => if n < e.g.nfib ∧ n < 1024 ∧ !p.sup ∧ f.halt = none then some k else none
    | none => none
  | none => none

def execRettF (g : BitVec 4) (b : BitVec 7) (s : State) : Host.Outcome State Fault Refusal :=
  let i := Instr.rettF g b
  runWord s {
    i := i, guard := g, uses := [src b], sigOk := false, ownPops := true,
    illeg := fun s e => if (rettTarget s e (e.w 0).toNat).isSome then none else some 5,
    act := inTurn [src b] fun r e => match rettTarget r.s e (e.w 0).toNat with
      | some k => .ok (r.returnFrom k)
      -- a lower lane of this word has released it
      | none => .error { cls := .illeg, reason := 5, addr := i.word.zeroExtend 64 } }

end Sys2Proof.Machine
end

