-- ==== Sys2Proof/Machine/Debug.lean ====
section
/-! DEFINITION. Watch predicates set by program, and inspecting, changing, stepping and resuming a
halted fibre (R319, R350 to R353, R358 to R361). -/

namespace Sys2Proof.Machine
variable {s0 : State}

/-! ### WATCH (R350, R353) -/

/-- R350: a descriptor that is illegal. -/
def watchBad (d : BitVec 128) : Bool :=
  let act : Nat := efld d 124 3
  let from_ : Nat := efld d 121 3
  let cmp : Nat := efld d 118 3
  let takes : Bool := match from_ with
    | 2 => decide (2 ≤ cmp ∧ cmp ≤ 4)
    | 3 => decide (2 ≤ cmp ∧ cmp ≤ 4)
    | 4 => decide (cmp = 5)
    | _ => decide (cmp ≤ 1)
  let spare : Nat := match cmp with
    | 0 => 0
    | 1 => 0
    | 5 => efld d 5 75
    | _ => efld d 0 16
  decide (5 ≤ act ∨ 6 ≤ from_ ∨ 6 ≤ cmp ∨ efld d 116 2 = 3 ∨ spare ≠ 0) || !takes

/-- The descriptor in a group of four registers. -/
def groupBits (l : List PW) : BitVec 128 := BitVec.ofNat 128 (wordsVal l)

/-- R319: the words of this family need debug enabled. -/
def dbgErr (e : Env) (r : Option Nat) : Option Nat := minReason r (if e.g.dbg then none else some 5)

/-- The core whose predicates a fibre's WATCH names: its home core, or a supervisor core. -/
def Env.watchSite (e : Env) : Nat := if isSuper e.site then e.site else e.g.core

/-- Write a descriptor for a gang. -/
def Run.setWatch (r : Run s0) (site gk n : Nat) (d : BitVec 128) : Run s0 :=
  r.updSite site fun x => { x with preds := (KV.put n
    { desc := d, gang := if d.getLsbD 127 then some gk else none, count := 0 } x.preds) }

/-- A predicate that a gang other than `gk` holds. -/
def State.watchTaken (s : State) (site gk n : Nat) : Bool :=
  match (KV.getD n {} (s.site site).preds).gang with
  | some h => decide (h ≠ gk)
  | none => false

def execWatch (g : BitVec 4) (n sc : BitVec 7) (s : State) : Host.Outcome State Fault Refusal :=
  runWord s {
    i := .watch g n sc, guard := g, uses := [src sc 4],
    bad := if 16 ≤ n.toNat then some 2 else none,
    illeg := fun _ e => dbgErr e (if watchBad (groupBits (e.op 0)) then some 1 else none),
    check := fun s e =>
      if s.watchTaken e.watchSite e.gk n.toNat then
        some { cls := .syncx, addr := BitVec.ofNat 64 n.toNat, reason := 3 }
      else none,
    act := perLane fun r e => r.setWatch e.watchSite e.gk n.toNat (groupBits (e.op 0)) }

/-- The descriptor of a predicate that a gang of the context holds; zeros otherwise. -/
def State.watchOf (s : State) (site ctx n : Nat) : BitVec 128 :=
  let p := KV.getD n {} (s.site site).preds
  match p.gang with
  | some k => if (s.gang k).ctx = ctx then p.desc else 0
  | none => 0

def execWatchRd (g : BitVec 4) (d n : BitVec 7) (s : State) : Host.Outcome State Fault Refusal :=
  runWord s {
    i := .watchRd g d n, guard := g, uses := [dst d 4],
    bad := if 16 ≤ n.toNat then some 2 else none,
    illeg := fun _ e => dbgErr e none,
    act := perLane fun r e => r.known e
      { kind := .value false 0, dst := d.toNat,
        res := wordsOf 4 (r.s.watchOf e.watchSite e.ctx n.toNat).toNat } 4 false }

/-! ### Items (R358) -/

/-- A halted fibre of a gang (R359). -/
def State.haltedAt (s : State) (gk n : Nat) : Option Nat :=
  if 1024 ≤ n then none
  else match KV.find? (fkey gk n) s.fibres with
    | some f => if f.halt.isSome then some (fkey gk n) else none
    | none => none

/-- R303: the limits of a barrier index: level and number. -/
def barIndexOk (ix : Nat) : Bool :=
  decide (ix < 128) && match ix / 32 with
  | 0 => decide (ix % 32 < 16)
  | 1 => decide (ix % 32 < 4)
  | 2 => decide (ix % 32 < 2)
  | _ => false

/-- The ILLEG reason of an item of a gang. -/
def itemErr (g : Gang) (sel ix : Nat) : Option Nat :=
  if sel < 0x60 then (if g.window ≤ sel then some 2 else none)
  else match sel with
    | 0x60 => none
    | 0x61 => none
    | 0x62 => if barIndexOk ix then none else some 1
    | 0x63 => none
    | 0x64 => minReason (if ix % 4 ≠ 0 then some 1 else none)
        (if g.tiles ≤ ix / 1024 then some 2 else none)
    | _ => some 1

/-- R346: FSTATE. -/
def fstate (f : Fibre) : Nat :=
  (List.range 12).foldl (fun n i => n + 4 ^ i * (match (f.flag i).st with
    | .idle => 0
    | .busy => 1
    | .done => 2)) 0

/-- The halt record's words. -/
def Halt.words (h : Halt) : List PW :=
  [{ v := BitVec.ofNat 32 (h.pred % 16 + h.act % 8 * 16 + (if h.after then 128 else 0)) }, ({} : PW)] ++
    words2 h.cand

/-- First element that an accumulator index names. -/
def itemElem (g : Gang) (ix : Nat) : Nat := (g.core * 256 + g.tbase) * 1024 + ix

/-- The four words of an item. -/
def State.item (s : State) (k sel ix : Nat) : List PW :=
  let f := s.fibre k
  let g := s.gang f.gang
  if sel < 0x60 then [KV.getD sel {} f.win, {}, {}, {}]
  else match sel with
    | 0x60 => words2 (f.pc.zeroExtend 64) ++
        [{ v := f.preds.zeroExtend 32 }, { v := BitVec.ofNat 32 (f.fpf.toNat + 256 * fstate f) }]
    | 0x61 => (f.halt.getD {}).words
    | 0x62 =>
      let b := s.bar f.gang (ix / 32) (ix % 32)
      [{ v := b.phase }, { v := BitVec.ofNat 32 b.arrived.length }, { v := BitVec.ofNat 32 b.expected },
       { v := if b.arrived.contains k then 1 else 0 }]
    | 0x63 => words2 f.walk.v0 ++ words2 f.walk.v1
    | 0x64 => (List.range 4).map fun i => s.accElem (itemElem g ix + i)
    | _ => [{}, {}, {}, {}]

/-- R358: the ILLEG reason of a POKE of words `ws`. -/
def pokeErr (sel : Nat) (ws : List PW) : Option Nat :=
  match sel with
  | 0x60 => if efld (pair ws) 0 2 ≠ 0 then some 5 else none
  | 0x61 => some 5
  | 0x62 => some 5
  | _ => none

/-- R299: the reserved bits of SEQV1, which read as 0. -/
def seqReserved : DWord := 0x3E0_FFFF_0000

/-- Change an item. -/
def Run.setItem (r : Run s0) (k sel ix : Nat) (ws : List PW) : Run s0 :=
  let w (i : Nat) : Word := (ws.getD i {}).v
  let f := r.s.fibre k
  if sel < 0x60 then r.updFibre k fun f => f.writeNow sel { v := w 0 }
  else match sel with
    | 0x60 =>
      let pc := ptrVa (pair ws)
      r.updFibre k fun f => { f with
        pc := pc, wait := if pc = f.pc then f.wait else none,
        preds := (w 2).extractLsb' 0 8 ||| 1, fpf := (w 3).extractLsb' 0 5 }
    | 0x63 => r.updFibre k fun f => { f with walk := { f.walk with
        v0 := pair ws, v1 := pair (ws.drop 2) &&& ~~~seqReserved } }
    | 0x64 => r.each (List.range 4) fun r i => r.putAcc (itemElem (r.s.gang f.gang) ix + i) { v := w i }
    | _ => r

/-- R359: the errors of an INSP or POKE lane. -/
def itemWord (s : State) (e : Env) (n sel : Nat) : Option Nat :=
  dbgErr e (minReason (itemErr e.g sel (w1 (e.op n)).toNat)
    (if (s.haltedAt e.gk (e.w n).toNat).isSome then none else some 5))

/-- R291: an item of the accumulators waits for the fibre's own operations on the tile. -/
def itemHold (s : State) (e : Env) (n sel : Nat) : Bool :=
  decide (sel = 0x64) && s.ops.any fun o => o.2.isOpen && o.2.hasFibre e.key &&
    o.2.tiles.contains (itemElem e.g (w1 (e.op n)).toNat / 1024)

def execInsp (g : BitVec 4) (d b sc : BitVec 7) (s : State) : Host.Outcome State Fault Refusal :=
  runWord s {
    i := .insp g d b sc, guard := g, uses := [src b 2, dst d 4],
    illeg := fun s e => itemWord s e 0 sc.toNat,
    hold := fun s e => itemHold s e 0 sc.toNat,
    act := perLane fun r e => match r.s.haltedAt e.gk (e.w 0).toNat with
      | none => r
      | some k => r.known e { kind := .value false 0, dst := d.toNat,
                              res := r.s.item k sc.toNat (w1 (e.op 0)).toNat } 4 false }

def execPoke (g : BitVec 4) (sc b el : BitVec 7) (s : State) : Host.Outcome State Fault Refusal :=
  runWord s {
    i := .poke g sc b el, guard := g, uses := [src sc 4, src b 2],
    illeg := fun s e => minReason (pokeErr el.toNat (e.op 0)) (itemWord s e 1 el.toNat),
    hold := fun s e => itemHold s e 1 el.toNat,
    act := perLane fun r e => match r.s.haltedAt e.gk (e.w 1).toNat with
      | none => r
      | some k => r.setItem k el.toNat (w1 (e.op 1)).toNat (e.op 0) }

/-! ### STEP and RESUME (R360, R361) -/

/-- A fibre leaves its halt. The FPX record that its halt put off has its disposition applied now (R356); a
wait that has ended meanwhile is over. -/
def Run.unhalt (r : Run s0) (k : Nat) (step : Bool) : Run s0 :=
  let f := r.s.fibre k
  let r := r.updFibre k fun f => { f with
    halt := none, fresh := true, stepping := step, owedFpx := none }
  match f.owedFpx with
  | some t =>
    let x : Fail := { key := k, lane := f.lane, cls := .fpx, addr := t.r2, pc := t.pc }
    r.takeTraps (r.s.gang f.gang) [(x, t)]
  | none => r.recheckWait k

/-- RESUME of one fibre: its gang's copy channels move again (R355). -/
def Run.resumeFibre (r : Run s0) (k : Nat) : Run s0 :=
  (r.unhalt k false).updGang (r.s.fibre k).gang fun g =>
    { g with chans := g.chans.map fun c => (c.1, { c.2 with held := false }) }

/-- RESUME of every halted fibre of a gang. -/
def Run.resumeGang (r : Run s0) (gk : Nat) : Run s0 :=
  r.each ((r.s.gangFibres gk).filter fun k => ((r.s.fibre k).halt).isSome) fun r k => r.resumeFibre k

/-- R360: a stepped fibre has halted again, is parked, or has exited. -/
def State.stepDone (s : State) (k : Nat) : Bool :=
  match KV.find? k s.fibres with
  | none => true
  | some f => f.halt.isSome || f.park.isSome

/-- A STEP completes. -/
def Run.takeStep (r : Run s0) (id : Nat) : Run s0 :=
  match KV.find? id r.s.ops with
  | none => r
  | some o =>
    match o.kind with
    | .step k => if o.stage = .pending ∧ r.s.stepDone k then
        r.updOp id fun o => { o with stage := .performed } else r
    | _ => r

def execStep (g : BitVec 4) (b : BitVec 7) (s : State) : Host.Outcome State Fault Refusal :=
  runWord s {
    i := .step g b, guard := g, uses := [src b],
    illeg := fun s e => dbgErr e (if (s.haltedAt e.gk (e.w 0).toNat).isSome then none else some 5),
    act := perLane fun r e => match r.s.haltedAt e.gk (e.w 0).toNat with
      | none => r
      | some k => (r.startOp e { kind := .step k } 0 true false).unhalt k true }

def execResume (g : BitVec 4) (b : BitVec 7) (s : State) : Host.Outcome State Fault Refusal :=
  let all (e : Env) : Bool := decide (e.w 0 = BitVec.allOnes 32)
  runWord s {
    i := .resume g b, guard := g, uses := [src b],
    illeg := fun s e => dbgErr e
      (if all e || (s.haltedAt e.gk (e.w 0).toNat).isSome then none else some 5),
    act := perLane fun r e =>
      if all e then r.resumeGang e.gk
      else match r.s.haltedAt e.gk (e.w 0).toNat with
        | none => r
        | some k => r.resumeFibre k }

end Sys2Proof.Machine
end

