-- ==== Sys2Proof/Machine/Former.lean ====
section
/-! DEFINITION. The former and the issue slots of a site (R148 to R166, R362, R363), and shipping
(R63, R64). -/

namespace Sys2Proof.Machine
variable {s0 : State}

/-! ### Ages (R163) -/

/-- R161: a crew's members are blocked, as the last turn found or as their flags show now. -/
def State.crewBlocked (s : State) (c : Crew) : Bool :=
  c.blocked || c.fids.any fun fid =>
    let f := s.fibre (fkey c.gang fid)
    f.holds 15 || (match c.hints with
      | some h => (waitSet h true false).any f.holds
      | none => false)

/-- A crew that is not ready to issue: blocked, or held by something else. -/
def State.crewHeld (s : State) (c : Crew) : Bool :=
  decide (c.stall ≠ 0) || decide (0 < c.idle) || s.crewBlocked c || c.evict || c.fids.any fun fid =>
    s.fenced (s.fibre (fkey c.gang fid))

/-- The crews of a site, by slot. -/
def State.crewsOf (s : State) (site : Nat) : List (Nat × Crew) :=
  (KV.range (ckey site 0) 256 s.crews).map fun c => (c.1 - ckey site 0, c.2)

/-- Canonical crew c of a gang on a site of L lanes (R150, R171). -/
def State.canonical (s : State) (gk l c : Nat) : List Nat :=
  (s.gangFibres gk).filter fun k => decide (k % 1024 / l = c)

/-- R160: the canonical crews whose members all wait at one CREWJOIN of a site: their wait is over. -/
def State.joinable (s : State) (site : Nat) : List (List Nat) :=
  let n := lanesOf site
  let at_ (k : Nat) : Option VAddr :=
    let f := s.fibre k
    if f.site = site ∧ f.halt = none ∧ f.park = none then
      match f.wait with
      | some ⟨.join pc, _⟩ => some pc
      | _ => none
    else none
  let found := s.fibres.filterMap fun f => (at_ f.1).map fun pc => (f.2.gang, f.2.fid / n, pc)
  (found.foldl (fun a x => if a.contains x then a else a ++ [x]) []).filterMap fun x =>
    let m := s.canonical x.1 n x.2.1
    if s.issues site (s.gang x.1) && m.all fun k => decide (at_ k = some x.2.2) then some m else none

/-- Fibres of a site's boathouse that may form: those of a complete CREWJOIN among them (R160, R161). -/
def State.boathouse (s : State) (site : Nat) : List (Nat × Fibre) :=
  let joins := (s.joinable site).flatten
  s.fibres.filter fun f => decide (f.2.site = site) && (f.2.formable || joins.contains f.1) &&
    (s.gang f.2.gang).started && s.issues site (s.gang f.2.gang)

/-- Runnable fibres of a site. -/
def State.runnable (s : State) (site : Nat) : List Nat :=
  (s.boathouse site).map Prod.fst ++
    ((s.crewsOf site).filter fun c => s.issues site (s.gang c.2.gang) && !s.crewBlocked c.2).flatMap
      fun c => c.2.fids.map (fkey c.2.gang)

/-- R163: overdue among `rn` runnable fibres. -/
def Fibre.overdue (f : Fibre) (rn : Nat) : Bool := decide (8 * rn ≤ f.age)

/-! ### Forming (R151 to R154, R160) -/

/-- An entry of the boathouse: fibres of one gang at one PC, or one that steps, or those that stand
at one step of a walk (R298), or the members of a canonical crew whose CREWJOIN is complete (R160). -/
def sameEntry (a b : Fibre) : Bool :=
  decide (a.gang = b.gang) && decide (a.pc = b.pc) && !a.stepping && !b.stepping &&
    (a.walking == b.walking) &&
    (!a.walking || (decide (a.walk.v0 = b.walk.v0) && decide (a.walk.v1 = b.walk.v1)))

/-- What the former would make of an entry: fids in lane order, whether the crew is full. -/
def State.formOf (s : State) (site gk : Nat) (l : List (Nat × Fibre)) : List Nat × Bool :=
  let n := lanesOf site
  let keys := l.map Prod.fst
  let whole (c : Nat) : Bool :=
    let m := s.canonical gk n c
    !m.isEmpty && m.all keys.contains
  let cs := (List.range (1024 / n)).filter whole
  let oldestIn (c : Nat) : Nat := ((l.filter fun x => decide (x.2.fid / n = c)).map fun x => x.2.age).foldl max 0
  let best := cs.foldl (fun (b : Option Nat) c => match b with
    | none => some c
    | some y => if oldestIn y < oldestIn c then some c else some y) none
  match best with
  | some c => (laneOrder site ((l.filter fun x => decide (x.2.fid / n = c)).map fun x => x.2.fid), true)
  | none =>
    let m := (List.range n).filterMap fun i =>
      (oldest (l.filter fun x => decide (x.2.fid % n = i))).map fun x => x.2.fid
    (m, decide (m.length = n))

/-- Put fibres of a gang into a crew. A walk's pointer pairs are those of its vector (R298). -/
def Run.seat (r : Run s0) (site slot : Nat) (c : Crew) : Run s0 :=
  let r := r.mod fun s => { s with crews := KV.put (ckey site slot) c s.crews }
  r.each c.fids fun r fid => (r.updFibre (fkey c.gang fid) fun f =>
    let f := { f with slot := some slot }
    if f.walking then f.placePairs else f).waited site (fkey c.gang fid)

def State.freeSlot (s : State) (site : Nat) : Option Nat :=
  (List.range (slotsOf site)).find? fun n => !KV.has (ckey site n) s.crews

/-- R153: whether a crew from an entry may form now. -/
def State.mayForm (s : State) (site : Nat) (rn : Nat) (l : List (Nat × Fibre)) (full : Bool) : Bool :=
  full || (match oldest l with
    | none => false
    | some x => x.2.stepping || decide (256 ≤ KV.getD x.1 0 (s.site site).waits) ||
        l.any (fun y => y.2.overdue rn) ||
        (s.crewsOf site).all fun c => decide (c.2.gang ≠ x.2.gang) || s.crewHeld c.2)

/-- The entries of a site's boathouse. -/
def State.entries (s : State) (site : Nat) : List (List (Nat × Fibre)) :=
  let joins := s.joinable site
  let b := s.boathouse site
  (b.filter fun x => decide (x.2.wait = none)).foldl (fun (a : List (List (Nat × Fibre))) x =>
    if a.any fun l => l.any fun y => sameEntry x.2 y.2 then
      a.map fun l => if l.any fun y => sameEntry x.2 y.2 then l ++ [x] else l
    else a ++ [[x]]) [] ++ (joins.map fun m => b.filter fun x => m.contains x.1)

/-- R160: the members of a complete CREWJOIN go on at the word after it. -/
def Run.endJoin (r : Run s0) (k : Nat) : Run s0 :=
  r.updFibre k fun f => { f with
    wait := none, age := 0, pc := (match f.wait with | some w => w.next | none => f.pc) }

/-- R166: a demoted fibre forms after those of its gang at other entries that are not. An entry that holds
fibres of both kinds counts as one that is not demoted (log entry 53, DESIGN CHOICE). -/
def demotedLast (rn : Nat) (es : List (List (Nat × Fibre))) (l : List (Nat × Fibre)) : Bool :=
  l.all (fun x => x.2.dem && !x.2.overdue rn) &&
    es.any fun m => m.any fun y => !y.2.dem && l.any fun x => decide (x.2.gang = y.2.gang)

/-- CREW_FORM: the former forms one crew of a site, of the 2 that it may form in a clk (R151). -/
def Run.formCrew (r : Run s0) (site : Nat) : Run s0 :=
  match (if (r.s.site site).formed < 2 then r.s.freeSlot site else none) with
  | none => r
  | some slot =>
    let rn := (r.s.runnable site).length
    let entries := r.s.entries site
    let can := entries.filter fun l => match l with
      | [] => false
      | x :: _ => r.s.mayForm site rn l (r.s.formOf site x.2.gang l).2 && !demotedLast rn entries l
    let rank (x : Nat × Fibre) : Nat :=
      (65535 - x.2.age) * 2 ^ 16 + x.2.fid % lanesOf site * 16 + (r.s.gang x.2.gang).slot % 16
    let best := (can.flatMap fun l => l.map fun x => (rank x, l)).foldl
      (fun (b : Option (Nat × List (Nat × Fibre))) x => match b with
        | none => some x
        | some y => if x.1 < y.1 then some x else some y) none
    match best with
    | some (_, x :: xs) =>
      let fids := (r.s.formOf site x.2.gang (x :: xs)).1
      let join := x.2.wait.isSome
      let keys := fids.map (fkey x.2.gang)
      let c : Crew := { gang := x.2.gang, fids := fids, alone := x.2.stepping && !join, joined := join,
                        fromJoin := join }
      let r := ((if join then r.each keys Run.endJoin else r).seat site slot c).updSite site fun x => { x with
        formed := x.formed + 1 }
      if join then r.each keys Run.stopStep else r
    | _ => r

def execCrewForm (site : Nat) (s : State) : Host.Outcome State Fault Refusal :=
  ((Run.start s).formCrew site).out

/-! ### Eviction (R155) -/

def State.crewAge (s : State) (c : Crew) : Nat :=
  (c.fids.map fun n => (s.fibre (fkey c.gang n)).age).foldl max 0

/-- An overdue fibre lies in the boathouse. -/
def State.overdueWaits (s : State) (site : Nat) : Bool :=
  let rn := (s.runnable site).length
  (s.boathouse site).any fun x => x.2.overdue rn

/-- An implicit wait of a fibre whose flags are done observes them (R181). -/
def Run.observeAll (r : Run s0) (k : Nat) : Run s0 :=
  let f := r.s.fibre k
  let eng := f.flags.any fun x => x.2.eng
  let r := r.updFibre k fun f => (f.flags.map Prod.fst).foldl (fun f n => f.observe n) f
  if eng then r.acquire f.site else r

/-- The lowest of its flags that carries a fault. -/
def Fibre.noted (f : Fibre) : Option (Nat × Note) :=
  f.flags.findSome? fun x => x.2.note.map fun n => (x.1, n)

/-- A crew chosen for eviction goes once no flag of its members is outstanding: that wait observes them
(R155, R181). It completes a hint group first (R179). -/
def Run.finishEvict (r : Run s0) (site : Nat) : Run s0 :=
  r.each (r.s.crewsOf site) fun r c =>
    let ks := c.2.fids.map (fkey c.2.gang)
    if !c.2.evict || c.2.hints.isSome || ks.any (fun k => (List.range 16).any (r.s.fibre k).holds) then r
    else r.each ks fun r k => match (r.s.fibre k).noted with
      | some (n, x) => r.notedFault k n x
      | none => (r.observeAll k).leaveCrew k

/-- CREW_EVICT: an overdue fibre of the boathouse finds no free slot. One crew is chosen to go; a crew
stays formed for the whole of its walk (R297). -/
def Run.evictCrew (r : Run s0) (site : Nat) : Run s0 :=
  let rn := (r.s.runnable site).length
  if (r.s.freeSlot site).isSome ∨ !r.s.overdueWaits site ∨ (r.s.crewsOf site).any (fun c => c.2.evict) then r
  else
    let fibres (c : Crew) : List Fibre := c.fids.map fun n => r.s.fibre (fkey c.gang n)
    let can := (r.s.crewsOf site).filter fun c => !r.s.crewHeld c.2 && !c.2.fromJoin &&
      !(fibres c.2).any fun f => f.overdue rn || f.walking
    let best := can.foldl (fun (b : Option (Nat × Crew)) c => match b with
      | none => some c
      | some y => if r.s.crewAge c.2 < r.s.crewAge y.2 then some c else some y) none
    match best with
    | none => r
    | some (n, c) =>
      let waits := (fibres c).any fun f => (List.range 16).any f.holds
      (r.updCrew (ckey site n) fun c => { c with evict := true, stall := if waits then 6 else 0 }).finishEvict site

def execCrewEvict (site : Nat) (s : State) : Host.Outcome State Fault Refusal :=
  (((Run.start s).evictCrew site).finishEvict site).out

/-! ### Issue slots (R164, R362, R363) -/

/-- The leaf of a crew that is not ready: what its last turn found, or, where that was the issue of a word,
what now holds its next one: eviction and a hint's flags wait as a PACE does, DIST too (R362). -/
def State.crewLeaf (s : State) (c : Crew) : Nat :=
  let keys := c.fids.map (fkey c.gang)
  let waits := match c.hints with | some h => (waitSet h true false).filter (· ≠ 15) | none => []
  if c.stall ≠ 0 then c.stall % 16
  else if keys.any fun k => (s.fibre k).holds 15 then
    (if keys.any fun k => s.matrixWait k [15] then 10 else 9)
  else if keys.any fun k => s.fenced (s.fibre k) then 9
  else if keys.any fun k => s.matrixWait k (waits.filter (s.fibre k).holds) then 10
  else 6

/-- R363: the leaf of a slot that carried no word. -/
def State.idleLeaf (s : State) (site : Nat) : Nat :=
  let mine := s.fibres.filter fun f => decide (f.2.site = site) || decide ((s.gang f.2.gang).core = site)
  let held := (s.crewsOf site).filter fun c => s.crewHeld c.2
  let worst := held.foldl (fun (b : Option (Nat × Crew)) c => match b with
    | none => some c
    | some y => if s.crewAge y.2 < s.crewAge c.2 then some c else some y) none
  if (s.site site).saving then 13
  else if (s.coreGangs site).isEmpty then 14
  else if mine.all fun f => f.2.halt.isSome || f.2.park.isSome then 12
  else match worst with
    | some (_, c) => s.crewLeaf c
    | none =>
      if !(s.boathouse site).isEmpty then 5
      else if mine.any fun f => f.2.wait.isSome then 7
      else if mine.any fun f => f.2.ship.isSome then 11
      else 4

/-- The order of precedence of a site's crews. One whose members the last turn found blocked has age 0
once they are not (R163). -/
def State.precedence (s : State) (rn : Nat) (c : Crew) : Nat :=
  let fs := c.fids.map fun n => s.fibre (fkey c.gang n)
  let oldest := s.crewAge c
  let age := if c.blocked then 0 else oldest
  let lane := ((fs.filter fun f => decide (f.age = oldest)).map Fibre.lane).foldl min 63
  let cls := if !c.blocked && fs.any (Fibre.overdue · rn) then 1
    else if fs.all Fibre.dem then 3 else 2
  cls * 2 ^ 32 + (65535 - age) * 2 ^ 16 + (s.gang c.gang).slot % 16 * 64 + lane

/-- The slots of the last clk that carried no word are charged. -/
def Run.chargeIdle (r : Run s0) (site : Nat) : Run s0 :=
  let leaf := r.s.idleLeaf site
  r.updSite site fun x =>
    let bump (n k : Nat) (m : List (Nat × DWord)) := KV.put n (KV.getD n 0 m + BitVec.ofNat 64 k) m
    { x with
      budget := 0,
      tdc := if x.tfrz || !isCore site || decide (x.budget = 0) then x.tdc
        else bump leaf x.budget (bump 0 x.budget x.tdc) }

/-- A clk passes for the fibres of a site: ages, sleeps, and the time in the boathouse (R153). -/
def Run.ageSite (r : Run s0) (site : Nat) : Run s0 :=
  let n := issueOf site
  let r := r.each (r.s.runnable site) fun r k => r.updFibre k fun f => { f with age := min 65535 (f.age + n) }
  let asleep := r.s.fibres.filter fun f => decide (f.2.site = site) && f.2.park.isNone &&
    r.s.issues site (r.s.gang f.2.gang)
  let r := r.each asleep fun r x => match x.2.wait with
    | some ⟨.sleep left, next⟩ => r.updFibre x.1 fun f => { f with wait := some ⟨.sleep (left - 1), next⟩ }
    | _ => r
  let keys := (r.s.boathouse site).map Prod.fst
  r.updSite site fun x => { x with
    waits := keys.foldl (fun m k => KV.put k (KV.getD k 0 x.waits + n) m) [] }

/-- R294: the next waiting cluster in ring order after `c`. -/
def Die.nextWaiting (d : Die) (c : Nat) : Option Nat :=
  ((List.range 12).map fun k => (c + 1 + k) % 12).find? d.tokWait.contains

/-- R294: a cluster's token is released, and passes to the next waiting cluster. One that the power
mode takes away is gone (R378). -/
def Die.passToken (d : Die) (c n : Nat) : Die :=
  let d' := { d with toks := d.toks.filter fun t => decide (t.cluster ≠ c) }
  if n ≤ d'.toks.length + d'.free.length then d'
  else match d'.nextWaiting c with
    | some w => { d' with toks := d'.toks ++ [{ cluster := w }], tokWait := d'.tokWait.filter (· ≠ w) }
    | none => { d' with free := d'.free ++ [c] }

/-- R294: the token is due for release. -/
def Die.tokenDue (d : Die) (c : Nat) : Bool :=
  d.toks.any fun t => decide (t.cluster = c) && (decide (64 ≤ t.idle) ||
    (decide (2048 ≤ t.held) && d.tokWait.any (· ≠ c)))

/-- R294: a clk passes for the token of a cluster, which is released when it is due. -/
def Run.ageTokens (r : Run s0) (site : Nat) : Run s0 :=
  if !isCore site ∨ site % 4 ≠ 0 then r
  else
    let age (t : Tok) : Tok := if t.cluster = clusterOf site then
      { t with held := t.held + 1, idle := t.idle + 1 } else t
    let n := r.s.pkg.tokens
    r.updDie (dieOf site) fun d =>
      let d := { d with toks := d.toks.map age }
      if d.tokenDue (clusterOf site) then d.passToken (clusterOf site) n else d

/-- R165: an overdue fibre of the boathouse has the former at work. -/
def Run.former (r : Run s0) (site : Nat) : Run s0 :=
  let r := r.finishEvict site
  if r.s.overdueWaits site then ((r.formCrew site).formCrew site).evictCrew site else r

/-- CORE_CLK_ISSUE_SLOTS: one clk of a site. Its crews take their turns by precedence, until the
slots of the clk are full. -/
def Run.siteClk (r : Run s0) (site : Nat) : Run s0 :=
  if 580 ≤ site ∨ !r.s.pkg.powered ∨ (r.s.die (dieOf site)).failed then r
  else
    let r := (r.chargeIdle site).updSite site fun x => { x with
      clk := x.clk + 1, budget := issueOf site, formed := 0 }
    let r := ((r.ageSite site).ageTokens site).former site
    let rn := (r.s.runnable site).length
    let key (n : Nat) : Nat := r.s.precedence rn (KV.getD (ckey site n) {} r.s.crews)
    let slots := sortBy key (((r.s.crewsOf site).filter fun c => r.s.issues site (r.s.gang c.2.gang)).map
      Prod.fst)
    let t := r.s.tick
    let turns := (List.range slots.length).map fun i =>
      let c := Config.issueChoice (t + i)
      Turn.issue site (slots.getD i 0) c.1 c.2
    r.mod fun s => { s with tick := t + slots.length, agenda := turns ++ s.agenda }

def execCoreClkIssueSlots (site : Nat) (s : State) : Host.Outcome State Fault Refusal :=
  ((Run.start s).siteClk site).out

/-! ### Shipping (R63, R64) -/

/-- R63 step 1: every flag and access of a fibre is done; the faults that its flags carry. -/
def State.settled (s : State) (k : Nat) : Bool :=
  !(s.ops.any fun o => o.2.hasFibre k && o.2.isOpen && o.2.isMem) &&
    (List.range 16).all fun n => !(s.fibre k).holds n

/-- SITE_SHIP: a fibre leaves for a sculler's queue, or arrives back at its home core. Its wait has the
effect of FENCE FULL, at the core that it leaves and at the one that it comes back to (R63, R118). -/
def Run.ship (r : Run s0) (k : Nat) : Run s0 :=
  let f := r.s.fibre k
  match f.ship with
  | some ⟨dest, none⟩ =>
    if !r.s.settled k ∨ f.halt.isSome ∨ f.park.isSome ∨ !r.s.issues f.site (r.s.gang f.gang) then r
    else match f.noted with
      | some (n, note) => (r.updFibre k fun f => { f with ship := none }).notedFault k n note
      | none =>
        if isSculler dest then
          if 64 ≤ (r.s.site dest).arrivals.length then r
          else
            let r := (r.observeAll k).acquire f.site
            let n := r.s.nextId
            let r := (r.bump.updSite dest fun x => { x with arrivals := x.arrivals ++ [k] })
            r.updFibre k fun f => { f with
              ship := some ⟨dest, some n⟩,
              snap := some ⟨f.win, f.pc, f.preds, f.age, f.fpf, f.count, f.pend⟩ }
        else (((r.observeAll k).endStay k).updFibre k fun f => { f with
          site := dest, ship := none, snap := none }).acquire dest
  | _ => r

def execSiteShip (fibre : Nat) (s : State) : Host.Outcome State Fault Refusal :=
  ((Run.start s).ship fibre).out

/-- The local scratchpad slot of a gang on a sculler, or a free one (R61). -/
def Site.localSlot (x : Site) (gk : Nat) : Option (Nat × Bool) :=
  match x.lslots.find? fun y => decide (y.2 = gk) with
  | some y => some (y.1, false)
  | none => ((List.range 4).find? fun n => x.lslots.all fun y => decide (y.1 ≠ n)).map fun n => (n, true)

/-- R60: room for another fibre of a home lane: 32 fibres, 8 of one lane, and the lane-bank's registers. -/
def State.laneRoom (s : State) (site lane window : Nat) : Bool :=
  let here := s.fibres.filter fun y => decide (y.2.site = site)
  let mine := here.filter fun y => decide (y.2.fid % 8 = lane)
  let used := mine.foldl (fun n y => n + (s.gang y.2.gang).window) 0
  decide (here.length < 32) && decide (mine.length < 8) && decide (used + window ≤ 2048)

/-- SCULLER_ARRIVAL: the first fibre of the queue enters, where its lane-bank and scratchpad have
room. A halted fibre at the head keeps those behind it waiting: the queue is served in order (log entry
49). -/
def Run.arrive (r : Run s0) (site : Nat) : Run s0 :=
  let x := r.s.site site
  match x.arrivals with
  | [] => r
  | k :: rest =>
    let f := r.s.fibre k
    let g := r.s.gang f.gang
    match x.localSlot f.gang with
    | none => r
    | some (n, fresh) =>
      if !r.s.laneRoom site (f.fid % 8) g.window ∨ f.halt.isSome then r
      else
        let base := site * 2 ^ 20 + n * 16384
        let r := if fresh then
            (r.zeroScr base 16384).mod fun s => { s with spoison := KV.delRange (base / 4) 4096 s.spoison }
          else r
        let r := r.updSite site fun x => { x with
          arrivals := rest, lslots := if fresh then x.lslots ++ [(n, f.gang)] else x.lslots }
        r.updFibre k fun f => { f with site := site, ship := none }

def execScullerArrival (sculler : Nat) (s : State) : Host.Outcome State Fault Refusal :=
  (if sculler < 384 then (Run.start s).arrive (192 + sculler) else Run.start s).out

end Sys2Proof.Machine
end

