-- ==== Sys2Proof/Machine/Packets.lean ====
section
/-! DEFINITION. Packets that arrive from peers and the host (R92, R112, R365, R366, R368, R371, R376): an
operation of its own for each, named in order of arrival, until it has been performed. -/

namespace Sys2Proof.Machine
variable {s0 : State}

/-! ### When a packet may be performed (R371) -/

/-- R92: storage of an open bag. -/
def State.bagStorage (s : State) (pa : Nat) : Bool :=
  s.bags.any fun b => b.2.isOpen && b.2.blocks.any fun a => decide (a ≤ pa) && decide (pa < a + 2 ^ 21)

/-- First bytes of the words that n bytes at pa touch. -/
def wordsOfRange (pa n : Nat) : List Nat := (List.range ((pa % 4 + n + 3) / 4)).map fun i => pa / 4 * 4 + 4 * i

/-- R366, R70, R92: an access of a packet that the device cannot perform. One to a line lost with a die is
refused too (R114). -/
def State.refusesPkt (s : State) (pa n : Nat) (wr : Bool) : Bool :=
  (wordsOfRange pa n).any fun a => s.dead a || (isWindow a && !s.linked) || s.isLost a || s.bagStorage a ||
    (wr && s.inputRow a)

/-- A line that a packet touches is held for a line region (R253), or finds no room in its slice (R42): the
packet waits. -/
def State.pktHeld (s : State) (pa n : Nat) : Bool :=
  (wordsOfRange pa n).any fun a => s.cellHeld (a, false)

/-- A packet of a sender is still to be performed that has arrived before operation `id`. -/
def State.pktBefore (s : State) (id src : Nat) : Bool :=
  s.ops.any fun o => decide (o.1 < id) && match o.2.kind with
    | .packet _ p => decide (p.src = src)
    | _ => false

def isMgmt (pa : Nat) : Bool := match place pa with | .mgmt _ => true | _ => false

/-- R371: release meaning, which a mailbox element has too (R368), or a WRITE to a management register. -/
def pktOrdered (kind : PktK) (p : Packet) : Bool :=
  p.rel || decide (kind = .mailbox) || (decide (kind = .write) && isMgmt p.addr)

/-- The RESP of a packet. -/
def Run.respond (r : Run s0) (p : Packet) (err : Bool) (data : List Byte) (poison : List Nat) : Run s0 :=
  r.updPkg fun x => { x with out := x.out ++
    [{ kind := .resp, dest := p.src, tag := p.tag, data := data, err := err, poison := poison }] }

/-! ### READ and WRITE -/

/-- NC reads at the directories of the words (R100). -/
def Run.readWordsNc (r : Run s0) (l : List Nat) : Run s0 :=
  r.each (byLine l) fun r x =>
    let line := x.1 / 128
    let ws := wordsAt x.1 x.2
    let r := (r.countPkt line).recallAll line ws
    if ws.any fun w => decide ((r.s.dir line).wst w = .p) then r.merge line else r

/-- R371: the register that an 8-byte packet names. -/
def pktReg (off n : Nat) : Option MReg := if n = 8 then mreg off else none

/-- A READ; none while it waits. R382: until bring-up is complete the device answers reads of BOOTSTAT
alone. -/
def Run.readPacket (r : Run s0) (p : Packet) : Option (Run s0) :=
  let n := p.len
  match place p.addr with
  | .mgmt off =>
    if !r.s.pkg.complete ∧ off ≠ 0x30 then some r
    else match pktReg off n with
      | some m => some (r.respond p false (bytesOf 8 (r.s.mread m).toNat) [])
      | none => some (r.respond p true [] [])
  | _ =>
    if !r.s.pkg.complete ∨ n < 4 ∨ 128 < n then some r
    else if r.s.refusesPkt p.addr n false then some (r.respond p true [] [])
    else if r.s.pktHeld p.addr n then none
    else
      let l := wordsOfRange p.addr n
      let r := r.readWordsNc l
      let ws := l.map r.s.coh
      some (r.respond p false (wordBytes p.addr n ws)
        ((List.range ws.length).filter fun i => (ws.getD i {}).p))

/-- NC stores at the directories (R101), each word with its mark of poison. -/
def Run.writeNc (r : Run s0) (p : Packet) : Run s0 :=
  let ws := wordsOfRange p.addr p.data.length
  let r := r.each (byLine ws) fun r x => (r.countPkt (x.1 / 128)).dirClaim (x.1 / 128) (wordsAt x.1 x.2)
  r.each (List.range ws.length) fun r i =>
    let a := ws.getD i 0
    let mine (k : Nat) : Bool := decide (p.addr ≤ a + k) && decide (a + k < p.addr + p.data.length)
    let bytes := (List.range 4).map fun k => if mine k then p.data.getD (a + k - p.addr) 0 else 0
    let masks := (List.range 4).map fun k => if mine k then p.masks.getD (a + k - p.addr) 0xFF else 0
    r.writeHome a bytes masks (p.poison.contains i)

/-- A WRITE; none while it waits. -/
def Run.writePacket (r : Run s0) (p : Packet) : Option (Run s0) :=
  let n := p.data.length
  if !r.s.pkg.complete then some r else
  match place p.addr with
  | .mgmt off =>
    match pktReg off n with
    | some m => some ((r.mwrite m (BitVec.ofNat 64 (ofBytes p.data))).respond p false [] [])
    | none => some (r.respond p true [] [])
  | _ =>
    if n < 4 ∨ 128 < n then some r
    else if r.s.refusesPkt p.addr n true then some (r.respond p true [] [])
    else if r.s.pktHeld p.addr n then none
    else some ((r.writeNc p).respond p false [] [])

/-! ### ATOM and RED -/

/-- R246, R249: an atomic packet: operation code, or 16 for CAS with the expected value first, and
width in bytes. It is aligned. -/
def pktAtomOk (p : Packet) : Bool :=
  decide (p.width = 4 ∨ p.width = 8) && decide (p.addr % p.width = 0) &&
    decide (p.data.length = if p.op = 16 then 2 * p.width else p.width) && decide (p.op < 12 ∨ p.op = 16)

/-- The value that an atomic packet stores over `m`, if any. -/
def pktAtomNew (p : Packet) (m : Nat) : Option Nat :=
  let v := ofBytes p.data
  if p.op = 16 then (if m = v % 2 ^ (8 * p.width) then some (v / 2 ^ (8 * p.width)) else none)
  else some (atomFn p.op (decide (p.width = 8)) m v)

/-- R107, R112, R376: the merged or single atomic is applied at the slice with one instant; none while it
waits. On a poisoned word it applies nothing (R54). -/
def Run.atomPacket (r : Run s0) (p : Packet) (ret : Bool) : Option (Run s0) :=
  if !r.s.pkg.complete ∨ !pktAtomOk p then some r
  else
    let n := p.width
    if isMgmt p.addr || r.s.refusesPkt p.addr n true then some (if ret then r.respond p true [] [] else r)
    else if r.s.pktHeld p.addr n then none
    else
      let ws := wordsOfRange p.addr n
      let r := (r.countPkt (p.addr / 128)).dirClaim (p.addr / 128) (wordsAt p.addr n)
      let old := ws.map r.s.coh
      let bytes := wordBytes p.addr n old
      if old.any fun w => w.p then
        some (if ret then r.respond p false bytes ((List.range old.length).filter fun i => (old.getD i {}).p)
          else r.logErr (homeDie p.addr) 1 3 (r.s.dir (p.addr / 128)).slice p.addr)
      else
        let r := match pktAtomNew p (ofBytes bytes) with
          | some v => r.writeHome p.addr (bytesOf n v) [] false
          | none => r
        some (if ret then r.respond p false bytes [] else r)

/-! ### Mailboxes (R368) -/

/-- The words of a packet. -/
def pktWords (p : Packet) : List PW :=
  (List.range ((p.data.length + 3) / 4)).map fun i =>
    { v := BitVec.ofNat 32 (ofBytes ((p.data.drop (4 * i)).take 4)), p := p.poison.contains i }

/-- R368: an element enters its mailbox; none while the mailbox is full. -/
def Run.mailPacket (r : Run s0) (p : Packet) : Option (Run s0) :=
  let box := boxOf p.ctx p.addr
  if !r.s.pkg.complete then some r
  else if 64 ≤ (KV.getD box [] r.s.pkg.boxes).length then none
  else some ((r.updPkg fun x => { x with
    boxes := KV.put box (KV.getD box [] x.boxes ++ [(p.src, pktWords p)]) x.boxes }).syncBox box)

/-! ### Arrival -/

/-- R366: the packet goes on to the device behind a window. -/
def State.relays (s : State) (p : Packet) : Bool :=
  s.pkg.complete && isWindow p.addr && !s.refusesPkt p.addr 1 false

/-- A packet for a window goes on under the operation's own number; nothing answers a RED. -/
def Run.relay (r : Run s0) (id : Nat) (kind : PktK) (p : Packet) : Run s0 :=
  let to_ := r.s.packetTo r.s.pkg.peerwin p.addr
  let pkt : OutPkt := { kind := kind, dest := to_.1, tag := id, addr := to_.2, data := p.data, masks := p.masks,
                        len := p.len, op := p.op, rel := p.rel, poison := p.poison }
  let port := r.s.portFor id
  let r := r.updPkg fun x => { x with out := x.out ++ [pkt] }
  if kind = .red then r.delOp id else r.updOp id fun o => { o with stage := .away, port := port }

/-- R365: what a packet does when it is performed; none while it waits. -/
def Run.performPkt (r : Run s0) (kind : PktK) (p : Packet) : Option (Run s0) :=
  match kind with
  | .read => r.readPacket p
  | .write => r.writePacket p
  | .atom => r.atomPacket p true
  | .red => r.atomPacket p false
  | .mailbox => r.mailPacket p
  | _ => some r

/-- A packet that has arrived is performed, where its turn has come and nothing holds it. -/
def Run.takePkt (r : Run s0) (id : Nat) : Run s0 :=
  match KV.find? id r.s.ops with
  | none => r
  | some o => match o.kind with
    | .packet kind p =>
      if o.stage ≠ .pending ∨ (pktOrdered kind p && r.s.pktBefore id p.src) then r
      else if kind ≠ .mailbox ∧ r.s.relays p then r.relay id kind p
      else match r.performPkt kind p with
        | some r => r.delOp id
        | none => r
    | _ => r

/-- A packet arrives. Site 580 is none of the machine's. -/
def Run.pktArrive (r : Run s0) (kind : PktK) (p : Packet) : Run s0 :=
  let id := r.s.nextId
  (r.bump.mod fun s => { s with ops := KV.put id { kind := .packet kind p, site := Config.sites } s.ops }).takePkt id

end Sys2Proof.Machine
end

