-- ==== Sys2Proof/Machine/Events.lean ====
section
/-! DEFINITION. Steps of the memory system and the engines: operations take their instants and
complete (R37 to R42, R48, R79 to R89, R96 to R101, R111, R181, R253 to R255, R294). -/

namespace Sys2Proof.Machine
variable {s0 : State}

/-! ### Lines -/

def execL1Evict (core line : Nat) (s : State) : Host.Outcome State Fault Refusal :=
  (if isCore core && s.inL1 core line then (Run.start s).evictL1 core line else Run.start s).out

/-- R96: the L1 drops an untracked or tracked word; the directory is not told. -/
def execL1DropWithoutTelling (core word : Nat) (s : State) : Host.Outcome State Fault Refusal :=
  (match s.l1? core (4 * word) with
    | some l => if isCore core ∧ (l.st = L1St.untracked ∨ l.st = L1St.tracked) then
        (Run.start s).dropL1 core (4 * word) else Run.start s
    | none => Run.start s).out

def execL2LineMigrate (line : Nat) (s : State) : Host.Outcome State Fault Refusal :=
  ((Run.start s).migrateLine line).out
def execLineDieMigrate (line : Nat) (s : State) : Host.Outcome State Fault Refusal :=
  ((Run.start s).migrateDie line).out

/-! ### Requests at the directory (R98 to R101) -/

/-- The access is for a slice, a region's buffer there, a register, or a packet. -/
def Via.slice (v : Via) : Bool :=
  decide (v ≠ .scr) && decide (v ≠ .l1) && decide (v ≠ .bank)

/-- A pending access of a kind takes its instant, or that of its next words (R106). -/
def Run.takeAt (r : Run s0) (id victim : Nat) (kind : OpK → Bool) : Run s0 :=
  match KV.find? id r.s.ops with
  | none => r
  | some o =>
    if o.stage = .pending && kind o.kind && (r.s.via o).slice && r.s.mayTake id o &&
        !r.s.lineBusy o then
      let r := if r.s.via o = .dir then r.makeRoom (o.acc.pa / 128) victim else r
      (r.ticked.takeAccess id o (Config.wordsNow r.s.tick % 4 + 1)).settleOp id
    else r

def OpK.isLd (k : OpK) : Bool := match k with | .load _ => true | _ => false

def execDirLoadRequest (op victim : Nat) (s : State) : Host.Outcome State Fault Refusal :=
  (((Run.start s).takeAt op victim OpK.isLd).takePkt op).out
def execDirStoreRequest (op victim : Nat) (s : State) : Host.Outcome State Fault Refusal :=
  (((Run.start s).takeAt op victim fun k => k.isAccess && !k.isLd).takeDev op |>.takePkt op).out

/-! ### Completion (R181) -/

/-- What an operation still has to do at its own core, sculler, engine or dispatcher. -/
def Run.workOn (r : Run s0) (id : Nat) (o : Op) : Run s0 :=
  if o.stage ≠ .pending then r else
  match o.kind with
  | .cache sub lines =>
    if !r.s.mayTake id o || (match lines with
        | (pa, _, _) :: _ => r.s.cellHeld (pa, false)
        | [] => false) then r
    else r.takeCache id o sub lines
  | .index _ _ _ _ _ => r.indexStep id
  | .spawn _ => r.takeSpawn id
  | .biter h _ start _ =>
    let r := if start then r.placeBiter id else r
    if r.s.biterVisit o.fibre h = .close ∨ (r.s.staleBag o h).isSome then r.takeBiter id else r
  | .step _ => r.takeStep id
  | .packet _ _ => r.takePkt id
  | .eight _ _ => r.tileStep id
  | .accz _ => r.tileStep id
  | .accld _ _ => r.tileStep id
  | .accst _ _ => r.tileStep id
  | .accrd _ => r.tileStep id
  | .accwr _ => r.tileStep id
  | k => if k.isAccess && !(r.s.via o).slice && decide (r.s.via o ≠ .bank) && r.s.mayTake id o then
      r.takeAccess id o else r

/-- An operation completes: the rest of its work is done, and what it sent has been answered and has
landed. -/
def Run.complete (r : Run s0) (id : Nat) : Run s0 :=
  match KV.find? id r.s.ops with
  | none => r
  | some o =>
    let r := r.workOn id o
    if r.s.hasChild id || !r.s.landed id then r else r.finish id

def execFlagComplete (op : Nat) (s : State) : Host.Outcome State Fault Refusal :=
  ((Run.start s).complete op).out

/-! ### Tile fetch and power tokens (R42, R294) -/

/-- R42: an eight-op that has waited 512 clk without having begun lets its pins go and fetches again. The
retry is charged to the memory branch: the idle slots of a crew that waits for it count there (R362). -/
def Run.retryTiles (r : Run s0) (id : Nat) : Run s0 :=
  match KV.find? id r.s.ops with
  | none => r
  | some o =>
    match o.kind with
    | .eight e _ =>
      let clk := (r.s.site o.site).clk.toNat
      if o.stage ≠ .pending ∨ clk < o.arr + 512 then r else
      let r := ((r.unpin id).updOp id fun o => { o with arr := clk }).pinTiles id e
      match (r.s.fibre o.fibre).slot with
      | none => r
      | some n => r.updCrew (ckey o.site n) fun c => if c.stall = 10 then { c with stall := 9 } else c
    | _ => r

def execTileFetchRetry (op : Nat) (s : State) : Host.Outcome State Fault Refusal :=
  ((Run.start s).retryTiles op).out

/-- POWER_TOKEN_RELEASE: a token that is due is released; at the latest the cluster's next clk does so. -/
def execPowerTokenRelease (die cluster : Nat) (s : State) : Host.Outcome State Fault Refusal :=
  (if (s.die die).tokenDue cluster then
    (Run.start s).updDie die fun d => d.passToken cluster s.pkg.tokens
  else Run.start s).out

/-! ### Copies, bags and regions -/

def execCopyBeat (gang channel : Nat) (s : State) : Host.Outcome State Fault Refusal :=
  ((Run.start s).copyBeat gang channel).out
def execPlacerPut (op seen : Nat) (s : State) : Host.Outcome State Fault Refusal :=
  ((Run.start s).placePut op seen).out
def execPlacerDrain (op : Nat) (s : State) : Host.Outcome State Fault Refusal :=
  ((Run.start s).placeDrain op).out
def execPlacerBcount (op : Nat) (s : State) : Host.Outcome State Fault Refusal :=
  ((Run.start s).placeBcount op).out
def execPlacerBseal (op : Nat) (s : State) : Host.Outcome State Fault Refusal :=
  ((Run.start s).placeBseal op).out
def execPlacerBfree (op : Nat) (s : State) : Host.Outcome State Fault Refusal :=
  ((Run.start s).placeBfree op).out

/-- R255, reason 1: the region's time has passed. The fibre leaves what it waits for. -/
def Run.timeRegion (r : Run s0) (k : Nat) : Run s0 :=
  let f := r.s.fibre k
  match f.region with
  | none => r
  | some g =>
    if g.held ∧ !g.ending ∧ 4096 ≤ r.s.sliceClk g.line - g.born then
      ((r.leaveCrew k).abortRegion k 1).stopStep k
    else r

def execLineRegionTimeout (fibre : Nat) (s : State) : Host.Outcome State Fault Refusal :=
  ((Run.start s).timeRegion fibre).out
def execLineRegionHeld (fibre : Nat) (s : State) : Host.Outcome State Fault Refusal :=
  ((Run.start s).holdLine fibre).out

end Sys2Proof.Machine
end

