-- ==== Sys2Proof/Machine/Context.lean ====
section
/-! DEFINITION. Contexts (R330 to R332, R339 to R349): the scheduling ring, stopping a context, the
save and its images, restore and first start, and the end of a context. -/

namespace Sys2Proof.Machine
variable {s0 : State}

/-! ### The scheduling ring and the context block (R330, R344) -/

/-- R330, R370: entries of the ring; a length of 0 or above 256 acts as 1. -/
def Pkg.ringSize (p : Pkg) : Nat :=
  if p.ringlen = 0 ∨ 256 < p.ringlen.toNat then 1 else p.ringlen.toNat
def State.ringSize (s : State) : Nat := s.pkg.ringSize
def State.ringEntry (s : State) (i : Nat) : Nat := s.peekNat (s.pkg.ringbase.toNat + 16 * i) 16

/-- R330: CTXBLK of an entry. -/
def entBlk (m : Nat) : Nat := bitsOf m 64 52 / 64 * 64

/-- R341, R344: the fields of a context block. -/
structure Block where
  route : DWord
  vec : DWord
  ctl : BitVec 2
  bndtbl : DWord
  pgroot : DWord
  base : Nat
  split : Bool
  st : Nat
  rerr : Bool
  seq : Nat
  bad : Bool
  deriving DecidableEq, Repr

def State.block (s : State) (blk : Nat) : Block :=
  let m := s.peekNat blk 64
  { route := (routeBits (BitVec.ofNat 64 (bitsOf m 384 64))).zeroExtend 64,
    vec := (vecBits (BitVec.ofNat 64 (bitsOf m 320 64))).zeroExtend 64,
    ctl := BitVec.ofNat 2 (bitsOf m 256 2),
    bndtbl := maskBits (BitVec.ofNat 64 (bitsOf m 192 64)) 14 38 ||| BitVec.ofNat 64 (bitsOf m 192 1),
    pgroot := maskBits (BitVec.ofNat 64 (bitsOf m 128 64)) 15 37,
    base := bitsOf m 85 31 * 2 ^ 21, split := decide (bitsOf m 84 1 = 1),
    st := bitsOf m 62 2, rerr := decide (bitsOf m 61 1 = 1), seq := bitsOf m 0 32,
    bad := decide (bitsOf m 448 64 ≠ 0 ∨ bitsOf m 258 62 ≠ 0 ∨ bitsOf m 116 12 ≠ 0 ∨ bitsOf m 64 20 ≠ 0) }

/-- R330, R344: an entry in use that is skipped and counted. -/
def State.ringBad (s : State) (m : Nat) : Bool :=
  decide (bitsOf m 116 12 ≠ 0 ∨ bitsOf m 60 3 ≠ 0 ∨ bitsOf m 48 8 ≠ 0 ∨ bitsOf m 0 16 ≠ 0 ∨ entDies m = 0) ||
    (s.block (entBlk m)).bad

def entV (m : Nat) : Bool := decide (bitsOf m 63 1 = 1)

/-- R345: where a core saves. -/
def coreArea (b : Block) (core : Nat) : Nat :=
  if b.split then b.base + core / 48 * 0x4000_0000 + core % 48 * 2 ^ 21 else b.base + core * 2 ^ 21

/-- The core areas that a block's last save has written, by key. -/
def State.areas (s : State) (b : Block) : List (Nat × Saved) :=
  s.saved.filter fun x => decide (x.1 = coreArea b x.2.core / 2 ^ 21)

/-- R349: a block that has not been started: no image belongs to it. -/
def Block.fresh (b : Block) : Bool := decide (b.st = 0 ∧ b.seq = 0)

/-- R331: a context whose entry has this CTXBLK is runnable: resident gangs, saved ones too, pending
launches, or records in an enabled queue. -/
def State.runnableCtx (s : State) (c blk : Nat) : Bool :=
  let b := s.block blk
  s.resident c || (!b.fresh && (s.areas b).any fun x => decide (x.2.gangs ≠ []))

/-- A valid and runnable entry. -/
def State.entryReady (s : State) (i m : Nat) : Bool :=
  entV m && !s.ringBad m && s.runnableCtx i (entBlk m)

/-- The entry's context stands on the entry's dies already. -/
def State.inPlace (s : State) (i m : Nat) : Bool :=
  let x := s.ctx i
  x.live && decide (x.blk = entBlk m) && decide (x.dies = entDies m)

/-- R330: what a context takes from its entry. -/
def Ctx.fromEntry (x : Ctx) (m : Nat) : Ctx :=
  { x with blk := entBlk m, dies := entDies m, limit := max 12 (bitsOf m 32 16), slice := bitsOf m 16 16 }

/-- The pointer passes an entry that has been served. -/
def Run.served (r : Run s0) (c : Nat) : Run s0 :=
  r.updPkg fun p => { p with reserved := none, ringptr := (c + 1) % p.ringSize }

/-- R331 steps 1 and 2: the next entry in ring order reserves its dies, as it reads now (R330). One whose
context stands on them already is served at once, with what its entry reads (log entry 60). -/
def Run.schedule (r : Run s0) : Run s0 :=
  let n := r.s.ringSize
  match r.s.pkg.reserved with
  | some _ => r
  | none =>
    let order := (List.range n).map fun k => (r.s.pkg.ringptr + k) % n
    let found := order.find? fun i => r.s.entryReady i (r.s.ringEntry i)
    let bad := (order.takeWhile fun i => decide (some i ≠ found)).filter fun j =>
      let m := r.s.ringEntry j
      entV m && r.s.ringBad m
    let r := r.updPkg fun p => { p with schederr := p.schederr + BitVec.ofNat 32 bad.length }
    match found with
    | none => r
    | some i =>
      let m := r.s.ringEntry i
      if r.s.inPlace i m then (r.updCtx i fun x => x.fromEntry m).served i
      else r.updPkg fun p => { p with ringptr := i, reserved := some (i, m) }

def execSchedStep (s : State) : Host.Outcome State Fault Refusal :=
  (if s.pkg.complete then (Run.start s).schedule else Run.start s).out

/-! ### Writing to memory -/

/-- The device writes bytes at a physical address, each with its word's poison. -/
def Run.devWrite (r : Run s0) (core pa : Nat) (l : List (Byte × Bool)) : Run s0 :=
  let bs : List NcByte := (List.range l.length).map fun i =>
    let x := l.getD i (0, false)
    { key := pa + i, bank := false, v := x.1, p := x.2 }
  r.ncWrite 0 core 0 bs
def clean (l : List Byte) : List (Byte × Bool) := l.map fun b => (b, false)
def Run.devNat (r : Run s0) (core pa n v : Nat) : Run s0 := r.devWrite core pa (clean (bytesOf n v))

/-- R341: store the save-status word. -/
def Run.setStat (r : Run s0) (blk st : Nat) (rerr : Bool) (seq : Nat) : Run s0 :=
  r.devNat 0 blk 8 (st * 2 ^ 62 + (if rerr then 2 ^ 61 else 0) + seq % 2 ^ 32)

/-! ### Stopping (R339, R340, R69) -/

/-- Fibres of a context, with their keys. -/
def State.ctxFibres (s : State) (c : Nat) : List (Nat × Fibre) :=
  s.fibres.filter fun f => decide ((s.gang f.2.gang).ctx = c) && KV.has f.2.gang s.gangs
def State.ctxGangs (s : State) (c : Nat) : List (Nat × Gang) :=
  s.gangs.filter fun g => decide (g.2.ctx = c)

/-- An operation that a fibre of the context has issued; the fibre may have exited since (R168). -/
def State.isCtxOp (s : State) (c : Nat) (o : Op) : Bool :=
  KV.has o.gang s.gangs && decide ((s.gang o.gang).ctx = c)
def State.ctxOps (s : State) (c : Nat) : List (Nat × Op) := s.ops.filter fun o => s.isCtxOp c o.2

/-- R179, R339: a hint group that has begun completes its instruction before a pre-emption or quiesce. -/
def State.midGroup (s : State) (c : Nat) : Bool :=
  s.crews.any fun x => decide ((s.gang x.2.gang).ctx = c) && x.2.hints.isSome

/-- R339 steps 1 and 2: every crew of the context dissolves, and line regions end with reason 3. -/
def Run.dissolve (r : Run s0) (c : Nat) : Run s0 :=
  r.each (r.s.ctxFibres c) fun r f => (r.leaveCrew f.1).abortRegion f.1 3

/-- R340: an operation in flight takes its instants now; what waits at a bank is its controller's (R65). -/
def Run.drainOp (r : Run s0) (id : Nat) : Run s0 :=
  match KV.find? id r.s.ops with
  | none => r
  | some o =>
    let r := if o.stage ≠ .pending then r else match o.kind with
      | .cache _ lines => r.each lines fun r _ => match KV.find? id r.s.ops with
          | some o => r.workOn id o
          | none => r
      | .index _ rows _ _ _ => r.each (() :: rows.map fun _ => ()) fun r _ => r.indexStep id
      | .put _ _ _ => r.placePut id (2 ^ 32)
      | .drain _ _ _ _ _ _ => r.placeDrain id
      | .bcount _ => r.placeBcount id
      | .bseal _ => r.placeBseal id
      | .bfree _ => r.placeBfree id
      | .wread _ => r
      | .bwrite _ _ _ _ => r
      | k => if k.isAccess then
          (if r.s.mayTake id o && !r.s.lineBusy o && decide (r.s.via o ≠ .bank) then r.takeAccess id o else r)
        else if (match k with | .step _ => true | _ => false) then r
        else r.workOn id o
    if r.s.hasChild id || !r.s.landed id then r else r.finish id

/-- R339 steps 3 and 5: the operations of the context settle, in program order. -/
def Run.settleCtx (r : Run s0) (c : Nat) : Run s0 :=
  let pass (r : Run s0) : Run s0 := r.each ((r.s.ctxOps c).map Prod.fst) fun r id => r.drainOp id
  let r := pass (pass r)
  -- an LREND that has issued completes (R255)
  r.each ((r.s.ctxFibres c).filter fun f => f.2.region.isSome) fun r f => r.holdLine f.1

/-- A fibre on a sculler, or in transit. -/
def Fibre.away (f : Fibre) : Bool := f.ship.isSome || isSculler f.site

/-- R69: nothing of a fibre's stay is under way any more but what the abort discards: waves, whose bank
commands that have started are finished, and steps of iterations. -/
def State.stayDone (s : State) (k : Nat) : Bool :=
  s.ops.all fun o => decide (o.2.fibre ≠ k) || match o.2.kind with
    | .wave _ _ _ _ _ _ _ _ _ _ => true
    | .biter _ _ _ _ => true
    | _ => false

/-- R69: a fibre's work on a sculler is discarded: it stands again at its home core, at the
instruction that shipped it, with the snapshot of R63. One in transit stands at its origin. -/
def Run.abortStay (r : Run s0) (k : Nat) : Run s0 :=
  let f := r.s.fibre k
  match f.snap with
  | none => r.updFibre k fun f => { f with ship := none }
  | some sn =>
    let r := (r.endStay k).mod fun s => { s with
      ops := s.ops.filter fun o => decide (o.2.fibre ≠ k),
      sites := s.sites.map fun x => (x.1, { x.2 with arrivals := x.2.arrivals.filter (· ≠ k) }) }
    let home := (r.s.gang f.gang).core
    r.updFibre k fun f => { f with
      site := home, ship := none, snap := none, win := sn.win, pc := sn.pc, preds := sn.preds,
      age := sn.age, fpf := sn.fpf, flags := [], count := sn.count, pend := sn.pend, iter := none,
      fence := [], wait := none,
      park := f.park.map fun p => { p with record := p.record.withPc sn.pc } }

/-- R339 steps 1 to 5; `report`: the save-status word says so (R341). Accesses to windows that are still
under way hold the rest back (R342). -/
def Run.stopCtx (r : Run s0) (c : Nat) (report : Bool) : Run s0 :=
  let x := r.s.ctx c
  let cores := (r.s.ctxGangs c).map fun g => g.2.core
  let r := if x.st = .stopping ∨ x.st = .quiesced then r else
    let r := (r.dissolve c).updCtx c fun x => { x with st := .stopping }
    let r := r.mod fun s => { s with ops := s.ops.filter fun o =>
      !(decide (o.2.kind = .wread 0) && s.isCtxOp c o.2) }
    let r := r.each cores fun r n => r.updSite n fun y => { y with saving := true }
    if report then r.setStat x.blk 1 false x.seq else r
  let r := r.settleCtx c
  r.each ((r.s.ctxFibres c).filter fun f => f.2.away && r.s.stayDone f.1) fun r f => r.abortStay f.1

/-- Nothing of the context is under way any more, at the banks neither (R65, R91), but stopped copies and steps of a debugger, no fibre is
away from its home core, and no line region is left. -/
def State.stopped (s : State) (c : Nat) : Bool :=
  ((s.ctxOps c).all fun o => !s.hasChild o.1 && (match o.2.kind with
    | .copy _ _ _ _ _ _ => true
    | .step _ => true
    | _ => false)) && (s.ctxFibres c).all fun f => !f.2.away && f.2.region.isNone

/-- R340: running copy channels have stopped at a beat boundary: what a beat has read and not delivered is
read again when it starts afresh. -/
def Run.parkChans (r : Run s0) (c : Nat) : Run s0 :=
  let stop (x : Nat × Chan) : Nat × Chan :=
    if x.2.st = .running then (x.1, { x.2 with st := .saved }) else x
  r.mod fun s => { s with
    ops := s.ops.map fun o => match o.2.kind with
      | .copy _ _ _ _ _ _ => if s.isCtxOp c o.2 then (o.1, { o.2 with got := [] }) else o
      | _ => o,
    gangs := s.gangs.map fun g =>
      if g.2.ctx = c then (g.1, { g.2 with chans := g.2.chans.map stop }) else g }

/-- Copy channels go on (R130). -/
def Run.runChans (r : Run s0) (c : Nat) : Run s0 :=
  let go (x : Nat × Chan) : Nat × Chan :=
    if x.2.st = .saved then (x.1, { x.2 with st := .running }) else x
  r.mod fun s => { s with gangs := s.gangs.map fun g =>
    if g.2.ctx = c then (g.1, { g.2 with chans := g.2.chans.map go }) else g }

/-! ### The images (R345, R346) -/

/-- First of a gang's tiles in the core's numbering of R345: the gangs of lower slots come before it
(log entry 13). -/
def tileIndex (gs : List (Nat × Gang)) (g : Gang) : Nat :=
  (gs.filter fun x => decide (x.2.core = g.core) && decide (x.2.slot < g.slot)).foldl
    (fun n x => n + x.2.tiles) 0

/-- Bytes of words, each with its word's poison. -/
def markedBytes (l : List PW) : List (Byte × Bool) :=
  l.flatMap fun w => (bytesOf 4 w.v.toNat).map fun b => (b, w.p)

/-- Words out of bytes at a physical address, with the poison of memory. -/
def State.memWords (s : State) (pa n : Nat) : List PW :=
  (List.range n).map fun i => if s.ready (pa + 4 * i) then s.coh (pa + 4 * i) else {}

/-- Place of a fibre's window in its core area. -/
def winOff (f : Fibre) : Nat := 8192 * (f.fid % 32) + 4 * f.wbase

/-- The group at an address, of at most n words: the flags its PACE waits on and the one it signals, its
instruction's word, the instruction, and that one's address. -/
def State.groupAt (s : State) (site ctx : Nat) (pc : VAddr) (h : BitVec 12 × Nat) :
    Nat → Option ((BitVec 12 × Nat) × Word × Instr × VAddr)
  | 0 => none
  | n + 1 =>
    match s.fetchWord site ctx pc with
    | .error _ => none
    | .ok w => match decode w with
      | .ok (.pace m sg _) => s.groupAt site ctx (pc + 4) (m, sg.toNat) n
      | .ok (.imm _) => s.groupAt site ctx (pc + 4) h n
      | .ok (.mod _ _ _ _ _ _) => s.groupAt site ctx (pc + 4) h n
      | .ok i => some (h, w, i, pc)
      | .error _ => none

/-- The CPWAIT of a fibre is still to be served (R276). -/
def State.cpBlocks (s : State) (f : Fibre) (t : BitVec 7) (ch : BitVec 3) : Bool :=
  let g := s.gang f.gang
  let f := (f.look 15).settle (f.count + 1)
  let x := pair [readReg g f t.toNat, readReg g f (t.toNat + 1)]
  let c := KV.getD ch.toNat {} g.chans
  !cpReached c x.toNat && decide (c.st ≠ .faulted)

/-- R346: what a fibre is blocked on. -/
def State.blk (s : State) (f : Fibre) : Nat :=
  match f.wait with
  | some w => match w.kind with
    | .bar _ _ _ => 1
    | .rearrive _ _ _ _ _ _ => 1
    | .waitv _ _ _ _ _ _ _ => 2
    | .sleep _ => 3
    | .join _ => 4
  | none =>
    let busy (l : List Nat) : Nat := if l.any f.holds then 6 else 0
    match s.groupAt f.site (s.gang f.gang).ctx f.pc (0, 15) 4 with
    | none => busy [15]
    | some (h, w, i, _) =>
      let on := guardOk (fld w 21 4) f
      let flags (m : BitVec 12) : List Nat := (List.range 12).filter m.getLsbD
      let waits := 15 :: (if on then h.2 :: flags h.1 else [])
      match i with
      | .cpwait _ t ch => if on && !waits.any f.holds && s.cpBlocks f t ch then 5 else busy waits
      | .waitf _ m => busy (if on then waits ++ flags m else waits)
      | _ => busy waits

def sleepLeft (f : Fibre) : Nat :=
  match f.wait with
  | some ⟨.sleep n, _⟩ => (n + 15) / 16
  | _ => 0

def parkCode (f : Fibre) : Nat :=
  match f.park with
  | some p => if p.sup then 1 else 2
  | none => if f.halt.isSome then 3 else 0

/-- R346: an extension; one of zeros alone is not written. -/
def extension (f : Fibre) : List Byte :=
  let t := match f.park with | some p => p.record | none => f.trec
  let head := bytesOf 8 t.r0.toNat ++ bytesOf 8 t.r1.toNat ++ bytesOf 8 t.r2.toNat ++ bytesOf 8 t.r3.toNat ++
    bytesOf 8 f.walk.v0.toNat ++ bytesOf 8 f.walk.v1.toNat ++ bytesOf 16 f.restart.toNat
  let pend := f.pend.flatMap fun p => bytesOf 8 (p.reg * 2 ^ 57 + p.v.v.toNat + (match p.when_ with
    | .count n => n % 2 ^ 24 * 2 ^ 32
    | .flag n => 2 ^ 56 + n * 2 ^ 32))
  let l := head ++ pend
  if l.all (· = 0) then [] else l

/-- R346: a fibre record. POLLVAL holds the low word of a wider value (log entry 13). -/
def State.record (s : State) (f : Fibre) (ext : Nat) : Nat :=
  let fld (lo v : Nat) : Nat := v * 2 ^ lo
  let poll := match f.poll with | some p => (p.va.toNat, (p.v.headD 0).toNat) | none => (0, 0)
  fld 416 (f.count % 2 ^ 32) + fld 412 (s.blk f) + fld 352 poll.2 + fld 320 (sleepLeft f) +
    fld 256 poll.1 + fld 232 (fstate f) + fld 224 (f.pend.length % 256) + fld 192 ext + fld 191 1 +
    fld 187 (s.gang f.gang).slot + fld 177 f.fid + fld 161 f.age + fld 153 (f.preds ||| 1).toNat +
    fld 152 (if f.dem then 1 else 0) + fld 147 f.fpf.toNat + fld 146 (if f.hm then 1 else 0) +
    fld 143 (parkCode f) + fld 136 (f.wbase / 16) + f.pc.toNat

/-- Fibres of a core in the order of their records: by gang slot, then fid. -/
def recOrder (gs : List (Nat × Gang)) (fs : List (Nat × Fibre)) : List (Nat × Fibre) :=
  (List.range 16).flatMap fun n => fs.filter fun f =>
    gs.any fun g => decide (g.1 = f.2.gang) && decide (g.2.slot = n)

/-- R339 step 6: the images of one core, and what of it stays in the opaque regions. Their bytes are free
(log entry 33); their check code is over them, and the free bytes stand for it too. -/
def Run.saveCore (r : Run s0) (c : Nat) (b : Block) (core : Nat) : Run s0 :=
  let base := coreArea b core
  let gs := (r.s.ctxGangs c).filter fun g => decide (g.2.core = core)
  let fs := recOrder gs (r.s.ctxFibres c)
  let held (p : Nat × WPred) : Bool := match p.2.gang with
    | some k => gs.any fun g => decide (g.1 = k)
    | none => false
  let x := r.s.site core
  let mine := x.preds.filter held
  let mask : BitVec 16 := mine.foldl (fun m p => m ||| (1#16 <<< p.1)) 0
  let ops := (r.s.ctxOps c).filter fun o => gs.any fun g => decide (g.1 = (r.s.fibre o.2.fibre).gang)
  let r := r.each fs fun r f => r.devWrite core (base + winOff f.2)
    (markedBytes ((List.range (r.s.gang f.2.gang).window).map fun i => KV.getD i {} f.2.win))
  let r := r.each gs fun r g =>
    let r := r.devWrite core (base + 0x4_0000 + g.2.sbase)
      ((List.range g.2.ssize).map fun i =>
        let k := g.2.scrKey i
        (Memory.read r.s.scr k, KV.has (k / 4) r.s.spoison))
    r.devWrite core (base + 0x10_0000 + 4096 * tileIndex gs g.2)
      (markedBytes ((List.range (1024 * g.2.tiles)).map fun i =>
        r.s.accElem ((core * 256 + g.2.tbase) * 1024 + i)))
  let y := (List.range fs.length).foldl (fun (a : Run s0 × Nat) i =>
    let f := (fs.getD i (0, {})).2
    let e := extension f
    let off := if e = [] then 0 else a.2
    let r := a.1.devNat core (base + 0x14_2000 + 64 * i) 64 (a.1.s.record f off)
    (r.devWrite core (base + a.2) (clean e), a.2 + e.length)) (r, 0x18_2000)
  let free := Config.opaqueBytes y.1.s.tick
  let opq := [(0x14_0000, free.1.take 8192), (y.2, free.2.take (2 ^ 21 - y.2))]
  let r := y.1.each opq fun r x => r.devWrite core (base + x.1) (clean x.2)
  let sv : Saved := { ctx := c, core := core, opq := opq, gangs := gs, fibres := fs.map id, ops := ops,
                      preds := mine, hit := x.hit &&& mask, woff := x.woff }
  r.mod fun s => { s with
    tick := s.tick + 1,
    saved := KV.put (base / 2 ^ 21) sv s.saved,
    sites := KV.put core { s.site core with
      preds := (s.site core).preds.filter fun p => !held p,
      hit := (s.site core).hit &&& ~~~mask, woff := false } s.sites }

/-- What the areas of a block held is no more. -/
def Run.dropAreas (r : Run s0) (b : Block) : Run s0 :=
  let ks := (r.s.areas b).map Prod.fst
  r.mod fun s => { s with saved := s.saved.filter fun x => !ks.contains x.1 }

/-- The cores of a context that save: those with its gangs, or the first core of its dies. -/
def State.savers (s : State) (c : Nat) : List Nat :=
  match (s.ctxGangs c).map fun g => g.2.core with
  | [] => ((List.range 4).find? (s.ctx c).dies.getLsbD).toList.map (48 * ·)
  | l => l.eraseDups

/-- The context leaves its cores: fibres, gangs, crews and operations are gone from them. -/
def Run.clearCtx (r : Run s0) (c : Nat) : Run s0 :=
  let keys := (r.s.ctxFibres c).map Prod.fst
  let cores := (r.s.ctxGangs c).map fun g => g.2.core
  let r := r.mod fun s => { s with
    ops := s.ops.filter fun o => !s.isCtxOp c o.2,
    crews := s.crews.filter fun x => !decide ((s.gang x.2.gang).ctx = c),
    gangs := s.gangs.filter fun g => !decide (g.2.ctx = c) }
  let r := r.dropFibres fun f => keys.contains f.1
  let r := r.each cores fun r n => r.updSite n fun y => { y with saving := false }
  r.retune

/-- R339 steps 6 and 7. Whether the save took longer than LIMIT is a free choice: the model has no
microseconds (R332). -/
def Run.saveCtx (r : Run s0) (c : Nat) : Run s0 :=
  let x := r.s.ctx c
  let b := r.s.block x.blk
  let r := (r.parkChans c).dropAreas b
  let r := r.each (r.s.savers c) fun r n => r.saveCore c b n
  let late := Config.overrun r.s.tick
  let r := r.updPkg fun p => { p with preover := if late then p.preover + 1 else p.preover }
  let r := (r.clearCtx c).mod fun s => { s with tick := s.tick + 1 }
  (r.updCtx c fun x => { x with st := .saved, live := false, seq := (x.seq + 1) % 2 ^ 32 }).setStat
    x.blk 2 false (x.seq + 1)

/-- A pre-emption, or its next part where it has begun. -/
def Run.preempt (r : Run s0) (c : Nat) : Run s0 :=
  let x := r.s.ctx c
  if !x.live then r
  else if x.st = .quiesced then r.saveCtx c
  else if x.st = .running ∧ r.s.midGroup c then r
  else
    let r := r.stopCtx c true
    if r.s.stopped c then r.saveCtx c else r

/-- R331: another entry that is runnable needs one of the context's dies; the one that waits, as the pointer
met it, also where it is the context's own (R330). -/
def State.wanted (s : State) (c : Nat) : Bool :=
  let needs (m : Nat) : Bool := decide (entDies m &&& (s.ctx c).dies ≠ 0)
  (match s.pkg.reserved with
    | some (i, m) => needs m && s.entryReady i m
    | none => false) ||
  (List.range s.ringSize).any fun i => decide (i ≠ c) && s.entryReady i (s.ringEntry i) && needs (s.ringEntry i)

/-- R331, R332: the end of a slice: it is renewed, or the context is pre-empted, a quiesced one too. -/
def Run.endSlice (r : Run s0) (c : Nat) : Run s0 :=
  let x := r.s.ctx c
  if !x.live ∨ x.slice = 0 then r
  else if x.st = .stopping ∨ r.s.wanted c then r.preempt c
  else r

def execSliceEnd (ctx : Nat) (s : State) : Host.Outcome State Fault Refusal :=
  ((Run.start s).endSlice ctx).out

/-! ### Quiesce (R339) -/

def Run.quiesce (r : Run s0) (c : Nat) : Run s0 :=
  let x := r.s.ctx c
  if !x.live ∨ x.st = .quiesced ∨ x.st = .saved ∨ (x.st = .running ∧ r.s.midGroup c) then r
  else
    let r := r.stopCtx c true
    if r.s.stopped c then
      ((r.parkChans c).updCtx c fun x => { x with st := .quiesced }).setStat x.blk 3 false x.seq
    else r

def Run.resumeCtx (r : Run s0) (c : Nat) : Run s0 :=
  let x := r.s.ctx c
  let r := (r.runChans c).updCtx c fun x => { x with st := .running }
  let r := r.each ((r.s.ctxGangs c).map fun g => g.2.core) fun r n => r.updSite n fun y =>
    { y with saving := false }
  r.setStat x.blk 0 false x.seq

/-! ### Restore (R347 to R349) -/

/-- R346: a record that a restore refuses. -/
def recordBad (m : Nat) : Bool :=
  decide (4 ≤ bitsOf m 143 3 ∨ 7 ≤ bitsOf m 412 4 ∨ bitsOf m 448 64 ≠ 0 ∨ bitsOf m 384 28 ≠ 0 ∨
    bitsOf m 310 10 ≠ 0 ∨ bitsOf m 54 82 ≠ 0)

/-- The records of a core's save area, in order. -/
def State.savedRecords (s : State) (base : Nat) (sv : Saved) : List ((Nat × Fibre) × Nat) :=
  (List.range sv.fibres.length).map fun i =>
    (sv.fibres.getD i (0, {}), s.peekNat (base + 0x14_2000 + 64 * i) 64)

/-- R346, R347: PARK of the record is 0 where that of the fibre was not, so it is released. -/
def released (f : Fibre) (m : Nat) : Bool := decide (parkCode f ≠ 0) && decide (bitsOf m 143 3 = 0)

/-- The class that a record names. -/
def TrapRec.cls (t : TrapRec) : Cls := (allCls.find? fun c => decide (c.code = efld t.r0 59 5)).getD .illeg

/-- R347: the fibre as PARK of its record says, where that is not what the fibre was saved with. -/
def Fibre.parkAs (f : Fibre) (v : Nat) : Fibre :=
  let t := match f.park with | some p => p.record | none => f.trec
  if v = parkCode f then f
  else if v = 0 then { f with park := none }
  else if v = 3 then { f with park := none, halt := some { step := true } }
  else { f with park := some ⟨decide (v = 1), t, t.cls⟩, halt := none, wait := none }

/-- R347: the fibre as its record and image give it back; one whose PC was changed has left its wait. -/
def State.restored (s : State) (base window : Nat) (f : Fibre) (m : Nat) : Fibre :=
  let ws := s.memWords (base + winOff f) window
  let pc : VAddr := BitVec.ofNat 54 (bitsOf m 0 54)
  let f : Fibre := { f with
    win := (List.range window).foldl (fun w i => KV.putD i {} (ws.getD i {}) w) [],
    pc := pc, wait := if pc = f.pc then f.wait else none,
    preds := BitVec.ofNat 8 (bitsOf m 153 8) ||| 1 }
  f.parkAs (bitsOf m 143 3)

/-- R347: the check code of an area's opaque regions holds: they are as the save left them. -/
def State.checks (s : State) (x : Nat × Saved) : Bool :=
  x.2.opq.all fun o => decide (s.peekBytes (x.1 * 2 ^ 21 + o.1) o.2.length = o.2) &&
    !s.anyPoison (x.1 * 2 ^ 21 + o.1) o.2.length

/-- Put one core's area back, as context c. -/
def Run.loadCore (r : Run s0) (c base : Nat) (sv : Saved) : Run s0 :=
  let core := sv.core
  let recs := r.s.savedRecords base sv
  let r := r.mod fun s => { s with
    gangs := sv.gangs.foldl (fun m g => KV.put g.1 (s.withBoxes { g.2 with ctx := c }) m) s.gangs,
    ops := sv.ops.foldl (fun m o => KV.put o.1 o.2 m) s.ops,
    sites := KV.put core { s.site core with
      preds := sv.preds.foldl (fun m p => KV.put p.1 p.2 m) (s.site core).preds,
      hit := (s.site core).hit ||| sv.hit, woff := sv.woff } s.sites }
  let r := r.each sv.gangs fun r g =>
    let bytes := r.s.peekBytes (base + 0x4_0000 + g.2.sbase) g.2.ssize
    let r := r.each (List.range g.2.ssize) fun r i => r.putScr (g.2.scrKey i) (bytes.getD i 0)
    let bad := r.s.memWords (base + 0x4_0000 + g.2.sbase) ((g.2.ssize + 3) / 4)
    let tiles := r.s.memWords (base + 0x10_0000 + 4096 * tileIndex sv.gangs g.2) (1024 * g.2.tiles)
    let r := r.mod fun s => { s with spoison := (List.range bad.length).foldl (fun m i =>
      let k := g.2.scrKey 0 / 4 + i
      if (bad.getD i {}).p then KV.put k () m else KV.del k m) s.spoison }
    r.each (List.range tiles.length) fun r i =>
      r.putAcc ((core * 256 + g.2.tbase) * 1024 + i) (tiles.getD i {})
  r.each (recs.filter fun x => decide (bitsOf x.2 191 1 = 1)) fun r x =>
    let f := x.1.2
    let g := (sv.gangs.find? fun g => decide (g.1 = f.gang)).map fun g => g.2.window
    let r := r.setFibre x.1.1 (r.s.restored base (g.getD 16) f x.2)
    -- a fibre released in its record resumes as under RELEASE, or RESUME where it was halted
    if !released f x.2 then r
    else if parkCode f = 3 then r.resumeFibre x.1.1 else r.restartChans x.1.1

/-- The context's values from its block and entry, on all its dies; its caches start empty. -/
def Run.loadBlock (r : Run s0) (c m : Nat) (b : Block) : Run s0 :=
  let keep (n k : Nat) : Bool := decide (k / 2 ^ n ≠ c)
  r.mod fun s => { s with
    ctxs := KV.put c { (s.ctx c).fromEntry m with
      bndtbl := b.bndtbl, pgroot := b.pgroot, defctl := b.ctl, defvec := b.vec, defroute := b.route,
      st := .running, live := true, seq := b.seq } s.ctxs,
    sites := s.sites.map fun x => (x.1, { x.2 with
      tlb := x.2.tlb.filter fun e => keep 42 e.1,
      bnd := x.2.bnd.filter fun e => keep 10 e.1 }) }

/-- R331: whether every die of an entry is free of other contexts. One that has nothing to run gives
its dies up. -/
def State.diesFree (s : State) (c : Nat) (dies : BitVec 4) : Bool :=
  s.ctxs.all fun x => decide (x.1 = c) || !x.2.live || decide (x.2.dies &&& dies = 0) ||
    (!s.resident x.1 && decide (x.2.st = .running))

/-- R331 step 3, R347 to R349: restore or start the entry that has reserved its dies. A block that a save has
not left as it is restores nothing. -/
def Run.restore (r : Run s0) (c : Nat) : Run s0 :=
  match r.s.pkg.reserved with
  | none => r
  | some (i, m) =>
    if i ≠ c ∨ r.s.devBusy then r
    else if !r.s.entryReady c m then r.updPkg fun p => { p with reserved := none }
    else if (r.s.ctx c).live ∨ !r.s.diesFree c (entDies m) then r
    else
      let blk := entBlk m
      let b := r.s.block blk
      let leave (y : Nat × Ctx) : Nat × Ctx :=
        if y.1 ≠ c ∧ y.2.live ∧ y.2.dies &&& entDies m ≠ 0 then (y.1, { y.2 with live := false }) else y
      let r := r.mod fun s => { s with ctxs := s.ctxs.map leave }
      let areas := r.s.areas b
      let bad := decide (b.st = 2 ∧ (b.seq = 0 ∨ areas = [])) || areas.any fun y =>
        !r.s.checks y || (r.s.savedRecords (y.1 * 2 ^ 21) y.2).any fun z => recordBad z.2
      -- R349: a start from the block alone
      if b.fresh then (((r.dropAreas b).loadBlock c m b).setStat blk 0 false b.seq).served c
      else if bad then (r.setStat blk b.st true b.seq).served c
      else
        let r := r.loadBlock c m b
        let r := r.each areas fun r y => r.loadCore c (y.1 * 2 ^ 21) y.2
        ((((r.runChans c).dropAreas b).retune).setStat blk 0 false b.seq).served c

def execContextRestore (ctx : Nat) (_ok : Bool) (s : State) : Host.Outcome State Fault Refusal :=
  ((Run.start s).restore ctx).out

/-! ### The end of a context (R372) -/

/-- The context's fibres, bags and queues are gone. -/
def Run.removeCtx (r : Run s0) (c : Nat) : Run s0 :=
  let gks := (r.s.ctxGangs c).map Prod.fst
  let free (p : Nat × WPred) : Nat × WPred := match p.2.gang with
    | some k => if gks.contains k then (p.1, { p.2 with gang := none, desc := 0, count := 0 }) else p
    | none => p
  let r := r.mod fun s => { s with sites := s.sites.map fun x => (x.1, { x.2 with preds := x.2.preds.map free }) }
  let r := r.clearCtx c
  -- launches still pending give their child-launch slots back
  let kids := (r.s.ctx c).pending.filterMap fun l => (r.s.launch l).child
  let r := r.each kids fun r d => r.updDie d fun d => { d with children := d.children - 1 }
  let lks := (r.s.launches.filter fun l => decide (l.2.ctx = c)).map Prod.fst
  let stopQ (w : Nat × WorkQ) : Nat × WorkQ :=
    if w.2.ctx = c then (w.1, { w.2 with cfg := w.2.cfg &&& ~~~(1#64 <<< 63) }) else w
  let drop (d : Nat × Die) : Nat × Die := (d.1, { d.2 with
    ctab := d.2.ctab.filter fun e => decide (e.2.ctx ≠ c),
    cwait := d.2.cwait.filter fun e => decide (e.ctx ≠ c) }.takeWaiting)
  let r := r.mod fun s => { s with
    -- records that the dispatcher is reading
    ops := s.ops.filter fun o => match o.2.kind with
      | .take q => decide ((s.wq q).ctx ≠ c)
      | _ => true,
    launches := s.launches.filter fun l => !lks.contains l.1,
    groups := s.groups.filter fun g => g.2.gangs.any fun k => KV.has k s.gangs ||
      s.saved.any fun y => decide (y.2.ctx ≠ c) && y.2.gangs.any fun z => decide (z.1 = k),
    saved := s.saved.filter fun y => decide (y.2.ctx ≠ c),
    wqs := s.wqs.map stopQ, dies := s.dies.map drop,
    pkg := { s.pkg with reserved := if s.pkg.reserved.map Prod.fst = some c then none else s.pkg.reserved } }
  r.updCtx c fun x => { x with live := false, st := .saved, pending := [] }

/-- The context's open bags. -/
def State.ctxBags (s : State) (c : Nat) : List Nat :=
  (s.bags.filter fun b => b.2.isOpen && decide (b.2.ctx = c)).map Prod.fst

/-- R77: the context's bags are freed as BFREE would; the context is gone once they are. -/
def Run.endBags (r : Run s0) (c : Nat) : Run s0 :=
  let r := r.each (r.s.ctxBags c) fun r k => (r.closeBag k).bagStep k
  if r.s.ctxBags c = [] then r.removeCtx c else r

/-- ENDCTX, or its next part where it has begun: the context stops as for a pre-emption (R69), and then
is gone. It is live until then, where it was. -/
def Run.endCtx (r : Run s0) (c : Nat) : Run s0 :=
  let x := r.s.ctx c
  if !x.live then r.endBags c
  else if x.st = .running ∧ r.s.midGroup c then r
  else
    let r := r.stopCtx c false
    if r.s.stopped c then r.endBags c else r

end Sys2Proof.Machine
end

