-- ==== Sys2Proof/Machine/Release.lean ====
section
/-! DEFINITION. The fault queue and the coalescing table (R336, R337), RELEASE (R338) and what its
EMULATE does to the parked instruction (R54, R321). -/

namespace Sys2Proof.Machine
variable {s0 : State}

/-! ### The fault queue (R336, R337) -/

/-- The next entry to be reported: the oldest open one that is not yet in the ring, by its index, or a
halt, by its place in the waiting list. -/
def Die.nextReport (d : Die) : Option (CEnt × Option Nat) :=
  let open_ := (d.ctab.filter fun e => !e.2.queued).map fun e => (e.2, some e.1)
  let halts := (d.cwait.filter CEnt.halt).map fun e => (e, none)
  (open_ ++ halts).foldl (fun (b : Option (CEnt × Option Nat)) x => match b with
    | none => some x
    | some y => if x.1.order < y.1.order then some x else some y) none

/-- R336: an entry of the fault queue. -/
def CEnt.bits (e : CEnt) (index : Option Nat) : Nat :=
  (index.getD 0xFFFF) * 2 ^ 304 + e.ctx % 256 * 2 ^ 296 + e.fibres.length % 2 ^ 32 * 2 ^ 256 +
    e.record.r3.toNat * 2 ^ 192 + e.record.r2.toNat * 2 ^ 128 + e.record.r1.toNat * 2 ^ 64 +
    e.record.r0.toNat

/-- The entry that `nextReport` names is in the ring; a halt that is reported is gone. -/
def Die.mark (d : Die) (e : CEnt) (index : Option Nat) : Die :=
  match index with
  | some i => { d with ctab := KV.put i { e with queued := true } d.ctab }
  | none => { d with cwait := d.cwait.filter (· ≠ e) }

/-- FAULT_QUEUE_APPEND: append the next entry and store FQTAIL, or count the waits for room. It waits while
the line is held (R253). -/
def Run.appendFault (r : Run s0) (die : Nat) : Run s0 :=
  let d := r.s.die die
  match d.nextReport with
  | none => r
  | some (e, index) =>
    if d.fqSize ≤ (d.fqtail - d.fqhead).toNat then
      r.updDie die Die.noteFull
    else
      let pa := d.fqbase.toNat + d.fqtail.toNat % d.fqSize * 64
      if r.s.devHeld pa then r else
      let r := r.devNat (48 * die) pa 64 (e.bits index)
      (r.updDie die fun d => Die.noteFull { d.mark e index with fqtail := d.fqtail + 1 }).event

def execFaultQueueAppend (die : Nat) (s : State) : Host.Outcome State Fault Refusal :=
  (if s.pkg.powered && !(s.die die).failed then (Run.start s).appendFault die else Run.start s).out

/-- R337: an entry closes, and waiting records take the room that there is. -/
def Die.close (d : Die) (i : Nat) : Die := { d with ctab := KV.del i d.ctab }.takeWaiting

/-! ### The parked instruction (R338) -/

/-- The destination field of an instruction, and its source fields in a fibre's registers. -/
def rolesOf : Instr → Option Use × List (BitVec 7)
  | .add _ d a b => (some (dst d), [a, b])
  | .sub _ d a b => (some (dst d), [a, b])
  | .mul _ d a b => (some (dst d), [a, b])
  | .mulhi _ d a b => (some (dst d), [a, b])
  | .mulhiu _ d a b => (some (dst d), [a, b])
  | .mad _ d a b => (some (dst d), [a, b, d])
  | .and _ d a b => (some (dst d), [a, b])
  | .or _ d a b => (some (dst d), [a, b])
  | .xor _ d a b => (some (dst d), [a, b])
  | .shl _ d a b => (some (dst d), [a, b])
  | .shr _ d a b => (some (dst d), [a, b])
  | .sar _ d a b => (some (dst d), [a, b])
  | .min _ d a b => (some (dst d), [a, b])
  | .max _ d a b => (some (dst d), [a, b])
  | .minu _ d a b => (some (dst d), [a, b])
  | .maxu _ d a b => (some (dst d), [a, b])
  | .addi _ d a _ => (some (dst d), [a])
  | .andi _ d a _ => (some (dst d), [a])
  | .ori _ d a _ => (some (dst d), [a])
  | .xori _ d a _ => (some (dst d), [a])
  | .shli _ d a _ => (some (dst d), [a])
  | .shri _ d a _ => (some (dst d), [a])
  | .sari _ d a _ => (some (dst d), [a])
  | .setp _ _ _ a b => (none, [a, b])
  | .setpi _ _ _ a _ => (none, [a])
  | .sel _ d a b => (some (dst d), [a, b, d])
  | .add64 _ d a b => (some (dst d 2), [a, b])
  | .adda _ d a b => (some (dst d 2), [a, b])
  | .bfx _ d a b => (some (dst d), [a, b])
  | .bfi _ d a b => (some (dst d), [a, b, d])
  | .iun _ d a _ => (some (dst d), [a])
  | .ldi _ d _ => (some (dst d), [])
  | .bra _ _ => (none, [])
  | .bru _ _ => (none, [])
  | .call _ _ => (none, [])
  | .ret _ a => (none, [a])
  | .jmpi _ a => (none, [a])
  | .exit _ => (none, [])
  | .yield _ => (none, [])
  | .spawn _ d b => (some (dst d), [b])
  | .crewjoin _ => (none, [])
  | .lxch _ d a b => (some (dst d), [a, b])
  | .lagr _ _ _ a b => (some (dst b), [a])
  | .lfold _ d a _ => (some (dst d), [a])
  | .brdec _ d _ => (some (dst d), [d])
  | .sleep _ a => (none, [a])
  | .fadd _ d a b => (some (dst d), [a, b])
  | .fsub _ d a b => (some (dst d), [a, b])
  | .fmul _ d a b => (some (dst d), [a, b])
  | .ffma _ d a b => (some (dst d), [a, b, d])
  | .fmin _ d a b => (some (dst d), [a, b])
  | .fmax _ d a b => (some (dst d), [a, b])
  | .fdiv _ d a b => (some (dst d), [a, b])
  | .fsetp _ _ _ a b => (none, [a, b])
  | .func _ d a _ => (some (dst d), [a])
  | .cvt _ d a e f k => (some (dst d (if k = 1 ∧ cvtWidth f.toNat < cvtWidth e.toNat then 2 else 1)), [a])
  | .padd2 _ d a b => (some (dst d), [a, b])
  | .pfma2 _ d a b => (some (dst d), [a, b, d])
  | .pmul2 _ d a b => (some (dst d), [a, b])
  | .dot4 _ d a b => (some (dst d), [a, b, d])
  | .dot2f _ d a b => (some (dst d), [a, b, d])
  | .ld _ d a _ _ s => (some (dst d (sizeRegs s)), [a])
  | .st _ d a _ _ _ => (none, [a, d])
  | .ldb _ d a _ _ _ => (some (dst d), [a])
  | .stb _ d a _ _ => (none, [a, d])
  | .lde _ d a _ _ s => (some (dst d (elemCount s)), [a])
  | .ste _ d a _ _ _ => (none, [a, d])
  | .atom _ d a _ _ _ w => (some (dst d (1 + w.toNat)), [a, d])
  | .cas _ d a _ _ s => (some (dst d (sizeRegs s)), [a, d])
  | .lrbegin _ s p => (some (dst s), [p])
  | .lrend _ => (none, [])
  | .fenceAcq _ => (none, [])
  | .fenceRel _ => (none, [])
  | .fenceFull _ => (none, [])
  | .cacheWb _ p l => (none, [p, l])
  | .cacheInv _ p l => (none, [p, l])
  | .cacheInvd _ p l => (none, [p, l])
  | .cachePref _ p l => (none, [p, l])
  | .lds _ d o _ _ s => (some (dst d (sizeRegs s)), [o])
  | .sts _ d o _ _ _ => (none, [o, d])
  | .atoms _ d a _ _ _ => (some (dst d), [a, d])
  | .red _ d a _ _ _ _ => (none, [a, d])
  | .put _ _ a b => (none, [a, b])
  | .putm _ d a b => (none, [d, a, b])
  | .drain _ d a b => (some (dst d), [a, b])
  | .bcount _ d h => (some (dst d 2), [h])
  | .bopen _ d p => (some (dst d), [p])
  | .bseal _ h => (none, [h])
  | .bfree _ h => (none, [h])
  | .biter _ d a b => (some (dst d 2), [a, b])
  | .gfetch _ d a b => (some (dst d 4), [a, b])
  | .probe _ d p => (some (dst d), [p])
  | .rebal _ d a b => (some (dst d 2), [a, b])
  | .copy _ s l _ _ _ _ => (none, [s, l])
  | .copyb _ p _ => (none, [p])
  | .igather _ d p => (some (dst d), [p])
  | .iscatter _ d p => (some (dst d), [p])
  | .qbind _ _ b => (none, [b])
  | .qstat _ d _ => (some (dst d), [])
  | .cpwait _ t _ => (none, [t])
  | .wave _ x r _ => (some (dst r 4), [x, r])
  | .mma _ _ a b => (none, [a, b])
  | .mmas _ _ _ a b => (none, [a, b])
  | .mmaq _ _ _ a b => (none, [a, b])
  | .accz _ _ => (none, [])
  | .accld _ _ p => (none, [p])
  | .accst _ _ p => (none, [p])
  | .accrd _ d _ b => (some (dst d), [b])
  | .accwr _ _ a b => (none, [a, b])
  | .walk _ _ p => (none, [p])
  | .nest _ _ p => (none, [p])
  | .endw _ => (none, [])
  | .barg _ d _ => (some (dst d), [])
  | .bara _ d _ _ => (some (dst d), [])
  | .barw _ v _ _ => (none, [v])
  | .barc _ d _ => (some (dst d), [])
  | .barl _ d _ => (some (dst d), [])
  | .waitf _ _ => (none, [])
  | .waitv _ v p _ _ => (none, [v, p])
  | .csrrd _ d _ => (some (dst d 2), [])
  | .csrwr _ s _ => (none, [s])
  | .trap _ a _ _ => (none, [a])
  | .rett _ => (none, [])
  | .rettF _ b => (none, [b])
  | .watch _ _ s => (none, [s])
  | .watchRd _ d _ => (some (dst d 4), [])
  | .insp _ d b _ => (some (dst d 4), [b])
  | .poke _ s b _ => (none, [s, b])
  | .step _ b => (none, [b])
  | .resume _ b => (none, [b])
  | .plog _ a _ s => if s.toNat = 0x12 then (none, [a]) else if s.toNat = 0x10 ∨ s.toNat = 0x11 then (some (dst a), [])
    else (none, [])
  | _ => (none, [])

/-- Source fields that name queues, with the elements that each would pop for the lane. -/
def State.popsOf (s : State) (g : Gang) (f : Fibre) (i : Instr) : List (Nat × Nat) :=
  let one := ((rolesOf i).2.filter fun b => isQueue b.toNat).map fun b => (b.toNat - 112, 1)
  match i with
  | .put _ d a _ => if isQueue d.toNat then
      one ++ [(d.toNat - 112, (s.bag (bagKey (readReg g f a.toNat).v.toNat)).rs / 16)] else one
  | _ => one

/-- The instruction of the hint group at an address, and its own address. -/
def State.groupInstr (s : State) (site ctx : Nat) (pc : VAddr) (n : Nat) : Option (Instr × VAddr) :=
  (s.groupAt site ctx pc (0, 15) n).map fun x => (x.2.2.1, x.2.2.2)

/-! ### RELEASE (R338) -/

/-- What a RELEASE does to each attached fibre. -/
inductive Release where
  | resume
  | redirect (pc : VAddr)
  | handler
  | emulate (lo hi : Word)
  deriving DecidableEq, Repr

/-- A fibre that HANDLER does not move: in handler mode, of a class that only the supervisor takes, or
of a gang without a handler. -/
def notForHandler (g : Gang) (f : Fibre) (cls : Cls) : Bool :=
  f.hm || decide (cls = .syncx ∨ cls = .homelost) || decide (g.trapvec = 0)

/-- R182: the issue counts that a hint group takes, from its first word to its instruction. -/
def State.groupCounts (s : State) (site ctx : Nat) (pc at_ : VAddr) : Nat :=
  (List.range ((at_ - pc).toNat / 4)).foldl (fun n i =>
    n + 1 + (match s.fetchWord site ctx (pc + BitVec.ofNat 54 (4 * i)) with
      | .ok w => match decode w with
        | .ok (.pace _ _ d) => d.toNat
        | _ => 0
      | .error _ => 0)) 1

/-- R321: the supervisor completes a barrier operation for the lane, with acquire meaning at its site. -/
def Park.acquires (p : Park) : Bool := decide (p.cls = .syncx ∧ p.record.reason = 0)

/-- R178: the queue that an emulated instruction would push to is full. -/
def State.emulateWaits (s : State) (k : Nat) : Bool :=
  let f := s.fibre k
  match f.park with
  | none => false
  | some p => match s.groupInstr f.site (s.gang f.gang).ctx p.record.pc 4 with
    | some (i, _) => match (rolesOf i).1 with
      | some u => s.queueFull f.gang u.reg
      | none => false
    | none => false

/-- EMULATE on a fibre that stands on its core. -/
def Run.emulate (r : Run s0) (k : Nat) (p : Park) (lo hi : Word) : Run s0 :=
  let f := r.s.fibre k
  let g := r.s.gang f.gang
  let pc := p.record.pc
  let r := if p.acquires then r.acquire f.site else r
  match r.s.groupInstr f.site g.ctx pc 4 with
  | none => r.resumeAt k (pc + 4)
  | some (i, at_) =>
    let n := r.s.groupCounts f.site g.ctx pc at_
    let r := r.each (r.s.popsOf g f i) fun r x => r.each (List.range x.2) fun r _ => r.pop f.gang x.1
    let r := match (rolesOf i).1 with
      | none => r
      | some u =>
        let vs : List PW := ([lo, hi].take u.w).map fun v => { v := v }
        if isQueue u.reg then r.push f.gang (u.reg - 112) vs
        else r.updFibre k fun f => (List.range vs.length).foldl (fun f j =>
          f.writeNow (u.reg + j) (vs.getD j {})) f
    (r.resumeAt k (at_ + 4)).updFibre k fun f => { f with count := f.count + n }

/-- RELEASE of one attached fibre that stands on its core. -/
def Run.releaseFibre (r : Run s0) (k : Nat) (x : Release) : Run s0 :=
  let f := r.s.fibre k
  match f.park with
  | none => r
  | some p =>
    if !p.sup then r else
    match x with
    | .resume => r.resumeAt k p.record.pc
    | .redirect pc => r.resumeAt k pc
    | .handler => r.updFibre k fun f => { f with
        trec := p.record, hm := true, pc := (r.s.gang f.gang).trapvec, park := none }
    | .emulate lo hi => r.emulate k p lo hi

/-- Where a saved fibre's record is: the core area, and its place there. -/
def State.savedAt (s : State) (k : Nat) : Option (Nat × Nat × Saved × Fibre) :=
  s.saved.findSome? fun x =>
    (x.2.fibres.findIdx? fun f => decide (f.1 = k)).map fun i => (x.1 * 2 ^ 21, i, x.2, (x.2.fibres.getD i (0, {})).2)

/-- Write PC, PARK and HM of a saved fibre's record (R338, R346). -/
def Run.editRecord (r : Run s0) (core base i : Nat) (pc : VAddr) (hm : Bool) : Run s0 :=
  let pa := base + 0x14_2000 + 64 * i
  let m := r.s.peekNat pa 64
  let m := m - bitsOf m 0 54 + pc.toNat - bitsOf m 143 3 * 2 ^ 143 +
    (if hm ∧ bitsOf m 146 1 = 0 then 2 ^ 146 else 0)
  r.devNat core pa 64 m

/-- Change a fibre of an area, or its gang. -/
def Run.editSaved (r : Run s0) (base i : Nat) (f : Fibre → Fibre) (g : Gang → Gang) : Run s0 :=
  r.mod fun s => { s with saved := KV.update (base / 2 ^ 21) (fun sv =>
    let gk := (sv.fibres.getD i (0, {})).2.gang
    { sv with
      fibres := (List.range sv.fibres.length).map fun j =>
        let x := sv.fibres.getD j (0, {})
        if j = i then (x.1, f x.2) else x
      gangs := sv.gangs.map fun x => if x.1 = gk then (x.1, g x.2) else x }) s.saved }

/-- A saved gang's queue takes an element: into its ring in the saved scratchpad, or as a MAILBOX packet. -/
def Run.pushSaved (r : Run s0) (core base i : Nat) (g : Gang) (q : Nat) (vs : List PW) : Run s0 :=
  match KV.find? q g.queues with
  | none => r
  | some x =>
    let upd (r : Run s0) (h : Queue → Queue) : Run s0 :=
      r.editSaved base i id fun g => { g with queues := KV.update q h g.queues }
    if x.kind = 3 then
      (upd r fun y => { y with unread := y.unread + 1 }).sendMail g.ctx x 0 vs
    else
      let at_ := base + 0x4_0000 + g.sbase + x.base + (x.tail % x.slots) * (4 * x.regs)
      upd (r.devWrite core at_ (markedBytes vs)) fun y => { y with tail := y.tail + 1 }

/-- RELEASE of one attached fibre that is saved: it takes effect in its record and images. -/
def Run.releaseSaved (r : Run s0) (k : Nat) (x : Release) : Run s0 :=
  match r.s.savedAt k with
  | none => r
  | some (base, i, sv, f) =>
    match f.park with
    | none => r
    | some p =>
      if !p.sup then r else
      let ctx := sv.ctx
      let core := sv.core
      let g := ((sv.gangs.find? fun g => decide (g.1 = f.gang)).map Prod.snd).getD {}
      match x with
      | .resume => r.editRecord core base i p.record.pc false
      | .redirect pc => r.editRecord core base i pc false
      | .handler => (r.editRecord core base i g.trapvec true).editSaved base i
          (fun f => { f with trec := p.record, hm := true, park := none }) id
      | .emulate lo hi =>
        match r.s.groupInstr core ctx p.record.pc 4 with
        | none => (r.editRecord core base i (p.record.pc + 4) false).editSaved base i
            (fun f => { f with park := none }) id
        | some (ins, at_) =>
          let n := r.s.groupCounts core ctx p.record.pc at_
          let pops := r.s.popsOf g f ins
          let popped (g : Gang) : Gang := { g with queues := pops.foldl (fun qs x =>
            KV.update x.1 (fun q => if q.kind = 3 then q else { q with head := q.head + x.2 }) qs) g.queues }
          let r := (r.editRecord core base i (at_ + 4) false).editSaved base i
            (fun f => { f with park := none, count := f.count + n }) popped
          -- elements of a mailbox wait in the package
          let boxes := pops.filterMap fun x => match KV.find? x.1 g.queues with
            | some q => if q.kind = 3 then some (q.mbox, x.2) else none
            | none => none
          let r := r.each boxes fun r x => r.popMail ctx x.1 x.2
          match (rolesOf ins).1 with
          | none => r
          | some u =>
            if isQueue u.reg then
              r.pushSaved core base i (popped g) (u.reg - 112) (([lo, hi].take u.w).map fun v => { v := v })
            else r.each (List.range (min 2 u.w)) fun r j =>
              if 96 ≤ u.reg + j then r
              else (r.devNat core (base + winOff f + 4 * (u.reg + j)) 4
                (if j = 0 then lo else hi).toNat).editSaved base i
                  (fun f => f.writeNow (u.reg + j) { v := if j = 0 then lo else hi }) id

/-- The attached fibres that HANDLER may not move. -/
def State.handlerRefused (s : State) (e : CEnt) : Bool :=
  e.fibres.any fun k =>
    match KV.find? k s.fibres with
    | some f => notForHandler (s.gang f.gang) f e.cls
    | none => match s.savedAt k with
      | some (_, _, sv, f) =>
        notForHandler (((sv.gangs.find? fun g => decide (g.1 = f.gang)).map Prod.snd).getD {}) f e.cls
      | none => false

/-- R338: a RELEASE closes an entry, and acts on every fibre attached now. -/
def Run.release (r : Run s0) (die entry : Nat) (x : Release) : Run s0 :=
  match KV.find? entry (r.s.die die).ctab with
  | none => r
  | some e =>
    let r := r.each e.fibres fun r k =>
      if KV.has k r.s.fibres then r.releaseFibre k x else r.releaseSaved k x
    r.updDie die fun d => d.close entry

end Sys2Proof.Machine
end

