-- ==== Sys2Proof/Machine/Commands.lean ====
section
/-! DEFINITION. The command rings of the dies (R372 to R374) and the commands: ZEROPAGE (R31), XINVAL
(R26), RELEASE (R338), PREEMPT, QUIESCE, RESUMECTX, ENDCTX (R339), DBGACC (R359 to R361), BNDSYNC
(R15). -/

namespace Sys2Proof.Machine
variable {s0 : State}

/-! ### Taking a command (R373) -/

/-- A die takes commands once it is up. -/
def State.dieUp (s : State) (die : Nat) : Bool :=
  decide (die < 4) && s.pkg.powered && !(s.die die).failed

/-- R373: a die that has started no command has one to start. -/
def State.wantsEntry (s : State) (die : Nat) : Bool :=
  let d := s.die die
  s.dieUp die && d.cmd.isNone && decide (d.mchead ≠ d.mctail)
/-- The cells of the words of the entry. -/
def State.entryCells (s : State) (die : Nat) : List (Nat × Bool) :=
  let d := s.die die
  (List.range 16).map fun i => (d.mcbase.toNat + d.mchead.toNat % 256 * 64 + 4 * i, false)
/-- The die's read of an entry that lies in a window. -/
def State.entryRead (s : State) (die : Nat) : Option (Nat × Op) :=
  s.ops.find? fun o => decide (o.2.kind = .command die)
def State.entryGot (s : State) (die : Nat) : List (Nat × PW) :=
  match s.entryRead die with | some o => o.2.got | none => []

/-- R373: the entry that the die starts next, read with acquire meaning; none while it is still to be read.
One that the device cannot read is never started (log entry 43). -/
def State.nextEntry (s : State) (die : Nat) : Option Nat :=
  let ws := s.ncWords (s.entryGot die) (s.entryCells die)
  if s.wantsEntry die && decide (s.unread (s.entryGot die) (s.entryCells die) = []) && !ws.any PW.p then
    some (wordsVal ws)
  else none

/-- Ask for an entry that lies in a window. -/
def Run.askEntry (r : Run s0) (die : Nat) : Run s0 :=
  if !r.s.wantsEntry die then r
  else
    let l := r.s.unread (r.s.entryGot die) (r.s.entryCells die)
    if !l.any fun c => r.s.remote c.1 then r
    else match r.s.entryRead die with
      | some o => r.askWords 0 (48 * die) o.1 l
      | none =>
        let id := r.s.nextId
        (r.bump.mod fun s => { s with ops := KV.put id { kind := .command die, site := 48 * die } s.ops }).askWords
          0 (48 * die) id l

/-- The die starts a command: its entry has been read. -/
def Run.startCommand (r : Run s0) (die : Nat) (c : Cmd) : Run s0 :=
  let r := match r.s.entryRead die with | some o => r.delOp o.1 | none => r
  r.updDie die fun d => { d with mchead := d.mchead + 1, cmd := some c }

/-- R373: the fields of an entry. -/
def cmdOf (m : Nat) : Cmd where
  code := bitsOf m 0 8
  ev := decide (bitsOf m 8 1 = 1)
  caddr := bitsOf m 66 50 * 4
  op0 := BitVec.ofNat 64 (bitsOf m 128 64)
  op1 := BitVec.ofNat 64 (bitsOf m 192 64)
  op2 := BitVec.ofNat 64 (bitsOf m 256 64)
  op3 := BitVec.ofNat 64 (bitsOf m 320 64)

/-- R373: a reserved bit. -/
def cmdReserved (m : Nat) : Bool :=
  decide (bitsOf m 384 128 ≠ 0 ∨ bitsOf m 116 12 ≠ 0 ∨ bitsOf m 9 57 ≠ 0)

/-- The kind of a DBGACC, and the action of a RELEASE (R374). -/
def Cmd.kind (c : Cmd) : Nat := efld c.op0 48 3
def Cmd.action (c : Cmd) : Nat := efld c.op0 16 3

/-- R372: an unknown code, action or kind. -/
def Cmd.unknown (c : Cmd) : Bool :=
  decide (c.code = 0 ∨ 9 < c.code ∨ (c.code = 3 ∧ 5 ≤ c.action) ∨ (c.code = 8 ∧ 6 ≤ c.kind))

/-- Start the next command of a die, or go on with the one under way, where it is one of `mine`. `f`
gives its status, or none while it is not complete. -/
def Run.onCommand (r : Run s0) (die : Nat) (mine : Cmd → Bool) (f : Run s0 → Cmd → Run s0 × Option Nat) :
    Run s0 :=
  let go (r : Run s0) (c : Cmd) : Run s0 :=
    let y := f r c
    match y.2 with
    | none => y.1
    | some st => y.1.updDie die fun d => { d with cmd := d.cmd.map fun c => { c with status := some st } }
  match (r.s.die die).cmd with
  | some c => if r.s.dieUp die && c.status.isNone && mine c then go r c else r
  | none =>
    match r.s.nextEntry die with
    | none => r.askEntry die
    | some m =>
      let c := cmdOf m
      if cmdReserved m || c.unknown || !mine c then r else go (r.startCommand die c) c

/-- UNKNOWN_COMMAND_CODE: status 1, nothing is done. -/
def Run.refuseCommand (r : Run s0) (die : Nat) : Run s0 :=
  match r.s.nextEntry die with
  | none => r.askEntry die
  | some m =>
    let c := cmdOf m
    if cmdReserved m || c.unknown then r.startCommand die { c with status := some 1 } else r

def execUnknownCommandCode (die : Nat) (s : State) : Host.Outcome State Fault Refusal :=
  ((Run.start s).refuseCommand die).out

/-- COMMAND_COMPLETE: the release store of the status, and the EVENT that the entry asks for. It waits for
the device's earlier writes, and while the line is held (R253). -/
def Run.completeCommand (r : Run s0) (die : Nat) : Run s0 :=
  match (r.s.die die).cmd with
  | none => r
  | some c =>
    match c.status with
    | none => r
    | some st =>
      if r.s.devHeld c.caddr then r else
      let r := r.devNat (48 * die) c.caddr 4 st
      let r := r.updDie die fun d => { d with cmd := none }
      if c.ev then r.event else r

def execCommandComplete (die : Nat) (s : State) : Host.Outcome State Fault Refusal :=
  (if s.dieUp die then (Run.start s).completeCommand die else Run.start s).out

/-! ### Operands (R374) -/

/-- The ring index of OP0, where it names an entry. -/
def State.cmdCtx (s : State) (op0 : DWord) : Option Nat :=
  let i := efld op0 0 8
  if i < s.ringSize then some i else none

/-- OP0 holds a ring index alone, and the other operands are 0. -/
def Cmd.indexOnly (c : Cmd) : Bool := decide (c.op0.toNat < 256 ∧ c.op1 = 0 ∧ c.op2 = 0 ∧ c.op3 = 0)

/-! ### ZEROPAGE (R31) -/

/-- R31: the range lies in one DRAM stack or in carved SRAM; an empty one is anywhere (log entry 35). -/
def State.zeroable (s : State) (base n : Nat) : Bool :=
  decide (base % 4096 = 0) && decide (n % 4096 = 0) &&
  (decide (n = 0) || match place base, place (base + n - 1) with
    | .dram a, .dram b => decide (a = b)
    | .sram d u, .sram e v => decide (d = e) &&
        (List.range (v + 1)).all fun k => decide (k < u) || (decide (k < 12) && (s.die d).ready.getLsbD k)
    | _, _ => false)

/-- R31 steps 1 and 2. The range is zeroed in the ordinary map, whatever pages map it (log entry 35). -/
def Run.zeroPages (r : Run s0) (base n : Nat) : Run s0 :=
  let inside (pa : Nat) : Bool := decide (base ≤ pa) && decide (pa < base + n)
  let r := r.mod fun s => { s with
    l1 := s.l1.filter fun e => !inside (e.1 % 2 ^ 50 * 4),
    fcache := s.fcache.filter fun e => !inside (e.1 % 2 ^ 50 * 4),
    sram := s.sram.filter fun e => !inside (e.1 * 128),
    -- R114: a page that was lost with its holder is usable again
    pkg := { s.pkg with lost := s.pkg.lost.filter fun x => !inside (x.1 * 128) } }
  let r := r.each ((r.s.dirs.filter fun d => inside (d.1 * 128)).map Prod.fst) fun r line => r.discardLine line
  (r.zeroMem base n).mod fun s => { s with
    mpoison := KV.delRange (base / 4) (n / 4) s.mpoison,
    dpoison := KV.delRange (base / 64) (n / 64) s.dpoison }

def Run.cmdZeropage (r : Run s0) (c : Cmd) : Run s0 × Option Nat :=
  if c.op2 ≠ 0 ∨ c.op3 ≠ 0 then (r, some 1)
  else if r.s.zeroable c.op0.toNat c.op1.toNat then (r.zeroPages c.op0.toNat c.op1.toNat, some 0)
  else (r, some 3)

def execZeropage (die : Nat) (s : State) : Host.Outcome State Fault Refusal :=
  ((Run.start s).onCommand die (fun c => decide (c.code = 1)) fun r c => r.cmdZeropage c).out

/-! ### XINVAL (R26) -/

/-- Drop the cached leaves of a context that translate part of a range. -/
def Run.dropLeaves (r : Run s0) (ctx base n : Nat) : Run s0 :=
  let hit (e : Nat × Nat × DWord) : Bool :=
    let size := pageSize e.2.1 * runLen e.2.2
    let lo := e.1 % 2 ^ 42 * 4096 / size * size
    decide (e.1 / 2 ^ 42 = ctx) && decide (lo < base + n) && decide (base < lo + size)
  r.mod fun s => { s with sites := s.sites.map fun x =>
    (x.1, { x.2 with tlb := x.2.tlb.filter fun e => !hit e }) }

/-- Accesses of a context from before the command that are still in flight, its fibres' and those of the
dispatcher to its queues. A copy and a stepped fibre make theirs anew. -/
def State.oldAccess (s : State) (ctx mark : Nat) : Bool :=
  (s.ops.any fun o => match o.2.kind with
    | .take q => decide (o.1 < mark) && decide ((s.wq q).ctx = ctx) && s.hasChild o.1
    | _ => false) ||
  (s.ctxOps ctx).any fun o => decide (o.1 < mark) && o.2.isOpen && (match o.2.kind with
    | .copy _ _ _ _ _ _ => s.hasChild o.1
    | .step _ => false
    | _ => true)

def Run.cmdXinval (r : Run s0) (die : Nat) (c : Cmd) : Run s0 × Option Nat :=
  match r.s.cmdCtx c.op0 with
  | none => (r, some 1)
  | some ctx =>
    let base := c.op1.toNat
    let n := if c.op2 = 0 then 2 ^ 54 else c.op2.toNat
    if 256 ≤ c.op0.toNat ∨ 2 ^ 54 ≤ base ∨ base % 4096 ≠ 0 ∨ c.op2.toNat % 4096 ≠ 0 ∨ c.op3 ≠ 0 ∨
        (c.op2 ≠ 0 ∧ 2 ^ 54 < base + n) then (r, some 1)
    else
      let r := if c.mark = 0 then
          let m := r.s.nextId
          (r.dropLeaves ctx (if c.op2 = 0 then 0 else base) n).updDie die fun d =>
            { d with cmd := d.cmd.map fun c => { c with mark := m } }
        else r
      let mark := if c.mark = 0 then r.s.nextId else c.mark
      (r, if r.s.oldAccess ctx mark then none else some 0)

def execXinval (die : Nat) (s : State) : Host.Outcome State Fault Refusal :=
  ((Run.start s).onCommand die (fun c => decide (c.code = 2)) fun r c => r.cmdXinval die c).out

/-! ### RELEASE (R338) -/

/-- The operands of a RELEASE that its action leaves unused are 0, and its entry is open. -/
def State.releaseBad (s : State) (die : Nat) (c : Cmd) : Bool :=
  let a := c.action
  decide (efld c.op0 9 7 ≠ 0 ∨ efld c.op0 19 45 ≠ 0 ∨ c.op3 ≠ 0) ||
  (if a = 1 then decide (2 ^ 54 ≤ c.op1.toNat ∨ c.op1.toNat % 4 ≠ 0) else decide (c.op1 ≠ 0)) ||
  (decide (a ≠ 3) && decide (c.op2 ≠ 0)) ||
  !KV.has (efld c.op0 0 9) (s.die die).ctab

def Run.cmdRelease (r : Run s0) (die : Nat) (c : Cmd) (x : Release) : Run s0 × Option Nat :=
  if r.s.releaseBad die c then (r, some 1) else (r.release die (efld c.op0 0 9) x, some 0)

def releaseIs (a : Nat) (c : Cmd) : Bool := decide (c.code = 3) && decide (c.action = a)

def execReleaseResume (die : Nat) (s : State) : Host.Outcome State Fault Refusal :=
  ((Run.start s).onCommand die (releaseIs 0) fun r c => r.cmdRelease die c .resume).out
def execReleaseRedirect (die : Nat) (s : State) : Host.Outcome State Fault Refusal :=
  ((Run.start s).onCommand die (releaseIs 1) fun r c =>
    r.cmdRelease die c (.redirect (c.op1.extractLsb' 0 54))).out
/-- R338: EMULATE waits while a queue that an attached fibre would push to is full (R178). -/
def Run.cmdEmulate (r : Run s0) (die : Nat) (c : Cmd) : Run s0 × Option Nat :=
  let fibres := match KV.find? (efld c.op0 0 9) (r.s.die die).ctab with
    | some e => e.fibres
    | none => []
  if fibres.any r.s.emulateWaits then (r, none)
  else r.cmdRelease die c (.emulate (c.op2.extractLsb' 0 32) (c.op2.extractLsb' 32 32))

def execReleaseEmulate (die : Nat) (s : State) : Host.Outcome State Fault Refusal :=
  ((Run.start s).onCommand die (releaseIs 3) fun r c =>
    r.cmdEmulate die c).out

/-- R338, R372: HANDLER is refused, and moves no fibre, where it may not move one. -/
def Run.cmdHandler (r : Run s0) (die : Nat) (c : Cmd) : Run s0 × Option Nat :=
  if r.s.releaseBad die c then (r, some 1)
  else match KV.find? (efld c.op0 0 9) (r.s.die die).ctab with
    | none => (r, some 1)
    | some e => if r.s.handlerRefused e then (r, some 2) else r.cmdRelease die c .handler

def execReleaseHandler (die : Nat) (s : State) : Host.Outcome State Fault Refusal :=
  ((Run.start s).onCommand die (releaseIs 2) fun r c => r.cmdHandler die c).out

/-- A context ends; complete once it is gone. -/
def Run.ended (r : Run s0) (ctx : Nat) : Run s0 × Option Nat :=
  let r := r.endCtx ctx
  (r, if (r.s.ctx ctx).live || decide (r.s.ctxBags ctx ≠ []) then none else some 0)

/-- R338: END ends the context of the entry. -/
def Run.cmdEnd (r : Run s0) (die : Nat) (c : Cmd) : Run s0 × Option Nat :=
  if r.s.releaseBad die c then (r, some 1)
  else match KV.find? (efld c.op0 0 9) (r.s.die die).ctab with
    | none => (r, some 1)
    | some e => r.ended e.ctx

def execReleaseEnd (die : Nat) (s : State) : Host.Outcome State Fault Refusal :=
  ((Run.start s).onCommand die (releaseIs 4) fun r c => r.cmdEnd die c).out

/-! ### PREEMPT, QUIESCE, RESUMECTX, ENDCTX -/

/-- A command on a context that its ring index names. -/
def Run.onCtx (r : Run s0) (c : Cmd) (f : Run s0 → Nat → Run s0 × Option Nat) : Run s0 × Option Nat :=
  if !c.indexOnly then (r, some 1)
  else match r.s.cmdCtx c.op0 with
    | none => (r, some 1)
    | some i => f r i

/-- Complete once the save-status word is stored; a context that is on no die has nothing to save. -/
def Run.cmdPreempt (r : Run s0) (c : Cmd) : Run s0 × Option Nat :=
  r.onCtx c fun r i =>
    let r := r.preempt i
    (r, if (r.s.ctx i).live then none else some 0)

def execPreempt (die : Nat) (s : State) : Host.Outcome State Fault Refusal :=
  ((Run.start s).onCommand die (fun c => decide (c.code = 4)) fun r c => r.cmdPreempt c).out

def Run.cmdQuiesce (r : Run s0) (c : Cmd) : Run s0 × Option Nat :=
  r.onCtx c fun r i =>
    let r := r.quiesce i
    (r, if (r.s.ctx i).live ∧ (r.s.ctx i).st ≠ .quiesced then none else some 0)

def execQuiesce (die : Nat) (s : State) : Host.Outcome State Fault Refusal :=
  ((Run.start s).onCommand die (fun c => decide (c.code = 5)) fun r c => r.cmdQuiesce c).out

/-- R339: a context that is not quiesced is left as it is, with status 2. -/
def Run.cmdResumectx (r : Run s0) (c : Cmd) : Run s0 × Option Nat :=
  r.onCtx c fun r i =>
    if (r.s.ctx i).live ∧ (r.s.ctx i).st = .quiesced then (r.resumeCtx i, some 0) else (r, some 2)

def execResumectx (die : Nat) (s : State) : Host.Outcome State Fault Refusal :=
  ((Run.start s).onCommand die (fun c => decide (c.code = 6)) fun r c => r.cmdResumectx c).out

def execEndctx (die : Nat) (s : State) : Host.Outcome State Fault Refusal :=
  ((Run.start s).onCommand die (fun c => decide (c.code = 7)) fun r c =>
    r.onCtx c fun r i => r.ended i).out

/-! ### DBGACC (R359 to R361, R374) -/

/-- What a DBGACC names: context, gang, fid, selector or predicate number. -/
structure DbgTarget where
  ctx : Nat
  core : Nat
  slot : Nat
  fid : Nat
  all : Bool
  sel : Nat
  deriving DecidableEq, Repr

def Cmd.dbg (c : Cmd) : DbgTarget where
  ctx := efld c.op0 0 8
  core := efld c.op0 8 8
  slot := efld c.op0 16 4
  fid := efld c.op0 32 10
  all := c.op0.getLsbD 42
  sel := efld c.op0 56 8

/-- R374: an operand out of range, or an unused bit that is set. -/
def State.dbgBad (s : State) (c : Cmd) : Bool :=
  let t := c.dbg
  let k := c.kind
  decide (s.ringSize ≤ t.ctx ∨ 192 ≤ t.core ∨ efld c.op0 20 12 ≠ 0 ∨ efld c.op0 43 5 ≠ 0 ∨
    efld c.op0 51 5 ≠ 0) ||
  (t.all && decide (k ≠ 3 ∨ t.fid ≠ 0)) ||
  (decide (4 ≤ k) && decide (t.fid ≠ 0 ∨ 16 ≤ t.sel)) ||
  (decide (k = 2 ∨ k = 3) && decide (t.sel ≠ 0)) ||
  (if k ≤ 1 then decide (2 ^ 32 ≤ c.op1.toNat) else decide (c.op1 ≠ 0)) ||
  (decide (k ≠ 1 ∧ k ≠ 4) && decide (c.op2 ≠ 0 ∨ c.op3 ≠ 0))

/-- The gang of a DBGACC, with debug enabled. -/
def State.dbgGang (s : State) (c : Cmd) : Option (Nat × Gang) :=
  let t := c.dbg
  s.gangs.find? fun g => decide (g.2.ctx = t.ctx) && decide (g.2.core = t.core) &&
    decide (g.2.slot = t.slot) && g.2.dbg

/-- The four data words of a DBGACC. -/
def Cmd.words (c : Cmd) : List PW := words2 c.op2 ++ words2 c.op3

/-- R374: the result words stand at CADDR + 16. -/
def Run.dbgResult (r : Run s0) (die : Nat) (c : Cmd) (ws : List PW) : Run s0 :=
  r.devWrite (48 * die) (c.caddr + 16) (markedBytes ws)

/-- A DBGACC on a gang. -/
def Run.onGang (r : Run s0) (c : Cmd) (f : Run s0 → Nat → Gang → Run s0 × Option Nat) :
    Run s0 × Option Nat :=
  if r.s.dbgBad c then (r, some 1)
  else match r.s.dbgGang c with
    | none => (r, some 2)
    | some (k, g) => f r k g

/-- A DBGACC on a halted fibre. -/
def Run.onHalted (r : Run s0) (c : Cmd) (f : Run s0 → Nat → Gang → Run s0 × Option Nat) :
    Run s0 × Option Nat :=
  r.onGang c fun r gk g => match r.s.haltedAt gk c.dbg.fid with
    | none => (r, some 2)
    | some k => f r k g

/-- R291: the item is an accumulator with operations of the target still under way. -/
def State.itemBusy (s : State) (g : Gang) (k sel ix : Nat) : Bool :=
  decide (sel = 0x64) && s.ops.any fun o => o.2.isOpen && o.2.hasFibre k &&
    o.2.tiles.contains (itemElem g ix / 1024)

def Run.dbgInsp (r : Run s0) (die : Nat) (c : Cmd) : Run s0 × Option Nat :=
  r.onHalted c fun r k g =>
    let ix := c.op1.toNat
    if (itemErr g c.dbg.sel ix).isSome then (r, some 1)
    else if r.s.itemBusy g k c.dbg.sel ix then (r, none)
    else (r.dbgResult die c (r.s.item k c.dbg.sel ix), some 0)

def Run.dbgPoke (r : Run s0) (c : Cmd) : Run s0 × Option Nat :=
  r.onHalted c fun r k g =>
    let ix := c.op1.toNat
    if (itemErr g c.dbg.sel ix).isSome ∨ (pokeErr c.dbg.sel c.words).isSome then (r, some 1)
    else if r.s.itemBusy g k c.dbg.sel ix then (r, none)
    else (r.setItem k c.dbg.sel ix c.words, some 0)

/-- STEP completes when its target has halted again, is parked, or has exited. -/
def Run.dbgStep (r : Run s0) (die : Nat) (c : Cmd) : Run s0 × Option Nat :=
  match c.target with
  | some k => (r, if r.s.stepDone k then some 0 else none)
  | none => r.onHalted c fun r k _ =>
      ((r.unhalt k true).updDie die fun d => { d with cmd := d.cmd.map fun c => { c with target := some k } },
       none)

def Run.dbgResume (r : Run s0) (c : Cmd) : Run s0 × Option Nat :=
  if c.dbg.all then r.onGang c fun r gk _ => (r.resumeGang gk, some 0)
  else r.onHalted c fun r k _ => (r.resumeFibre k, some 0)

def Run.dbgWatchSet (r : Run s0) (c : Cmd) : Run s0 × Option Nat :=
  r.onGang c fun r gk g =>
    let d := groupBits c.words
    if watchBad d then (r, some 1)
    else if r.s.watchTaken g.core gk c.dbg.sel then (r, some 2)
    else (r.setWatch g.core gk c.dbg.sel d, some 0)

def Run.dbgWatchRead (r : Run s0) (die : Nat) (c : Cmd) : Run s0 × Option Nat :=
  r.onGang c fun r _ g =>
    (r.dbgResult die c (wordsOf 4 (r.s.watchOf g.core g.ctx c.dbg.sel).toNat), some 0)

def dbgIs (k : Nat) (c : Cmd) : Bool := decide (c.code = 8) && decide (c.kind = k)

def execDbgaccInsp (die : Nat) (s : State) : Host.Outcome State Fault Refusal :=
  ((Run.start s).onCommand die (dbgIs 0) fun r c => r.dbgInsp die c).out
def execDbgaccPoke (die : Nat) (s : State) : Host.Outcome State Fault Refusal :=
  ((Run.start s).onCommand die (dbgIs 1) fun r c => r.dbgPoke c).out
def execDbgaccStep (die : Nat) (s : State) : Host.Outcome State Fault Refusal :=
  ((Run.start s).onCommand die (dbgIs 2) fun r c => r.dbgStep die c).out
def execDbgaccResume (die : Nat) (s : State) : Host.Outcome State Fault Refusal :=
  ((Run.start s).onCommand die (dbgIs 3) fun r c => r.dbgResume c).out
def execDbgaccWatchSet (die : Nat) (s : State) : Host.Outcome State Fault Refusal :=
  ((Run.start s).onCommand die (dbgIs 4) fun r c => r.dbgWatchSet c).out
def execDbgaccWatchRead (die : Nat) (s : State) : Host.Outcome State Fault Refusal :=
  ((Run.start s).onCommand die (dbgIs 5) fun r c => r.dbgWatchRead die c).out

/-! ### BNDSYNC (R15) -/

def Run.cmdBndsync (r : Run s0) (c : Cmd) : Run s0 × Option Nat :=
  match r.s.cmdCtx c.op0 with
  | none => (r, some 1)
  | some ctx =>
    if 256 ≤ c.op0.toNat ∨ c.op2 ≠ 0 ∨ c.op3 ≠ 0 then (r, some 1)
    else
      let v : DWord := maskBits c.op1 14 38 ||| maskBits c.op1 0 1
      let r := r.devNat 0 (entBlk (r.s.ringEntry ctx) + 24) 8 v.toNat
      let r := (r.updCtx ctx fun x => { x with bndtbl := v }).mod fun s => { s with sites := s.sites.map fun x =>
        (x.1, { x.2 with bnd := x.2.bnd.filter fun e => decide (e.1 / 1024 ≠ ctx) }) }
      (r, some 0)

def execBndsync (die : Nat) (s : State) : Host.Outcome State Fault Refusal :=
  ((Run.start s).onCommand die (fun c => decide (c.code = 9)) fun r c => r.cmdBndsync c).out

end Sys2Proof.Machine
end

