-- ==== Sys2Proof/Machine/Errors.lean ====
section
/-! DEFINITION. Errors of storage and datapaths (R52 to R55): which are corrected and which poison, how
each is logged, and the patrol scrub. An error that a read or a crossing finds is one step of its own,
when the free value `Config.upset` says (log entry 37). -/

namespace Sys2Proof.Machine
variable {s0 : State}

/-! ### What an uncorrectable error spoils -/

/-- The two words of a 64-bit granule, as bits of the line's word mask. -/
def granule (word : Nat) : BitVec 32 := 3#32 <<< (word % 32 / 2 * 2)

/-- A granule of the L2 or of carved SRAM. -/
def Run.spoilHome (r : Run s0) (word : Nat) : Run s0 :=
  r.setHomePoison (word / 32) (r.s.homePoison (word / 32) ||| granule word)

/-- A granule of the stacked SRAM: of a line that the cache there holds, or of carved storage. -/
def Run.spoilSram (r : Run s0) (word : Nat) : Run s0 :=
  let line := word / 32
  if isDram (4 * word) then
    (r.mod fun s => { s with sram := KV.update line (fun x =>
      { x with poison := x.poison ||| granule word }) s.sram }).viewBelow line
  else if (r.s.dir line).inL2 then r else r.spoilHome word

/-- A codeword of DRAM: its block of 64 bytes is marked. -/
def Run.spoilDram (r : Run s0) (word : Nat) : Run s0 :=
  (r.mod fun s => { s with dpoison := KV.put (word / 16) () s.dpoison }).viewBelow (word / 32)

/-- A granule of a core's L1. -/
def Run.spoilL1 (r : Run s0) (key : Nat) : Run s0 :=
  r.mod fun s => { s with l1 := [key / 2 * 2, key / 2 * 2 + 1].foldl (fun m k =>
    KV.update k (fun x => { x with p := true }) m) s.l1 }

/-- A register of a fibre. -/
def Run.spoilReg (r : Run s0) (k n : Nat) : Run s0 :=
  r.updFibre k fun f => { f with win := KV.put n { KV.getD n {} f.win with p := true } f.win }

/-! ### An error is found -/

/-- R382: the package has come up. -/
def State.up (s : State) : Bool := s.pkg.powered && s.pkg.complete

/-- Where an error may lie at all: its unit, the unit's number and the address of the log (R370), and
the die that logs it. -/
def State.errorSite (s : State) : Config.Place → Option (Nat × Nat × Nat × Nat)
  | .reg k n => match KV.find? k s.fibres with
    | some f => if n < (s.gang f.gang).window then some (6, unitOf f.site, n, dieOf f.site) else none
    | none => none
  | .result k n => match KV.find? k s.fibres with
    | some f => if n < (s.gang f.gang).window then some (8, unitOf f.site, n, dieOf f.site) else none
    | none => none
  | .scratch w => if 4 * w < scrTop then some (5, unitOf (4 * w / 2 ^ 20), 4 * w, dieOf (4 * w / 2 ^ 20)) else none
  | .l1 k => if KV.has k s.l1 then some (4, k / 2 ^ 50, k % 2 ^ 50 * 4, dieOf (k / 2 ^ 50)) else none
  | .l2 w => if (s.dir (w / 32)).inL2 then
      some (3, (s.dir (w / 32)).slice, 4 * w, (s.dir (w / 32)).holder) else none
  | .sram w => if KV.has (w / 32) s.sram || (!isDram (4 * w) && s.ready (4 * w)) then
      some (2, w / 32 % 24, 4 * w, homeDie (4 * w)) else none
  | .dram w => match place (4 * w) with
    | .dram k => some (0, k, 4 * w, k / 3)
    | _ => none
  | .link w => match place (4 * w) with
    | .dram k => some (1, k, 4 * w, k / 3)
    | _ => none
  | .acc e => some (7, e / 1024 / 256, e, dieOf (e / 1024 / 256))

/-- R54: what is wrong beyond correction is marked. -/
def Run.spoil (r : Run s0) : Config.Place → Run s0
  | .reg k n => r.spoilReg k n
  | .result k n => r.spoilReg k n
  | .scratch w => r.mod fun s => { s with spoison := KV.put w () s.spoison }
  | .l1 k => r.spoilL1 k
  | .l2 w => r.spoilHome w
  | .sram w => r.spoilSram w
  | .dram w => r.spoilDram w
  | .link _ => r
  | .acc e => r.mod fun s => { s with acc := KV.put e { KV.getD e {} s.acc with p := true } s.acc }

/-- R52: a residue finds an error and corrects none. -/
def residue : Config.Place → Bool
  | .result _ _ => true
  | .acc _ => true
  | _ => false

/-- R52 to R54: an error of `n` bits or symbols is found at a place, with its syndrome. One is corrected
there; more, or any that a residue finds, poison. The DRAM link replays what its CRC has found. Each is
logged. -/
def Run.foundError (r : Run s0) (x : Config.Place) (n : Nat) (synd : DWord) : Run s0 :=
  if n = 0 then r else
  match r.s.errorSite x with
  | none => r
  | some (unit, loc, addr, die) =>
    let log (r : Run s0) (kind : Nat) : Run s0 := r.logErr die kind unit loc addr synd
    if residue x then log (r.spoil x) 3
    else if unit = 1 then log r 2
    else if n = 1 then log r 0
    else log (r.spoil x) 1

/-- The error, if any, that a read or a crossing between check domains finds before the next agent
moves. -/
def Run.strike (r : Run s0) (tick : Nat) : Run s0 :=
  if !r.s.up then r else
  match Config.upset tick with
  | none => r
  | some (x, n, synd) => r.foundError x n synd

/-! ### Patrol scrubbing (R55) -/

/-- A word of the stacked SRAM at an address of its units: itself in a carved unit, else a word of a line
of the cache that the unit serves, which one the manual does not say. -/
def State.sramWord (s : State) (pa : Nat) : Option Nat :=
  match place pa with
  | .sram d u =>
    if s.ready pa then some (pa / 4)
    else
      let ls := (s.sram.map Prod.fst).filter fun x =>
        decide (homeDie (x * 128) = d) && decide ((s.sramSlot x).1 = u)
      if ls = [] then none else some (s.pick ls * 32 + pa / 4 % 32)
  | _ => none

/-- The patrol reads the granule at an address and finds `bad` wrong bits, or symbols of DRAM. Their
syndrome is a free value (log entry 37). -/
def Run.scrub (r : Run s0) (pa bad : Nat) : Run s0 :=
  let synd := Config.syndrome r.s.tick
  if isDram pa then r.ticked.foundError (.dram (pa / 4)) bad synd
  else match r.s.sramWord pa with
    | some w => r.ticked.foundError (.sram w) bad synd
    | none => r

def execPatrolScrub (addr bits : Nat) (s : State) : Host.Outcome State Fault Refusal :=
  (if s.up then (Run.start s).scrub addr bits else Run.start s).out

end Sys2Proof.Machine
end

