-- ==== Sys2Proof/Machine/Fabric.lean ====
section
/-! DEFINITION. The fabric, packets and mailboxes (R112, R364 to R368, R376), writes to management
registers (R45, R115, R324, R371, R380), power (R381), the failure of a die (R114),
bring-up and the removal of power (R382). -/

namespace Sys2Proof.Machine
variable {s0 : State}

/-! ### Management registers -/

/-- R371: a write that reaches a register while the package is up. -/
def Run.regWrite (r : Run s0) (ok : Bool) (f : Run s0 → Run s0) : Run s0 :=
  if r.s.up && ok then f r else r

def execCarveWrite (die : Nat) (value : BitVec 64) (s : State) : Host.Outcome State Fault Refusal :=
  ((Run.start s).regWrite (decide (die < 4)) fun r => r.writeCarve die value).out
def execQuarcfgWrite (die : Nat) (value : BitVec 64) (s : State) : Host.Outcome State Fault Refusal :=
  ((Run.start s).regWrite (decide (die < 4)) fun r => r.writeQuarcfg die value).out
def execWqcfgWrite (queue : Nat) (value : BitVec 64) (s : State) : Host.Outcome State Fault Refusal :=
  ((Run.start s).regWrite (decide (queue < 65536)) fun r => r.writeWqcfg queue value).out
def execPwrctlWrite (value : BitVec 64) (s : State) : Host.Outcome State Fault Refusal :=
  ((Run.start s).regWrite true fun r => r.writePwrctl value).out

/-- The register at a physical address. -/
def regAt (pa : Nat) : Option MReg := match place pa with | .mgmt off => mreg off | _ => none

/-- R371: any write to an RC register sets it to 0. -/
def execRcRegisterWrite (addr : Nat) (value : BitVec 64) (s : State) : Host.Outcome State Fault Refusal :=
  ((Run.start s).regWrite true fun r => match regAt addr with
    | some .schederr => r.mwrite .schederr value
    | some .preover => r.mwrite .preover value
    | some (.fqovf d) => r.mwrite (.fqovf d) value
    | _ => r).out

/-- R371: a write to the register at an address; an unassigned offset takes none. -/
def execMgmtRegisterWrite (addr : Nat) (value : BitVec 64) (s : State) : Host.Outcome State Fault Refusal :=
  ((Run.start s).regWrite true fun r => match regAt addr with
    | some m => r.mwrite m value
    | none => r).out

/-- R46: a unit's change-over ends: the unit is zeroed, a carved one decodes, and a change asked for
meanwhile starts. -/
def Run.carveDone (r : Run s0) (die unit : Nat) : Run s0 :=
  let d := r.s.die die
  if 4 ≤ die ∨ 12 ≤ unit ∨ !d.pend.getLsbD unit then r
  else
    let bit : BitVec 12 := 1#12 <<< unit
    let r := r.zeroPages (0x100_0000_0000 + die * 2 ^ 30 + unit * 2 ^ 26) (2 ^ 26)
    r.remapSram die fun d => { d with
      ready := if d.carving.getLsbD unit then d.ready ||| bit else d.ready,
      pend := d.pend &&& ~~~bit, carving := d.carving &&& ~~~bit }.startChange

def execCarveChangeoverDone (die unit : Nat) (s : State) : Host.Outcome State Fault Refusal :=
  ((Run.start s).carveDone die unit).out

/-! ### Power (R380, R381) -/

/-- R381: every core island runs at the slowest point. -/
def State.slowest (s : State) : Bool := (List.range 24).all fun i => decide (s.vfTarget i = 5)

/-- R381: the next step of the mode's order; what gives way first does so until it can no further. -/
def State.giveWay (s : State) : Pkg :=
  let p := s.pkg
  let islands : Pkg := if s.slowest then p else { p with cutIslands := p.cutIslands + 1 }
  let therm : Pkg := if p.therm ≤ 1 then p else { p with cutTherm := p.cutTherm + 1 }
  match p.mode with
  | 1 => if 1 < p.therm then therm else islands
  | 2 => if s.slowest then therm else islands
  | _ => if 1 < p.tokens then { p with cutTokens := p.cutTokens + 1 } else islands

/-- R380, R381: power has been above LIMIT for 1 ms, or is within it, where the figures of the mode
apply. -/
def Run.powerStep (r : Run s0) (exceeded : Bool) : Run s0 :=
  if exceeded then
    let p := r.s.giveWay
    (r.updPkg fun _ => p).applyMode
  else (r.updPkg fun p => { p with cutTokens := 0, cutIslands := 0, cutTherm := 0 }).applyMode

def execPowerLimitStep (exceeded : Bool) (s : State) : Host.Outcome State Fault Refusal :=
  (if s.up then (Run.start s).powerStep exceeded else Run.start s).out

/-! ### Packets that arrive (R112, R365, R366, R371) -/

/-- A packet arrives at a port that is up. A flit that has come through ends a run of replays. -/
def Run.onPort (r : Run s0) (p : Packet) (f : Run s0 → Run s0) : Run s0 :=
  if !r.s.pkg.powered ∨ 36 ≤ p.port ∨ r.s.pkg.portsDown.getLsbD p.port then r
  else f (r.updPkg fun x => { x with replays := KV.del p.port x.replays })

def execPacketRead (pkt : Packet) (s : State) : Host.Outcome State Fault Refusal :=
  ((Run.start s).onPort pkt fun r => r.pktArrive .read pkt).out
def execPacketWrite (pkt : Packet) (s : State) : Host.Outcome State Fault Refusal :=
  ((Run.start s).onPort pkt fun r => r.pktArrive .write pkt).out
def execPacketAtom (pkt : Packet) (s : State) : Host.Outcome State Fault Refusal :=
  ((Run.start s).onPort pkt fun r => r.pktArrive .atom pkt).out
def execPacketRed (pkt : Packet) (s : State) : Host.Outcome State Fault Refusal :=
  ((Run.start s).onPort pkt fun r => r.pktArrive .red pkt).out
def execPacketMailbox (pkt : Packet) (s : State) : Host.Outcome State Fault Refusal :=
  ((Run.start s).onPort pkt fun r => r.pktArrive .mailbox pkt).out

/-- A queue of a context that has an element in mailbox `m` of device `dev`. -/
def State.credits (s : State) (ctx dev m : Nat) (g : Gang) (q : Nat × Queue) : Bool :=
  decide (g.ctx = ctx) && decide (q.2.kind = 3) && decide (q.2.mbox % 128 = m % 128) &&
    decide (s.mailDev q.2 = dev) && decide (q.2.unread ≠ 0)

/-- R368: a credit returns from a mailbox: it has room for one more element, and a queue that pushed there
has one less to be taken. -/
def Run.credit (r : Run s0) (p : Packet) : Run s0 :=
  let box := (p.ctx * 4096 + p.src) * 128 + p.addr % 128
  let own (g : Nat × Gang) : Nat × Gang :=
    match g.2.queues.find? (r.s.credits p.ctx p.src p.addr g.2) with
    | some q => (g.1, { g.2 with queues := (
        KV.update q.1 (fun (y : Queue) => { y with unread := y.unread - 1 }) g.2.queues) })
    | none => g
  let r := r.updPkg fun x => { x with sent := KV.putD box 0 (KV.getD box 0 x.sent - 1) x.sent }
  match r.s.gangs.find? fun g => g.2.queues.any (r.s.credits p.ctx p.src p.addr g.2) with
  | some g => r.mod fun s => { s with gangs := KV.put g.1 (own g).2 s.gangs }
  | none => r.mod fun s => { s with saved := s.saved.map fun x =>
      (x.1, { x.2 with gangs := x.2.gangs.map own }) }

def execMailboxCredit (pkt : Packet) (s : State) : Host.Outcome State Fault Refusal :=
  ((Run.start s).onPort pkt fun r => r.credit pkt).out

/-! ### Responses (R365, R366) -/

/-- The aligned words that a response gives for n bytes at pa, of an access of a site; an ERR poisons
them, or is a supervisor core's to see (R366). -/
def State.respWords (s : State) (site : Nat) (p : Packet) (pa n : Nat) : List PW :=
  (List.range ((pa % 4 + n + 3) / 4)).map fun i =>
    if p.op ≠ 0 then s.errWord site i
    else { v := BitVec.ofNat 32 (ofBytes ((List.range 4).map fun k => p.data.getD (4 * i + k) 0)),
           p := p.poison.contains i }

/-- The words that a WT load of a core has read from a window stay in its L1, untracked (R113), unless an
acquire or a write of them has come in between (R108, R118); an NC access drops them (R118). -/
def Run.keepWords (r : Run s0) (o : Op) (ws : List PW) : Run s0 :=
  let pa := o.acc.pa
  if !isCore o.site then r
  else if o.acc.pol = 2 ∧ !o.acc.noal then
    (r.roomL1 o.site (pa / 128)).each (List.range ws.length) fun r i =>
      let a := pa / 4 * 4 + 4 * i
      let w := ws.getD i {}
      if pa ≤ a ∧ a + 4 ≤ pa + o.acc.n ∧ !w.p then r.setL1 o.site a { st := .untracked, v := w.v } else r
  else r.dropUntracked o.site (pa / 128) (wordsAt pa o.acc.n)

/-- A store to a window leaves the copies of its words: WT keeps them with the new bytes. What loads still
on their way bring of them is not kept. -/
def Run.keepStore (r : Run s0) (o : Op) (bytes masks : List Byte) : Run s0 :=
  let pa := o.acc.pa
  if !isCore o.site then r
  else if o.acc.pol = 2 ∧ !o.acc.noal then
    (r.each (wordsAt pa bytes.length) fun r w => match r.s.l1? o.site (pa / 128 * 128 + 4 * w) with
      | none => r
      | some l =>
        r.setL1 o.site (pa / 128 * 128 + 4 * w) { l with v := (storeWord pa w bytes masks l.v).1 }).overtake
      o.site pa bytes.length
  else r.dropStale o.site pa bytes.length

/-- The old value of an atomic or CAS comes back; `new` is what it stored. -/
def Run.atomAnswer (r : Run s0) (id : Nat) (o : Op) (p : Packet) (new : Nat → Option Nat) : Run s0 :=
  let ws := r.s.respWords o.site p o.acc.pa o.acc.n
  let r := r.dropStale o.site o.acc.pa o.acc.n
  let r := if o.acc.acq then r.acquire o.site else r
  if ws.any fun w => w.p then r.updOp id Op.poisoned
  else
    let m := ofBytes (wordBytes o.acc.pa o.acc.n ws)
    r.updOp id fun o => { o with
      stage := .performed, res := wordsOf ((o.acc.n + 3) / 4) m,
      wrote := if p.op ≠ 0 then [] else match new m with
        | some v => (wordsOf ((o.acc.n + 3) / 4) v).map PW.v
        | none => [] }

/-- R366: a response completes the access it answers. ERR poisons what a load returns, and a store's
is logged; one to a packet that has gone on goes back to its sender. -/
def Run.answer (r : Run s0) (id : Nat) (o : Op) (p : Packet) : Run s0 :=
  let ok := decide (p.op = 0)
  match o.kind with
  | .wread op => r.gotWords id op o (r.s.respWords o.site p o.acc.pa o.acc.n)
  | .wwrite op =>
    let r := if ok then r else r.logStoreErr o.site o.port o.acc.pa
    (r.delOp id).childDone op
  | .packet _ q => (r.delOp id).respond q (!ok) p.data p.poison
  | .load form =>
    let x := o.next 4
    let ws := r.s.respWords o.site p x.acc.pa x.acc.n
    let r := if ok then r.keepWords x ws else r.errTick o.site
    (r.loaded id o form ws).settleOp id
  | .store bytes masks =>
    let r := if ok then r else r.logStoreErr o.site o.port o.acc.pa
    ((r.keepStore o bytes masks).updOp id fun x => { x with stage := .performed }).settleOp id
  | .atom code w64 v _ =>
    ((if ok then r else r.errTick o.site).atomAnswer id o p fun m => some (atomFn code w64 m v)).settleOp id
  | .cas _ x n =>
    let r := (if ok then r else r.errTick o.site).atomAnswer id o p fun m => if m = x then some n else none
    match KV.find? id r.s.ops with
    | some o' => if o'.note = none then
        (r.updFibre o.fibre fun f => { f with dem := decide (o'.wrote = []) }).settleOp id else r.settleOp id
    | none => r
  | _ => r

/-- An operation of a bag's placer whose records are on their way to their banks: no packet of it is out. -/
def Op.placed (o : Op) : Bool := match o.kind with | .put _ _ _ => true | .bfree _ => true | _ => false

def Run.respPacket (r : Run s0) (p : Packet) : Run s0 :=
  match KV.find? p.tag r.s.ops with
  | none => r
  | some o => if o.stage = .away ∧ !o.placed then r.answer p.tag o p else r

def execPacketResp (pkt : Packet) (s : State) : Host.Outcome State Fault Refusal :=
  ((Run.start s).onPort pkt fun r => r.respPacket pkt).out

/-! ### Ports (R364) -/

/-- R364: a port is down: the requests outstanding on it complete with ERR. -/
def Run.portDown (r : Run s0) (port : Nat) : Run s0 :=
  let r := r.updPkg fun p => { p with
    portsDown := p.portsDown ||| (1#36 <<< port), replays := KV.del port p.replays }
  let ids := (r.s.ops.filter fun o => decide (o.2.stage = .away) && !o.2.placed &&
    decide (o.2.port = port)).map Prod.fst
  r.each ids fun r id => r.respPacket
    { src := 4096, port := port, tag := id, addr := 0, data := [], len := 0, op := 1, width := 0, poison := [] }

/-- R364, R52: a flit fails its CRC. It is replayed, which is logged, unless it has failed 16 replays in a
row: then the port is down. -/
def Run.replay (r : Run s0) (port : Nat) : Run s0 :=
  if 36 ≤ port ∨ r.s.pkg.portsDown.getLsbD port then r
  else
    let n := KV.getD port 0 r.s.pkg.replays
    if 16 ≤ n then r.portDown port
    else (r.updPkg fun p => { p with replays := KV.put port (n + 1) p.replays }).logErr (port / 9) 2 9 port 0

def execFlitReplay (port : Nat) (s : State) : Host.Outcome State Fault Refusal :=
  (if s.up then (Run.start s).replay port else Run.start s).out

/-! ### A die fails (R114, R115) -/

/-- The line is lost with a die. -/
def State.lostWith (s : State) (die line : Nat) : Bool :=
  inL2 line && (decide (homeDie (line * 128) = die) || decide ((s.dir line).holder = die))

/-- R114: the bytes of a line that differ from memory. -/
def State.modified (s : State) (line : Nat) : BitVec 128 :=
  let d := s.dir line
  let own := d.owners.foldl (fun (m : BitVec 128) x => allWords.foldl (fun m w =>
    if x.2.getLsbD w then
      match s.l1? (48 * d.holder + x.1) (line * 128 + 4 * w) with
      | some l => m ||| lineMask w l.mask
      | none => m
    else m) m) d.dirty
  d.pmasks.foldl (fun m x => m ||| x.2) own

/-- R115: quarantine is enabled and its area is a carved unit of the die; its base. -/
def State.quarBase (s : State) (die : Nat) : Option Nat :=
  let d := s.die die
  let base := (maskBits d.quarcfg 26 26).toNat
  match place base with
  | .sram e u => if d.quarcfg.getLsbD 0 ∧ e = die ∧ u < 12 ∧ d.ready.getLsbD u then some base else none
  | _ => none

/-- R114: the bytes of a quarantine entry. -/
def State.quarEntry (s : State) (line : Nat) : List (Byte × Bool) :=
  clean (bytesOf 8 (line * 128) ++ bytesOf 16 (s.modified line).toNat ++ List.replicate 104 0) ++
    markedBytes (allWords.map fun w => s.coh (line * 128 + 4 * w))

/-- A survivor writes one modified lost line, or counts it. -/
def Run.quarLine (r : Run s0) (die line : Nat) : Run s0 :=
  let q := (r.s.die die).quarstat
  let n := efld q 0 19
  let lost := efld q 32 31
  let stat (n lost : Nat) : DWord := BitVec.ofNat 64 (lost % 2 ^ 31 * 2 ^ 32 + n)
  match (if n < 262144 then r.s.quarBase die else none) with
  | some base =>
    (r.devWrite (48 * die) (base + 256 * n) (r.s.quarEntry line)).updDie die fun d =>
      { d with quarstat := stat (n + 1) lost }
  | none => r.updDie die fun d => { d with quarstat := stat n (lost + 1) }

/-- R114, R115: a survivor quarantines the lost lines that it holds. -/
def Run.quarantine (r : Run s0) (die failed : Nat) : Run s0 :=
  let lines := (r.s.dirs.map Prod.fst).filter fun n =>
    decide ((r.s.dir n).holder = die) && r.s.lostWith failed n && decide (r.s.modified n ≠ 0)
  (r.each lines fun r n => r.quarLine die n).updDie die fun d =>
    { d with quarstat := d.quarstat ||| (1#64 <<< 63) }

/-- R114: an access in flight to a lost line that cannot complete before the declaration faults. What an
engine or the device had on its way to a bank is gone; the operation it was for meets the loss itself. -/
def Run.loseOp (r : Run s0) (id : Nat) : Run s0 :=
  match KV.find? id r.s.ops with
  | none => r
  | some o => match o.kind with
  | .wread _ => r.delOp id
  | .bwrite op _ _ _ => (r.delOp id).childDone op
  | _ =>
    let f := r.s.fibre o.fibre
    if o.flag < 16 then
      r.updOp id fun o => { o with stage := .performed, note := some (o.fault .homelost o.va) }
    else (r.delOp id).raise [{ key := o.fibre, lane := f.lane, cls := .homelost, addr := o.va, pc := f.pc,
                               gph := some o.gph }]

/-- Operations that a failing die concerns: accesses to its lines, and engine operations, which go on as far
as they can before the declaration. -/
def State.concerns (s : State) (die : Nat) (o : Op) : Bool :=
  decide (o.stage = .pending) && match o.kind with
  | .cache _ _ => true
  | .index _ _ _ _ _ => true
  | .eight _ _ => true
  | .accld _ _ => true
  | .accst _ _ => true
  | .wread _ => o.acc.bank && s.lostWith die (o.acc.pa / 128)
  | .bwrite _ _ _ _ => s.lostWith die (o.acc.pa / 128)
  | k => k.isAccess && !o.acc.scr && s.lostWith die (o.acc.pa / 128)

/-- R114: the survivors declare a die failed. What the die itself was doing is gone. -/
def Run.failDie (r : Run s0) (die : Nat) : Run s0 :=
  if 4 ≤ die ∨ (r.s.die die).failed then r
  else
    let r := r.mod fun s => { s with ops := s.ops.filter fun o => decide (dieOf o.2.site ≠ die) }
    let ids (r : Run s0) : List Nat := (r.s.ops.filter fun o => r.s.concerns die o.2).map Prod.fst
    let r := r.each (ids r) fun r id => r.drainOp id
    let left := (r.s.ops.filter fun o => r.s.concerns die o.2 && (o.2.kind.isAccess || match o.2.kind with
      | .wread _ => true
      | .bwrite _ _ _ _ => true
      | _ => false)).map Prod.fst
    let r := r.each left fun r id => r.loseOp id
    let r := r.each (List.range 4) fun r d =>
      if d = die ∨ (r.s.die d).failed then r else r.quarantine d die
    let lines := (r.s.dirs.map Prod.fst).filter fun n => r.s.lostWith die n
    let kept := lines.filter fun n => decide (homeDie (n * 128) ≠ die)
    let gone (n : Nat) : Bool := lines.contains n
    let r := r.mod fun s => { s with
      l1 := s.l1.filter fun e => decide (dieOf (e.1 / 2 ^ 50) ≠ die) && !gone (e.1 % 2 ^ 50 / 32),
      fcache := s.fcache.filter fun e => decide (dieOf (e.1 / 2 ^ 50) ≠ die) && !gone (e.1 % 2 ^ 50 / 32),
      dirs := s.dirs.filter fun e => !gone e.1,
      sram := s.sram.filter fun e => decide (homeDie (e.1 * 128) ≠ die),
      fwd := s.fwd.map fun e => (e.1, e.2.filter fun n => !gone n),
      hent := s.hent.map fun e => (e.1, e.2.filter fun n => !gone n),
      pkg := { s.pkg with lost := kept.foldl (fun m n => KV.put n () m) s.pkg.lost } }
    r.updDie die fun d => { d with failed := true, cmd := none }

def execDieFailure (die : Nat) (s : State) : Host.Outcome State Fault Refusal :=
  (if s.up then (Run.start s).failDie die else Run.start s).out

/-! ### Bring-up and the removal of power (R382, R383) -/

/-- R369, R382: the firmware starts its fibres on the supervisor core of a die (log entry 3). -/
def Run.startSuper (r : Run s0) (die : Nat) : Run s0 :=
  let x := Config.superStart die
  let pcs := x.1.take 32
  let window := 16 * (x.2.1 % 6 + 1)
  let site := 576 + die
  let k := r.s.nextId
  let g : Gang := {
    ctx := 256, core := site, nfib := pcs.length, window := window, ssize := 262144,
    consts := List.replicate 16 0, bars := (List.range 16).map fun n => (n, { expected := pcs.length }),
    dbg := true, trapvec := x.2.2 }
  let r := r.bump.mod fun s => { s with gangs := KV.put k g s.gangs }
  r.each (List.range pcs.length) fun r n => r.setFibre (fkey k n)
    { gang := k, fid := n, site := site, pc := pcs.getD n 0, wbase := n / 8 * window }

/-- R382: bring-up. A verification that fails at stage 1 or 2 stops it there. -/
def Run.bringUp (r : Run s0) (trained : BitVec 36) (failStage : Nat) : Run s0 :=
  let p := r.s.pkg
  if p.powered ∧ (p.complete ∨ p.bootReason ≠ 0) then r
  else if failStage = 1 ∨ failStage = 2 then
    let n := Config.bootReason r.s.tick % 255 + 1
    (r.wipe { stage := failStage, bootReason := n }).mod fun s => { s with tick := s.tick + 1 }
  else
    let r := (r.wipe { stage := 5, complete := true, report := true, portsDown := ~~~trained }).applyMode
    let r := r.mod fun s => { s with runs := s.runs + 1 }
    r.each (List.range 4) fun r d => r.startSuper d

def execPowerOnBringup (trained : BitVec 36) (failStage : Nat) (s : State) : Host.Outcome State Fault Refusal :=
  ((Run.start s).bringUp trained failStage).out

/-- R382: without power nothing of the state is left. -/
def execPowerRemoved (s : State) : Host.Outcome State Fault Refusal :=
  ((Run.start s).wipe { powered := false }).out

end Sys2Proof.Machine
end

