-- ==== Sys2Proof/Machine/FloatOps.lean ====
section
/-! DEFINITION. The floating-point instructions (R224 to R237). -/

namespace Sys2Proof.Machine
variable {s0 : State}

/-- A word whose lanes compute one result and raise flags. -/
def fpDesc (i : Instr) (g : BitVec 4) (uses : List Use) (d : BitVec 7) (rnd home : Bool)
    (f : Env → Word × Exc) : Desc s0 where
  i := i
  guard := g
  uses := uses ++ [dst d]
  rnd := rnd
  homeOnly := home
  exc := fun e => (f e).2.bits
  act := perLane fun r e => r.result32 e d (f e).1

/-- A code and flags as a register value. -/
def resWord (r : Res) : Word × Exc := (BitVec.ofNat 32 r.1, r.2)

/-- A long-latency word (R183): the value is known at issue, and the flags are raised when the
fibre observes the completion (R222). -/
def fpLong (i : Instr) (g : BitVec 4) (uses : List Use) (d : BitVec 7) (f : Env → Word × Exc) :
    Desc s0 where
  i := i
  guard := g
  uses := uses ++ [dst d]
  rnd := true
  act := perLane fun r e => r.startOp e
    { kind := .value true (f e).2.bits, stage := .performed, dst := d.toNat, res := [{ v := (f e).1 }] }
    1 true false

def execFadd (g : BitVec 4) (d a b : BitVec 7) (s : State) : Host.Outcome State Fault Refusal :=
  runWord s (fpDesc (.fadd g d a b) g [src a, src b] d true false fun e =>
    resWord (fadd f32 e.rm (e.w 0).toNat (e.w 1).toNat))
def execFsub (g : BitVec 4) (d a b : BitVec 7) (s : State) : Host.Outcome State Fault Refusal :=
  runWord s (fpDesc (.fsub g d a b) g [src a, src b] d true false fun e =>
    resWord (fsub f32 e.rm (e.w 0).toNat (e.w 1).toNat))
def execFmul (g : BitVec 4) (d a b : BitVec 7) (s : State) : Host.Outcome State Fault Refusal :=
  runWord s (fpDesc (.fmul g d a b) g [src a, src b] d true false fun e =>
    resWord (fmul f32 e.rm (e.w 0).toNat (e.w 1).toNat))
def execFfma (g : BitVec 4) (d a b : BitVec 7) (s : State) : Host.Outcome State Fault Refusal :=
  runWord s (fpDesc (.ffma g d a b) g [src a, src b, src d] d true false fun e =>
    resWord (ffma f32 e.rm (e.w 0).toNat (e.w 1).toNat (e.w 2).toNat))
def execFmin (g : BitVec 4) (d a b : BitVec 7) (s : State) : Host.Outcome State Fault Refusal :=
  runWord s (fpDesc (.fmin g d a b) g [src a, src b] d false false fun e =>
    resWord (fminmax f32 false (e.w 0).toNat (e.w 1).toNat))
def execFmax (g : BitVec 4) (d a b : BitVec 7) (s : State) : Host.Outcome State Fault Refusal :=
  runWord s (fpDesc (.fmax g d a b) g [src a, src b] d false false fun e =>
    resWord (fminmax f32 true (e.w 0).toNat (e.w 1).toNat))
def execFdiv (g : BitVec 4) (d a b : BitVec 7) (s : State) : Host.Outcome State Fault Refusal :=
  runWord s (fpLong (.fdiv g d a b) g [src a, src b] d fun e =>
    resWord (fdiv f32 e.rm (e.w 0).toNat (e.w 1).toNat))

def execFsetp (g c : BitVec 4) (p : BitVec 3) (a b : BitVec 7) (s : State) :
    Host.Outcome State Fault Refusal :=
  let f (e : Env) : Bool × Exc := fcmp c.toNat (e.w 0).toNat (e.w 1).toNat
  runWord s {
    i := .fsetp g c p a b, guard := g, uses := [src a, src b],
    exc := fun e => (f e).2.bits,
    act := perLane fun r e => r.setPred e p (f e).1 }

/-- R227: FSQRT is long-latency; FSQRT and FRINT take a rounding mode (R223). -/
def execFunc (g : BitVec 4) (d a f : BitVec 7) (s : State) : Host.Outcome State Fault Refusal :=
  let val (e : Env) : Word × Exc := resWord (funRes f.toNat e.rm (e.w 0).toNat)
  match f.toNat with
  | 0 => runWord s (fpLong (.func g d a f) g [src a] d val)
  | n => runWord s (fpDesc (.func g d a f) g [src a] d (decide (n = 8)) false val)

/-- R229 to R233: CVT. -/
def execCvt (g : BitVec 4) (d a : BitVec 7) (df sf : BitVec 3) (k : BitVec 1) (s : State) :
    Host.Outcome State Fault Refusal :=
  let ws := cvtWidth sf.toNat
  let wd := cvtWidth df.toNat
  let n := if k = 1 then 32 / min ws wd else 1
  let nsrc := if k = 1 then n * ws / 32 else 1
  let ndst := if k = 1 then n * wd / 32 else 1
  let val (e : Env) : List Word × Exc :=
    cvtWords df.toNat sf.toNat (decide (k = 1)) e.rm e.sat ((e.op 0).map fun x => x.v)
  let ints := (df = 5 ∨ df = 6) ∧ (sf = 5 ∨ sf = 6)
  runWord s {
    i := .cvt g d a df sf k, guard := g, uses := [src a nsrc, dst d ndst],
    rnd := !decide ints,
    sat := decide (df = 3 ∨ df = 4 ∨ (df = 6 ∧ sf = 5)),
    homeOnly := !(decide ((df = 0 ∨ df = 5) ∧ (sf = 0 ∨ sf = 5))),
    exc := fun e => (val e).2.bits,
    act := perLane fun r e => r.result e d ((val e).1.map fun x => { v := x }) }

/-- R220: the element format of the packed instructions. -/
def Env.pkFmt (e : Env) : Fmt := if e.g.pkf then f16 else bf16

def execPadd2 (g : BitVec 4) (d a b : BitVec 7) (s : State) : Host.Outcome State Fault Refusal :=
  runWord s (fpDesc (.padd2 g d a b) g [src a, src b] d true true fun e =>
    packed2 (fun x y _ => fadd e.pkFmt e.rm x y) (e.w 0) (e.w 1) 0)
def execPmul2 (g : BitVec 4) (d a b : BitVec 7) (s : State) : Host.Outcome State Fault Refusal :=
  runWord s (fpDesc (.pmul2 g d a b) g [src a, src b] d true true fun e =>
    packed2 (fun x y _ => fmul e.pkFmt e.rm x y) (e.w 0) (e.w 1) 0)
def execPfma2 (g : BitVec 4) (d a b : BitVec 7) (s : State) : Host.Outcome State Fault Refusal :=
  runWord s (fpDesc (.pfma2 g d a b) g [src a, src b, src d] d true true fun e =>
    packed2 (fun x y z => ffma e.pkFmt e.rm x y z) (e.w 0) (e.w 1) (e.w 2))
def execDot4 (g : BitVec 4) (d a b : BitVec 7) (s : State) : Host.Outcome State Fault Refusal :=
  runWord s (fpDesc (.dot4 g d a b) g [src a, src b, src d] d false true fun e =>
    (dot4 (e.w 0) (e.w 1) (e.w 2), {}))
def execDot2f (g : BitVec 4) (d a b : BitVec 7) (s : State) : Host.Outcome State Fault Refusal :=
  runWord s (fpDesc (.dot2f g d a b) g [src a, src b, src d] d true true fun e =>
    resWord (dot2f e.rm (e.w 0) (e.w 1) (e.w 2)))

end Sys2Proof.Machine
end

