-- ==== Sys2Proof/Machine/Dispatch.lean ====
section
/-! DEFINITION. The meaning of every instruction: one arm per row of the opcode table. -/

namespace Sys2Proof.Machine

def exec (i : Instr) (s : State) : Host.Outcome State Fault Refusal :=
  match i with
  | .add g d a b => Sys2Proof.Machine.execAdd g d a b s
  | .sub g d a b => Sys2Proof.Machine.execSub g d a b s
  | .mul g d a b => Sys2Proof.Machine.execMul g d a b s
  | .mulhi g d a b => Sys2Proof.Machine.execMulhi g d a b s
  | .mulhiu g d a b => Sys2Proof.Machine.execMulhiu g d a b s
  | .mad g d a b => Sys2Proof.Machine.execMad g d a b s
  | .and g d a b => Sys2Proof.Machine.execAnd g d a b s
  | .or g d a b => Sys2Proof.Machine.execOr g d a b s
  | .xor g d a b => Sys2Proof.Machine.execXor g d a b s
  | .shl g d a b => Sys2Proof.Machine.execShl g d a b s
  | .shr g d a b => Sys2Proof.Machine.execShr g d a b s
  | .sar g d a b => Sys2Proof.Machine.execSar g d a b s
  | .min g d a b => Sys2Proof.Machine.execMin g d a b s
  | .max g d a b => Sys2Proof.Machine.execMax g d a b s
  | .minu g d a b => Sys2Proof.Machine.execMinu g d a b s
  | .maxu g d a b => Sys2Proof.Machine.execMaxu g d a b s
  | .addi g d a im => Sys2Proof.Machine.execAddi g d a im s
  | .andi g d a im => Sys2Proof.Machine.execAndi g d a im s
  | .ori g d a im => Sys2Proof.Machine.execOri g d a im s
  | .xori g d a im => Sys2Proof.Machine.execXori g d a im s
  | .shli g d a im => Sys2Proof.Machine.execShli g d a im s
  | .shri g d a im => Sys2Proof.Machine.execShri g d a im s
  | .sari g d a im => Sys2Proof.Machine.execSari g d a im s
  | .setp g c p a b => Sys2Proof.Machine.execSetp g c p a b s
  | .setpi g c p a im => Sys2Proof.Machine.execSetpi g c p a im s
  | .sel g d a b => Sys2Proof.Machine.execSel g d a b s
  | .add64 g d a b => Sys2Proof.Machine.execAdd64 g d a b s
  | .adda g d a b => Sys2Proof.Machine.execAdda g d a b s
  | .bfx g d a b => Sys2Proof.Machine.execBfx g d a b s
  | .bfi g d a b => Sys2Proof.Machine.execBfi g d a b s
  | .iun g d a f => Sys2Proof.Machine.execIun g d a f s
  | .ldi g d im => Sys2Proof.Machine.execLdi g d im s
  | .bra g o => Sys2Proof.Machine.execBra g o s
  | .bru g o => Sys2Proof.Machine.execBru g o s
  | .call g o => Sys2Proof.Machine.execCall g o s
  | .ret g a => Sys2Proof.Machine.execRet g a s
  | .jmpi g a => Sys2Proof.Machine.execJmpi g a s
  | .exit g => Sys2Proof.Machine.execExit g s
  | .yield g => Sys2Proof.Machine.execYield g s
  | .spawn g d b => Sys2Proof.Machine.execSpawn g d b s
  | .crewjoin g => Sys2Proof.Machine.execCrewjoin g s
  | .lxch g d a b => Sys2Proof.Machine.execLxch g d a b s
  | .lagr g c q a b => Sys2Proof.Machine.execLagr g c q a b s
  | .lfold g d a o => Sys2Proof.Machine.execLfold g d a o s
  | .plog g a b sc => Sys2Proof.Machine.execPlog g a b sc s
  | .brdec g d im => Sys2Proof.Machine.execBrdec g d im s
  | .sleep g a => Sys2Proof.Machine.execSleep g a s
  | .fadd g d a b => Sys2Proof.Machine.execFadd g d a b s
  | .fsub g d a b => Sys2Proof.Machine.execFsub g d a b s
  | .fmul g d a b => Sys2Proof.Machine.execFmul g d a b s
  | .ffma g d a b => Sys2Proof.Machine.execFfma g d a b s
  | .fmin g d a b => Sys2Proof.Machine.execFmin g d a b s
  | .fmax g d a b => Sys2Proof.Machine.execFmax g d a b s
  | .fdiv g d a b => Sys2Proof.Machine.execFdiv g d a b s
  | .fsetp g c p a b => Sys2Proof.Machine.execFsetp g c p a b s
  | .func g d a f => Sys2Proof.Machine.execFunc g d a f s
  | .cvt g d a e f k => Sys2Proof.Machine.execCvt g d a e f k s
  | .padd2 g d a b => Sys2Proof.Machine.execPadd2 g d a b s
  | .pfma2 g d a b => Sys2Proof.Machine.execPfma2 g d a b s
  | .pmul2 g d a b => Sys2Proof.Machine.execPmul2 g d a b s
  | .dot4 g d a b => Sys2Proof.Machine.execDot4 g d a b s
  | .dot2f g d a b => Sys2Proof.Machine.execDot2f g d a b s
  | .ld g d a p o sc => Sys2Proof.Machine.execLd g d a p o sc s
  | .st g d a p o sc => Sys2Proof.Machine.execSt g d a p o sc s
  | .ldb g d a p o sc => Sys2Proof.Machine.execLdb g d a p o sc s
  | .stb g d a p o => Sys2Proof.Machine.execStb g d a p o s
  | .lde g d a p o sc => Sys2Proof.Machine.execLde g d a p o sc s
  | .ste g d a p o sc => Sys2Proof.Machine.execSte g d a p o sc s
  | .atom g d a h o l w => Sys2Proof.Machine.execAtom g d a h o l w s
  | .cas g d a p o sc => Sys2Proof.Machine.execCas g d a p o sc s
  | .lrbegin g sc p => Sys2Proof.Machine.execLrbegin g sc p s
  | .lrend g => Sys2Proof.Machine.execLrend g s
  | .fenceAcq g => Sys2Proof.Machine.execFenceAcq g s
  | .fenceRel g => Sys2Proof.Machine.execFenceRel g s
  | .fenceFull g => Sys2Proof.Machine.execFenceFull g s
  | .cacheWb g p l => Sys2Proof.Machine.execCacheWb g p l s
  | .cacheInv g p l => Sys2Proof.Machine.execCacheInv g p l s
  | .cacheInvd g p l => Sys2Proof.Machine.execCacheInvd g p l s
  | .cachePref g p l => Sys2Proof.Machine.execCachePref g p l s
  | .lds g d o e r sc => Sys2Proof.Machine.execLds g d o e r sc s
  | .sts g d o e r sc => Sys2Proof.Machine.execSts g d o e r sc s
  | .atoms g d a h o l => Sys2Proof.Machine.execAtoms g d a h o l s
  | .red g d a h o l w => Sys2Proof.Machine.execRed g d a h o l w s
  | .put g d a b => Sys2Proof.Machine.execPut g d a b s
  | .putm g d a b => Sys2Proof.Machine.execPutm g d a b s
  | .drain g d a b => Sys2Proof.Machine.execDrain g d a b s
  | .bcount g d h => Sys2Proof.Machine.execBcount g d h s
  | .bopen g d p => Sys2Proof.Machine.execBopen g d p s
  | .bseal g h => Sys2Proof.Machine.execBseal g h s
  | .bfree g h => Sys2Proof.Machine.execBfree g h s
  | .biter g d a b => Sys2Proof.Machine.execBiter g d a b s
  | .gfetch g d a b => Sys2Proof.Machine.execGfetch g d a b s
  | .probe g d p => Sys2Proof.Machine.execProbe g d p s
  | .rebal g d a b => Sys2Proof.Machine.execRebal g d a b s
  | .copy g sc l c t u v => Sys2Proof.Machine.execCopy g sc l c t u v s
  | .copyb g p c => Sys2Proof.Machine.execCopyb g p c s
  | .igather g d p => Sys2Proof.Machine.execIgather g d p s
  | .iscatter g d p => Sys2Proof.Machine.execIscatter g d p s
  | .qbind g q b => Sys2Proof.Machine.execQbind g q b s
  | .qstat g d q => Sys2Proof.Machine.execQstat g d q s
  | .cpwait g t c => Sys2Proof.Machine.execCpwait g t c s
  | .wave g x r o => Sys2Proof.Machine.execWave g x r o s
  | .mma g t a b => Sys2Proof.Machine.execMma g t a b s
  | .mmas g c t a b => Sys2Proof.Machine.execMmas g c t a b s
  | .mmaq g k t a b => Sys2Proof.Machine.execMmaq g k t a b s
  | .accz g t => Sys2Proof.Machine.execAccz g t s
  | .accld g t p => Sys2Proof.Machine.execAccld g t p s
  | .accst g t p => Sys2Proof.Machine.execAccst g t p s
  | .accrd g d t b => Sys2Proof.Machine.execAccrd g d t b s
  | .accwr g t a b => Sys2Proof.Machine.execAccwr g t a b s
  | .walk g x p => Sys2Proof.Machine.execWalk g x p s
  | .nest g x p => Sys2Proof.Machine.execNest g x p s
  | .endw g => Sys2Proof.Machine.execEndw g s
  | .barg g d n => Sys2Proof.Machine.execBarg g d n s
  | .bara g d l n => Sys2Proof.Machine.execBara g d l n s
  | .barw g v l n => Sys2Proof.Machine.execBarw g v l n s
  | .barc g d n => Sys2Proof.Machine.execBarc g d n s
  | .barl g d n => Sys2Proof.Machine.execBarl g d n s
  | .waitf g m => Sys2Proof.Machine.execWaitf g m s
  | .waitv g v p c o => Sys2Proof.Machine.execWaitv g v p c o s
  | .csrrd g d c => Sys2Proof.Machine.execCsrrd g d c s
  | .csrwr g sc c => Sys2Proof.Machine.execCsrwr g sc c s
  | .trap g a sc n => Sys2Proof.Machine.execTrap g a sc n s
  | .rett g => Sys2Proof.Machine.execRett g s
  | .rettF g b => Sys2Proof.Machine.execRettF g b s
  | .watch g n sc => Sys2Proof.Machine.execWatch g n sc s
  | .watchRd g d n => Sys2Proof.Machine.execWatchRd g d n s
  | .insp g d b sc => Sys2Proof.Machine.execInsp g d b sc s
  | .poke g sc b e => Sys2Proof.Machine.execPoke g sc b e s
  | .step g b => Sys2Proof.Machine.execStep g b s
  | .resume g b => Sys2Proof.Machine.execResume g b s
  | .pace w sc d => Sys2Proof.Machine.execPace w sc d s
  | .imm im => Sys2Proof.Machine.execImm im s
  | .mod r m sc t n w => Sys2Proof.Machine.execMod r m sc t n w s
  | .faultQueueAppend die => Sys2Proof.Machine.execFaultQueueAppend die s
  | .crewForm site => Sys2Proof.Machine.execCrewForm site s
  | .crewEvict site => Sys2Proof.Machine.execCrewEvict site s
  | .flagComplete op => Sys2Proof.Machine.execFlagComplete op s
  | .dirLoadRequest op victim => Sys2Proof.Machine.execDirLoadRequest op victim s
  | .dirStoreRequest op victim => Sys2Proof.Machine.execDirStoreRequest op victim s
  | .l1Evict core line => Sys2Proof.Machine.execL1Evict core line s
  | .l2LineMigrate line => Sys2Proof.Machine.execL2LineMigrate line s
  | .lineDieMigrate line => Sys2Proof.Machine.execLineDieMigrate line s
  | .tileFetchRetry op => Sys2Proof.Machine.execTileFetchRetry op s
  | .copyBeat gang channel => Sys2Proof.Machine.execCopyBeat gang channel s
  | .placerPut op seen => Sys2Proof.Machine.execPlacerPut op seen s
  | .placerDrain op => Sys2Proof.Machine.execPlacerDrain op s
  | .placerBcount op => Sys2Proof.Machine.execPlacerBcount op s
  | .placerBseal op => Sys2Proof.Machine.execPlacerBseal op s
  | .placerBfree op => Sys2Proof.Machine.execPlacerBfree op s
  | .shareRecordWrite bag share => Sys2Proof.Machine.execShareRecordWrite bag share s
  | .bankCommandStart pch choice => Sys2Proof.Machine.execBankCommandStart pch choice s
  | .waveNextWave op => Sys2Proof.Machine.execWaveNextWave op s
  | .thermalLimitChange stack limit => Sys2Proof.Machine.execThermalLimitChange stack limit s
  | .siteShip fibre => Sys2Proof.Machine.execSiteShip fibre s
  | .scullerArrival sculler => Sys2Proof.Machine.execScullerArrival sculler s
  | .lineRegionTimeout fibre => Sys2Proof.Machine.execLineRegionTimeout fibre s
  | .lineRegionHeld fibre => Sys2Proof.Machine.execLineRegionHeld fibre s
  | .waitvReload fibre => Sys2Proof.Machine.execWaitvReload fibre s
  | .sleepExpire fibre => Sys2Proof.Machine.execSleepExpire fibre s
  | .powerTokenRelease die cluster => Sys2Proof.Machine.execPowerTokenRelease die cluster s
  | .wqTakeRecord queue => Sys2Proof.Machine.execWqTakeRecord queue s
  | .gangPlace ctx => Sys2Proof.Machine.execGangPlace ctx s
  | .gangEnd gang => Sys2Proof.Machine.execGangEnd gang s
  | .vfChangeStable island => Sys2Proof.Machine.execVfChangeStable island s
  | .schedStep => Sys2Proof.Machine.execSchedStep s
  | .sliceEnd ctx => Sys2Proof.Machine.execSliceEnd ctx s
  | .contextRestore ctx ok => Sys2Proof.Machine.execContextRestore ctx ok s
  | .zeropage die => Sys2Proof.Machine.execZeropage die s
  | .xinval die => Sys2Proof.Machine.execXinval die s
  | .releaseResume die => Sys2Proof.Machine.execReleaseResume die s
  | .releaseRedirect die => Sys2Proof.Machine.execReleaseRedirect die s
  | .releaseHandler die => Sys2Proof.Machine.execReleaseHandler die s
  | .releaseEmulate die => Sys2Proof.Machine.execReleaseEmulate die s
  | .releaseEnd die => Sys2Proof.Machine.execReleaseEnd die s
  | .preempt die => Sys2Proof.Machine.execPreempt die s
  | .quiesce die => Sys2Proof.Machine.execQuiesce die s
  | .resumectx die => Sys2Proof.Machine.execResumectx die s
  | .endctx die => Sys2Proof.Machine.execEndctx die s
  | .dbgaccInsp die => Sys2Proof.Machine.execDbgaccInsp die s
  | .dbgaccPoke die => Sys2Proof.Machine.execDbgaccPoke die s
  | .dbgaccStep die => Sys2Proof.Machine.execDbgaccStep die s
  | .dbgaccResume die => Sys2Proof.Machine.execDbgaccResume die s
  | .dbgaccWatchSet die => Sys2Proof.Machine.execDbgaccWatchSet die s
  | .dbgaccWatchRead die => Sys2Proof.Machine.execDbgaccWatchRead die s
  | .bndsync die => Sys2Proof.Machine.execBndsync die s
  | .commandComplete die => Sys2Proof.Machine.execCommandComplete die s
  | .carveWrite die value => Sys2Proof.Machine.execCarveWrite die value s
  | .carveChangeoverDone die unit => Sys2Proof.Machine.execCarveChangeoverDone die unit s
  | .quarcfgWrite die value => Sys2Proof.Machine.execQuarcfgWrite die value s
  | .wqcfgWrite queue value => Sys2Proof.Machine.execWqcfgWrite queue value s
  | .rcRegisterWrite addr value => Sys2Proof.Machine.execRcRegisterWrite addr value s
  | .pwrctlWrite value => Sys2Proof.Machine.execPwrctlWrite value s
  | .mgmtRegisterWrite addr value => Sys2Proof.Machine.execMgmtRegisterWrite addr value s
  | .powerLimitStep exceeded => Sys2Proof.Machine.execPowerLimitStep exceeded s
  | .patrolScrub addr bits => Sys2Proof.Machine.execPatrolScrub addr bits s
  | .dieFailure die => Sys2Proof.Machine.execDieFailure die s
  | .flitReplay port => Sys2Proof.Machine.execFlitReplay port s
  | .packetRead pkt => Sys2Proof.Machine.execPacketRead pkt s
  | .packetWrite pkt => Sys2Proof.Machine.execPacketWrite pkt s
  | .packetAtom pkt => Sys2Proof.Machine.execPacketAtom pkt s
  | .packetRed pkt => Sys2Proof.Machine.execPacketRed pkt s
  | .packetMailbox pkt => Sys2Proof.Machine.execPacketMailbox pkt s
  | .packetResp pkt => Sys2Proof.Machine.execPacketResp pkt s
  | .mailboxCredit pkt => Sys2Proof.Machine.execMailboxCredit pkt s
  | .powerOnBringup trained failStage => Sys2Proof.Machine.execPowerOnBringup trained failStage s
  | .undefinedEncoding w => Sys2Proof.Machine.execUndefinedEncoding w s
  | .unknownCommandCode die => Sys2Proof.Machine.execUnknownCommandCode die s
  | .l1DropWithoutTelling core word => Sys2Proof.Machine.execL1DropWithoutTelling core word s
  | .walkBodyWordIssue site slot => Sys2Proof.Machine.execWalkBodyWordIssue site slot s
  | .powerRemoved => Sys2Proof.Machine.execPowerRemoved s
  | .coreClkIssueSlots site => Sys2Proof.Machine.execCoreClkIssueSlots site s

end Sys2Proof.Machine
end

