-- ==== Sys2Proof/Machine/Step.lean ====
section
/-! DEFINITION. One step of the machine. The manual lets many agents move, ordered no further than
its rules say; the agenda names which agent moves next, and where it is empty the free value
`Config.freeEvent` does (log entry 4), after the error, if any, that is found meanwhile (R52). -/

namespace Sys2Proof.Machine

/-- The agent whose turn it is, and the state with that turn taken from the agenda. -/
def State.turn (s : State) : Turn × State :=
  match s.agenda with
  | t :: rest => (t, { s with agenda := rest })
  | [] => (.event (Config.freeEvent s.tick), ((Run.start s).ticked.strike s.tick).s)

/-- One step: a crew issues a word, or another agent takes a step of its own. -/
def step (s : State) : Host.Outcome State Fault Refusal :=
  match s.turn with
  | (.issue site slot wait cold, s1) =>
    match (Run.start s1).fetch site slot wait cold with
    | (r, .none) => r.out
    | (r, .instr i) => exec i r.s
    | (r, .later i) => r.later site slot (exec i r.s)
  | (.event i, s1) => if ofCrew i then .next s1 else exec i s1

/-- `s` with an instruction stored where the next step fetches it (log entry 7). -/
def State.withFetchWord (s : State) (_nbits w : Nat) : State := s.placeWord w

end Sys2Proof.Machine
end

