-- ==== Sys2Proof/Safety.lean ====
section
/-! DEFINITION. The terms in which claims are stated: a safe step, a crew that is ready to issue a
word, what a word leaves of its fibres, and what it leaves alone. -/

namespace Sys2Proof
open Machine

/-- A step that goes on in a state of the invariant. -/
def Safe (s : State) : Prop := ∃ t, step s = .next t ∧ (s.Inv → t.Inv)

/-! ### A crew ready to issue -/

/-- The hint group that the crew's next word at `pc` closes (R179). -/
def Machine.Crew.group (cr : Crew) (pc : VAddr) : Hints := cr.hints.getD (noHints pc)

/-- R181: flag `n` is IDLE, and no result waits for it. -/
structure Machine.Fibre.IdleFlag (f : Fibre) (n : Nat) : Prop where
  flag : KV.find? n f.flags = none
  pend : f.pend.all (fun p => decide (p.when_ ≠ .flag n)) = true

/-- A member of a crew at `pc` that waits for nothing: the flags its group names are IDLE, and it
has no fence or STEP of its own, nor, unless `lr`, a line region. -/
structure Member (c : Cur) (cr : Crew) (pc : VAddr) (fid : Nat) (f : Fibre) (lr : Bool := false) : Prop where
  ident : f.fid = fid
  small : fid < 1024
  gang : f.gang = cr.gang
  site : f.site = c.site
  slot : f.slot = some c.slot
  stands : f.pc = pc
  fence : f.fence = []
  region : lr = false → f.region = none
  steps : f.stepping = false
  halts : f.toHalt = none
  full : f.IdleFlag 15
  waits : ∀ n, (cr.group pc).wait.getLsbD n = true → f.IdleFlag n
  sig : f.IdleFlag (cr.group pc).sig

/-- The crew now issuing stands at `pc`, its lanes wait for nothing, its hint group has no error and
no predicate watches its site; the invariant of every step holds. -/
structure Ready (s : State) (c : Cur) (cr : Crew) (pc : VAddr) (lr : Bool := false) : Prop where
  inv : s.Inv
  cur : s.cur = some c
  word : c.body = false
  crew : KV.find? (ckey c.site c.slot) s.crews = some cr
  some_ : cr.fids ≠ []
  lanes : (cr.fids.map (· % lanesOf c.site)).Nodup
  runs : s.issues c.site (s.gang cr.gang) = true
  hints : (cr.group pc).err = none
  preds : (s.site c.site).preds = []
  fibres : ∀ fid ∈ cr.fids, ∃ f, KV.find? (fkey cr.gang fid) s.fibres = some f ∧ Member c cr pc fid f lr

/-- The group's MOD hint, if any, asks only for a rounding mode, where the word takes one (`rnd`), and
for saturation, where it can (`sat`) (R185). -/
structure FitMods (h : Hints) (rnd sat : Bool) : Prop where
  rnd : rnd = true ∨ (h.mods.getD 0).extractLsb' 19 3 = 0
  sat : sat = true ∨ (h.mods.getD 0).getLsbD 18 = false
  tol : (h.mods.getD 0).getLsbD 17 = false
  noal : (h.mods.getD 0).getLsbD 16 = false
  wskip : (h.mods.getD 0).getLsbD 15 = false

/-- The group has no IMM hint and no MOD hint that changes anything; PACE is as it is. -/
structure PlainHints (h : Hints) : Prop where
  imm : h.imm = none
  mods : FitMods h false false

/-- R184: the value of a 7-bit immediate in a hint group. -/
def immediate (h : Hints) (i : BitVec 7) : Word :=
  match h.imm with
  | some p => (p ++ i).signExtend 32
  | none => i.signExtend 32

/-- R217: the rounding mode in force for a word. -/
def rounding (g : Gang) (h : Hints) : BitVec 2 :=
  if (h.mods.getD 0).getLsbD 21 then (h.mods.getD 0).extractLsb' 19 2 else g.rm

/-- The fibre with the results that have become readable for the word that closes the group (R182). -/
def Machine.Fibre.now (f : Fibre) (h : Hints) : Fibre := f.settle (f.count + 1 + h.dist)

/-- The fibre after a word that has no other effect on it: its count, age and address (R163, R182);
an active lane leaves the flag that the word signals DONE (R181). -/
def Machine.Fibre.passed (f : Fibre) (h : Hints) (active : Bool) : Fibre :=
  let x := if active = true ∧ h.sig < 12 then (f.now h).setFlag h.sig { st := .done } else f.now h
  { x with count := f.count + 1 + h.dist, age := 0, fresh := false, wbuf := [], pc := f.pc + 4 }

/-- R362: the counters of a site after one word of `lanes` active lanes. -/
def Machine.Site.spent (x : Site) (site lanes : Nat) : Site :=
  let bump (n k : Nat) (m : List (Nat × DWord)) := KV.put n (KV.getD n 0 m + BitVec.ofNat 64 k) m
  { x with
    budget := x.budget - 1,
    tdc := if x.tfrz || !isCore site then x.tdc
      else bump 15 lanes (bump (if 24 ≤ lanes then 1 else 2) 1 (bump 0 1 x.tdc)) }

/-- The members of a crew, in lane order. -/
def Machine.State.members (s : State) (cr : Crew) : List Fibre :=
  cr.fids.map fun fid => s.fibre (fkey cr.gang fid)

/-- The members of a crew that are active under guard `g`, as the word reads them (R150). -/
def Machine.State.active (s : State) (cr : Crew) (pc : VAddr) (g : BitVec 4) : List Fibre :=
  ((s.members cr).map fun f => f.now (cr.group pc)).filter (guardOk g)

/-- `t` is `s` after a word under guard `g` that changes each active lane's fibre by `eff` and
nothing else. `eff f x` is what becomes of `x`, where the word has read `f`. -/
structure Lanes (s t : State) (c : Cur) (cr : Crew) (pc : VAddr) (g : BitVec 4)
    (eff : Fibre → Fibre → Fibre) : Prop where
  /-- each member passes the word; an active one takes its effect -/
  each : ∀ fid ∈ cr.fids, ∀ f, KV.find? (fkey cr.gang fid) s.fibres = some f →
    KV.find? (fkey cr.gang fid) t.fibres = some
      (if guardOk g (f.now (cr.group pc)) then
        eff (f.now (cr.group pc)) (f.passed (cr.group pc) true)
      else f.passed (cr.group pc) false)
  /-- other fibres may join the crew; nothing else happens to them (R154) -/
  others : ∀ k, (∀ fid ∈ cr.fids, k ≠ fkey cr.gang fid) →
    (KV.find? k t.fibres).map (fun f => { f with slot := none }) =
      (KV.find? k s.fibres).map (fun f => { f with slot := none })
  /-- the crew keeps its members, and its hints are spent -/
  crew : ∃ cr', KV.find? (ckey c.site c.slot) t.crews = some cr' ∧ cr'.gang = cr.gang ∧
    cr'.hints = none ∧ ∀ fid ∈ cr.fids, fid ∈ cr'.fids
  crews : ∀ k, k ≠ ckey c.site c.slot → KV.find? k t.crews = KV.find? k s.crews
  /-- everything else is as it was, but for the issue slot and its counters, and the time that fibres
  which join have waited: memory, scratchpads, accumulators, caches, gangs, operations, registers of
  the machine -/
  rest : ∃ waits, t = { s with
    fibres := t.fibres, crews := t.crews,
    sites := KV.put c.site { (s.site c.site).spent c.site (s.active cr pc g).length with waits := waits }
      s.sites }

/-! ### Register fields -/

/-- The words of the source fields among `us`, as the fibre `f` reads them. -/
def operands (s : State) (g : Gang) (f : Fibre) (us : List Use) : List (List PW) :=
  (us.filter fun u => !u.dst).map fun u => readUse s g f 0 u

/-- The register fields `us` are legal for the word's lanes (R176 to R178), none is a queue, and no
active lane reads a poisoned register (R54). -/
structure Fields (s : State) (cr : Crew) (pc : VAddr) (g : BitVec 4) (us : List Use) : Prop where
  legal : usesErr (s.gang cr.gang) (s.active cr pc g).length us = none
  plain : us.all (fun u => !isQueue u.reg) = true
  clean : ∀ f ∈ s.active cr pc g, poisonReg us (operands s (s.gang cr.gang) f us) = none

/-- The first word of register field `a`, as the fibre `f` of gang `g` reads it. -/
def val (g : Gang) (f : Fibre) (a : BitVec 7) : Word := (readReg g f a.toNat).v
/-- The 64-bit value of the register pair at `a` (R176). -/
def val64 (g : Gang) (f : Fibre) (a : BitVec 7) : DWord :=
  if a = 124 then 0 else (readReg g f (a.toNat + 1)).v ++ (readReg g f a.toNat).v

/-- The fibre with the result `v` of the word it has just passed coming to register `d` (R182). -/
def Machine.Fibre.gets (f : Fibre) (d : BitVec 7) (v : Word) : Fibre :=
  f.writeAt f.count d.toNat { v := v }
/-- The same for the register pair at `d`. -/
def Machine.Fibre.gets64 (f : Fibre) (d : BitVec 7) (v : DWord) : Fibre :=
  (f.writeAt f.count d.toNat { v := v.extractLsb' 0 32 }).writeAt f.count (d.toNat + 1)
    { v := v.extractLsb' 32 32 }
/-- The same for the registers from `d` upwards. -/
def Machine.Fibre.getsAll (f : Fibre) (d : BitVec 7) (vs : List Word) : Fibre :=
  (List.range vs.length).foldl (fun x i => x.writeAt f.count (d.toNat + i) { v := vs.getD i 0 }) f

/-! ### What the register words compute -/

/-- R189: the words of two sources and their results. -/
def binaryWords : List ((BitVec 4 → BitVec 7 → BitVec 7 → BitVec 7 → Instr) × (Word → Word → Word)) :=
  [(Instr.add, fun a b => BitVec.ofNat 32 (a.toNat + b.toNat)),
   (Instr.sub, fun a b => BitVec.ofInt 32 (a.toInt - b.toInt)),
   (Instr.mul, fun a b => BitVec.ofNat 32 (a.toNat * b.toNat)),
   (Instr.mulhi, fun a b => BitVec.ofInt 32 (a.toInt * b.toInt / 2 ^ 32)),
   (Instr.mulhiu, fun a b => BitVec.ofNat 32 (a.toNat * b.toNat / 2 ^ 32)),
   (Instr.and, fun a b => a &&& b),
   (Instr.or, fun a b => a ||| b),
   (Instr.xor, fun a b => a ^^^ b),
   (Instr.shl, fun a b => BitVec.ofNat 32 (a.toNat * 2 ^ (b.toNat % 32))),
   (Instr.shr, fun a b => BitVec.ofNat 32 (a.toNat / 2 ^ (b.toNat % 32))),
   (Instr.sar, fun a b => BitVec.ofInt 32 (a.toInt / 2 ^ (b.toNat % 32))),
   (Instr.min, fun a b => if a.toInt ≤ b.toInt then a else b),
   (Instr.max, fun a b => if a.toInt ≤ b.toInt then b else a),
   (Instr.minu, fun a b => if a.toNat ≤ b.toNat then a else b),
   (Instr.maxu, fun a b => if a.toNat ≤ b.toNat then b else a)]

/-- R194: the bit field that `b` names in `a`: bits pos upwards, width of them, cut at bit 31; bit 15
asks for its sign. -/
def fieldTaken (a b : Word) : Word :=
  let pos := b.toNat % 32
  let n := min (min 32 (b.toNat / 256 % 64)) (32 - pos)
  let f := a.toNat / 2 ^ pos % 2 ^ n
  if b.toNat / 2 ^ 15 % 2 = 1 then (BitVec.ofNat n f).signExtend 32 else BitVec.ofNat 32 f

/-- R194: `d` with the low bits of `a` in the field that `b` names. -/
def fieldPut (a b d : Word) : Word :=
  let pos := b.toNat % 32
  let m : Word := BitVec.ofNat 32 ((2 ^ min 32 (b.toNat / 256 % 64) - 1) * 2 ^ pos)
  (d &&& ~~~m) ||| ((a <<< pos) &&& m)

/-- R190: the words with an immediate operand. -/
def immediateWords : List ((BitVec 4 → BitVec 7 → BitVec 7 → BitVec 7 → Instr) × (Word → Word → Word)) :=
  [(Instr.addi, fun a i => BitVec.ofNat 32 (a.toNat + i.toNat)),
   (Instr.andi, fun a i => a &&& i),
   (Instr.ori, fun a i => a ||| i),
   (Instr.xori, fun a i => a ^^^ i)]

/-- R190: the shifts by an immediate. -/
def shiftWords : List ((BitVec 4 → BitVec 7 → BitVec 7 → BitVec 7 → Instr) × (Word → Nat → Word)) :=
  [(Instr.shli, fun a n => BitVec.ofNat 32 (a.toNat * 2 ^ n)),
   (Instr.shri, fun a n => BitVec.ofNat 32 (a.toNat / 2 ^ n)),
   (Instr.sari, fun a n => BitVec.ofInt 32 (a.toInt / 2 ^ n))]

/-- R192: the functions of IUN. -/
def unaryFunctions : List (BitVec 7 × (Word → Word)) :=
  [(0, fun a => ~~~a), (1, fun a => BitVec.ofInt 32 (-a.toInt)),
   (2, fun a => BitVec.ofInt 32 |a.toInt|),
   (3, fun a => BitVec.ofNat 32 ((List.range 32).countP fun k => a.getLsbD k)),
   (4, fun a => if a = 0 then 32 else BitVec.ofNat 32 (31 - a.toNat.log2)),
   (5, BitVec.reverse),
   (6, fun a => BitVec.signExtend 32 (a.extractLsb' 0 8)),
   (7, fun a => BitVec.signExtend 32 (a.extractLsb' 0 16)),
   (8, fun a => BitVec.ofNat 32 (a.toNat % 256)),
   (9, fun a => BitVec.ofNat 32 (a.toNat % 65536)),
   (10, fun a => a)]

/-- R196: the conditions. -/
def conditions : List (BitVec 4 × (Word → Word → Bool)) :=
  [(0, fun a b => a == b), (1, fun a b => a != b),
   (2, fun a b => decide (a.toInt < b.toInt)), (3, fun a b => decide (a.toInt ≤ b.toInt)),
   (4, fun a b => decide (b.toInt < a.toInt)), (5, fun a b => decide (b.toInt ≤ a.toInt)),
   (6, fun a b => decide (a.toNat < b.toNat)), (7, fun a b => decide (a.toNat ≤ b.toNat)),
   (8, fun a b => decide (b.toNat < a.toNat)), (9, fun a b => decide (b.toNat ≤ a.toNat)),
   (10, fun a b => (a &&& b) != 0), (11, fun a b => (a &&& b) == 0)]

/-- R205: the folds over all active lanes. -/
def foldOps : List (BitVec 7 × (Word → Word → Word)) :=
  [(0, (· + ·)), (1, fun a b => if a.toInt ≤ b.toInt then a else b),
   (2, fun a b => if a.toInt ≤ b.toInt then b else a),
   (3, fun a b => if a.toNat ≤ b.toNat then a else b),
   (4, fun a b => if a.toNat ≤ b.toNat then b else a),
   (5, (· &&& ·)), (6, (· ||| ·)), (7, (· ^^^ ·))]

/-! ### What the floating-point words compute -/

/-- A word of two F32 or packed sources: whether it takes a rounding mode, whether only a core has it
(R62), and its result and flags under a rounding mode. -/
structure FloatWord where
  ctor : BitVec 4 → BitVec 7 → BitVec 7 → BitVec 7 → Instr
  rnd : Bool
  home : Bool
  fn : Gang → BitVec 2 → Word → Word → Word → Word × Exc

/-- R224, R225, R234: the words that do not read their destination. -/
def floatBinary : List FloatWord :=
  [{ ctor := .fadd, rnd := true, home := false,
     fn := fun _ rm a b _ => resWord (fadd f32 rm a.toNat b.toNat) },
   { ctor := .fsub, rnd := true, home := false,
     fn := fun _ rm a b _ => resWord (fsub f32 rm a.toNat b.toNat) },
   { ctor := .fmul, rnd := true, home := false,
     fn := fun _ rm a b _ => resWord (fmul f32 rm a.toNat b.toNat) },
   { ctor := .fmin, rnd := false, home := false,
     fn := fun _ _ a b _ => resWord (fminmax f32 false a.toNat b.toNat) },
   { ctor := .fmax, rnd := false, home := false,
     fn := fun _ _ a b _ => resWord (fminmax f32 true a.toNat b.toNat) },
   { ctor := .padd2, rnd := true, home := true,
     fn := fun g rm a b _ => packed2 (fun x y _ => fadd (if g.pkf then f16 else bf16) rm x y) a b 0 },
   { ctor := .pmul2, rnd := true, home := true,
     fn := fun g rm a b _ => packed2 (fun x y _ => fmul (if g.pkf then f16 else bf16) rm x y) a b 0 }]

/-- R224, R234 to R236: the words that read their destination too. -/
def floatTernary : List FloatWord :=
  [{ ctor := .ffma, rnd := true, home := false,
     fn := fun _ rm a b d => resWord (ffma f32 rm a.toNat b.toNat d.toNat) },
   { ctor := .pfma2, rnd := true, home := true,
     fn := fun g rm a b d => packed2 (fun x y z => ffma (if g.pkf then f16 else bf16) rm x y z) a b d },
   { ctor := .dot4, rnd := false, home := true, fn := fun _ _ a b d => (dot4 a b d, {}) },
   { ctor := .dot2f, rnd := true, home := true, fn := fun _ rm a b d => resWord (dot2f rm a b d) }]

/-- R229, R230: registers that a CVT reads (or writes, for `w` the width of the other side). -/
def cvtRegs (ws wd : Nat) (packed : Bool) (w : Nat) : Nat := if packed then 32 / min ws wd * w / 32 else 1

/-- No active lane raises a flag whose trap is enabled (R222). -/
def NoTrap (s : State) (cr : Crew) (pc : VAddr) (g : BitVec 4) (x : Fibre → Exc) : Prop :=
  ∀ f ∈ s.active cr pc g, (x f).bits &&& (s.gang cr.gang).ten = 0

/-! ### A crew that splits -/

/-- R156, R157: the address whose members stay in the crew: that of the most members, on a tie the
fall-through address, or failing that the one that the lowest lane goes to. -/
def stayAt (fall : VAddr) (l : List VAddr) : VAddr :=
  let top := (l.map fun a => l.count a).foldl max 0
  let best := l.filter fun a => decide (l.count a = top)
  if fall ∈ best then fall else best.headD fall

/-- `t` is `s` after a word that sends each member, active or not, to its own `dest`, and nothing else of
it: those that do not go where most go leave the crew. -/
structure Splits (s t : State) (c : Cur) (cr : Crew) (pc : VAddr) (active : Fibre → Bool)
    (dest : Fibre → VAddr) : Prop where
  each : ∀ fid ∈ cr.fids, ∀ f, KV.find? (fkey cr.gang fid) s.fibres = some f →
    let stay := stayAt (pc + 4) ((s.members cr).map dest)
    KV.find? (fkey cr.gang fid) t.fibres = some { f.passed (cr.group pc) (active f) with
      pc := dest f, slot := if dest f = stay then f.slot else none }
  others : ∀ k, (∀ fid ∈ cr.fids, k ≠ fkey cr.gang fid) →
    (KV.find? k t.fibres).map (fun f => { f with slot := none }) =
      (KV.find? k s.fibres).map (fun f => { f with slot := none })
  crew : ∃ cr', KV.find? (ckey c.site c.slot) t.crews = some cr' ∧ cr'.gang = cr.gang ∧ cr'.hints = none ∧
    ∀ f ∈ s.members cr, f.fid ∈ cr'.fids ↔ dest f = stayAt (pc + 4) ((s.members cr).map dest)
  rest : t.mem = s.mem ∧ t.scr = s.scr ∧ t.acc = s.acc ∧ t.gangs = s.gangs ∧ t.dirs = s.dirs ∧
    t.l1 = s.l1 ∧ t.pkg = s.pkg ∧ t.dies = s.dies

/-! ### Exact values and their rounding (R214, R217) -/

/-- R214: a code that is no infinity and no NaN. -/
def Machine.Fmt.finite (F : Fmt) (c : Nat) : Bool := !F.isNan c && !F.isInf c

/-- R214: the value of a finite code. -/
def Machine.Fmt.rat (F : Fmt) (c : Nat) : ℚ :=
  (if F.neg c then -1 else 1) *
    (if F.ef c = 0 then (2 : ℚ) ^ (1 - F.bias) * ((F.mf c : ℚ) / 2 ^ F.m)
      else (2 : ℚ) ^ ((F.ef c : Int) - F.bias) * (1 + (F.mf c : ℚ) / 2 ^ F.m))

/-- R217: the finite code `c` is the exact value `v` rounded by a mode: to the nearest, a tie to an even M;
toward zero; upward; downward. -/
def Rounds (F : Fmt) (rm : BitVec 2) (v : ℚ) (c : Nat) : Prop :=
  F.finite c = true ∧ match rm.toNat with
  | 0 => ∀ y, F.finite y = true → |F.rat c - v| ≤ |F.rat y - v| ∧
      (|F.rat y - v| = |F.rat c - v| → F.rat y ≠ F.rat c → c % 2 = 0)
  | 1 => |F.rat c| ≤ |v| ∧ 0 ≤ F.rat c * v ∧
      ∀ y, F.finite y = true → |F.rat y| ≤ |v| → 0 ≤ F.rat y * v → |F.rat y| ≤ |F.rat c|
  | 2 => v ≤ F.rat c ∧ ∀ y, F.finite y = true → v ≤ F.rat y → F.rat c ≤ F.rat y
  | _ => F.rat c ≤ v ∧ ∀ y, F.finite y = true → F.rat y ≤ v → F.rat y ≤ F.rat c

/-- R233: the integer `i` is the value `v` rounded by a mode. -/
def RoundsInt (rm : BitVec 2) (v : ℚ) (i : Int) : Prop :=
  match rm.toNat with
  | 0 => |(i : ℚ) - v| ≤ 1 / 2 ∧ (|(i : ℚ) - v| = 1 / 2 → i % 2 = 0)
  | 1 => |(i : ℚ)| ≤ |v| ∧ |v| < |(i : ℚ)| + 1 ∧ 0 ≤ i * v
  | 2 => v ≤ i ∧ (i : ℚ) < v + 1
  | _ => (i : ℚ) ≤ v ∧ v < i + 1

/-- R217: a result whose exact value is `v`: rounded once, inexact where it differs; beyond the largest
finite magnitude an infinity, with overflow. -/
def Delivers (F : Fmt) (rm : BitVec 2) (v : ℚ) (r : Res) : Prop :=
  (F.isInf r.1 = false → Rounds F rm v r.1 ∧ (r.2.nx = true ↔ F.rat r.1 ≠ v)) ∧
  (F.isInf r.1 = true → F.rat F.big < |v| ∧ r.2.of = true ∧ r.2.nx = true) ∧
  r.2.nv = false ∧ r.2.dz = false

/-! ### A crew of one fibre -/

/-- The crew now issuing has the one fibre `f`, and no other fibre of its gang can join it. -/
structure Solo (s : State) (c : Cur) (cr : Crew) (f : Fibre) (lr : Bool := false) : Prop where
  ready : Ready s c cr f.pc lr
  one : cr.fids = [f.fid]
  here : KV.find? (fkey cr.gang f.fid) s.fibres = some f
  others : s.fibres.all (fun x => decide (x.1 / 1024 ≠ cr.gang) || !x.2.formable) = true

/-- The state with the fibre of a one-fibre crew become `f`, and the issue of its word accounted for. -/
def Machine.State.issued (s : State) (c : Cur) (cr : Crew) (f : Fibre) (lanes : Nat) : State :=
  { s with
    fibres := KV.put (fkey cr.gang f.fid) f s.fibres,
    crews := KV.put (ckey c.site c.slot) { cr with hints := none, stall := 0 } s.crews,
    sites := KV.put c.site ((s.site c.site).spent c.site lanes) s.sites }

/-- The lane of a one-fibre crew as its next word sees it, where the word has the register fields
`us` and is active. -/
def soloEnv (s : State) (c : Cur) (cr : Crew) (f : Fibre) (us : List Use) : Env :=
  let g := s.gang cr.gang
  let h := cr.group f.pc
  let m : BitVec 22 := h.mods.getD 0
  { site := c.site, ctx := g.ctx, gk := cr.gang, g := g, key := fkey cr.gang f.fid, lane := f.lane,
    f := f.now h, now := f.count + 1 + h.dist, start := h.start, pc := f.pc, active := true,
    imm := h.imm, rm := rounding g h, sat := m.getLsbD 18, tol := m.getLsbD 17, noal := m.getLsbD 16,
    wskip := m.getLsbD 15, sig := h.sig, wait := c.wait, body := false, mask := laneMask [f.lane],
    v := operands s g (f.now h) us }

/-- R181, R183: the flag that an operation signals: the named one, or the full-completion wait (15)
of a word that has one; 16 is none. -/
def Machine.Hints.opFlag (h : Hints) (full : Bool) : Nat := if h.sig < 12 then h.sig else if full then 15 else 16

/-- The operation `o` as the lane `e` starts it. -/
def Machine.Op.of (o : Op) (s : State) (e : Env) (full : Bool) : Op :=
  { o with fibre := e.key, site := e.site, lane := e.lane, pc := e.start, wskip := e.wskip,
           ten := e.g.ten, gph := e.g.gphase, mark := e.f.relMark, wins := s.pkg.peerwin,
           flag := if e.sig < 12 then e.sig else if full then 15 else 16 }

/-- The fibre of a one-fibre crew after a word that starts operation `id`: the flag is BUSY, and `w`
registers from `d` upwards are promised (R183). -/
def Machine.Fibre.waits (f : Fibre) (h : Hints) (full eng : Bool) (id d w : Nat) : Fibre :=
  let n := h.opFlag full
  let x := f.passed h true
  (List.range w).foldl (fun x i => x.promise (d + i) n id)
    (if n < 16 then x.setFlag n { st := .busy, eng := eng } else x)

/-- `t` is `u` with the word of a one-fibre crew issued, its fibre become `y` and the operation `o`
in flight under the next serial number. The site may have cached translations and registered input
rows; nothing else differs from `u`. -/
def Started (s u t : State) (c : Cur) (cr : Crew) (f : Fibre) (o : Op) (y : Fibre) : Prop :=
  ∃ tlb bnd rows, t = { u with
    ops := KV.put s.nextId o u.ops
    nextId := s.nextId + 1
    fibres := KV.put (fkey cr.gang f.fid) y u.fibres
    crews := KV.put (ckey c.site c.slot) { cr with hints := none, stall := 0 } s.crews
    sites := KV.put c.site { (s.site c.site).spent c.site 1 with tlb := tlb, bnd := bnd, rows := rows }
      s.sites }

/-- What a word of a one-fibre crew that starts an operation asks of the state: the crew is ready with
every flag IDLE, the guard holds, the register fields are legal, no queue and not poisoned, the hints
fit, and the turn leaves operations in flight. -/
structure Starts (s : State) (c : Cur) (cr : Crew) (f : Fibre) (g : BitVec 4) (us : List Use)
    (rnd : Bool := false) : Prop where
  solo : Solo s c cr f
  idle : ∀ n, f.IdleFlag n
  guard : guardOk g (f.now (cr.group f.pc)) = true
  fields : Fields s cr f.pc g us
  mods : FitMods (cr.group f.pc) rnd false
  wait : c.wait = true

/-- The word `i`, with the register fields `us`, starts the operation `o` for a one-fibre crew: a next
state follows, which is `u` but for the operation, the fibre and the issue of the word (`Started`).
The operation promises `w` registers from `d`; `fix` is what else becomes of the fibre. -/
def Begins (s u : State) (c : Cur) (cr : Crew) (f : Fibre) (i : Instr) (us : List Use) (o : Op)
    (full eng : Bool) (d w : Nat) (fix : Fibre → Fibre := id) : Prop :=
  ∃ t, exec i s = .next t ∧ Started s u t c cr f (o.of s (soloEnv s c cr f us) full)
    (fix (f.waits (cr.group f.pc) full eng s.nextId d w))

/-- R119, R120: what an acquire keeps its fibre's next word from. -/
def Machine.Fibre.held (acq : Bool) (id : Nat) (f : Fibre) : Fibre := if acq then { f with fence := [id] } else f

/-- R166: the fibre is demoted no longer. -/
def Machine.Fibre.risen (f : Fibre) : Fibre := { f with dem := false }

/-- An access in flight: `x` is where its check found it. -/
def reach (s : State) (e : Env) (x : Xl) (n pol : Nat) (k : OpK) (acq : Bool := false)
    (rel : Bool := false) (poll : Bool := false) (d : Nat := 124) : Op where
  kind := k
  dst := d
  arr := if x.bank then (s.pch (scullerOf x.key)).clk else 0
  acc := { ptr := e.ptr 0, pa := x.key, n := n, pol := polOf x pol, bank := x.bank,
           acq := acq, rel := rel, poll := poll }

/-- The state in which the lane of a one-fibre crew has passed its word, before the word's effect. -/
def Machine.State.after (s : State) (c : Cur) (cr : Crew) (f : Fibre) : State :=
  s.issued c cr (f.passed (cr.group f.pc) true) 1

/-! ### Words after which a fibre stands elsewhere -/

/-- The fibre of a one-fibre crew after a word that sends it to `dest`. -/
def Machine.Fibre.gone (f : Fibre) (h : Hints) (active : Bool) (dest : VAddr) : Fibre :=
  { f.passed h active with pc := dest }

/-- The fibre in the boathouse, waiting in a way (R161) at the word that the group began with. -/
def Machine.Fibre.waiting (f : Fibre) (h : Hints) (w : WaitK) : Fibre :=
  { f.passed h true with slot := none, pc := h.start, wait := some { kind := w, next := f.pc + 4 } }

/-- The state with the fibre of a one-fibre crew become `y` in the boathouse, the crew gone (R146, R162),
and the issue of its word accounted for. -/
def Machine.State.vacated (s : State) (c : Cur) (cr : Crew) (f y : Fibre) : State :=
  { s with
    fibres := KV.put (fkey cr.gang f.fid) y s.fibres,
    crews := KV.del (ckey c.site c.slot) s.crews,
    ops := s.ops.filter fun o => !(decide (o.2.fibre = fkey cr.gang f.fid) && decide (o.2.kind = .wread 0)),
    sites := KV.put c.site ((s.site c.site).spent c.site 1) s.sites }

/-- The group names no flag to signal, as the words that start nothing ask (R180). -/
def Unsignalled (h : Hints) : Prop := h.pace = true → h.sig = 15

/-- What a word of a one-fibre crew that starts no operation asks of the state. -/
structure Stands (s : State) (c : Cur) (cr : Crew) (f : Fibre) (g : BitVec 4) (us : List Use)
    (lr : Bool := false) : Prop where
  solo : Solo s c cr f lr
  idle : ∀ n, f.IdleFlag n
  guard : guardOk g (f.now (cr.group f.pc)) = true
  fields : Fields s cr f.pc g us
  mods : FitMods (cr.group f.pc) false false

/-- The fibre in the boathouse after a word that it fails, with the issue count that it had at the group's
first word (R182); one that its crew's wait had blocked starts its age afresh (R163). -/
def Machine.Fibre.failed (f : Fibre) (cr : Crew) : Fibre :=
  { f with slot := none, wbuf := [], age := if cr.blocked then 0 else f.age
           count := f.count - (f.pc - (cr.group f.pc).start).toNat / 4 }

/-- R317, R334, R337: the state after the fibre of a one-fibre crew, become `y` in the boathouse, has
raised `x`. -/
def Machine.State.trapped (s : State) (c : Cur) (cr : Crew) (f y : Fibre) (x : Fail) : State :=
  let g := s.gang cr.gang
  let t := mkRecord g y x x (laneMask [x.lane])
  match disposition g y x with
  | .handler => s.vacated c cr f
      { y with trec := t, hm := true, pc := g.trapvec, wait := none, fresh := false }
  | .park => s.vacated c cr f
      { y with trec := t, pc := x.pc, park := some ⟨false, t, x.cls⟩, wait := none, stepping := false, toHalt := none }
  | .supervisor =>
    let u := s.vacated c cr f
      { y with trec := if y.hm then y.trec else t, pc := x.pc, park := some ⟨true, t, x.cls⟩, wait := none,
               stepping := false, toHalt := none }
    let d := attach (s.die (dieOf c.site))
      { ctx := g.ctx, cls := x.cls, reason := t.reason, page := t.r2.toNat % 2 ^ 54 / 4096, record := t,
        fibres := [fkey cr.gang f.fid] }
    { u with dies := KV.put (dieOf c.site) d s.dies }

/-- The state after a hint word of a one-fibre crew, which leaves the group `h` with one word more, and
spends `idle` issue opportunities before the next word (R163, R179, R182). -/
def Machine.State.hinted (s : State) (c : Cur) (cr : Crew) (f : Fibre) (h : Hints) (idle : Nat := 0) :
    State :=
  let x := s.site c.site
  let bump (n k : Nat) (m : List (Nat × DWord)) := KV.put n (KV.getD n 0 m + BitVec.ofNat 64 k) m
  let tdc := if x.tfrz || !isCore c.site then x.tdc else bump 15 0 (bump 3 1 (bump 0 1 x.tdc))
  { s with
    fibres := KV.put (fkey cr.gang f.fid)
      { f with count := f.count + 1, age := 0, pc := f.pc + 4 } s.fibres,
    crews := KV.put (ckey c.site c.slot)
      { cr with hints := some { h with n := h.n + 1 }, stall := 0, idle := idle } s.crews,
    sites := KV.put c.site { x with budget := x.budget - 1, tdc := tdc } s.sites }

/-- The halted fibre `x` of number `n` of the gang, which is not the fibre `f` (R359). -/
structure Halted (s : State) (gk : Nat) (f : Fibre) (n : Nat) (x : Fibre) : Prop where
  here : KV.find? (fkey gk n) s.fibres = some x
  halt : x.halt.isSome = true
  small : n < 1024
  other : n ≠ f.fid

/-! ### The dies' commands -/

/-- R373: `c` is the next command that the die takes, and one that it knows. -/
structure Takes (s : State) (die : Nat) (c : Cmd) : Prop where
  up : s.dieUp die = true
  idle : (s.die die).cmd = none
  entry : ∃ m, s.nextEntry die = some m ∧ cmdReserved m = false ∧ cmdOf m = c
  here : s.entryRead die = none
  known : c.unknown = false

/-- The dies after die `die` has taken the next entry of its ring, as command `c`. -/
def Machine.State.taken (s : State) (die : Nat) (c : Cmd) : List (Nat × Die) :=
  KV.put die { s.die die with mchead := (s.die die).mchead + 1, cmd := some c } s.dies

/-- The command with its status. -/
def Machine.Cmd.with (c : Cmd) (st : Nat) : Cmd := { c with status := some st }

/-- R337, R338: entry `i` of the die's coalescing table has the one fibre `f` attached, which is parked
for the supervisor on its core, and no record waits for an entry. -/
structure Attached (s : State) (die i k : Nat) (f : Fibre) (p : Park) (e : CEnt) : Prop where
  entry : KV.find? i (s.die die).ctab = some e
  only : e.fibres = [k]
  here : KV.find? k s.fibres = some f
  park : f.park = some p
  sup : p.sup = true
  restart : f.restart = 0
  queue : (s.die die).cwait = []
  room : ((s.die die).fqtail - (s.die die).fqhead).toNat < (s.die die).fqSize
  gang : KV.has f.gang s.gangs = true

/-- n bytes at a physical address lie in DRAM. -/
def InDram (pa n : Nat) : Prop := ∀ i < n, isDram (pa + i) = true

/-! ### Events of the package -/

/-- A packet arrives at a port that is up, at a package that has come up (R364, R382). -/
structure Arrives (s : State) (p : Packet) : Prop where
  up : s.up = true
  port : p.port < 36
  trained : s.pkg.portsDown.getLsbD p.port = false

/-- The state in which the run of replays at the packet's port has ended (R364). -/
def Machine.State.arrived (s : State) (p : Packet) : State :=
  { s with pkg := { s.pkg with replays := KV.del p.port s.pkg.replays } }

/-- The state in which a request that has arrived at the machine waits to be performed. -/
def Machine.State.taking (s : State) (kind : PktK) (p : Packet) : State :=
  { s.arrived p with
    nextId := s.nextId + 1, ops := KV.put s.nextId { kind := .packet kind p, site := Config.sites } s.ops }

/-- The state without operation `id`. -/
def Machine.State.took (s : State) (id : Nat) : State := { s with ops := KV.del id s.ops }

/-- R371: nothing that the packet must not overtake is still to be performed. -/
def Machine.State.inTurn (s : State) (kind : PktK) (p : Packet) : Prop :=
  pktOrdered kind p = false ∨ s.pktBefore s.nextId p.src = false

/-- R183: the fibre with a value that is at hand at once coming to register `d`: readable by the next word,
or, where the word signals flag `sig`, once that is observed; `id` is the serial number it then bears. -/
def Machine.Fibre.getsAt (f : Fibre) (sig id d : Nat) (v : PW) : Fibre :=
  if sig < 12 then (f.promise d sig id).deliver id d [v] else f.writeNow d v

/-- The state with one more packet sent. -/
def Machine.State.sent (s : State) (o : OutPkt) : State :=
  { s with pkg := { s.pkg with out := s.pkg.out ++ [o] } }

/-- The state with one more entry in the error log of a die (R52). -/
def Machine.State.logged (s : State) (die kind unit loc addr : Nat) (synd : DWord := 0) : State :=
  let d := s.die die
  let e : BitVec 256 := (s.site (die * 48)).clk ++ (0#8) ++ BitVec.ofNat 8 kind ++ BitVec.ofNat 16 unit ++
    BitVec.ofNat 32 loc ++ synd ++ BitVec.ofNat 64 addr
  { s with dies := KV.put die { d with
      errlog := KV.put (d.errtail.toNat % 256) e d.errlog, errtail := d.errtail + 1 } s.dies }

/-- Memory from `pa` reads as the bytes `l`. -/
def Machine.State.Holds (s : State) (pa : Nat) (l : List Byte) : Prop :=
  ∀ i < l.length, Memory.read s.mem (pa + i) = l.getD i 0

/-- Outside the `n` bytes at `pa`, memory is the same. -/
def SameOutside (s t : State) (pa n : Nat) : Prop :=
  ∀ a, a < pa ∨ pa + n ≤ a → Memory.read t.mem a = Memory.read s.mem a

/-- No core of the holder die has bytes of line `n` that the home copy lacks. -/
def Machine.State.QuietLine (s : State) (n : Nat) : Prop := (s.dir n).owners = [] ∧ (s.dir n).pmasks = []

/-- Outside the `n` bytes at `pa`, the home copy of a line that no core had written is the same: a line that
makes room for another may be written back. -/
def QuietOutside (s t : State) (pa n : Nat) : Prop :=
  ∀ a, a < pa ∨ pa + n ≤ a → s.QuietLine (a / 128) → Memory.read t.mem a = Memory.read s.mem a

/-- `n` bytes of DRAM at `pa` that a packet can access now, in lines that no core has written. -/
structure Reachable (s : State) (pa n : Nat) (wr : Bool) : Prop where
  some_ : 4 ≤ n ∧ n ≤ 128
  dram : InDram pa n
  free : s.refusesPkt pa n wr = false
  now : s.pktHeld pa n = false
  quiet : ∀ i < n, s.QuietLine ((pa + i) / 128)

/-- The device may write `n` bytes of DRAM at `pa` now: none lies in a line that is held or lost, and none of
its earlier writes waits (R253). -/
structure DevFree (s : State) (pa n : Nat) : Prop where
  dram : InDram pa n
  lost : ∀ i < n, s.isLost (pa + i) = false
  held : ∀ i < n, s.cellHeld (pa + i, false) = false
  idle : s.devBusy = false

/-- Lines may have moved between the caches from `s` to `u`: where no core had written a line, no byte of
its home copy has changed. -/
def Undisturbed (s u : State) : Prop :=
  ∀ a, s.QuietLine (a / 128) → Memory.read u.mem a = Memory.read s.mem a

/-- Nothing has moved between the caches, and memory is the same. -/
def SameLines (s t : State) : Prop :=
  t.mem = s.mem ∧ t.mpoison = s.mpoison ∧ t.l1 = s.l1 ∧ t.sram = s.sram ∧ t.dpoison = s.dpoison ∧
    t.fwd = s.fwd ∧ t.dirs = s.dirs ∧ t.tick = s.tick

/-- `u` is `s` after reads with NC meaning: the caches may hold other lines, and have written back what
they gave up. -/
def Reads (s u : State) : Prop :=
  (∃ mem mpoison l1 fcache sram dpoison fwd hent dirs tick, u = { s with
    mem := mem, mpoison := mpoison, l1 := l1, fcache := fcache, sram := sram, dpoison := dpoison
    fwd := fwd, hent := hent, dirs := dirs, tick := tick }) ∧ Undisturbed s u

/-- R48, R274: the gang with a copy `id` appended to channel `ch`; a copy that feeds a queue has its
pushes in flight. -/
def Machine.Gang.withCopy (g : Gang) (ch id : Nat) (d : End) (len : Nat) : Gang :=
  let k := KV.getD ch {} g.chans
  let g := match d with
    | .queue q => { g with queues := KV.update q (fun x =>
        { x with inFlight := x.inFlight + len / (4 * x.regs) }) g.queues }
    | _ => g
  { g with chans := KV.put ch { k with
      copies := k.copies ++ [id], st := if k.st = .idle then .running else k.st } g.chans }

/-! ### Words that an eight issues together -/

/-- The crew now issuing is one eight of lanes, all active, with every flag IDLE; the fields `us` of
the word, and those that each lane reads for itself (`own`), are legal and clean. -/
structure Octet (s : State) (c : Cur) (cr : Crew) (pc : VAddr) (g : BitVec 4) (us own : List Use) : Prop where
  ready : Ready s c cr pc
  core : isCore c.site = true
  eight : ∃ k, cr.fids.map (· % 32) = (List.range 8).map (8 * k + ·)
  idle : ∀ fid ∈ cr.fids, ∀ n, (s.fibre (fkey cr.gang fid)).IdleFlag n
  guard : ∀ fid ∈ cr.fids, guardOk g ((s.fibre (fkey cr.gang fid)).now (cr.group pc)) = true
  fields : Fields s cr pc g us
  mine : Fields s cr pc g own
  mods : FitMods (cr.group pc) false false
  wait : c.wait = true

/-- The operation of kind `k` that the lanes of an eight issue together (R281). -/
def octetOp (s : State) (c : Cur) (cr : Crew) (pc : VAddr) (k : OpK) : Op where
  kind := k
  fibre := fkey cr.gang (cr.fids.headD 0)
  site := c.site
  lane := cr.fids.headD 0 % 32
  flag := (cr.group pc).opFlag true
  joint := cr.fids.tail.map fun fid => (fkey cr.gang fid, (cr.group pc).opFlag true)
  pc := (cr.group pc).start
  arr := (s.site c.site).clk.toNat
  ten := (s.gang cr.gang).ten
  gph := (s.gang cr.gang).gphase
  wins := s.pkg.peerwin
  mark := (s.fibre (fkey cr.gang (cr.fids.headD 0))).relMark

/-- `t` is `s` after a word of an eight: every lane waits for the operation `o`, now in flight. The die's
power tokens and the lines in the caches, fetched and pinned, may have changed (R294, R42), and nothing
else. -/
structure Joint (s t : State) (c : Cur) (cr : Crew) (pc : VAddr) (o : Op) : Prop where
  each : ∀ fid ∈ cr.fids, ∀ f, KV.find? (fkey cr.gang fid) s.fibres = some f →
    KV.find? (fkey cr.gang fid) t.fibres = some (f.waits (cr.group pc) true true s.nextId 0 0)
  others : ∀ k, (∀ fid ∈ cr.fids, k ≠ fkey cr.gang fid) →
    (KV.find? k t.fibres).map (fun f => { f with slot := none }) =
      (KV.find? k s.fibres).map (fun f => { f with slot := none })
  crew : ∃ cr', KV.find? (ckey c.site c.slot) t.crews = some cr' ∧ cr'.gang = cr.gang ∧
    cr'.hints = none ∧ ∀ fid ∈ cr.fids, fid ∈ cr'.fids
  crews : ∀ k, k ≠ ckey c.site c.slot → KV.find? k t.crews = KV.find? k s.crews
  site : ∃ tlb bnd waits, t.sites = KV.put c.site
    { (s.site c.site).spent c.site 8 with tlb := tlb, bnd := bnd, waits := waits } s.sites
  tokens : ∀ k, ({ t.die k with toks := [], free := [], tokWait := [] } : Die) =
    { s.die k with toks := [], free := [], tokWait := [] }
  lines : Undisturbed s t
  rest : t = { s with
    ops := KV.put s.nextId o s.ops, nextId := s.nextId + 1, fibres := t.fibres, crews := t.crews,
    sites := t.sites, dies := t.dies, mem := t.mem, mpoison := t.mpoison, l1 := t.l1, sram := t.sram
    dpoison := t.dpoison, fwd := t.fwd, dirs := t.dirs, tick := t.tick }

/-- The lane's request at the placer of a bag, behind those of the word's lower lanes (R263). -/
def asked (s : State) (e : Env) (o : Op) : Op := { o with after := s.lowerLanes e o }

/-- The lowest lane of the eight, as its word `d` sees it. -/
def octetLane {s0 : State} (s : State) (c : Cur) (cr : Crew) (d : Desc s0) : Env :=
  (crewEnvs s c cr d).headD default

/-! ### What holds a word, and what predicates see -/

/-- It is the turn of a crew with members, on a site that issues. -/
structure Turns (s : State) (c : Cur) (cr : Crew) : Prop where
  cur : s.cur = some c
  word : c.body = false
  crew : KV.find? (ckey c.site c.slot) s.crews = some cr
  some_ : cr.fids ≠ []
  runs : s.issues c.site (s.gang cr.gang) = true

/-- The state after a turn in which the crew's next word was held back for the reason `leaf`; members that
are blocked no more start their ages afresh (R163). -/
def Machine.State.stalled (s : State) (c : Cur) (cr : Crew) (leaf : Nat) : State :=
  { s with
    fibres := if cr.blocked && !({ cr with stall := leaf } : Crew).blocked then
        cr.fids.foldl (fun m fid => KV.update (fkey cr.gang fid) (fun f => { f with age := 0 }) m) s.fibres
      else s.fibres
    crews := KV.put (ckey c.site c.slot) { cr with stall := leaf } s.crews }

/-- Words of every kind that a held crew may stand at. -/
def anyWords (g : BitVec 4) (d a b : BitVec 7) : List Instr :=
  (binaryWords.map fun w => w.1 g d a b) ++
    [.ld g d a 5 0 0, .st g d a 5 0 0, .fenceRel g, .barg g d 0, .bra g 0, .exit g]

/-- The state in which predicate `n` alone watches at a site, and more hits are marked there. -/
def Machine.State.watched (s : State) (site n : Nat) (p : WPred) (hit : BitVec 16 := 0) : State :=
  let x := s.site site
  { s with sites := KV.put site { x with preds := [(n, p)], hit := x.hit ||| hit } s.sites }

/-! ### Words that access memory -/

/-- A load of raw bytes (R242, R243): its word, bytes, registers, and how the bytes fill them. -/
structure LoadWord where
  ctor : BitVec 4 → BitVec 7 → BitVec 7 → BitVec 3 → BitVec 2 → Instr
  n : Nat
  regs : Nat
  form : LdForm

/-- R242, R243: LD of each size, and LDB without and with sign extension. -/
def loadWords : List LoadWord :=
  [⟨fun g d a p o => .ld g d a p o 0, 4, 1, .words⟩, ⟨fun g d a p o => .ld g d a p o 1, 8, 2, .words⟩,
   ⟨fun g d a p o => .ld g d a p o 2, 16, 4, .words⟩, ⟨fun g d a p o => .ld g d a p o 3, 2, 1, .zext⟩,
   ⟨fun g d a p o => .ldb g d a p o 0, 1, 1, .zext⟩, ⟨fun g d a p o => .ldb g d a p o 1, 1, 1, .sext⟩]

/-- A store of raw bytes (R242, R243): its word, bytes, registers. -/
structure StoreWord where
  ctor : BitVec 4 → BitVec 7 → BitVec 7 → BitVec 3 → BitVec 2 → Instr
  n : Nat
  regs : Nat

def storeWords : List StoreWord :=
  [⟨fun g d a p o => .st g d a p o 0, 4, 1⟩, ⟨fun g d a p o => .st g d a p o 1, 8, 2⟩,
   ⟨fun g d a p o => .st g d a p o 2, 16, 4⟩, ⟨fun g d a p o => .st g d a p o 3, 2, 1⟩,
   ⟨fun g d a p o => .stb g d a p o, 1, 1⟩]

end Sys2Proof
end

