-- ==== Sys2Proof/Certificates/Slice0/Obligations.lean ====
section
/-! DEFINITION. The statements for the provers. Each docstring names the rules of the manual that it
formalises; a free value of Config stands for every value it may have. -/

open Sys2Proof Sys2Proof.Machine

/-! ### Integer words -/

/-- R189: ADD to MAXU, and MAD which reads d as a source, write their value to d of each active lane
and do nothing else: no flag, no fault, no saturation. -/
def Obligations.IntegerWords : Prop :=
  ∀ s c cr pc g d a b, Ready s c cr pc → PlainHints (cr.group pc) →
    (∀ w ∈ binaryWords, Fields s cr pc g [src a, src b, dst d] →
      ∃ t, exec (w.1 g d a b) s = .next t ∧ Lanes s t c cr pc g fun f x =>
        x.gets d (w.2 (val (s.gang cr.gang) f a) (val (s.gang cr.gang) f b))) ∧
    (Fields s cr pc g [src a, src b, src d, dst d] →
      ∃ t, exec (.mad g d a b) s = .next t ∧ Lanes s t c cr pc g fun f x =>
        x.gets d (BitVec.ofNat 32 ((val (s.gang cr.gang) f a).toNat * (val (s.gang cr.gang) f b).toNat +
          (val (s.gang cr.gang) f d).toNat)))

/-- R193, R194: SEL takes the bits of a where d has ones and those of b elsewhere; BFX extracts the
field that b names and BFI inserts it. -/
def Obligations.SelectAndFields : Prop :=
  ∀ s c cr pc g d a b, Ready s c cr pc → PlainHints (cr.group pc) →
    let v (f : Fibre) (x : BitVec 7) : Word := val (s.gang cr.gang) f x
    (Fields s cr pc g [src a, src b, src d, dst d] →
      (∃ t, exec (.sel g d a b) s = .next t ∧ Lanes s t c cr pc g fun f x =>
        x.gets d ((v f a &&& v f d) ||| (v f b &&& ~~~v f d))) ∧
      (∃ t, exec (.bfi g d a b) s = .next t ∧ Lanes s t c cr pc g fun f x =>
        x.gets d (fieldPut (v f a) (v f b) (v f d)))) ∧
    (Fields s cr pc g [src a, src b, dst d] →
      ∃ t, exec (.bfx g d a b) s = .next t ∧ Lanes s t c cr pc g fun f x =>
        x.gets d (fieldTaken (v f a) (v f b)))

/-- R190, R184: ADDI, ANDI, ORI and XORI with the immediate of the word, or of its IMM hint. -/
def Sys2Proof.Part.ImmediateWords : Prop :=
  ∀ w ∈ immediateWords, ∀ s c cr pc g d a i, Ready s c cr pc → FitMods (cr.group pc) false false →
    Fields s cr pc g [src a, dst d] →
    ∃ t, exec (w.1 g d a i) s = .next t ∧ Lanes s t c cr pc g fun f x =>
      x.gets d (w.2 (val (s.gang cr.gang) f a) (immediate (cr.group pc) i))

/-- R190: SHLI, SHRI and SARI shift by an immediate of 0 to 31. -/
def Sys2Proof.Part.ShiftImmediates : Prop :=
  ∀ w ∈ shiftWords, ∀ s c cr pc g d a i, Ready s c cr pc → FitMods (cr.group pc) false false →
    Fields s cr pc g [src a, dst d] → i.toNat < 32 → (immediate (cr.group pc) i).toNat < 32 →
    ∃ t, exec (w.1 g d a i) s = .next t ∧ Lanes s t c cr pc g fun f x =>
      x.gets d (w.2 (val (s.gang cr.gang) f a) (immediate (cr.group pc) i).toNat)

/-- R191: LDI writes its immediate; under IMM bits 13:7 of it are 0. -/
def Sys2Proof.Part.LoadImmediate : Prop :=
  ∀ s c cr pc g d i, Ready s c cr pc → FitMods (cr.group pc) false false →
    Fields s cr pc g [dst d] → ((cr.group pc).imm = none ∨ i.toNat < 128) →
    ∃ t, exec (.ldi g d i) s = .next t ∧ Lanes s t c cr pc g fun _ x =>
      x.gets d (match (cr.group pc).imm with
        | some p => (p ++ i.extractLsb' 0 7).signExtend 32
        | none => i.signExtend 32)

/-- R190, R191, R184: the words with an immediate operand, alone or widened by an IMM hint. -/
def Obligations.ImmediateOperands : Prop := Part.ImmediateWords ∧ Part.ShiftImmediates ∧ Part.LoadImmediate

/-- R192: IUN applies the function of its func field. -/
def Obligations.UnaryFunctions : Prop :=
  ∀ w ∈ unaryFunctions, ∀ s c cr pc g d a, Ready s c cr pc → PlainHints (cr.group pc) →
    Fields s cr pc g [src a, dst d] →
    ∃ t, exec (.iun g d a w.1) s = .next t ∧ Lanes s t c cr pc g fun f x =>
      x.gets d (w.2 (val (s.gang cr.gang) f a))

/-- R195: ADD64 adds pairs modulo 2^64. -/
def Sys2Proof.Part.Add64Pairs : Prop :=
  ∀ s c cr pc g d a b, Ready s c cr pc → PlainHints (cr.group pc) →
    Fields s cr pc g [src a 2, src b 2, dst d 2] →
    ∃ t, exec (.add64 g d a b) s = .next t ∧ Lanes s t c cr pc g fun f x =>
      x.gets64 d (val64 (s.gang cr.gang) f a + val64 (s.gang cr.gang) f b)

/-- R195: ADDA adds a signed word to bits 53:0 of a pointer and copies bits 63:54. -/
def Sys2Proof.Part.PointerAdd : Prop :=
  ∀ s c cr pc g d a b, Ready s c cr pc → PlainHints (cr.group pc) →
    Fields s cr pc g [src a 2, src b, dst d 2] →
    ∃ t, exec (.adda g d a b) s = .next t ∧ Lanes s t c cr pc g fun f x =>
      x.gets64 d ((val64 (s.gang cr.gang) f a).extractLsb' 54 10 ++
        BitVec.ofInt 54 ((val64 (s.gang cr.gang) f a).toInt + (val (s.gang cr.gang) f b).toInt))

/-- R195: the words on 64-bit values and pointers. -/
def Obligations.PairWords : Prop := Part.Add64Pairs ∧ Part.PointerAdd

/-- R196, R197: SETP and SETPI write the result of their condition to a predicate, readable by the
next word; a write to p0 is discarded (R147). -/
def Sys2Proof.Part.ComparePredicates : Prop :=
  ∀ k ∈ conditions, ∀ s c cr pc g (p : BitVec 3) a b i, Ready s c cr pc →
    FitMods (cr.group pc) false false →
    ((cr.group pc).imm = none → Fields s cr pc g [src a, src b] →
      ∃ t, exec (.setp g k.1 p a b) s = .next t ∧ Lanes s t c cr pc g fun f x =>
        x.setPred p.toNat (k.2 (val (s.gang cr.gang) f a) (val (s.gang cr.gang) f b))) ∧
    (Fields s cr pc g [src a] →
      ∃ t, exec (.setpi g k.1 p a i) s = .next t ∧ Lanes s t c cr pc g fun f x =>
        x.setPred p.toNat (k.2 (val (s.gang cr.gang) f a) (immediate (cr.group pc) i)))

/-- R198: PLOG on predicates, and between predicates and registers. -/
def Sys2Proof.Part.PredicateLogic : Prop :=
  ∀ s c cr pc g, Ready s c cr pc → PlainHints (cr.group pc) →
    (∀ (pd pa pb : Fin 8) (sub : Fin 7), (5 ≤ sub.val → pb = 0) →
      ∃ t, exec (.plog g (BitVec.ofNat 7 pd) (BitVec.ofNat 7 (pa + 8 * pb.val)) (BitVec.ofNat 7 sub)) s = .next t ∧
        Lanes s t c cr pc g fun f x => x.setPred pd
          (let u := f.pred pa; let v := f.pred pb
            [u && v, u || v, u ^^ v, u && !v, u || !v, u, !u].getD sub false)) ∧
    (∀ a (pa : Fin 8), Fields s cr pc g [dst a] →
      ∃ t, exec (.plog g a (BitVec.ofNat 7 pa) 0x10) s = .next t ∧
        Lanes s t c cr pc g fun f x => x.gets a (if f.pred pa then 0xFFFF_FFFF else 0)) ∧
    (∀ a, Fields s cr pc g [dst a] →
      ∃ t, exec (.plog g a 0 0x11) s = .next t ∧
        Lanes s t c cr pc g fun f x => x.gets a (f.preds.zeroExtend 32 ||| 1)) ∧
    (∀ a (m : BitVec 7), Fields s cr pc g [src a] →
      ∃ t, exec (.plog g a m 0x12) s = .next t ∧
        Lanes s t c cr pc g fun f x => { x with preds :=
          (x.preds &&& ~~~(m ++ 0#1)) |||
            (((val (s.gang cr.gang) f a).extractLsb' 0 8) &&& (m ++ 0#1)) })

/-- R196 to R198: the words that write predicates. -/
def Obligations.PredicateWords : Prop := Part.ComparePredicates ∧ Part.PredicateLogic

/-- R203: LXCH gives each active lane the value of the active lane it names, or its own. -/
def Obligations.LaneExchange : Prop :=
  ∀ s c cr pc g d a b, Ready s c cr pc → PlainHints (cr.group pc) →
    Fields s cr pc g [src a, src b, dst d] →
    ∃ t, exec (.lxch g d a b) s = .next t ∧ Lanes s t c cr pc g fun f x =>
      x.gets d (((((s.active cr pc g).find? fun y => decide (y.lane = (val (s.gang cr.gang) f b).toNat)).map
        fun y => val (s.gang cr.gang) y a)).getD (val (s.gang cr.gang) f a))

/-- R204: LAGR gives every active lane the ballot of the non-zero values, and the agreement. -/
def Sys2Proof.Part.LaneAgreement : Prop :=
  ∀ s c cr pc g (p : BitVec 3) a b, Ready s c cr pc → PlainHints (cr.group pc) →
    Fields s cr pc g [src a, dst b] →
    let v (y : Fibre) : Word := val (s.gang cr.gang) y a
    let l := s.active cr pc g
    let bal : Word := laneMask ((l.filter fun y => decide (v y ≠ 0)).map Fibre.lane)
    ∀ k ∈ [((0 : BitVec 4), l.any fun y => decide (v y ≠ 0)), (1, l.all fun y => decide (v y ≠ 0)),
        (2, l.all fun y => l.all fun z => decide (v y = v z))],
      ∃ t, exec (.lagr g k.1 p a b) s = .next t ∧ Lanes s t c cr pc g fun _ x =>
        (x.gets b bal).setPred p.toNat k.2

/-- R205: LFOLD folds the values of the active lanes in ascending lane order. -/
def Sys2Proof.Part.LaneFold : Prop :=
  ∀ s c cr pc g d a, Ready s c cr pc → PlainHints (cr.group pc) →
    Fields s cr pc g [src a, dst d] →
    let v (y : Fibre) : Word := val (s.gang cr.gang) y a
    let l := s.active cr pc g
    let sum (m : List Fibre) : Word := (m.map v).foldl (· + ·) 0
    (∀ o ∈ foldOps, ∃ t, exec (.lfold g d a o.1) s = .next t ∧ Lanes s t c cr pc g fun _ x =>
      x.gets d ((l.map v).tail.foldl o.2 ((l.map v).headD 0))) ∧
    (∃ t, exec (.lfold g d a 8) s = .next t ∧ Lanes s t c cr pc g fun f x =>
      x.gets d (sum (l.filter fun y => decide (y.lane ≤ f.lane)))) ∧
    (∃ t, exec (.lfold g d a 9) s = .next t ∧ Lanes s t c cr pc g fun f x =>
      x.gets d (sum (l.filter fun y => decide (y.lane < f.lane))))

/-- R204, R205: LAGR and LFOLD. -/
def Obligations.LaneWords : Prop := Part.LaneAgreement ∧ Part.LaneFold

/-! ### Floating-point words -/

/-- R217 to R219, R224, R225, R234: the two-source words write their result to d and set the sticky
flags of their exceptions. -/
def Sys2Proof.Part.FloatBinary : Prop :=
  ∀ w ∈ floatBinary, ∀ s c cr pc g d a b, Ready s c cr pc → (cr.group pc).imm = none →
    FitMods (cr.group pc) w.rnd false → (w.home = true → isCore c.site = true) →
    Fields s cr pc g [src a, src b, dst d] →
    let G := s.gang cr.gang
    let r (f : Fibre) := w.fn G (rounding G (cr.group pc)) (val G f a) (val G f b) 0
    NoTrap s cr pc g (fun f => (r f).2) →
    ∃ t, exec (w.ctor g d a b) s = .next t ∧ Lanes s t c cr pc g fun f x =>
      (x.gets d (r f).1).stick (r f).2.bits

/-- R224, R234, R235, R236: FFMA, PFMA2, DOT4 and DOT2F, which read d as a source. -/
def Sys2Proof.Part.FloatTernary : Prop :=
  ∀ w ∈ floatTernary, ∀ s c cr pc g d a b, Ready s c cr pc → (cr.group pc).imm = none →
    FitMods (cr.group pc) w.rnd false → (w.home = true → isCore c.site = true) →
    Fields s cr pc g [src a, src b, src d, dst d] →
    let G := s.gang cr.gang
    let r (f : Fibre) := w.fn G (rounding G (cr.group pc)) (val G f a) (val G f b) (val G f d)
    NoTrap s cr pc g (fun f => (r f).2) →
    ∃ t, exec (w.ctor g d a b) s = .next t ∧ Lanes s t c cr pc g fun f x =>
      (x.gets d (r f).1).stick (r f).2.bits

/-- R217 to R225, R234 to R236: the words of floating-point and packed sources. -/
def Obligations.FloatArithmetic : Prop := Part.FloatBinary ∧ Part.FloatTernary

/-- R226: FSETP writes the result of its comparison to a predicate. -/
def Sys2Proof.Part.FloatCompare : Prop :=
  ∀ (k : BitVec 4), k.toNat < 14 → ∀ s c cr pc g (p : BitVec 3) a b, Ready s c cr pc →
    PlainHints (cr.group pc) → Fields s cr pc g [src a, src b] →
    let G := s.gang cr.gang
    let r (f : Fibre) := fcmp k.toNat (val G f a).toNat (val G f b).toNat
    NoTrap s cr pc g (fun f => (r f).2) →
    ∃ t, exec (.fsetp g k p a b) s = .next t ∧ Lanes s t c cr pc g fun f x =>
      (x.setPred p.toNat (r f).1).stick (r f).2.bits

/-- R227, R228: the fixed-latency functions of FUN; FRINT takes a rounding mode. -/
def Sys2Proof.Part.FloatFunctions : Prop :=
  ∀ (k : BitVec 7), 0 < k.toNat → k.toNat < 12 → ∀ s c cr pc g d a, Ready s c cr pc →
    (cr.group pc).imm = none → FitMods (cr.group pc) (decide (k = 8)) false →
    Fields s cr pc g [src a, dst d] →
    let G := s.gang cr.gang
    let r (f : Fibre) := resWord (funRes k.toNat (rounding G (cr.group pc)) (val G f a).toNat)
    NoTrap s cr pc g (fun f => (r f).2) →
    ∃ t, exec (.func g d a k) s = .next t ∧ Lanes s t c cr pc g fun f x =>
      (x.gets d (r f).1).stick (r f).2.bits

/-- R226 to R228: FSETP and the fixed-latency functions of FUN. -/
def Obligations.FloatFunctionWords : Prop := Part.FloatCompare ∧ Part.FloatFunctions

/-- R229 to R233: CVT converts the elements of a's registers and writes them to d's; integers of 8
and 32 bits convert without rounding, and SAT is for the destinations that take it (R223). -/
def Sys2Proof.Part.ConvertWords : Prop :=
  ∀ s c cr pc g d a (df sf : BitVec 3) (k : BitVec 1), Ready s c cr pc → (cr.group pc).imm = none →
    (Instr.cvt g d a df sf k).wf = true →
    let ws := cvtWidth sf.toNat
    let wd := cvtWidth df.toNat
    let n := cvtRegs ws wd (decide (k = 1)) ws
    let m := cvtRegs ws wd (decide (k = 1)) wd
    FitMods (cr.group pc) (decide ¬((df = 5 ∨ df = 6) ∧ (sf = 5 ∨ sf = 6)))
      (decide (df = 3 ∨ df = 4 ∨ (df = 6 ∧ sf = 5))) →
    ((df = 0 ∨ df = 5) ∧ (sf = 0 ∨ sf = 5) ∨ isCore c.site = true) →
    Fields s cr pc g [src a n, dst d m] →
    let G := s.gang cr.gang
    let r (f : Fibre) := cvtWords df.toNat sf.toNat (decide (k = 1)) (rounding G (cr.group pc))
      (((cr.group pc).mods.getD 0).getLsbD 18) ((readUse s G f 0 (src a n)).map PW.v)
    NoTrap s cr pc g (fun f => (r f).2) →
    ∃ t, exec (.cvt g d a df sf k) s = .next t ∧ Lanes s t c cr pc g fun f x =>
      (x.getsAll d (r f).1).stick (r f).2.bits

/-- R218: a NaN operand of FADD, FSUB, FMUL or FDIV is the result, the first one with its quiet bit
set, and only a signalling one raises a flag, NV. -/
def Sys2Proof.Part.NanOperands : Prop :=
  ∀ op ∈ [fadd, fsub, fmul, fdiv], ∀ F ∈ [f32, f16, bf16], ∀ rm a b,
    (F.isNan a || F.isNan b) = true →
    op F rm a b = ((if F.isNan a then a else b) ||| 2 ^ (F.m - 1),
      { nv := (F.isSnan a || F.isSnan b) })

/-- R218: the worked example of R217, 1.0 + 2^-24 under each mode. -/
def Sys2Proof.Part.HalfwaySum : Prop :=
  [0, 1, 2, 3].map (fun rm : BitVec 2 => fadd f32 rm 0x3F800000 0x33800000) =
    [(0x3F800000, { nx := true }), (0x3F800000, { nx := true }), (0x3F800001, { nx := true }),
     (0x3F800000, { nx := true })]

/-- R214, R217: the exact sum, difference, product, fused product and sum, and quotient of finite operands is
rounded once, by the mode in force, inexact where it differs. -/
def Sys2Proof.Part.RoundedOnce : Prop :=
  ∀ F ∈ [f32, f16, bf16], ∀ rm a b d, F.finite a = true → F.finite b = true → F.finite d = true →
    Delivers F rm (F.rat a + F.rat b) (fadd F rm a b) ∧
    Delivers F rm (F.rat a - F.rat b) (fsub F rm a b) ∧
    Delivers F rm (F.rat a * F.rat b) (fmul F rm a b) ∧
    Delivers F rm (F.rat a * F.rat b + F.rat d) (ffma F rm a b d) ∧
    (F.rat b ≠ 0 → Delivers F rm (F.rat a / F.rat b) (fdiv F rm a b))

/-- R234 to R236: PADD2, PMUL2 and PFMA2 work on each half by itself; DOT4 adds four products of signed bytes
modulo 2^32; DOT2F rounds its exact sum once. -/
def Sys2Proof.Part.PackedAndDot : Prop :=
  (∀ f (a b d : Word), (∀ x y z, (f x y z).1 < 2 ^ 16) → ∀ i < 2,
    let half (x : Word) (j : Nat) : Nat := x.toNat / 2 ^ (16 * j) % 2 ^ 16
    let r (j : Nat) : Res := f (half a j) (half b j) (half d j)
    (packed2 f a b d).1.toNat / 2 ^ (16 * i) % 2 ^ 16 = (r i).1 ∧ (packed2 f a b d).2 = (r 0).2.or (r 1).2) ∧
  (∀ a b d : Word,
    let byte (x : Word) (i : Nat) : Int := (x.extractLsb' (8 * i) 8).toInt
    dot4 a b d = BitVec.ofInt 32 (d.toInt + byte a 0 * byte b 0 + byte a 1 * byte b 1 + byte a 2 * byte b 2 +
      byte a 3 * byte b 3)) ∧
  ∀ rm (a b d : Word), let el (x : Word) (i : Nat) : Nat := x.toNat / 2 ^ (16 * i) % 2 ^ 16
    f32.finite d.toNat = true → (∀ i < 2, bf16.finite (el a i) = true ∧ bf16.finite (el b i) = true) →
    Delivers f32 rm (f32.rat d.toNat + bf16.rat (el a 0) * bf16.rat (el b 0) +
      bf16.rat (el a 1) * bf16.rat (el b 1)) (dot2f rm a b d)

/-- R229 to R233: the conversion of one element of a finite value: between formats, from an integer and to
one, whose range is judged on the rounded integer; and between the integers. -/
def Sys2Proof.Part.Conversions : Prop :=
  ∀ rm sat c,
    (∀ sf < 5, ∀ df < 5, sf ≠ df → let S := fmtOf sf; let D := fmtOf df
      S.finite c = true → |S.rat c| ≤ D.rat D.big → let r := cvtElem df sf rm sat c
      Rounds D rm (S.rat c) r.1 ∧ (r.2.nx = true ↔ D.rat r.1 ≠ S.rat c) ∧ r.2.nv = false) ∧
    (∀ sf < 5, ∀ df ∈ [5, 6], let S := fmtOf sf; let n := cvtWidth df
      S.finite c = true → ∃ i, RoundsInt rm (S.rat c) i ∧
        let fits : Prop := -2 ^ (n - 1) ≤ i ∧ i < 2 ^ (n - 1)
        let r := cvtElem df sf rm sat c
        (fits → (BitVec.ofNat n r.1).toInt = i ∧ r.2.nv = false ∧ (r.2.nx = true ↔ (i : ℚ) ≠ S.rat c)) ∧
        (¬ fits → (BitVec.ofNat n r.1).toInt = (if i < 0 then -2 ^ (n - 1) else 2 ^ (n - 1) - 1) ∧
          r.2.nv = true ∧ r.2.nx = false)) ∧
    (∀ sf ∈ [5, 6], ∀ df < 5, let D := fmtOf df; let v : ℚ := (BitVec.ofNat (cvtWidth sf) c).toInt
      c < 2 ^ cvtWidth sf → |v| ≤ D.rat D.big → let r := cvtElem df sf rm sat c
      Rounds D rm v r.1 ∧ (r.2.nx = true ↔ D.rat r.1 ≠ v) ∧ r.2.nv = false) ∧
    (cvtElem 5 6 rm sat c).1 = ((BitVec.ofNat 8 c).signExtend 32).toNat ∧
    (BitVec.ofNat 8 (cvtElem 6 5 rm sat c).1).toInt = (if sat then max (-128) (min 127 (BitVec.ofNat 32 c).toInt)
      else (BitVec.ofNat 8 c).toInt)

/-- R214, R217, R218, R229 to R236: NaN operands, the half-way sum of the manual's example, and the values of
the arithmetic, the packed words, the dot products and the conversions of finite operands. -/
def Obligations.NanAndRounding : Prop :=
  Part.NanOperands ∧ Part.HalfwaySum ∧ Part.RoundedOnce ∧ Part.PackedAndDot ∧ Part.Conversions

/-! ### Words that start an operation -/

/-- R242, R243, R183: a load is in flight after its word; the next word waits for it, or for its flag,
and the registers are promised. ORD 1 is acquire and 2 is POLL (R119, R166). -/
def Sys2Proof.Part.LoadWords : Prop :=
  ∀ w ∈ loadWords, ∀ s c cr f g d a p o x, (w.ctor g d a p o).wf = true →
    let us := [src a 2, dst d w.regs]
    let e := soloEnv s c cr f us
    Starts s c cr f g us → memCheck s e (e.ptr 0) w.n { rd := true, pol := some p.toNat } = .ok x →
    Begins s s c cr f (w.ctor g d a p o) us
      (reach s e x w.n p.toNat (.load w.form) (acq := decide (o = 1)) (poll := decide (o = 2)) (d := d.toNat))
      true false d.toNat w.regs (Fibre.held (decide (o = 1)) s.nextId)

/-- R244: LDE reads 1, 2 or 4 elements of the page's format. -/
def Sys2Proof.Part.ElementLoads : Prop :=
  ∀ s c cr f g d a p o sz x, (Instr.lde g d a p o sz).wf = true → isCore c.site = true →
    let n := 2 ^ sz.toNat
    let us := [src a 2, dst d n]
    let e := soloEnv s c cr f us
    Starts s c cr f g us → elemCheck s e (e.ptr 0) n { rd := true, pol := some p.toNat } = .ok x →
    Begins s s c cr f (.lde g d a p o sz) us
      (reach s e x (elemSpan (leafFmt x.leaf) n) p.toNat (.load (.elems (leafFmt x.leaf) n))
        (acq := decide (o = 1)) (poll := decide (o = 2)) (d := d.toNat))
      true false d.toNat n (Fibre.held (decide (o = 1)) s.nextId)

/-- R238 to R244: LD, LDB and LDE. -/
def Obligations.LoadAccesses : Prop := Part.LoadWords ∧ Part.ElementLoads

/-- R242, R243: a store is in flight with the low bytes of its data registers; nothing waits for it,
and it writes no register. ORD 1 is release. -/
def Sys2Proof.Part.StoreWords : Prop :=
  ∀ w ∈ storeWords, ∀ s c cr f g d a p o x, (w.ctor g d a p o).wf = true →
    let us := [src a 2, src d w.regs]
    let e := soloEnv s c cr f us
    Starts s c cr f g us → memCheck s e (e.ptr 0) w.n { wr := true, pol := some p.toNat } = .ok x →
    Begins s s c cr f (w.ctor g d a p o) us
      (reach s e x w.n p.toNat (.store (bytesOf w.n (wordsVal (e.op 1))) []) (rel := decide (o = 1)))
      false false 0 0 Fibre.risen

/-- R244: STE converts its registers to the page's format, and sets the flags that this raises. -/
def Sys2Proof.Part.ElementStores : Prop :=
  ∀ s c cr f g d a p o sz x, (Instr.ste g d a p o sz).wf = true → isCore c.site = true →
    let n := 2 ^ sz.toNat
    let us := [src a 2, src d n]
    let e := soloEnv s c cr f us
    let b := steBytes (leafFmt x.leaf) (s.gang cr.gang).rm ((e.op 1).map PW.v)
    Starts s c cr f g us → elemCheck s e (e.ptr 0) n { wr := true, pol := some p.toNat } = .ok x →
    b.2.2 &&& (s.gang cr.gang).ten = 0 →
    Begins s s c cr f (.ste g d a p o sz) us
      (reach s e x b.1.length p.toNat (.store b.1 b.2.1) (rel := decide (o = 1)))
      false false 0 0 fun y => y.risen.stick b.2.2

/-- R238 to R244: ST, STB and STE. -/
def Obligations.StoreAccesses : Prop := Part.StoreWords ∧ Part.ElementStores

/-- R247 to R249: ATOM, RED and CAS are in flight; RED returns nothing and nothing waits for it. -/
def Obligations.AtomicWords : Prop :=
  ∀ s c cr f g d a x,
    (∀ h (o : BitVec 2) l (w : BitVec 1), (Instr.atom g d a h o l w).wf = true →
      let n := 1 + w.toNat
      let us := [src a 2, src d n, dst d n]
      let e := soloEnv s c cr f us
      Starts s c cr f g us → memCheck s e (e.ptr 0) (4 * n) { rd := true, wr := true } = .ok x →
      Begins s s c cr f (.atom g d a h o l w) us
        (reach s e x (4 * n) 5 (.atom (2 * h.toNat + l.toNat) (decide (w = 1)) (wordsVal (e.op 1)) true)
          (acq := o.getLsbD 1) (rel := o.getLsbD 0) (d := d.toNat))
        true false d.toNat n fun y => (y.held (o.getLsbD 1) s.nextId).risen) ∧
    (∀ h (o : BitVec 2) l (w : BitVec 1), (Instr.red g d a h o l w).wf = true →
      let n := 1 + w.toNat
      let us := [src a 2, src d n]
      let e := soloEnv s c cr f us
      Starts s c cr f g us → memCheck s e (e.ptr 0) (4 * n) { rd := true, wr := true } = .ok x →
      Begins s s c cr f (.red g d a h o l w) us
        (reach s e x (4 * n) 5 (.atom (2 * h.toNat + l.toNat) (decide (w = 1)) (wordsVal (e.op 1)) false)
          (acq := o.getLsbD 1) (rel := o.getLsbD 0))
        false false 0 0 fun y => (y.held (o.getLsbD 1) s.nextId).risen) ∧
    (∀ p (o sz : BitVec 2), (Instr.cas g d a p o sz).wf = true →
      let n := 1 + sz.toNat
      let us := [src a 2, src d (2 * n), dst d n]
      let e := soloEnv s c cr f us
      Starts s c cr f g us →
      memCheck s e (e.ptr 0) (4 * n) { rd := true, wr := true, pol := some p.toNat } = .ok x →
      Begins s s c cr f (.cas g d a p o sz) us
        (reach s e x (4 * n) p.toNat
          (.cas (decide (sz = 1)) (wordsVal ((e.op 1).take n)) (wordsVal ((e.op 1).drop n)))
          (acq := o.getLsbD 1) (rel := o.getLsbD 0) (d := d.toNat))
        true false d.toNat n (Fibre.held (o.getLsbD 1) s.nextId))

/-- R250 to R252: LDS, STS and ATOMS on the fibre's own scratchpad, `base` being its offset 0. (That the offset of
ATOMS is added modulo 2^20 is the model's choice: log entry 54.) -/
def Obligations.ScratchpadWords : Prop :=
  ∀ s c cr f g d a base,
    let acc (x n : Nat) (acq rel poll : Bool) : Acc :=
      { scr := true, ptr := BitVec.ofNat 64 x, pa := base + x, n := n, acq := acq, rel := rel, poll := poll }
    (∀ (o sz : BitVec 2), (Instr.lds g d a 0 o sz).wf = true →
      let us := [src a, dst d (sizeRegs sz)]
      let e := soloEnv s c cr f us
      let x := (e.w 0 + BitVec.ofInt 32 e.off).toNat
      Starts s c cr f g us → scrCheck s e 0 x (sizeBytes sz) = none → s.peerBase e 0 = some base →
      Begins s s c cr f (.lds g d a 0 o sz) us
        { kind := .load (if sz = 3 then .zext else .words), dst := d.toNat,
          acc := acc x (sizeBytes sz) (decide (o = 1)) false (decide (o = 2)) }
        true false d.toNat (sizeRegs sz) (Fibre.held (decide (o = 1)) s.nextId)) ∧
    (∀ (o sz : BitVec 2), (Instr.sts g d a 0 o sz).wf = true →
      let us := [src a, src d (sizeRegs sz)]
      let e := soloEnv s c cr f us
      let x := (e.w 0 + BitVec.ofInt 32 e.off).toNat
      Starts s c cr f g us → scrCheck s e 0 x (sizeBytes sz) = none → s.peerBase e 0 = some base →
      Begins s s c cr f (.sts g d a 0 o sz) us
        { kind := .store (bytesOf (sizeBytes sz) (wordsVal (e.op 1))) [],
          acc := acc x (sizeBytes sz) false (decide (o = 1)) false }
        false false 0 0 Fibre.risen) ∧
    (∀ h (o : BitVec 2) l, (Instr.atoms g d a h o l).wf = true →
      let us := [src a, src d, dst d]
      let e := soloEnv s c cr f us
      let x := ((e.w 0).extractLsb' 0 20 + BitVec.ofInt 20 e.off).toNat
      Starts s c cr f g us → atomsCheck e = none → (e.w 0).extractLsb' 29 3 = 0 →
      s.peerBase e 0 = some base →
      Begins s s c cr f (.atoms g d a h o l) us
        { kind := .atom (2 * h.toNat + l.toNat) false (e.w 1).toNat true, dst := d.toNat,
          acc := acc x 4 (o.getLsbD 1) (o.getLsbD 0) false }
        true false d.toNat 1 fun y => (y.held (o.getLsbD 1) s.nextId).risen)

/-- R183, R224, R227: FDIV and FSQRT (FUN 0) deliver their result later; the value and its flags are
those of the operands at issue. -/
def Sys2Proof.Part.SlowFloat : Prop :=
  ∀ s c cr f g d a b, (cr.group f.pc).imm = none →
    let us := [src a, src b, dst d]
    let e := soloEnv s c cr f us
    let r := fdiv f32 (rounding (s.gang cr.gang) (cr.group f.pc)) (e.w 0).toNat (e.w 1).toNat
    (Starts s c cr f g us true →
      Begins s s c cr f (.fdiv g d a b) us
        { kind := .value true r.2.bits, stage := .performed, dst := d.toNat, res := [{ v := BitVec.ofNat 32 r.1 }] }
        true false d.toNat 1) ∧
    (let vs := [src a, dst d]
      let q := funRes 0 (rounding (s.gang cr.gang) (cr.group f.pc)) ((soloEnv s c cr f vs).w 0).toNat
      Starts s c cr f g vs true →
      Begins s s c cr f (.func g d a 0) vs
        { kind := .value true q.2.bits, stage := .performed, dst := d.toNat, res := [{ v := BitVec.ofNat 32 q.1 }] }
        true false d.toNat 1)

/-- R224, R227, R229 to R233: CVT, FDIV and FSQRT. -/
def Obligations.ConversionsAndSlow : Prop := Part.ConvertWords ∧ Part.SlowFloat

/-- R257: CACHE_WB, CACHE_INV, CACHE_INVD and CACHE_PREF go over the lines of a range; nothing waits. -/
def Obligations.CacheWords : Prop :=
  ∀ s c cr f g p l xs, ∀ w ∈ [((0 : Nat), Instr.cacheWb g p l), (1, .cacheInv g p l),
      (2, .cacheInvd g p l), (3, .cachePref g p l)],
    let us := [src p 2, src l]
    let e := soloEnv s c cr f us
    let lines := extentLines (ptrVa (e.ptr 0)) (e.w 1).toNat xs
    Starts s c cr f g us → rangeCheck s e w.1 = .ok xs → lines ≠ [] →
    Begins s s c cr f w.2 us { kind := .cache w.1 lines, acc := { n := 0 } } false false 0 0

/-- R264, R265, R386: PUT and PUTM send one request to the placer of the bag that the handle names;
the fibre's next word waits until the placer has taken it, but not for the records to be written. -/
def Sys2Proof.Part.PutWords : Prop :=
  ∀ s c cr f g d a b, (cr.group f.pc).imm = none →
    (let us := [src a, src b]
      let e := soloEnv s c cr f us
      let h := (e.w 0).toNat
      ∀ ws, Starts s c cr f g us → isQueue d.toNat = false → putErr e d.toNat = none →
        s.putBad e.ctx h = none → putRegs e d.toNat ((s.bag (bagKey h)).rs / 4) = some ws →
        ws.all (fun w => !w.p) = true →
        Begins s s c cr f (.put g d a b) us
          (asked s e { kind := .put h false [{ fibre := e.key, lane := e.lane
                                               flag := (cr.group f.pc).opFlag false
                                               key := e.w 1, records := [recordOf ws] }] })
          false false 0 0 fun y => (y.held true s.nextId).risen) ∧
    (let us := [src d, src a, src b 2]
      let e := soloEnv s c cr f us
      let h := (e.w 1).toNat
      let records := (s.putmWords e (s.bag (bagKey h)).rs).map recordOf
      Starts s c cr f g us → s.scrPending e.key = false → putmCheck s e = none → records ≠ [] →
        Begins s s c cr f (.putm g d a b) us
          (asked s e { kind := .put h true [{ fibre := e.key, lane := e.lane
                                              flag := (cr.group f.pc).opFlag false
                                              key := e.w 2, records := records }] })
          false false 0 0 fun y => (y.held true s.nextId).risen)

/-- R266 to R268: DRAIN, BCOUNT, BSEAL, BFREE and BITER send their request. -/
def Sys2Proof.Part.BagRequests : Prop :=
  ∀ s c cr f g d a b, (cr.group f.pc).imm = none →
    (let us := [src a, src b 2, dst d]
      let e := soloEnv s c cr f us
      Starts s c cr f g us → drainCheck s e = none →
        (∀ q, drainQueue e = some q → isSculler c.site = false ∧
          ∃ x, KV.find? q (s.gang cr.gang).queues = some x ∧ x.kind = 1 ∧ x.ew = 2) →
        let scr := (s.peerBase e 0).getD 0 + (drainTarget e).toNat % 2 ^ 20
        Begins s s c cr f (.drain g d a b) us
          (asked s e { kind := .drain (e.w 0).toNat (drainLimit e) (drainQueue e) scr none [], dst := d.toNat })
          true true d.toNat 1 (Fibre.held true s.nextId)) ∧
    (let us := [src a, dst d 2]
      let e := soloEnv s c cr f us
      Starts s c cr f g us → s.handleBad e.ctx (e.w 0).toNat = none →
        Begins s s c cr f (.bcount g d a) us
          (asked s e { kind := .bcount (e.w 0).toNat, dst := d.toNat })
          true false d.toNat 2 (Fibre.held true s.nextId)) ∧
    (∀ w ∈ [(Instr.bseal, OpK.bseal), (Instr.bfree, OpK.bfree)],
      let us := [src a]
      let e := soloEnv s c cr f us
      Starts s c cr f g us → s.handleBad e.ctx (e.w 0).toNat = none →
        Begins s s c cr f (w.1 g a) us
          (asked s e { kind := w.2 (e.w 0).toNat }) true false 0 0
          (Fibre.held true s.nextId)) ∧
    (let us := [src a, src b 2, dst d 2]
      let e := soloEnv s c cr f us
      let at_ := (s.peerBase e 0).getD 0 + biterOff e
      Starts s c cr f g us → isSculler c.site = true → biterCheck s e = none → s.biterSite e = c.site →
        Begins s s c cr f (.biter g d a b) us
          (asked s e { kind := .biter (e.w 0).toNat (biterShare e) (biterStart e) at_, dst := d.toNat
                       acc := { scr := true, pa := at_, n := (s.bag (bagKey (e.w 0).toNat)).rs } })
          true false d.toNat 2 (Fibre.held true s.nextId))

/-- R75 to R77: BOPEN opens the bag that its image describes in a free slot, and returns its handle. -/
def Sys2Proof.Part.BagOpens : Prop :=
  ∀ s c cr f g d p b k,
    let us := [src p 2, dst d]
    let e := soloEnv s c cr f us
    Starts s c cr f g us → s.accessPending e.key = false → openNeed s e = [] →
    openBag s e = .ok (b, k) →
    ∃ u, Reads s u ∧ Begins s { u with bags := KV.put k b s.bags } c cr f (.bopen g d p) us
      { kind := .value false 0, stage := .performed, dst := d.toNat,
        res := [{ v := BitVec.ofNat 32 (handleOf k b.gen) }] } true false d.toNat 1

/-- R263 to R268: the bag words. (That the next word waits for the placer after DRAIN, BCOUNT, BSEAL,
BFREE and BITER too is the model's reading: log entry 12; the slot that BOPEN takes, which the handle shows, is its
choice: log entry 55.) -/
def Obligations.BagInstructions : Prop := Part.PutWords ∧ Part.BagRequests ∧ Part.BagOpens

/-- R274, R275: COPY and COPYB append a copy to a channel; a COPY of no bytes does nothing. -/
def Obligations.CopyWords : Prop :=
  ∀ s c cr f g a b (ch : BitVec 3), isCore c.site = true →
    (∀ (ss ds dq : BitVec 1), (Instr.copy g a b ch ss ds dq).wf = true → (cr.group f.pc).imm = none →
      let us := [src a 4, src b]
      let e := soloEnv s c cr f us
      let n := (e.w 1).toNat
      let x := copyEnds (decide (ss = 1)) (decide (ds = 1)) (decide (dq = 1)) e
      Starts s c cr f g us →
      (n = 0 → exec (.copy g a b ch ss ds dq) s = .next (s.after c cr f)) ∧
      (n ≠ 0 → endCheck s e n false x.1 = none → endCheck s e n true x.2 = none →
        (∀ q, x.2 = .queue q → 112 ≤ ((e.op 0).getD 2 {}).v.toNat ∧
          ∃ k, KV.find? q (s.gang cr.gang).queues = some k ∧ k.kind = 2 ∧ k.ch = ch.toNat) →
        Begins s { s with gangs := KV.update cr.gang (fun G => G.withCopy ch.toNat s.nextId x.2 n) s.gangs }
          c cr f (.copy g a b ch ss ds dq) us { kind := .copy x.1 x.2 n 0 ch.toNat none } true true 0 0)) ∧
    (let us := [src a 2]
      let e := soloEnv s c cr f us
      ∀ x, Starts s c cr f g us → engineHold s e = false → copybNeed s e = [] → copybPlan s e = .ok x →
        ∃ u, Reads s u ∧
          Begins s { u with gangs := KV.update cr.gang (fun G =>
              G.withCopy ch.toNat s.nextId (.mem x.dst) x.shape.len) s.gangs }
            c cr f (.copyb g a ch) us
            { kind := .copy (.mem x.src) (.mem x.dst) x.shape.len 0 ch.toNat (some x.shape) } true true 0 0)

/-- R271, R272: PROBE, IGATHER and ISCATTER give the status of the probe pass; where it is 0 the last
two move the rows under the flag. -/
def Sys2Proof.Part.IndexWords : Prop :=
  ∀ s c cr f g d p, ∀ w ∈ [(Instr.probe g d p, false, false), (.igather g d p, true, false),
      (.iscatter g d p, true, true)],
    let us := [src p 2, dst d]
    let e := soloEnv s c cr f us
    Starts s c cr f g us → (w.2.1 = true → isCore c.site = true) → engineHold s e = false →
    indexNeed s e = [] →
    (∀ n, probePass s e w.2.2 = .ok (.status n) → ∃ u, Reads s u ∧
      Begins s u c cr f w.1 us
        { kind := .value false 0, stage := .performed, dst := d.toNat, res := [{ v := BitVec.ofNat 32 n }] }
        true true d.toNat 1) ∧
    (∀ ix rows pages, probePass s e w.2.2 = .ok (.move ix rows pages) →
      ∃ u, Reads s u ∧
      Begins s u c cr f w.1 us
        (if w.2.1 then
          { kind := .index w.2.2 ((List.range rows.length).map fun j => (j, rows.getD j (0, false, 0))) ix.es
              ((s.gang cr.gang).scrKey ix.soff) (pages.map fun v => e.ctx * 2 ^ 42 + v),
            dst := d.toNat, res := [{}] }
        else { kind := .value false 0, stage := .performed, dst := d.toNat, res := [{}] })
        true true d.toNat 1)

/-- R269, R270: GFETCH gives the four elements of a lane as F32. -/
def Sys2Proof.Part.GatherFetch : Prop :=
  ∀ s c cr f g d a b x vs, (cr.group f.pc).imm = none → isCore c.site = true →
    let us := [src a 2, src b, dst d 4]
    let e := soloEnv s c cr f us
    Starts s c cr f g us → engineHold s e = false → gfetchNeed s e = [] →
    gfetchPlan s e = .ok (some x) → x.value s e = some vs →
    ∃ u, Reads s u ∧ Begins s u c cr f (.gfetch g d a b) us
      { kind := .value false 0, stage := .performed, dst := d.toNat, res := vs, acc := { ptr := e.d 0 } }
      true true d.toNat 4

/-- R269 to R272: PROBE, IGATHER, ISCATTER and GFETCH. -/
def Obligations.IndexCopies : Prop := Part.IndexWords ∧ Part.GatherFetch

/-- R273: REBAL gives each active lane the row and the offset of its element of the chunk, and p7, as the
operation of that lane; the results come with the flag. The rows' places are the sums of the lengths of
the lanes before them. -/
def Obligations.Rebalance : Prop :=
  ∀ s c cr pc g d a b, Ready s c cr pc → PlainHints (cr.group pc) → c.wait = true →
    Fields s cr pc g [src a, src b, dst d 2] →
    (∀ fid ∈ cr.fids, ∀ n, (s.fibre (fkey cr.gang fid)).IdleFlag n) →
    let G := s.gang cr.gang
    let seen (fid : Nat) : Fibre := (s.fibre (fkey cr.gang fid)).now (cr.group pc)
    let acts := cr.fids.filter fun fid => guardOk g (seen fid)
    let row (i : Nat) : Nat := (val G (seen (acts.getD i 0)) a).toNat
    let at_ (i : Nat) : Nat := ((List.range i).map row).sum
    let n := acts.length
    let p (i : Nat) : Nat := (val G (seen (acts.getD 0 0)) b).toNat * n + i
    ∃ t, exec (.rebal g d a b) s = .next t ∧ t.nextId = s.nextId + n ∧ t.gangs = s.gangs ∧ t.mem = s.mem ∧
      t.scr = s.scr ∧ t.acc = s.acc ∧
      (∀ fid ∈ cr.fids, fid ∉ acts → KV.find? (fkey cr.gang fid) t.fibres =
        some ((s.fibre (fkey cr.gang fid)).passed (cr.group pc) false)) ∧
      ∀ i < n, let k := fkey cr.gang (acts.getD i 0)
        KV.find? k t.fibres = some ((s.fibre k).waits (cr.group pc) true false (s.nextId + i) d.toNat 2) ∧
        ∃ o, KV.find? (s.nextId + i) t.ops = some o ∧ o.kind = .value false 0 ∧ o.stage = .performed ∧
          o.fibre = k ∧ o.flag = (cr.group pc).opFlag true ∧ o.dst = d.toNat ∧
          (∀ j < n, at_ j ≤ p i → p i < at_ (j + 1) → o.p7 = some true ∧ o.res =
            [{ v := BitVec.ofNat 32 (seen (acts.getD j 0)).lane }, { v := BitVec.ofNat 32 (p i - at_ j) }]) ∧
          (at_ n ≤ p i → o.p7 = some false ∧ o.res =
            [{ v := 0xFFFF_FFFF }, { v := BitVec.ofNat 32 (p i - at_ n) }])

/-- R277: a WAVE on its sculler starts the waves over the rows of X and Y. -/
def Obligations.WaveWords : Prop :=
  ∀ s c cr f g x rr o w, (Instr.wave g x rr o).wf = true → (cr.group f.pc).imm = none →
    isSculler c.site = true →
    let us := [src x 4] ++ (if o = 0 ∨ o = 4 then [src rr] else []) ++ [dst rr 4]
    let e := soloEnv s c cr f us
    Starts s c cr f g us → waveSite s e = none → wavePlan o.toNat s e = .ok w →
    let d := rr.toNat + (if 2 ≤ o.toNat then 0 else 2)
    Begins s s c cr f (.wave g x rr o) us
      { kind := .wave o.toNat w.x w.y w.sx w.sy (e.w 1) (List.range 16) [] 0 [], dst := d,
        arr := (s.pch (scullerOf w.x)).clk }
      true true d (if 2 ≤ o.toNat then 4 else 2)

/-- R290: ACCRD and ACCWR name an element of a tile of the gang. -/
def Sys2Proof.Part.AccumulatorElements : Prop :=
  ∀ s c cr f g d t a b, (cr.group f.pc).imm = none → isCore c.site = true → t.toNat < 16 →
    t.toNat < (s.gang cr.gang).tiles →
    let elem (n : Nat) : Nat :=
      ((s.gang cr.gang).core * 256 + (s.gang cr.gang).tbase + t.toNat) * 1024 + n
    (let us := [src b, dst d]
      let e := soloEnv s c cr f us
      Starts s c cr f g us → (e.w 0).toNat < 1024 →
      Begins s s c cr f (.accrd g d t b) us { kind := .accrd (elem (e.w 0).toNat), dst := d.toNat }
        true false d.toNat 1) ∧
    (let us := [src a, src b]
      let e := soloEnv s c cr f us
      Starts s c cr f g us → (e.w 1).toNat < 1024 →
      Begins s s c cr f (.accwr g t a b) us { kind := .accwr [(elem (e.w 1).toNat, e.w 0)] }
        true true 0 0)

/-- R309, R353, R358, R359: CSRRD, WATCH_RD and INSP give values read as the word issues; a read of a
copy channel's pointer has the join edge of R127. (On a sculler WATCH_RD reads the predicates of the
gang's core, the model's reading: log entry 25.) -/
def Obligations.ReadWords : Prop :=
  ∀ s c cr f g d, (cr.group f.pc).imm = none →
    let G := s.gang cr.gang
    let known (n : Nat) (ws : List PW) : Op :=
      { kind := .value false 0, stage := .performed, dst := n, res := ws }
    (∀ n : BitVec 7, (Instr.csrrd g d n).wf = true → csrReadErr n.toNat G = none →
      let us := [dst d 2]
      let e := soloEnv s c cr f us
      Starts s c cr f g us → (n = 1 → s.flagsDue e.key = false) →
      Begins s (if 0x10 ≤ n.toNat ∧ n.toNat < 0x18 then ((Run.start s).acquire c.site).s else s) c cr f
        (.csrrd g d n) us
        (known d.toNat (words2 ((s.after c cr f).csr n.toNat G (f.passed (cr.group f.pc) true))))
        true false d.toNat 2) ∧
    (∀ n : BitVec 7, n.toNat < 16 → G.dbg = true →
      let us := [dst d 4]
      let e := soloEnv s c cr f us
      Starts s c cr f g us →
      Begins s s c cr f (.watchRd g d n) us
        (known d.toNat (wordsOf 4 (s.watchOf e.watchSite e.ctx n.toNat).toNat)) true false d.toNat 4) ∧
    (∀ (b n : BitVec 7) k, G.dbg = true →
      let us := [src b 2, dst d 4]
      let e := soloEnv s c cr f us
      let ix := (w1 (e.op 0)).toNat
      Starts s c cr f g us → itemErr G n.toNat ix = none → s.haltedAt cr.gang (e.w 0).toNat = some k →
      itemHold s e 0 n.toNat = false →
      Begins s s c cr f (.insp g d b n) us (known d.toNat ((s.after c cr f).item k n.toNat ix))
        true false d.toNat 4)

/-- R128, R209 to R211: SPAWN gives the status of a record that the dispatcher turns down, and hands it
the launch of one that it accepts, under a child-launch slot of the die. It waits only for the fibre's
earlier stores to what it reads. -/
def Obligations.SpawnWord : Prop :=
  ∀ s c cr f g d b, (cr.group f.pc).imm = none → isCore c.site = true →
    let us := [src b 2, dst d]
    let e := soloEnv s c cr f us
    Starts s c cr f g us → s.storeDue s.nextId e.key (spawnCells s e) = false →
    (∀ n, spawnTake s e = .status n → ∃ u, Reads s u ∧ Begins s u c cr f (.spawn g d b) us
      { kind := .value false 0, stage := .performed, dst := d.toNat, res := [{ v := BitVec.ofNat 32 n }] }
      true false d.toNat 1) ∧
    (∀ l, spawnTake s e = .ok l → (s.die (dieOf c.site)).children < 1024 →
      let die : Die := { s.die (dieOf c.site) with
        children := (s.die (dieOf c.site)).children + 1 }
      ∃ u, Reads s u ∧ Begins s { u with dies := KV.put (dieOf c.site) die s.dies } c cr f (.spawn g d b) us
        { kind := .spawn l, dst := d.toNat } true false d.toNat 1)

/-- R281 to R285, R294: MMA, MMAS and MMAQ start an eight-op on the tile of the eight, whose operands
the plan of R281 gives. -/
def Obligations.MatrixWords : Prop :=
  ∀ s c cr pc g a b, (cr.group pc).imm = none →
    let lanes (d : Desc s) : List Env := crewEnvs s c cr d
    let runs (i : Instr) (x : MmaWord) (d : Desc s) (us own : List Use) : Prop :=
      ∀ o, Octet s c cr pc g us own →
        (∀ e ∈ lanes d, tileIlleg x.t e = none ∧ errOf (mmaPlan s x e) = none ∧ mmaNeed x s e = [] ∧
          (x.form = 1 → engineHold s e = false)) →
        s.tokenHold (lanes d) = false → mmaPlan s x (octetLane s c cr d) = .ok o →
        ∃ t, exec i s = .next t ∧ Joint s t c cr pc
          (octetOp s c cr pc (.eight o (absTile x.t (octetLane s c cr d))))
    (∀ t, runs (.mma g t a b) { form := 0, t := t.toNat } (plainDesc g t a b) [src a 2, src b 2] []) ∧
    (∀ k t, (Instr.mmas g k t a b).wf = true →
      runs (.mmas g k t a b) { form := 1, t := t.toNat, code := k.toNat } (sparseDesc g k t a b)
        [src a 4, src b 2] []) ∧
    (∀ k t, vqErr (s.gang cr.gang) b.toNat = none →
      runs (.mmaq g k t a b) { form := 2, t := t.toNat, slot := k.toNat, b := (0, 2) }
        (mmaqDesc g k t a b (s.gang cr.gang)) [src a 4]
        [src b 4, { src b 4 with reg := b.toNat + 4 }, { src b 4 with reg := b.toNat + 8 }])

/-- R281, R289: ACCZ, ACCLD and ACCST start an operation on the tile of the eight. -/
def Sys2Proof.Part.TileWords : Prop :=
  ∀ s c cr pc g t,
    ((cr.group pc).imm = none → Octet s c cr pc g [] [] →
      (∀ fid ∈ cr.fids, t.toNat + fid % 32 / 8 < min 16 (s.gang cr.gang).tiles ∧ t.toNat < 16) →
      ∃ u, exec (.accz g t) s = .next u ∧ SameLines s u ∧ Joint s u c cr pc (octetOp s c cr pc
        (.accz ((s.gang cr.gang).core * 256 + (s.gang cr.gang).tbase + (t.toNat + cr.fids.headD 0 % 32 / 8))))) ∧
    (∀ w ∈ [(Instr.accld, false, OpK.accld), (Instr.accst, true, OpK.accst)], ∀ p ps,
      let d : Desc s := accMemDesc (w.1 g t p) g t p w.2.1
      Octet s c cr pc g [src p 2] [] →
      (∀ e ∈ crewEnvs s c cr d, tileIlleg t.toNat e = none) →
      accMem s (octetLane s c cr d) w.2.1 = .ok ps →
      ∃ u, exec (w.1 g t p) s = .next u ∧ SameLines s u ∧ Joint s u c cr pc (octetOp s c cr pc
        (w.2.2 (absTile t.toNat (octetLane s c cr d)) ps)))

/-- R281, R289, R290: the accumulator words. -/
def Obligations.AccumulatorWords : Prop := Part.AccumulatorElements ∧ Part.TileWords

/-! ### Control flow -/

/-- R156, R157, R199 to R201: a crew whose lanes disagree splits: those that go where most go stay in it, a
tie keeps the fall-through side, and the others stand in the boathouse at their own addresses. -/
def Sys2Proof.Part.SplitBranches : Prop :=
  ∀ s c cr pc g, Ready s c cr pc → FitMods (cr.group pc) false false → (cr.group pc).imm = none →
    (∀ fid ∈ cr.fids, ∀ n, (s.fibre (fkey cr.gang fid)).IdleFlag n) →
    let h := cr.group pc
    let taken (f : Fibre) : Bool := guardOk g (f.now h)
    let splits (i : Instr) (active : Fibre → Bool) (there : Fibre → VAddr) : Prop :=
      ∃ t, exec i s = .next t ∧ Splits s t c cr pc active fun f => if taken f then there f else pc + 4
    (∀ o, splits (.bra g o) (fun _ => true) fun _ => pc + 4 * o.signExtend 54) ∧
    (∀ a, Fields s cr pc g [src a 2] →
      let ptr (f : Fibre) : DWord := val64 (s.gang cr.gang) (f.now h) a
      (∀ f ∈ s.members cr, taken f = true → (ptr f).extractLsb' 0 2 = 0) →
      splits (.jmpi g a) (fun _ => true) (fun f => (ptr f).extractLsb' 0 54) ∧
      splits (.ret g a) taken fun f => (ptr f).extractLsb' 0 54)

/-- R157, R158, R199 to R202, R184: where the branches, calls and returns send a fibre, and what they
write. An offset counts words from the branch; under IMM its upper bits are the payload. -/
def Sys2Proof.Part.SoloBranches : Prop :=
  ∀ s c cr f g, Solo s c cr f → (∀ n, f.IdleFlag n) → FitMods (cr.group f.pc) false false →
    let h := cr.group f.pc
    let taken := guardOk g (f.now h)
    let G := s.gang cr.gang
    let hop (o : BitVec 21) : VAddr := f.pc + 4 * (match h.imm with
      | some p => (p ++ o.extractLsb' 0 7).signExtend 54
      | none => o.signExtend 54)
    (∀ o, (h.imm = none ∨ o.toNat < 128) →
      (∀ i ∈ [Instr.bra g o, .bru g o], exec i s =
        .next (s.issued c cr (f.gone h true (if taken then hop o else f.pc + 4)) 1)) ∧
      (taken = true → exec (.call g o) s = .next (s.issued c cr
        (((f.gone h true (hop o)).writeNow 0 { v := (f.pc + 4).extractLsb' 0 32 }).writeNow 1
          { v := ((f.pc + 4).extractLsb' 32 22).zeroExtend 32 }) 1))) ∧
    (∀ a, h.imm = none → Fields s cr f.pc g [src a 2] →
      let p := val64 G (f.now h) a
      (taken = true → p.extractLsb' 0 2 = 0) →
      exec (.jmpi g a) s = .next (s.issued c cr
        (f.gone h true (if taken then p.extractLsb' 0 54 else f.pc + 4)) 1) ∧
      (taken = true → exec (.ret g a) s = .next (s.issued c cr (f.gone h true (p.extractLsb' 0 54)) 1))) ∧
    (∀ d i, (h.imm = none ∨ i.toNat < 128) → Fields s cr f.pc g [src d, dst d] →
      let n := val G (f.now h) d - 1
      let off : VAddr := match h.imm with
        | some p => (p ++ i.extractLsb' 0 7).signExtend 54
        | none => i.signExtend 54
      exec (.brdec g d i) s = .next (s.issued c cr
        (if taken then (f.gone h true (if n = 0 then f.pc + 4 else f.pc + 4 * off)).writeNow d.toNat { v := n }
          else f.gone h true (f.pc + 4)) 1))

/-- R156 to R158, R184, R199 to R202: the branches, calls and returns. -/
def Obligations.BranchWords : Prop := Part.SoloBranches ∧ Part.SplitBranches

/-- R160, R161, R206, R207: YIELD, CREWJOIN and SLEEP leave the fibre in the boathouse; a SLEEP of 0 is a
YIELD, and any other lasts 16 clk for each unit. -/
def Sys2Proof.Part.LeavingWords : Prop :=
  ∀ s c cr f g, (cr.group f.pc).imm = none →
    let h := cr.group f.pc
    (Stands s c cr f g [] →
      exec (.yield g) s = .next (s.vacated c cr f { f.passed h true with slot := none }) ∧
      exec (.crewjoin g) s = .next (s.vacated c cr f (f.waiting h (.join f.pc)))) ∧
    (∀ a, Stands s c cr f g [src a] →
      let n := val (s.gang cr.gang) (f.now h) a
      exec (.sleep g a) s = .next (s.vacated c cr f
        (if n = 0 then { f.passed h true with slot := none } else f.waiting h (.sleep (16 * n.toNat)))))

/-- R168, R208, R305: EXIT takes the fibre away for good, and every barrier of its gang, group and launch
expects one fibre less. Memory and accumulators stay as they are. -/
def Sys2Proof.Part.ExitWord : Prop :=
  ∀ s c cr f g, (cr.group f.pc).imm = none → Stands s c cr f g [] → KV.has cr.gang s.gangs = true →
    ∃ t, exec (.exit g) s = .next t ∧ KV.find? (fkey cr.gang f.fid) t.fibres = none ∧
      t.crews = KV.del (ckey c.site c.slot) s.crews ∧
      (t.gang cr.gang).exited = (s.gang cr.gang).exited + 1 ∧
      (∀ n, n < 16 → (t.bar cr.gang 0 n).expected = (s.bar cr.gang 0 n).expected - 1) ∧
      (∀ n, n < 4 → (t.bar cr.gang 1 n).expected = (s.bar cr.gang 1 n).expected - 1) ∧
      (∀ n, n < 2 → (t.bar cr.gang 2 n).expected = (s.bar cr.gang 2 n).expected - 1) ∧
      t.mem = s.mem ∧ t.mpoison = s.mpoison ∧ t.acc = s.acc ∧ t.bags = s.bags

/-- R160, R161, R168, R206 to R208: CREWJOIN, YIELD, SLEEP and EXIT. -/
def Obligations.LeavingCrews : Prop := Part.LeavingWords ∧ Part.ExitWord

/-- R303, R304: the words that arrive at a barrier: level, number, and whether they wait. -/
def Sys2Proof.arriveWords (g : BitVec 4) (d : BitVec 7) : List (Instr × Nat × Nat × Bool) :=
  ((List.range 16).map fun n => (Instr.barg g d (BitVec.ofNat 7 n), 0, n, true)) ++
  ((List.range 4).map fun n => (Instr.barc g d (BitVec.ofNat 2 n), 1, n, true)) ++
  ((List.range 2).map fun n => (Instr.barl g d (BitVec.ofNat 1 n), 2, n, true)) ++
  ((List.range 16).map fun n => (Instr.bara g d 0 (BitVec.ofNat 5 n), 0, n, false)) ++
  ((List.range 4).map fun n => (Instr.bara g d 1 (BitVec.ofNat 5 n), 1, n, false)) ++
  ((List.range 2).map fun n => (Instr.bara g d 2 (BitVec.ofNat 5 n), 2, n, false))

/-- R304: an arrival that does not complete the phase is counted, gives the phase number, and waits in
the boathouse or goes on. -/
def Sys2Proof.Part.BarrierArrivals : Prop :=
  ∀ s c cr f g d, ∀ w ∈ arriveWords g d, (cr.group f.pc).imm = none → Stands s c cr f g [dst d] →
    isCore c.site = true → s.accessPending (fkey cr.gang f.fid) = false →
    (w.2.1 = 2 → (s.launch (s.gang cr.gang).launch).cor = true) →
    let b := s.bar cr.gang w.2.1 w.2.2.1
    let sig := (cr.group f.pc).sig
    let got (y : Fibre) : Fibre := { y.getsAt sig s.nextId d.toNat { v := b.phase } with dem := false }
    let u : State := { s with nextId := if sig < 12 then s.nextId + 1 else s.nextId }
    b.arrived.contains (fkey cr.gang f.fid) = false → b.arrived.length + 1 ≠ b.expected →
    exec w.1 s = .next ((Run.start (if w.2.2.2 then
        u.vacated c cr f (got (f.waiting (cr.group f.pc) (.bar w.2.1 w.2.2.1 b.phase)))
      else u.issued c cr (got (f.passed (cr.group f.pc) true)) 1)).setBar
        cr.gang w.2.1 w.2.2.1 { b with arrived := b.arrived ++ [fkey cr.gang f.fid] }).s

/-- R304: the arrival that completes a phase advances it, and its fibre goes on. Every fibre that waited on
the old phase is released, at the word after its wait, whichever gang of the barrier it is of. -/
def Sys2Proof.Part.BarrierCompletion : Prop :=
  ∀ s c cr f g d, ∀ w ∈ arriveWords g d, (cr.group f.pc).imm = none → Stands s c cr f g [dst d] →
    isCore c.site = true → s.accessPending (fkey cr.gang f.fid) = false →
    (w.2.1 = 2 → (s.launch (s.gang cr.gang).launch).cor = true) → f.wait = none →
    let b := s.bar cr.gang w.2.1 w.2.2.1
    b.arrived.contains (fkey cr.gang f.fid) = false → b.arrived.length + 1 = b.expected →
    s.waiters cr.gang w.2.1 w.2.2.1 (fun k => match k with | .rearrive _ _ _ _ _ _ => true | _ => false) = [] →
    ∃ t, exec w.1 s = .next t ∧
      t.bar cr.gang w.2.1 w.2.2.1 = { b with phase := b.phase + 1, arrived := [] } ∧
      KV.find? (fkey cr.gang f.fid) t.fibres = some
        { (f.passed (cr.group f.pc) true).getsAt (cr.group f.pc).sig s.nextId d.toNat { v := b.phase } with
          dem := false } ∧
      (∀ k y next, KV.find? k s.fibres = some y → s.sameBar w.2.1 y.gang cr.gang = true →
        y.wait = some ⟨.bar w.2.1 w.2.2.1 b.phase, next⟩ → y.halt = none → y.stepping = false →
        y.toHalt = none → ∃ slot, KV.find? k t.fibres = some
          { y with wait := none, pc := next, age := 0, slot := slot }) ∧
      t.mem = s.mem ∧ t.acc = s.acc

/-- R304: BARW waits while the phase is the one named; where it is a later one, it has acquire
meaning. -/
def Sys2Proof.Part.BarrierWaits : Prop :=
  ∀ s c cr f g v (l : BitVec 2) (n : BitVec 5), (Instr.barw g v l n).wf = true → (l = 0 → n.toNat < 16) →
    (cr.group f.pc).imm = none → Stands s c cr f g [src v] → isCore c.site = true →
    (l = 2 → (s.launch (s.gang cr.gang).launch).cor = true) →
    let x := val (s.gang cr.gang) (f.now (cr.group f.pc)) v
    let p := (s.bar cr.gang l.toNat n.toNat).phase
    exec (.barw g v l n) s = .next (
      if p = x then s.vacated c cr f (f.waiting (cr.group f.pc) (.bar l.toNat n.toNat x))
      else if (p - x).toNat ≤ 2 ^ 31 then ((Run.start (s.after c cr f)).acquire c.site).s
      else s.after c cr f)

/-- R302 to R306: arrivals, their completion, and BARW. (That an arrival which completes its phase
stays in its crew is the model's reading: log entry 26.) -/
def Obligations.BarrierWords : Prop := Part.BarrierArrivals ∧ Part.BarrierCompletion ∧ Part.BarrierWaits

/-- R120, R256: the fences. Acquire drops the core's untracked copies; release puts the fibre's later
stores behind its earlier accesses. -/
def Sys2Proof.Part.FenceWords : Prop :=
  ∀ s c cr f g, (cr.group f.pc).imm = none → Unsignalled (cr.group f.pc) → Stands s c cr f g [] →
    let marked : State := s.issued c cr { f.passed (cr.group f.pc) true with relMark := s.nextId } 1
    (s.loadPending (fkey cr.gang f.fid) = false →
      exec (.fenceAcq g) s = .next ((Run.start (s.after c cr f)).acquire c.site).s) ∧
    exec (.fenceRel g) s = .next marked ∧
    (s.accessPending (fkey cr.gang f.fid) = false →
      exec (.fenceFull g) s = .next ((Run.start marked).acquire c.site).s)

/-- R307, R308, R276: WAITF over flags that are IDLE, WAITV whose load is still to come, and CPWAIT on
a count that has been reached. -/
def Sys2Proof.Part.WaitWords : Prop :=
  ∀ s c cr f g, Unsignalled (cr.group f.pc) →
    (∀ m, (cr.group f.pc).imm = none → Stands s c cr f g [] →
      exec (.waitf g m) s = .next (s.issued c cr (f.passed (cr.group f.pc) true).risen 1)) ∧
    (∀ v p k (o : BitVec 1) x, (Instr.waitv g v p k o).wf = true → Stands s c cr f g [src v, src p 2] →
      let e := soloEnv s c cr f [src v, src p 2]
      c.wait = true → memCheck s e (e.ptr 1) 4 waitvNeed = .ok x →
      exec (.waitv g v p k o) s = .next (s.vacated c cr f
        (f.waiting (cr.group f.pc) (.waitv (e.ptr 1) k.toNat (e.w 0) (decide (o = 1)) false false
          (s.gang cr.gang).gphase)))) ∧
    (∀ a (ch : BitVec 3), (cr.group f.pc).imm = none → Stands s c cr f g [src a 2] → isCore c.site = true →
      cpReached (KV.getD ch.toNat {} (s.gang cr.gang).chans) (val64 (s.gang cr.gang) (f.now (cr.group f.pc)) a).toNat = true →
      exec (.cpwait g a ch) s = .next ((Run.start (s.after c cr f)).acquire c.site).s)

/-- R120, R163, R181, R183, R386: the next word of a crew, whatever it is, does nothing while flag 15, the
full-completion wait of a member's last word, is BUSY; while what a member's acquire or request waits
for has not taken its instant; or while a flag that the word's PACE names is BUSY for an active lane. -/
def Sys2Proof.Part.HeldWords : Prop :=
  ∀ s c cr g d a b, ∀ i ∈ anyWords g d a b, Turns s c cr →
    let fib (fid : Nat) : Fibre := s.fibre (fkey cr.gang fid)
    let held : Prop := ∃ leaf, 0 < leaf ∧ leaf < 16 ∧ exec i s = .next (s.stalled c cr leaf)
    (∀ fid ∈ cr.fids, (fib fid).holds 15 = true → held) ∧
    ((∀ fid ∈ cr.fids, (fib fid).holds 15 = false) →
      (∀ fid ∈ cr.fids, s.fenced (fib fid) = true → exec i s = .next (s.stalled c cr 25)) ∧
      ∀ fid ∈ cr.fids, ∀ n < 12, (s.site c.site).preds = [] → (∀ x ∈ cr.fids, s.fenced (fib x) = false) →
        (cr.group (fib fid).pc).wait.getLsbD n = true → (fib fid).holds n = true →
        (∀ m, m ≠ n → (fib fid).IdleFlag m) → guardOk g ((fib fid).now (cr.group (fib fid).pc)) = true → held)

/-- R120, R181, R183, R256, R276, R307, R308, R386: fences, waits, and what holds the next word. -/
def Obligations.FencesAndWaits : Prop := Part.FenceWords ∧ Part.WaitWords ∧ Part.HeldWords

/-- R253: LRBEGIN asks for its line; the fibre's next word waits until the directory holds it. -/
def Sys2Proof.Part.RegionOpens : Prop :=
  ∀ s c cr f g sr p x, Unsignalled (cr.group f.pc) → Stands s c cr f g [src p 2, dst sr] → c.wait = true →
    let e := soloEnv s c cr f [src p 2, dst sr]
    regionCheck s e = .ok x →
    let y : Fibre := { (f.passed (cr.group f.pc) true).setFlag 15 { st := .busy } with
      region := some { line := x.key / 128, ret := f.pc + 4, reg := sr.toNat } }
    ∃ tlb bnd, exec (.lrbegin g sr p) s = .next { s with
      fibres := KV.put (fkey cr.gang f.fid) y s.fibres
      crews := KV.put (ckey c.site c.slot) { cr with hints := none, stall := 0 } s.crews
      sites := KV.put c.site { (s.site c.site).spent c.site 1 with tlb := tlb, bnd := bnd } s.sites }

/-- R254: LREND within the region's time makes the buffered bytes visible together, changes no other
byte, and frees the line. -/
def Sys2Proof.Part.RegionCloses : Prop :=
  ∀ s c cr f g r, (cr.group f.pc).imm = none → Stands s c cr f g [] true → f.region = some r →
    s.accessPending (fkey cr.gang f.fid) = false → r.line < 2 ^ 45 →
    s.sliceClk r.line - r.born < 4096 →
    ∃ t, exec (.lrend g) s = .next t ∧
      KV.find? (fkey cr.gang f.fid) t.fibres = some { f.passed (cr.group f.pc) true with region := none } ∧
      (t.dir r.line).held = none ∧
      ∀ a, Memory.read t.mem a = if a / 128 = r.line then
        (KV.find? (a % 128) r.buf).getD (Memory.read s.mem a) else Memory.read s.mem a

/-- R253, R254: LRBEGIN and LREND. -/
def Obligations.LineRegions : Prop := Part.RegionOpens ∧ Part.RegionCloses

/-- R258, R260: QBIND binds or frees a queue register; QSTAT gives its state word. -/
def Obligations.QueueBindings : Prop :=
  ∀ s c cr f g q, (cr.group f.pc).imm = none → (Instr.qbind g q 0).wf = true → isCore c.site = true →
    let G := s.gang cr.gang
    let n := q.toNat - 112
    (∀ a, Stands s c cr f g [src a 2] →
      let b := val64 G (f.now (cr.group f.pc)) a
      let x := mkQueue b ((KV.getD (boxOf G.ctx (efld b 32 16)) [] s.pkg.boxes).map Prod.snd)
      bindErr b = none → (∀ y, KV.find? n G.queues = some y → y.inUse = false) →
      ((x.kind = 1 ∨ x.kind = 2) → x.base + x.slots * (4 * x.regs) ≤ G.ssize) →
      (x.kind ≠ 0 → KV.has n G.queues = true ∨ s.boundQueues G.core < 64) →
      exec (.qbind g q a) s = .next { s.after c cr f with
        gangs := KV.update cr.gang (fun G => { G with
          queues := if x.kind = 0 then KV.del n G.queues else KV.put n x G.queues }) s.gangs }) ∧
    (∀ d, Stands s c cr f g [dst d] →
      exec (.qstat g d q) s = .next (s.issued c cr ((f.passed (cr.group f.pc) true).writeNow d.toNat
        { v := ((KV.find? n G.queues).map Queue.stat).getD 0 }) 1))

/-- R220, R221, R309 to R312, R314, R316, R354: what CSRWR writes to each control register, where its access column
permits the write. -/
def Obligations.ControlWrites : Prop :=
  ∀ s c cr f g a, (cr.group f.pc).imm = none → Stands s c cr f g [src a 2] →
    let v := val64 (s.gang cr.gang) (f.now (cr.group f.pc)) a
    let G := s.gang cr.gang
    let y := f.passed (cr.group f.pc) true
    let gang (u : Gang → Gang) : State :=
      { s.after c cr f with gangs := KV.update cr.gang u s.gangs }
    (v.getLsbD 1 = G.dbg → exec (.csrwr g a 0) s = .next (gang fun G => { G with uchk := v.getLsbD 0 })) ∧
    (exec (.csrwr g a 1) s = .next { s.issued c cr { y with fpf := v.extractLsb' 0 5 } 1 with
      gangs := KV.update cr.gang (fun G => { G with
        ten := v.extractLsb' 5 5, rm := v.extractLsb' 12 2, pkf := v.getLsbD 16 }) s.gangs }) ∧
    (exec (.csrwr g a 2) s = .next (gang fun G => { G with trapvec := v.extractLsb' 0 54 &&& ~~~3 })) ∧
    (exec (.csrwr g a 3) s = .next (gang fun G => { G with
      traproute := v.extractLsb' 0 40 &&& ~~~(3#40 <<< 28 ||| 3#40 <<< 34 ||| 3#40 <<< 36) })) ∧
    (f.hm = true → v.extractLsb' 0 2 = 0 → exec (.csrwr g a 5) s = .next (s.issued c cr { y with
      trec := { y.trec with r1 := y.trec.r1.extractLsb' 54 10 ++ v.extractLsb' 0 54 } } 1)) ∧
    (G.dbg = true → exec (.csrwr g a 0xA) s = .next (gang fun G => { G with
      inject := v &&& 0x8000_0000_00FF_FC1F })) ∧
    (G.dbg = true → exec (.csrwr g a 0xB) s = .next { s.after c cr f with
      sites := KV.put c.site { (s.site c.site).spent c.site 1 with
        hit := v.extractLsb' 48 16, tfrz := v.getLsbD 1, woff := v.getLsbD 0,
        tdc := if v.getLsbD 2 then [] else ((s.site c.site).spent c.site 1).tdc } s.sites })

/-! ### Hints, traps, debugging, walks -/

/-- R179, R180, R184, R185: a hint word joins the group; a second one of its kind, an illegal one or
an undefined one is kept as the group's error. The issue opportunities that PACE asks for are spent
idle before the next word (R182). -/
def Obligations.HintWords : Prop :=
  ∀ s c cr f, Solo s c cr f → (∀ n, f.IdleFlag n) →
    let h := cr.group f.pc
    let bad (i : Instr) : State := s.hinted c cr f { h with err := some i.word }
    (∀ w sig d, let i := Instr.pace w sig d
      exec i s = .next (if h.pace = false ∧ i.wf = true then
          s.hinted c cr f { h with pace := true, wait := w, sig := sig.toNat, dist := d.toNat } d.toNat
        else bad i)) ∧
    (∀ i, exec (.imm i) s =
      .next (if h.imm = none then s.hinted c cr f { h with imm := some i } else bad (.imm i))) ∧
    (∀ r m a t n w, exec (.mod r m a t n w) s = .next (if h.mods = none then
      s.hinted c cr f { h with mods := some (r ++ m ++ a ++ t ++ n ++ w ++ 0#15) } else bad (.mod r m a t n w))) ∧
    (∀ w : Word, w.extractLsb' 25 7 = 0x7F → exec (.undefinedEncoding w) s =
      .next (s.hinted c cr f { h with err := some w }))

/-- R315, R317, R187, R297: TRAP raises SWTRAP past itself; ENDW outside a walk and a word that is no
instruction raise ILLEG at the group's first word, with the word in the record. -/
def Sys2Proof.Part.SoftwareTraps : Prop :=
  ∀ s c cr f g, (cr.group f.pc).imm = none → (isSuper c.site && f.hm) = false →
    let h := cr.group f.pc
    let x (k : Cls) (a : DWord) (r : Nat) (pc : VAddr) (sup : Bool) : Fail :=
      { key := fkey cr.gang f.fid, lane := f.lane, cls := k, addr := a, reason := r, pc := pc, sup := sup }
    (∀ a (sc : BitVec 1) (n : BitVec 6), Stands s c cr f g [src a 2] → Unsignalled h →
      exec (.trap g a sc n) s = .next (s.trapped c cr f { f.passed h true with slot := none }
        (x .swtrap (val64 (s.gang cr.gang) (f.now h) a) n.toNat (f.pc + 4) (decide (sc = 1))))) ∧
    (Stands s c cr f g [] → h.pace = false →
      exec (.endw g) s = .next (s.trapped c cr f (f.failed cr)
        (x .illeg ((Instr.endw g).word.zeroExtend 64) 5 h.start false))) ∧
    (∀ w : Word, Stands s c cr f (w.extractLsb' 21 4) [] → w.extractLsb' 25 7 ≠ 0x7F →
      (∃ b, decode w = .error b ∧ exec (.undefinedEncoding w) s = .next (s.trapped c cr f (f.failed cr)
        (x .illeg (w.zeroExtend 64) (if b = .reservedMajor then 0 else 1) h.start false))) ∨
      (∃ i, decode w = .ok i))

/-- R318: RETT leaves handler mode at the record's PC; RETT_F lets go of a fibre parked for its
gang's handler. -/
def Sys2Proof.Part.TrapReturns : Prop :=
  ∀ s c cr f g, (cr.group f.pc).imm = none → Unsignalled (cr.group f.pc) → KV.has cr.gang s.gangs = true →
    let h := cr.group f.pc
    (Stands s c cr f g [] → f.hm = true → f.park = none → f.restart = 0 →
      exec (.rett g) s = .next (s.vacated c cr f
        { f.passed h true with slot := none, pc := f.trec.pc, hm := false })) ∧
    (∀ b x p, Stands s c cr f g [src b] →
      let n := (val (s.gang cr.gang) (f.now h) b).toNat
      KV.find? (fkey cr.gang n) s.fibres = some x → n < 1024 → n < (s.gang cr.gang).nfib → n ≠ f.fid →
      x.gang = cr.gang → x.fid = n → x.park = some p → p.sup = false → x.halt = none → x.restart = 0 →
      p.record.pc ≠ f.pc + 4 →
      exec (.rettF g b) s = .next { s.after c cr f with
        fibres := KV.put (fkey cr.gang n) { x with pc := p.record.pc, park := none, hm := false }
          (s.after c cr f).fibres })

/-- R187, R297, R315, R317, R318: the words that trap, and the returns. -/
def Obligations.TrapWords : Prop := Part.SoftwareTraps ∧ Part.TrapReturns

/-- R350, R351: what a descriptor's comparator takes of a candidate: an access or an address that shares a byte
with its range, or that does not; one of the words, masked, or between two bounds, signed or not; one of
the events. -/
def Sys2Proof.Part.WatchMatches : Prop :=
  ∀ d : BitVec 128,
    let src := d.toNat / 2 ^ 121 % 8
    let cmp := d.toNat / 2 ^ 118 % 8
    let lo := d.toNat / 2 ^ 26 % 2 ^ 54
    let len := d.toNat % 2 ^ 26
    let part (n : Nat) : Word := BitVec.ofNat 32 (d.toNat / 2 ^ n)
    (∀ va : VAddr, ∀ n, let meets : Prop := va.toNat < lo + len ∧ lo < va.toNat + n
      (∀ st, (candHit d (.addr st va n)).isSome = true ↔
        src = (if st then 1 else 0) ∧ (cmp = 0 ∧ meets ∨ cmp = 1 ∧ ¬ meets)) ∧
      (n = 4 → ((candHit d (.pc va)).isSome = true ↔ src = 5 ∧ (cmp = 0 ∧ meets ∨ cmp = 1 ∧ ¬ meets)))) ∧
    (∀ st ws, (candHit d (.val st ws)).isSome = true ↔ src = (if st then 3 else 2) ∧ ∃ x ∈ ws,
      cmp = 2 ∧ x &&& part 16 = part 48 &&& part 16 ∨
      cmp = 3 ∧ (part 48).toInt ≤ x.toInt ∧ x.toInt ≤ (part 16).toInt ∨
      cmp = 4 ∧ (part 48).toNat ≤ x.toNat ∧ x.toNat ≤ (part 16).toNat) ∧
    ∀ x : BitVec 5, (candHit d (.exc x)).isSome = true ↔
      src = 4 ∧ cmp = 5 ∧ ∃ k, k < 5 ∧ d.getLsbD k = true ∧ x.getLsbD k = true

/-- R351, R352, R355, R357: a PC predicate at the core of a register word. One that does not match, or only
counts, or has not come to its threshold, lets the word run; one that halts leaves the fibre halted at
the group's first word, with nothing performed, and reports it; one that traps raises WATCH there. The
count rises by one at a match, up to its largest value. -/
def Sys2Proof.Part.WatchedWords : Prop :=
  ∀ w ∈ binaryWords, ∀ s c cr f g d a b n p, n < 16 → Stands s c cr f g [src a, src b, dst d] →
    isCore c.site = true → (s.site c.site).woff = false → (cr.group f.pc).imm = none → f.fresh = false →
    f.park = none → f.halt = none → s.covers p cr.gang f.fid = true → p.desc.toNat / 2 ^ 121 % 8 = 5 →
    let h := cr.group f.pc
    let G := s.gang cr.gang
    let cand : DWord := h.start.zeroExtend 64
    let hit := (candHit p.desc (.pc h.start)).isSome
    let up : WPred := { p with count := if p.count = BitVec.allOnes 64 then p.count else p.count + 1 }
    let act := p.desc.toNat / 2 ^ 124 % 8
    let fires := hit && decide (max 1 (p.desc.toNat / 2 ^ 80 % 2 ^ 16) ≤ up.count.toNat) && decide (act ≠ 0)
    let k := fkey cr.gang f.fid
    (fires = false → exec (w.1 g d a b) (s.watched c.site n p) =
      .next ((s.watched c.site n (if hit then up else p)).issued c cr
        ((f.passed h true).gets d (w.2 (val G (f.now h) a) (val G (f.now h) b))) 1)) ∧
    (fires = true → 1 ≤ act → act ≤ 3 → ∃ t, exec (w.1 g d a b) (s.watched c.site n p) = .next t ∧
      KV.find? k t.fibres = some { f.failed cr with
        pc := h.start, halt := some { pred := n, act := act, after := false, cand := cand } } ∧
      KV.find? (ckey c.site c.slot) t.crews = none ∧ (t.site c.site).preds = [(n, up)] ∧
      (t.site c.site).hit.getLsbD n = true ∧ t.mem = s.mem ∧ t.scr = s.scr ∧ t.acc = s.acc ∧
      (∃ e ∈ (t.die (dieOf c.site)).cwait, e.halt = true ∧ e.cls = .watch ∧ e.reason = n ∧ k ∈ e.fibres) ∧
      (act = 3 → KV.has cr.gang s.gangs = true → ∀ x ∈ (t.gang cr.gang).chans, x.2.held = true)) ∧
    (fires = true → act = 4 → exec (w.1 g d a b) (s.watched c.site n p) =
      .next ((s.watched c.site n up (1#16 <<< n)).trapped c cr f (f.failed cr)
        { key := k, lane := f.lane, cls := .watch, addr := cand, reason := n, pc := h.start }))

/-- R353, R358 to R361: WATCH, POKE, STEP and RESUME in a gang with debug enabled. -/
def Sys2Proof.Part.DebuggerWords : Prop :=
  ∀ s c cr f g, (cr.group f.pc).imm = none → (s.gang cr.gang).dbg = true → KV.has cr.gang s.gangs = true →
    let G := s.gang cr.gang
    let h := cr.group f.pc
    let t := s.after c cr f
    let onto (n : Nat) (x : Fibre) : State := { t with fibres := KV.put (fkey cr.gang n) x t.fibres }
    (∀ n a : BitVec 7, n.toNat < 16 → Stands s c cr f g [src a 4] →
      let e := soloEnv s c cr f [src a 4]
      let d : BitVec 128 := BitVec.ofNat 128 (wordsVal (e.op 0))
      let k := e.watchSite
      watchBad d = false → s.watchTaken k cr.gang n.toNat = false →
      let q : WPred := { desc := d, gang := if d.getLsbD 127 then some cr.gang else none, count := 0 }
      let y : Site := { t.site k with preds := KV.put n.toNat q (t.site k).preds }
      exec (.watch g n a) s = .next { t with sites := KV.put k y t.sites }) ∧
    (∀ a b (el : BitVec 7) x, Stands s c cr f g [src a 4, src b 2] →
      let e := soloEnv s c cr f [src a 4, src b 2]
      let w (i : Nat) : Word := ((e.op 0).getD i {}).v
      let n := (e.w 1).toNat
      let ix := (w1 (e.op 1)).toNat
      Halted s cr.gang f n x →
      (el.toNat < 96 → el.toNat < G.window →
        exec (.poke g a b el) s = .next (onto n (x.writeNow el.toNat { v := w 0 }))) ∧
      (el = 0x60 → (w 0).extractLsb' 0 2 = 0 →
        let pc : VAddr := ((w 1 ++ w 0).extractLsb' 0 54)
        exec (.poke g a b el) s = .next (onto n { x with
          pc := pc, wait := if pc = x.pc then x.wait else none,
          preds := (w 2).extractLsb' 0 8 ||| 1, fpf := (w 3).extractLsb' 0 5 })) ∧
      (el = 0x63 → exec (.poke g a b el) s = .next (onto n { x with
        walk := { x.walk with v0 := w 1 ++ w 0, v1 := (w 3 ++ w 2) &&& ~~~seqReserved } })) ∧
      (el = 0x64 → ix % 4 = 0 → ix / 1024 < G.tiles → itemHold s e 1 el.toNat = false → x.gang = cr.gang →
        let lo := (G.core * 256 + G.tbase) * 1024 + ix
        exec (.poke g a b el) s = .next { t with
          acc := (List.range 4).foldl (fun m i => KV.putD (lo + i) {} { v := w i } m) s.acc })) ∧
    (∀ b n x, Stands s c cr f g [src b] →
      let v := val G (f.now h) b
      Halted s cr.gang f n x → x.gang = cr.gang → x.fid = n → x.owedFpx = none → x.wait = none →
      x.pc ≠ f.pc + 4 →
      let y (step : Bool) : Fibre := { x with halt := none, fresh := true, stepping := step }
      (v.toNat = n ∨ (v = 0xFFFF_FFFF ∧
          (s.gangFibres cr.gang).filter (fun k => (s.fibre k).halt.isSome) = [fkey cr.gang n]) →
        exec (.resume g b) s = .next { onto n (y false) with
          gangs := KV.update cr.gang (fun G => { G with
            chans := G.chans.map fun k => (k.1, { k.2 with held := false }) }) s.gangs }) ∧
      (v.toNat = n → c.wait = true →
        Begins s { s with fibres := KV.put (fkey cr.gang n) (y true) s.fibres } c cr f (.step g b) [src b]
          { kind := .step (fkey cr.gang n) } true false 0 0))

/-- R350 to R353, R355, R357 to R361: the debugger's words, and what watch predicates match, count and stop.
(That a POKE of the PC drops a wait, and that RESUME lets the channels go on, are the model's readings:
log entry 25.) -/
def Obligations.DebugWords : Prop := Part.DebuggerWords ∧ Part.WatchMatches ∧ Part.WatchedWords

/-- R295 to R297: WALK and NEST start a walk of the body up to the next ENDW, whose words none is an
eight-op, over clean pointer pairs; one of no vector or no word ends at once. (That the descriptor is
that of the lowest active lane, and that a poisoned pair traps, are the model's readings: log entry 23;
WALK's order is a free value: log entry 15.) -/
def Obligations.WalkWords : Prop :=
  ∀ s c cr f g x p l ws, ∀ w ∈ [(Instr.walk g x p, true), (Instr.nest g x p, false)],
    let us := [src p 2]
    let e := soloEnv s c cr f us
    let h := cr.group f.pc
    Starts s c cr f g us → isCore c.site = true → e.bodyOf s = .words ws → ws.any (okWord isEight) = false →
    x.toNat % 2 = 0 → x.toNat + 2 * l.pairs ≤ (s.gang cr.gang).window →
    engineHold s e = false → walkNeed s e = [] → loopCheck s e = .ok l → basePoison e x.toNat l = none →
    let y (order : List Nat × Nat) : Fibre := { (if h.sig < 12 then (f.passed h true).setFlag h.sig { st := .busy, eng := true }
        else f.passed h true) with walk := mkWalk e x.toNat l ws w.2 order, pc := h.start }
    let z (f : Fibre) : Fibre := if l.dims.contains 0 || decide (ws = []) then f.endWalk else f.placePairs
    ∃ u tlb bnd, Reads s u ∧ exec w.1 s = .next { u with
      tick := if w.2 then u.tick + 1 else u.tick
      fibres := KV.put (fkey cr.gang f.fid) (z (y (walkOrder w.2 u.tick l.dims.length))) s.fibres
      crews := KV.put (ckey c.site c.slot) { cr with hints := none, stall := 0 } s.crews
      sites := KV.put c.site { (s.site c.site).spent c.site 1 with tlb := tlb, bnd := bnd } s.sites }

/-! ### The dies' commands -/

/-- R31, R26, R15, R372, R373: what ZEROPAGE, XINVAL and BNDSYNC do, a command that is not known, and
the completion of a command. (What XINVAL waits for, and that BNDSYNC writes the value into the block
with its reserved bits 0, are the model's readings: log entry 30; that ZEROPAGE zeroes the cells of the ordinary map
and completes with status 0 where its length is 0, wherever its base lies: log entry 35.) -/
def Obligations.MemoryCommands : Prop :=
  ∀ s die, s.Inv →
    (∀ c, Takes s die c → c.code = 1 → c.op2 = 0 → c.op3 = 0 →
      s.zeroable c.op0.toNat c.op1.toNat = true →
      let inside (a : Nat) : Bool := decide (c.op0.toNat ≤ a) && decide (a < c.op0.toNat + c.op1.toNat)
      ∃ t, exec (.zeropage die) s = .next t ∧ t.dies = s.taken die (c.with 0) ∧
        (∀ a, Memory.read t.mem a = if inside a then 0 else Memory.read s.mem a) ∧
        (∀ x ∈ t.mpoison, inside (4 * x.1) = false) ∧ (∀ x ∈ t.l1, inside (x.1 % 2 ^ 50 * 4) = false) ∧
        (∀ x ∈ t.fcache, inside (x.1 % 2 ^ 50 * 4) = false) ∧ (∀ x ∈ t.sram, inside (x.1 * 128) = false) ∧
        (∀ x ∈ t.dpoison, inside (64 * x.1) = false) ∧ (∀ n, inside (128 * n) = true → t.QuietLine n) ∧
        t.fibres = s.fibres ∧ t.gangs = s.gangs ∧ t.scr = s.scr ∧ t.acc = s.acc) ∧
    (∀ c ctx, Takes s die c → c.code = 2 → c.op0.toNat < 256 → s.cmdCtx c.op0 = some ctx → c.op3 = 0 →
      c.op1.toNat < 2 ^ 54 → c.op1.toNat % 4096 = 0 → c.op2.toNat % 4096 = 0 →
      (c.op2 = 0 ∨ c.op1.toNat + c.op2.toNat ≤ 2 ^ 54) → s.oldAccess ctx s.nextId = false → s.nextId ≠ 0 →
      let stale (e : Nat × Nat × DWord) : Bool :=
        let size := pageSize e.2.1 * runLen e.2.2
        let lo := e.1 % 2 ^ 42 * 4096 / size * size
        decide (e.1 / 2 ^ 42 = ctx) && decide (c.op2 = 0 ∧ lo < 2 ^ 54 ∨
          lo < c.op1.toNat + c.op2.toNat ∧ c.op1.toNat < lo + size ∧ c.op2 ≠ 0)
      exec (.xinval die) s = .next { s with
        sites := s.sites.map fun x => (x.1, { x.2 with tlb := x.2.tlb.filter fun e => !stale e })
        dies := s.taken die { c.with 0 with mark := s.nextId } }) ∧
    (∀ c ctx, Takes s die c → c.code = 9 → c.op0.toNat < 256 → s.cmdCtx c.op0 = some ctx → c.op2 = 0 →
      c.op3 = 0 →
      let v := c.op1 &&& 0x000F_FFFF_FFFF_C001
      let pa := entBlk (s.ringEntry ctx) + 24
      DevFree s pa 8 →
      ∃ t, exec (.bndsync die) s = .next t ∧ t.dies = s.taken die (c.with 0) ∧
        t.ctxs = KV.update ctx (fun x => { x with bndtbl := v }) s.ctxs ∧
        t.sites = s.sites.map (fun x => (x.1, { x.2 with bnd := x.2.bnd.filter fun e => decide (e.1 / 1024 ≠ ctx) })) ∧
        (t.coh pa).v = v.extractLsb' 0 32 ∧ (t.coh (pa + 4)).v = v.extractLsb' 32 32) ∧
    (∀ m, s.dieUp die = true → (s.die die).cmd = none → s.nextEntry die = some m → s.entryRead die = none →
      (cmdReserved m || (cmdOf m).unknown) = true →
      exec (.unknownCommandCode die) s = .next { s with dies := s.taken die ((cmdOf m).with 1) }) ∧
    (∀ c st, s.dieUp die = true → (s.die die).cmd = some c → c.status = some st → st < 2 ^ 32 →
      c.caddr % 4 = 0 → DevFree s c.caddr 4 →
      ∃ t, exec (.commandComplete die) s = .next t ∧ (t.coh c.caddr).v = BitVec.ofNat 32 st ∧
        t.dies = KV.put die { s.die die with cmd := none } s.dies ∧
        (c.ev = true → s.pkg.evaddr ≠ 0 → t.pkg.out.length = s.pkg.out.length + 1) ∧
        (c.ev = false → t.pkg = s.pkg))

/-- R338: RELEASE lets go of the fibres that are attached to an open entry, and closes it. -/
def Sys2Proof.Part.ReleaseCommands : Prop :=
  ∀ s die c k f p e, Takes s die c → c.code = 3 → s.releaseBad die c = false →
    let i := c.op0.toNat % 512
    Attached s die i k f p e →
    let t (y : Fibre) : State := { s with
      fibres := KV.put k y s.fibres
      dies := KV.put die { s.die die with
        mchead := (s.die die).mchead + 1, cmd := some (c.with 0), ctab := KV.del i (s.die die).ctab } s.dies }
    (c.action = 0 → exec (.releaseResume die) s = .next (t { f with pc := p.record.pc, park := none })) ∧
    (c.action = 1 → exec (.releaseRedirect die) s = .next (t { f with pc := c.op1.extractLsb' 0 54, park := none })) ∧
    (c.action = 2 → notForHandler (s.gang f.gang) f e.cls = false → exec (.releaseHandler die) s = .next (t { f with
      trec := p.record, hm := true, pc := (s.gang f.gang).trapvec, park := none })) ∧
    (∀ ins pc, c.action = 3 → p.acquires = false →
      s.groupInstr f.site (s.gang f.gang).ctx p.record.pc 4 = some (ins, pc) →
      s.popsOf (s.gang f.gang) f ins = [] →
      let count := f.count + s.groupCounts f.site (s.gang f.gang).ctx p.record.pc pc
      ((rolesOf ins).1 = none →
        exec (.releaseEmulate die) s = .next (t { f with pc := pc + 4, park := none, count := count })) ∧
      (∀ d, (rolesOf ins).1 = some (dst d) → isQueue d.toNat = false →
        exec (.releaseEmulate die) s = .next (t { f.writeNow d.toNat { v := c.op2.extractLsb' 0 32 } with
          pc := pc + 4, park := none, count := count })))

/-- R372, R77: `t` is `s` after a command has ended context `i`: it is gone with its bags and the command
complete, or its work still drains and the command goes on. One with nothing to drain is gone at once. -/
def Sys2Proof.Ends (s t : State) (die i : Nat) (c : Cmd) : Prop :=
  ((t.ctx i).live = false ∧ (t.ctx i).pending = [] ∧ t.ctxGangs i = [] ∧ t.ctxBags i = [] ∧
      (t.die die).cmd = some (c.with 0) ∨
    ((t.ctx i).live = true ∨ t.ctxBags i ≠ []) ∧ (t.die die).cmd = some c) ∧
  (s.ctxBags i = [] → (s.ctx i).live = false ∨
    (s.ctxGangs i = [] ∧ ((s.ctx i).st = .running → s.midGroup i = false)) →
    (t.ctx i).live = false ∧ (t.die die).cmd = some (c.with 0))

/-- R339, R338, R372: the commands that stop, resume and end a context. A PREEMPT of a quiesced context
completes at once; a QUIESCE completes at once, or leaves the context stopping. -/
def Sys2Proof.Part.ContextCommands : Prop :=
  ∀ s die c,
    (∀ i, Takes s die c → c.indexOnly = true → s.cmdCtx c.op0 = some i → KV.has i s.ctxs = true →
      (c.code = 4 → (s.ctx i).live = true → (s.ctx i).st = .quiesced →
        ∃ t, exec (.preempt die) s = .next t ∧ (t.ctx i).live = false ∧ (t.ctx i).st = .saved ∧
          t.ctxGangs i = [] ∧ (t.die die).cmd = some (c.with 0)) ∧
      (c.code = 5 → (s.ctx i).live = true → (s.ctx i).st = .running → s.midGroup i = false →
        ∃ t, exec (.quiesce die) s = .next t ∧
          if (t.ctx i).st = .quiesced then (t.die die).cmd = some (c.with 0)
          else (t.ctx i).st = .stopping ∧ (t.die die).cmd = some c) ∧
      (c.code = 6 → (s.ctx i).live = true → (s.ctx i).st = .quiesced →
        ∃ t, exec (.resumectx die) s = .next t ∧ (t.ctx i).st = .running ∧
          (t.die die).cmd = some (c.with 0) ∧ t.fibres = s.fibres) ∧
      (c.code = 7 → ∃ t, exec (.endctx die) s = .next t ∧ Ends s t die i c)) ∧
    (∀ e, Takes s die c → c.code = 3 → c.action = 4 → s.releaseBad die c = false →
      KV.find? (c.op0.toNat % 512) (s.die die).ctab = some e → KV.has e.ctx s.ctxs = true →
      ∃ t, exec (.releaseEnd die) s = .next t ∧ Ends s t die e.ctx c)

/-- R338, R339, R372: the release and context commands. (The statuses, and EMULATE's pops, are the
model's readings: log entries 30 and 31.) -/
def Obligations.ContextAndRelease : Prop := Part.ReleaseCommands ∧ Part.ContextCommands

/-- R359 to R361, R374: DBGACC on a gang with debug enabled. (That DBGACC RESUME lets the channels go
on is the model's reading: log entry 25.) -/
def Obligations.DebugCommands : Prop :=
  ∀ s die c gk G, s.Inv → Takes s die c → c.code = 8 → s.dbgBad c = false → s.dbgGang c = some (gk, G) →
    KV.find? gk s.gangs = some G →
    let n := c.op0.toNat / 2 ^ 32 % 1024
    let sel := c.op0.toNat / 2 ^ 56
    let done := s.taken die (c.with 0)
    let result (t : State) (ws : List PW) : Prop :=
      t.dies = done ∧ t.fibres = s.fibres ∧ ∀ i < 4, (t.coh (c.caddr + 16 + 4 * i)).v = (ws.getD i {}).v
    (∀ x, KV.find? (fkey gk n) s.fibres = some x → x.halt.isSome = true → x.gang = gk →
      (c.kind = 0 → itemErr G sel c.op1.toNat = none → s.itemBusy G (fkey gk n) sel c.op1.toNat = false →
        c.caddr % 4 = 0 → DevFree s (c.caddr + 16) 16 →
        ∃ t, exec (.dbgaccInsp die) s = .next t ∧ result t (s.item (fkey gk n) sel c.op1.toNat)) ∧
      (c.kind = 1 → itemErr G sel c.op1.toNat = none → pokeErr sel c.words = none →
        s.itemBusy G (fkey gk n) sel c.op1.toNat = false →
        exec (.dbgaccPoke die) s = .next { ((Run.start s).setItem (fkey gk n) sel c.op1.toNat c.words).s with dies := done }) ∧
      (x.owedFpx = none → x.wait = none →
        let y (step : Bool) : Fibre := { x with halt := none, fresh := true, stepping := step }
        (c.kind = 2 → c.target = none → exec (.dbgaccStep die) s = .next { s with
          fibres := KV.put (fkey gk n) (y true) s.fibres
          dies := s.taken die { c with target := some (fkey gk n) } }) ∧
        (c.kind = 3 → c.op0.getLsbD 42 = false → exec (.dbgaccResume die) s = .next { s with
          fibres := KV.put (fkey gk n) (y false) s.fibres
          gangs := KV.put gk { G with chans := G.chans.map fun k => (k.1, { k.2 with held := false }) } s.gangs
          dies := done }))) ∧
    (c.kind = 4 → watchBad (groupBits c.words) = false → s.watchTaken G.core gk sel = false →
      let d := groupBits c.words
      let q : WPred := { desc := d, gang := if d.getLsbD 127 then some gk else none, count := 0 }
      let y : Site := { s.site G.core with preds := KV.put sel q (s.site G.core).preds }
      exec (.dbgaccWatchSet die) s = .next { s with sites := KV.put G.core y s.sites, dies := done }) ∧
    (c.kind = 5 → c.caddr % 4 = 0 → DevFree s (c.caddr + 16) 16 →
      ∃ t, exec (.dbgaccWatchRead die) s = .next t ∧ result t (wordsOf 4 (s.watchOf G.core G.ctx sel).toNat))

/-! ### Events: registers, packets, power -/

/-- R370, R371, R115, R45, R46, R67, R324, R325, R367, R373, R375, R380: writes to the registers of the management
space, what the dies refuse and log, and the end of a change-over of a carved unit. (That a write of PWRCTL
starts the give-way afresh, and the place in the log of a command ring, are the model's readings: log entries 9
and 39; the context that gives its dies up as a queue of it is written is that of log entry 29.) -/
def Obligations.RegisterWrites : Prop :=
  ∀ s (v : DWord), s.up = true →
    let base := 0xF_0000_0000_0000
    let onDie (n : Nat) (f : Die → Die) : State := { s with dies := KV.put n (f (s.die n)) s.dies }
    let onPkg (f : Pkg → Pkg) : State := { s with pkg := f s.pkg }
    let onQueue (q : Nat) (w : WorkQ) : State := { s with wqs := KV.put q w s.wqs }
    let write (off : Nat) : Instr := .mgmtRegisterWrite (base + off) v
    (∀ n < 4, exec (.quarcfgWrite n v) s = .next (onDie n fun d => { d with
      quarcfg := v &&& 0x000F_FFFF_FC00_0001, quarstat := 0 })) ∧
    (∀ n < 4, ∃ pend ready carving sram dpoison mpoison,
      exec (.carveWrite n v) s = .next { (onDie n fun d => { d with
        want := v.extractLsb' 0 12, pend := pend, ready := ready, carving := carving }) with
        sram := sram, dpoison := dpoison, mpoison := mpoison } ∧
      ∀ u < 12, let d := s.die n
        let start := !d.pend.getLsbD u && (v.getLsbD u != d.ready.getLsbD u)
        pend.getLsbD u = (d.pend.getLsbD u || start) ∧ ready.getLsbD u = (d.ready.getLsbD u && !start) ∧
        carving.getLsbD u = if start then v.getLsbD u else d.carving.getLsbD u) ∧
    (∀ n u, n < 4 → u < 12 → s.Inv → let d := s.die n
      d.pend.getLsbD u = true → d.ready.getLsbD u = false → d.want.getLsbD u = d.carving.getLsbD u →
      let pa := 0x100_0000_0000 + n * 2 ^ 30 + u * 2 ^ 26
      ∃ t, exec (.carveChangeoverDone n u) s = .next t ∧ SameOutside s t pa (2 ^ 26) ∧
        (∀ i < 2 ^ 26, Memory.read t.mem (pa + i) = 0) ∧ (t.die n).pend.getLsbD u = false ∧
        (t.die n).ready.getLsbD u = d.want.getLsbD u ∧ t.fibres = s.fibres) ∧
    (∀ q < 65536, let w := s.wq q
      let cfg := v &&& 0x8FF0_00FF_0000_0000
      -- what the dispatcher has read ahead for a queue that is not enabled
      let reads (k : Nat) : Bool := s.ops.any fun o => decide (o.1 = k) && decide (o.2.kind = .take q)
      let gone (o : Nat × Op) : Bool := reads o.1 || match o.2.kind with | .wread k => reads k | _ => false
      ∃ ctxs, (s.pkg.reserved = none → ctxs = s.ctxs) ∧ exec (.wqcfgWrite q v) s = .next
        { (onQueue q (if v.getLsbD 63 && !w.cfg.getLsbD 63 then
          { w with cfg := cfg, head := w.tail, err := 0 } else { w with cfg := cfg })) with
          ctxs := ctxs
          ops := if v.getLsbD 63 then s.ops else s.ops.filter fun o => !gone o }) ∧
    (∃ t, exec (.pwrctlWrite v) s = .next t ∧ t.fibres = s.fibres ∧ t.mem = s.mem ∧
      let m := v.toNat / 2 ^ 48 % 4
      t.pkg.pwrctl = BitVec.ofNat 64 (m * 2 ^ 48 + max 1600 (min 2800 (v.toNat % 4096))) ∧
      (∀ k < 12, (t.stack k).therm = [16, 4, 16, 10].getD m 0) ∧
      ∀ n < 4, (s.die n).toks.length ≤ [12, 12, 4, 9].getD m 0 →
        (t.die n).toks.length + (t.die n).free.length = [12, 12, 4, 9].getD m 0) ∧
    (exec (.rcRegisterWrite (base + 0x20) v) s = .next (onPkg fun p => { p with schederr := 0 }) ∧
     exec (.rcRegisterWrite (base + 0x28) v) s = .next (onPkg fun p => { p with preover := 0 }) ∧
     ∀ n < 4, exec (.rcRegisterWrite (base + 0x10_0038 + n * 0x1_0000) v) s =
       .next (onDie n fun d => { d with fqovf := 0 })) ∧
    (exec (write 0x08) s = .next (onPkg fun p => { p with hostdev := v &&& 0xFFF }) ∧
     exec (write 0x10) s = .next (onPkg fun p => { p with ringbase := v &&& 0x000F_FFFF_FFFF_FFF0 }) ∧
     exec (write 0x18) s = .next (onPkg fun p => { p with ringlen := v &&& 0x1FF }) ∧
     exec (write 0x30) s = .next s ∧
     exec (write 0x38) s = .next (onPkg fun p => { p with evaddr := v &&& 0xFFFF_FFFF_FFFF_FFF8 }) ∧
     exec (write 0x40) s = .next (onPkg fun p => { p with scrub := v }) ∧
     (∀ n < 512, exec (write (0x1000 + 8 * n)) s = .next (onPkg fun p => { p with
       peerwin := KV.put n (v &&& 0x8000_0FFF_0000_0000) p.peerwin })) ∧
     (∀ n < 4, let off := 0x10_0000 + n * 0x1_0000
       (∀ x ∈ [0x10, 0x30, 0x48, 0x58], exec (write (off + x)) s = .next s) ∧
       exec (write (off + 0x18)) s = .next (onDie n fun d => { d with fqbase := v &&& 0x000F_FFFF_FFFF_FFC0 }) ∧
       exec (write (off + 0x20)) s = .next (onDie n fun d => { d with fqcfg := v.toNat % 16 }) ∧
       exec (write (off + 0x28)) s = .next (onDie n fun d => { d with fqhead := v.extractLsb' 0 32 }) ∧
       -- R373: a write that is refused is logged
       let d := s.die n
       let t := v.extractLsb' 0 32
       exec (write (off + 0x50)) s = .next (
         if 256 < (t - d.mchead).toNat ∨ (t - d.mchead).toNat < (d.mctail - d.mchead).toNat then
           s.logged n 5 10 n (base + off + 0x50)
         else onDie n fun d => { d with mctail := t }) ∧
       exec (write (off + 0x40)) s = .next (if d.mchead ≠ d.mctail then s.logged n 5 10 n (base + off + 0x40)
         else onDie n fun d => { d with mcbase := v &&& 0x000F_FFFF_FFFF_C000 })) ∧
     (∀ n < 8, let off := 0x2000 + 16 * n
       let old := KV.getD n 0 s.pkg.redwin
       let onWin (x : BitVec 128) : State := onPkg fun p => { p with redwin := KV.put n x p.redwin }
       exec (write off) s = .next (onWin (old.extractLsb' 64 64 ++ (v &&& 0x03FF_FFFF_FFFF_FFFF))) ∧
       exec (write (off + 8)) s = .next (onWin ((v &&& 0x803F_FFFF_FFFF_FFFF) ++ old.extractLsb' 0 64))) ∧
     (∀ k < 12, let al := v.toNat / 2 ^ 36 % 4096
       let lb := v.toNat / 2 ^ 24 % 4096
       let ab := v.toNat / 2 ^ 16 % 32
       ∃ pchs, exec (write (0x20_0000 + 0x1000 * k)) s = .next { s with
         stks := (KV.put k { s.stack k with
           al := if al = 0 then 1 else al, lb := if lb = 0 then 1 else lb
           abmax := if ab = 0 then 1 else if 16 < ab then 16 else ab } s.stks), pchs := pchs }) ∧
     ∀ q < 65536, let off := 0x100_0000 + 64 * q
       exec (write off) s = .next (onQueue q { s.wq q with base := v &&& 0x003F_FFFF_FFFF_FFC0 }) ∧
       (∃ ctxs, (s.pkg.reserved = none → ctxs = s.ctxs) ∧ exec (write (off + 16)) s =
         .next { (onQueue q { s.wq q with tail := v.extractLsb' 0 32 }) with ctxs := ctxs }) ∧
       exec (write (off + 24)) s = .next s ∧ exec (write (off + 32)) s = .next s)

/-- R365, R366, R371: a packet that reads, writes or modifies a register or DRAM, and its response; one to a
place it may not reach is refused; one to a window goes on; one that must not overtake an earlier one of its
sender, or whose line is held (R253), waits. -/
def Sys2Proof.Part.PacketEvents : Prop :=
  ∀ s p, s.Inv → Arrives s p →
    let resp (data : List Byte) (poison : List Nat) : OutPkt :=
      { kind := .resp, dest := p.src, tag := p.tag, data := data, poison := poison }
    let id := s.nextId
    (∀ off m, p.addr = 0xF_0000_0000_0000 + off → off < 2 ^ 48 → mreg off = some m →
      (p.len = 8 → s.inTurn .read p → exec (.packetRead p) s =
        .next (((s.taking .read p).sent (resp (bytesOf 8 (s.mread m).toNat) [])).took id)) ∧
      (p.data.length = 8 → s.inTurn .write p →
        ∃ t, exec (.mgmtRegisterWrite p.addr (BitVec.ofNat 64 (ofBytes p.data))) (s.taking .write p) = .next t ∧
          exec (.packetWrite p) s = .next ((t.sent (resp [] [])).took id))) ∧
    (Reachable s p.addr p.len false → s.inTurn .read p → ∃ dirs fwd hent, exec (.packetRead p) s = .next
      { ((s.taking .read p).sent (resp
          ((List.range p.len).map fun i => Memory.read s.mem (p.addr + i))
          ((List.range ((p.addr % 4 + p.len + 3) / 4)).filter fun i =>
            KV.has (p.addr / 4 + i) s.mpoison))).took id with
        dirs := dirs, fwd := fwd, hent := hent }) ∧
    (Reachable s p.addr p.data.length true → s.inTurn .write p → ∃ t, exec (.packetWrite p) s = .next t ∧
      (∀ i < p.data.length, let m := p.masks.getD i 0xFF
        Memory.read t.mem (p.addr + i) = (Memory.read s.mem (p.addr + i) &&& ~~~m) ||| (p.data.getD i 0 &&& m)) ∧
      QuietOutside s t p.addr p.data.length ∧ t.pkg = ((s.taking .write p).sent (resp [] [])).pkg ∧
      t.ops = ((s.taking .write p).took id).ops ∧ t.fibres = s.fibres ∧ t.scr = s.scr) ∧
    (pktAtomOk p = true → Reachable s p.addr p.width true → s.anyPoison p.addr p.width = false →
      let old := (List.range p.width).map fun i => Memory.read s.mem (p.addr + i)
      let new := bytesOf p.width ((pktAtomNew p (ofBytes old)).getD (ofBytes old))
      ∀ x ∈ [(PktK.atom, Instr.packetAtom p, (s.taking .atom p).sent (resp old [])),
          (.red, .packetRed p, s.taking .red p)],
        s.inTurn x.1 p → ∃ t, exec x.2.1 s = .next t ∧ t.Holds p.addr new ∧ QuietOutside s t p.addr p.width ∧
          t.pkg = x.2.2.pkg ∧ t.ops = (x.2.2.took id).ops ∧ t.fibres = s.fibres ∧ t.scr = s.scr) ∧
    (∀ x ∈ [(PktK.read, Instr.packetRead p, p.len, false), (.write, .packetWrite p, p.data.length, true)],
      let refused := { resp [] [] with err := true }
      isMgmt p.addr = false → s.relays p = false → 4 ≤ x.2.2.1 → x.2.2.1 ≤ 128 → s.inTurn x.1 p →
      (s.refusesPkt p.addr x.2.2.1 x.2.2.2 = true → exec x.2.1 s =
        .next (((s.taking x.1 p).sent refused).took id)) ∧
      (s.refusesPkt p.addr x.2.2.1 x.2.2.2 = false → s.pktHeld p.addr x.2.2.1 = true → exec x.2.1 s =
        .next (s.taking x.1 p))) ∧
    ∀ x ∈ [(PktK.read, Instr.packetRead p), (.write, .packetWrite p), (.atom, .packetAtom p)],
      (¬ s.inTurn x.1 p → exec x.2 s = .next (s.taking x.1 p)) ∧
      (s.inTurn x.1 p → s.relays p = true → let to_ := s.packetTo s.pkg.peerwin p.addr
        exec x.2 s = .next { (s.taking x.1 p).sent
          { kind := x.1, dest := to_.1, tag := id, addr := to_.2, data := p.data, masks := p.masks, len := p.len
            op := p.op, rel := p.rel, poison := p.poison } with
          ops := KV.put id { kind := .packet x.1 p, site := Config.sites, stage := .away, port := s.portFor id }
            s.ops })

/-- R364, R365, R368: mailbox elements, credits and responses that arrive, and the replay of a flit. -/
def Sys2Proof.Part.MessageEvents : Prop :=
  ∀ s, s.up = true →
    (∀ p, Arrives s p →
      let u := s.arrived p
      let v := s.taking .mailbox p
      let box := boxOf p.ctx p.addr
      let l := KV.getD box [] s.pkg.boxes
      (s.inTurn .mailbox p → l.length < 64 →
        let m := l ++ [(p.src, pktWords p)]
        let sees (g : Gang) (q : Nat × Queue) : Nat × Queue :=
          if q.2.kind = 3 ∧ boxOf g.ctx q.2.mbox = box then (q.1, { q.2 with box := m.map Prod.snd }) else q
        let w : State := { v with
          pkg := { v.pkg with boxes := KV.put box m s.pkg.boxes }
          gangs := s.gangs.map fun g => (g.1, { g.2 with queues := g.2.queues.map (sees g.2) }) }
        exec (.packetMailbox p) s = .next (w.took s.nextId)) ∧
      (¬ s.inTurn .mailbox p ∨ 64 ≤ l.length → exec (.packetMailbox p) s = .next v) ∧
      (∀ gk G n q, s.gangs.find? (fun g => g.2.queues.any (s.credits p.ctx p.src p.addr g.2)) = some (gk, G) →
        G.queues.find? (s.credits p.ctx p.src p.addr G) = some (n, q) →
        let k := (p.ctx * 4096 + p.src) * 128 + p.addr % 128
        let one (y : Queue) : Queue := { y with unread := y.unread - 1 }
        exec (.mailboxCredit p) s = .next { u with
          pkg := { u.pkg with sent := KV.putD k 0 (KV.getD k 0 s.pkg.sent - 1) s.pkg.sent }
          gangs := KV.put gk { G with queues := KV.update n one G.queues } s.gangs }) ∧
      ∀ o, KV.find? p.tag s.ops = some o → o.stage = .away →
        let pa := o.acc.pa
        let ws := s.respWords o.site p pa o.acc.n
        (∀ f, o.kind = .wread 0 → KV.find? o.fibre s.fibres = some f →
          exec (.packetResp p) s = .next { u with
            ops := KV.del p.tag s.ops
            fibres := KV.put o.fibre { f with wbuf := (List.range ws.length).foldl (fun m i =>
              KV.put (pa / 4 + i) (ws.getD i {}) m) f.wbuf } s.fibres }) ∧
        (∀ form, o.kind = .load form → isCore o.site = false → o.flag < 16 → p.op = 0 → p.poison = [] →
          o.got = [] → 0 < o.acc.n → o.acc.n ≤ 16 → o.acc.acq = false → s.earlier p.tag o.fibre = [] →
          let x := form.value ((List.range o.acc.n).map fun i => p.data.getD (pa % 4 + i) 0)
          exec (.packetResp p) s = .next { u with
            ops := KV.put p.tag { o with stage := .performed, res := x.1, exc := x.2 } s.ops }) ∧
        (∀ bytes masks, o.kind = .store bytes masks → isCore o.site = false → o.flag < 16 → p.op = 0 →
          exec (.packetResp p) s = .next { u with
            ops := KV.put p.tag { o with stage := .performed } s.ops })) ∧
    ∀ port < 36, s.pkg.portsDown.getLsbD port = false →
      let n := KV.getD port 0 s.pkg.replays
      (n < 16 → exec (.flitReplay port) s = .next (({ s with pkg := { s.pkg with
        replays := KV.put port (n + 1) s.pkg.replays } } : State).logged (port / 9) 2 9 port 0)) ∧
      (16 ≤ n → s.ops.all (fun o => decide (o.2.stage ≠ .away) || o.2.placed || decide (o.2.port ≠ port)) = true →
        exec (.flitReplay port) s = .next { s with pkg := { s.pkg with
          portsDown := s.pkg.portsDown ||| (1#36 <<< port), replays := KV.del port s.pkg.replays } })

/-- R364 to R366, R368, R371: packets, credits and replays. (That a full mailbox takes no element,
which queue gets a credit, and when a run of replays ends are the model's readings: log entries 18, 34
and 35.) -/
def Obligations.PacketsAndMessages : Prop := Part.PacketEvents ∧ Part.MessageEvents

/-- R382, R381, R329, R294, R67, R55, R114: bring-up and the removal of power, the steps of power
control, the patrol scrub, and the failure of a die. (Bring-up as one step, the order of the give-way,
which free token is taken, the syndrome and what an error poisons, and what a failed die leaves are the
model's readings: log entries 3, 9, 28, 37 and 38.) -/
def Obligations.PowerEvents : Prop :=
  ∀ s,
    (∀ trained n, (s.pkg.powered = false ∨ (s.pkg.complete = false ∧ s.pkg.bootReason = 0)) →
      ∃ t, exec (.powerOnBringup trained n) s = .next t ∧ t.mem = [] ∧ t.scr = [] ∧ t.acc = [] ∧
        t.ctxs = [] ∧ t.pkg.powered = true ∧
        if n = 1 ∨ n = 2 then t.pkg.stage = n ∧ t.pkg.complete = false ∧ t.pkg.bootReason ≠ 0 ∧ t.fibres = []
        else t.pkg.stage = 5 ∧ t.pkg.complete = true ∧ t.pkg.bootReason = 0 ∧ t.pkg.portsDown = ~~~trained ∧
          t.pkg.pwrctl = 0x0003_0000_0000_0898 ∧ ∀ x ∈ t.fibres, isSuper x.2.site = true) ∧
    (exec .powerRemoved s = .next { State.reset with
      pkg := { powered := false }, tick := s.tick, agenda := s.agenda, runs := s.runs }) ∧
    (s.up = true →
      (∃ t, exec (.powerLimitStep false) s = .next t ∧ t.pkg.cutTokens = 0 ∧ t.pkg.cutIslands = 0 ∧
        t.pkg.cutTherm = 0 ∧ t.pkg.pwrctl = s.pkg.pwrctl ∧ t.mem = s.mem ∧ t.fibres = s.fibres) ∧
      (∃ t, exec (.powerLimitStep true) s = .next t ∧ t.pkg.pwrctl = s.pkg.pwrctl ∧ t.mem = s.mem ∧
        t.fibres = s.fibres ∧
        let p := s.pkg
        let cut (tokens islands therm : Nat) : Prop := t.pkg.cutTokens = p.cutTokens + tokens ∧
          t.pkg.cutIslands = p.cutIslands + islands ∧ t.pkg.cutTherm = p.cutTherm + therm
        let slow := if s.slowest then 0 else 1
        match p.mode with
        | 1 => if 1 < p.therm then cut 0 0 1 else cut 0 slow 0
        | 2 => if s.slowest then cut 0 0 (if 1 < p.therm then 1 else 0) else cut 0 1 0
        | _ => if 1 < p.tokens then cut 1 0 0 else cut 0 slow 0) ∧
      (∀ pa bad, isDram pa = true → 0 < bad →
        let k := pa / 2 ^ 36
        let line := pa / 128
        let logged (kind : Nat) : State :=
          { s.logged (k / 3) kind 0 k (pa / 4 * 4) (Config.syndrome s.tick) with tick := s.tick + 1 }
        (bad = 1 → exec (.patrolScrub pa bad) s = .next (logged 0)) ∧
        (2 ≤ bad → ∃ mpoison, exec (.patrolScrub pa bad) s =
            .next { logged 1 with dpoison := KV.put (pa / 64) () s.dpoison, mpoison := mpoison } ∧
          ((s.dir line).inL2 = true → mpoison = s.mpoison) ∧
          ((s.dir line).inL2 = false → KV.find? line s.sram = none →
            ∀ i < 16, KV.has (pa / 64 * 16 + i) mpoison = true))) ∧
      ∀ n < 4, (s.die n).failed = false → ∃ t, exec (.dieFailure n) s = .next t ∧
        (t.die n).failed = true ∧ (t.die n).cmd = none ∧
        (∀ x ∈ t.l1, dieOf (x.1 / 2 ^ 50) ≠ n) ∧
        (∀ x ∈ t.dirs, inL2 x.1 = true → homeDie (x.1 * 128) ≠ n)) ∧
    (∀ i v, KV.find? i s.pkg.vfNext = some v → exec (.vfChangeStable i) s = .next { s with
      pkg := { s.pkg with vf := KV.put i v s.pkg.vf, vfNext := KV.del i s.pkg.vfNext }
      gangs := s.gangs.map fun g => if islandOf g.2.core = i then (g.1, { g.2 with started := true }) else g }) ∧
    (∀ k n, k < 12 → 0 < n → n ≤ s.pkg.therm → ∃ t, exec (.thermalLimitChange k n) s = .next t ∧
      t.stks = KV.put k { s.stack k with therm := n } s.stks ∧ t.mem = s.mem ∧ t.fibres = s.fibres) ∧
    (∀ n c, let d := s.die n
      let toks := d.toks.filter fun x => decide (x.cluster ≠ c)
      d.tokenDue c = true → s.pkg.tokens = toks.length + d.free.length + 1 →
      exec (.powerTokenRelease n c) s = .next { s with dies := KV.put n (match d.nextWaiting c with
        | some w => { d with toks := toks ++ [{ cluster := w }], tokWait := d.tokWait.filter (· ≠ w) }
        | none => { d with toks := toks, free := d.free ++ [c] }) s.dies })

/-! ### Events: lines, engines, bags, banks -/

/-- R39: what the request of a site has left in a line's entry `d`, now `d'`: its run of one cluster, and
the move that 16 of them make due. -/
def Sys2Proof.Counted (d d' : Dir) (site : Nat) : Prop :=
  let cl := clusterAt d.holder site
  let n := if cl = d.lastCluster then d.run + 1 else 1
  d'.run = n ∧ d'.lastCluster = cl ∧
    d'.due = if 16 ≤ n ∧ cl < 12 ∧ d.slice / 2 ≠ cl then some cl else d.due

/-- R100, R101, R106, R39: a load and a store that the directory performs, on a line that no core has
written: the next words of the access, `k` of them at most, or all that are left. A store under OWN makes
its core the owner of the words it writes. -/
def Sys2Proof.Part.DirectoryEvents : Prop :=
  ∀ s id o n, s.Inv → KV.find? id s.ops = some o → o.stage = .pending → o.flag < 16 → s.via o = .dir →
    s.mayTake id o = true → s.lineBusy o = false → 0 < n → o.acc.n = n → o.acc.pa % 128 + n ≤ 128 →
    (o.acc.pa % 4 + n ≤ 4 ∨ o.acc.pa % 4 = 0) → o.got = [] →
    let pa := o.acc.pa
    let line := pa / 128
    let own : Bool := decide (s.effPol o.site pa o.acc.pol = 1) && !o.acc.noal
    let k := Config.wordsNow s.tick % 4 + 1
    let m := min (4 * k) n
    s.QuietLine line →
    (∀ form, o.kind = .load form → (∀ j, 0 < j → s.via (o.next j) = .dir) → o.acc.acq = false →
      s.earlier id o.fibre = [] → s.anyPoison pa n = false → (own = true → s.inL1 o.site line = false) →
      let byte (i : Nat) : Byte := Memory.read s.mem (pa + i)
      let v := form.value ((List.range n).map byte)
      let word (j : Nat) : PW :=
        { v := wordOfBytes (byte (4 * j)) (byte (4 * j + 1)) (byte (4 * j + 2)) (byte (4 * j + 3)) }
      ∃ t, exec (.dirLoadRequest id line) s = .next t ∧ Undisturbed s t ∧ t.fibres = s.fibres ∧
        Counted (s.dir line) (t.dir line) o.site ∧
        t.ops = KV.put id (if m = n then { o with stage := .performed, res := v.1, exc := v.2 }
          else { o with got := (List.range k).map fun j => (pa / 4 + j, word j) }) s.ops) ∧
    (∀ bytes, o.kind = .store bytes [] → bytes.length = n →
      ∃ t, exec (.dirStoreRequest id line) s = .next t ∧ t.fibres = s.fibres ∧
        Counted (s.dir line) (t.dir line) o.site ∧
        t.ops = KV.put id (if m = n then { o with stage := .performed } else { o with
          kind := .store (bytes.drop (4 * k)) [], acc := { o.acc with pa := pa + 4 * k, n := n - 4 * k } })
          s.ops ∧
        if own then Undisturbed s t ∧ ∀ w ∈ wordsAt pa m, (t.dir line).wst w = .o (o.site % 48)
        else t.Holds pa (bytes.take m) ∧ ∀ a, a < pa ∨ pa + m ≤ a → s.QuietLine (a / 128) →
          Memory.read t.mem a = Memory.read s.mem a)

/-- R37, R96, R39, R40, R110, R111, R42: lines and words that leave an L1, lines that move between slices
and dies, and what goes home for their entries, and the retry of a tile fetch. -/
def Sys2Proof.Part.LineEvents : Prop :=
  ∀ s, s.Inv →
    (∀ core line, core < 192 → s.inL1 core line = true →
      let d := s.dir line
      (s.QuietLine line → exec (.l1Evict core line) s = .next { s with
        l1 := allWords.foldl (fun m w => KV.del (l1key core (line * 128 + 4 * w)) m) s.l1
        dirs := if dieOf core = d.holder then
          KV.put line { d with sharers := d.sharers &&& ~~~(1#48 <<< (core % 48)) } s.dirs else s.dirs }) ∧
      (dieOf core = d.holder → d.pmasks = [] → inL2 line = true →
        ∃ t, exec (.l1Evict core line) s = .next t ∧ t.fibres = s.fibres ∧
          ∀ w x i, w < 32 → d.wst w = .o (core % 48) → s.l1? core (line * 128 + 4 * w) = some x → i < 4 →
            x.mask.getLsbD i = true →
            Memory.read t.mem (line * 128 + 4 * w + i) = x.v.extractLsb' (8 * i) 8)) ∧
    (∀ core word x, core < 192 → s.l1? core (4 * word) = some x → (x.st = .untracked ∨ x.st = .tracked) →
      exec (.l1DropWithoutTelling core word) s = .next { s with l1 := KV.del (l1key core (4 * word)) s.l1 }) ∧
    (∀ line, let d := s.dir line
      (∀ c, let slice := 2 * c + line % 2
        d.due = some c → d.inL2 = true → s.mayMove line d.holder slice = true →
        let alone := slice = line % 24 ∨ d.slice ≠ line % 24 ∨ s.fwdVictim line = none
        ∃ t, exec (.l2LineMigrate line) s = .next t ∧ t.fibres = s.fibres ∧ t.ops = s.ops ∧ Undisturbed s t ∧
          (alone → (t.dir line).slice = slice ∧ (t.dir line).due = none ∧ (t.dir line).holder = d.holder) ∧
          (∀ v, ¬ alone → s.fwdVictim line = some v → s.mayMove v d.holder (v % 24) = true →
            (t.dir v).slice = v % 24)) ∧
      (∀ die, let home := homeDie (line * 128)
        d.dueDie = some die → die ≠ d.holder → (s.die die).failed = false →
        s.mayMove line die (line % 24) = true →
        let alone := die = home ∨ d.holder ≠ home ∨ s.hentVictim line = none
        ∃ t, exec (.lineDieMigrate line) s = .next t ∧ t.fibres = s.fibres ∧ t.ops = s.ops ∧ Undisturbed s t ∧
          (alone → (t.dir line).holder = die ∧ (t.dir line).slice = line % 24) ∧
          (∀ v, ¬ alone → s.hentVictim line = some v →
            s.mayMove v (homeDie (v * 128)) (v % 24) = true → (t.dir v).holder = homeDie (v * 128)))) ∧
    (∀ id o e tile, let clk := (s.site o.site).clk.toNat
      KV.find? id s.ops = some o → o.kind = .eight e tile → o.stage = .pending → o.arr + 512 ≤ clk →
      ∃ t, exec (.tileFetchRetry id) s = .next t ∧ Undisturbed s t ∧ t.fibres = s.fibres ∧
        t.ops = KV.put id { o with arr := clk } s.ops ∧
        (t.crews = match (s.fibre o.fibre).slot with
          | some n => KV.update (ckey o.site n) (fun c => if c.stall = 10 then { c with stall := 9 } else c) s.crews
          | none => s.crews) ∧
        (∀ n, id ∈ (t.dir n).pins → n ∈ e.lines) ∧
        (∀ n i, i ≠ id → (i ∈ (t.dir n).pins ↔ i ∈ (s.dir n).pins)) ∧
        ((∀ n ∈ e.lines, (s.dir n).inL2 = true) →
          (s.dirs.filter fun x => decide (x.2.pins ≠ [])).length + e.lines.length < 12 →
          ∀ n ∈ e.lines, id ∈ (t.dir n).pins))

/-- R37, R39, R42, R96, R100, R101, R111: directory and line events. (That the event names the line
that leaves, the leaf of a retry, and that the words of an access go in ascending order, are the model's: log
entries 16, 28 and 58.) -/
def Obligations.DirectoryAndLines : Prop := Part.DirectoryEvents ∧ Part.LineEvents

/-- R181, R48, R49: the completion of an operation whose results are known, and a beat of a copy
between two places of a gang's scratchpad. -/
def Sys2Proof.Part.EngineEvents : Prop :=
  ∀ s id o, s.Inv → KV.find? id s.ops = some o → s.hasChild id = false →
    (∀ f, o.kind = .value false 0 → o.stage = .performed → o.flag < 16 → o.dst < 96 → o.note = none →
      o.after = [] → o.joint = [] → o.acc.poll = false → s.landed id = true →
      KV.find? o.fibre s.fibres = some f →
      let y := f.deliver id o.dst o.res
      exec (.flagComplete id) s = .next { s with
        ops := KV.del id s.ops
        fibres := KV.put o.fibre (y.setFlag o.flag { f.flag o.flag with st := .done, note := none, p7 := o.p7 })
          s.fibres }) ∧
    ∀ gk ch c rest a b len done, let g := s.gang gk
      KV.find? gk s.gangs = some g → KV.find? ch g.chans = some c → c.copies = id :: rest → c.st = .running →
      c.held = false → o.kind = .copy (.scr a) (.scr b) len done ch none → o.stage = .pending →
      s.issues o.site g = true → s.engineMay id o.fibre [(true, g.scrKey (b + done), 128)] = true →
      done + 128 < len → g.scrKey (b + done) + 128 ≤ scrTop →
      let one (x : Chan) : Chan := { x with count := (x.count + 128) % 2 ^ 56 }
      ∃ t, exec (.copyBeat gk ch) s = .next t ∧ t.mem = s.mem ∧ t.fibres = s.fibres ∧
        t.ops = KV.put id { o with kind := .copy (.scr a) (.scr b) len (done + 128) ch none, got := [] } s.ops ∧
        t.gangs = KV.put gk { g with chans := KV.put ch (one c) g.chans } s.gangs ∧
        (∀ i < 128, Memory.read t.scr (g.scrKey (b + done) + i) = Memory.read s.scr (g.scrKey (a + done + i))) ∧
        ∀ k, k < g.scrKey (b + done) ∨ g.scrKey (b + done) + 128 ≤ k →
          Memory.read t.scr k = Memory.read s.scr k

/-- R82, R85, R79, R88, R89, R86: what the placer does with a request whose turn it is, on an open bag
of the fibre's context, and what a share's controller does with a record placed there. -/
def Obligations.BagEvents : Prop :=
  ∀ s, s.Inv →
    (∀ id o h, KV.find? id s.ops = some o → s.bagTurn id o = true → s.staleBag o h = none →
      let k := bagKey h
      let b := s.bag k
      let done (x : Bag) (o : Op) (st : Stage := .performed) : State :=
        { s with bags := KV.put k x s.bags, ops := KV.put id { o with stage := st } s.ops }
      (∀ l rec_ i seen, o.kind = .put h false [l] → l.records = [rec_] → o.joint = [] → b.isSealed = false →
        (∀ ns, b.place ns l.key = some i) →
        exec (.placerPut id seen) s = .next { done { b with
          f := KV.put i (next48 (b.fill i)) b.f, count := b.count + 1
          fifo := (KV.put i (KV.getD i [] b.fifo ++ [.write (b.fill i) rec_ id l.fibre (s.shareClk b i)])
            b.fifo)
          mirror := b.mirror ++ [(b.count + 1, id)] } o .away with
            fibres := KV.update o.fibre (fun f => { f with fence := f.fence.filter (· ≠ id) }) s.fibres }) ∧
      (∀ n scr, o.kind = .drain h n none scr none [] →
        let x := b.takeRecords (s.shareClk b) id n
        exec (.placerDrain id) s = .next (done
          (if x.2 = [] then x.1 else { x.1 with mirror := x.1.mirror ++ [(x.1.count, 0)] })
          { o with kind := .drain h n none scr (some x.2) (x.2.map fun _ => [])
                   res := [{ v := BitVec.ofNat 32 x.2.length }] })) ∧
      (o.kind = .bcount h → exec (.placerBcount id) s = .next { s with
        ops := KV.put id { o with stage := .performed, res := words2 (BitVec.ofNat 64 b.count) } s.ops }) ∧
      (o.kind = .bseal h → exec (.placerBseal id) s = .next (done { b with isSealed := true } o)) ∧
      (o.kind = .bfree h → b.fifo = [] → b.mirror = [] → s.countWaits b = false → id < s.nextId → o.flag < 16 →
        s.ops.all (fun p => decide (p.1 = id ∨ p.2.stage ≠ .away)) = true →
        (∀ a ∈ b.blocks, ∀ i < 2 ^ 21, s.QuietLine ((a + i) / 128)) →
        ∃ t, exec (.placerBfree id) s = .next t ∧
          t.bags = KV.put k { gen := (b.gen + 1) % 1024 } s.bags ∧
          KV.find? id t.ops = some { o with stage := .performed } ∧
          (∀ a ∈ b.blocks, ∀ i < 2 ^ 21, Memory.read t.mem (a + i) = 0) ∧
          (b.cntBank = false → b.cnt % 8 = 0 → DevFree s b.cnt 8 →
            (t.coh b.cnt).v = 0 ∧ (t.coh (b.cnt + 4)).v = 0))) ∧
    ∀ k i n rec_ op fibre arr rest, let b := s.bag k
      let p := b.sfirst + i
      let key := b.recKey i n
      let x := { b with fifo := KV.put i rest b.fifo, cf := KV.put i (next48 n) b.cf }
      b.isOpen = true → b.closing = false → KV.find? i b.fifo = some (.write n rec_ op fibre arr :: rest) → b.mirror = [] →
      p < 384 → s.normalCmds p = [⟨.item k i, bankOf key, arr⟩] → s.computeCmds p = [] →
      (s.pch p).owed = none → (s.pch p).busy.all (fun y => decide (y.1 ≠ bankOf key)) = true →
      s.isLost key = false → key + rec_.bytes.length ≤ 2 ^ 52 →
      (∀ o, KV.find? op s.ops = some o → o.flag < 16) →
      ∃ t, exec (.shareRecordWrite k i) s = .next t ∧ t.Holds key rec_.bytes ∧
        SameOutside s t key rec_.bytes.length ∧ t.fibres = s.fibres ∧ t.bags = KV.put k x s.bags ∧
        (t.pch p).clk = (s.pch p).clk + 1 ∧
        (KV.find? op s.ops = none → t.ops = s.ops) ∧
        (∀ o h multi lanes, KV.find? op s.ops = some o → o.kind = .put h multi lanes → o.stage = .away →
          t.ops = if ({ s with bags := KV.put k x s.bags } : State).landed op then
            KV.put op { o with stage := .performed } s.ops else s.ops)

/-- R65, R68: a clk of a pseudo-channel's controller with no command, or with one normal store to an
idle bank; and the next wave of a WAVE. -/
def Sys2Proof.Part.BankEvents : Prop :=
  ∀ s, s.Inv →
    (∀ p choice, p < 384 → s.computeCmds p = [] →
      let x := s.pch p
      (s.normalCmds p = [] → exec (.bankCommandStart p choice) s = .next { s with
        pchs := KV.put p { x with clk := x.clk + 1 } s.pchs }) ∧
      (∀ id o bytes arr, KV.find? id s.ops = some o → s.normalCmds p = [⟨.op id, bankOf o.acc.pa, arr⟩] →
        o.kind = .store bytes [] → bytes.length ≤ 16 → s.via o = .bank → o.flag < 16 → x.owed = none →
        x.busy.all (fun b => decide (b.1 ≠ bankOf o.acc.pa)) = true → o.acc.pa + bytes.length ≤ 2 ^ 52 →
        ∃ t, exec (.bankCommandStart p choice) s = .next t ∧ t.Holds o.acc.pa bytes ∧
          SameOutside s t o.acc.pa bytes.length ∧ t.fibres = s.fibres ∧
          t.ops = KV.put id { o with stage := .performed } s.ops ∧
          (t.pch p).clk = x.clk + 1 ∧ (bankOf o.acc.pa, x.clk + 2, false) ∈ (t.pch p).busy)) ∧
    ∀ id o code x y sx sy v left parts st, KV.find? id s.ops = some o → o.stage = .pending →
      o.kind = .wave code x y sx sy v left [] st parts →
      (List.range 16).all (fun b => left.contains b || !(s.pch (scullerOf x)).busyWith b true) = true →
      let n := (s.stack (scullerOf x / 32)).abcur
      exec (.waveNextWave id) s = .next { s with ops := KV.put id { o with
        kind := .wave code x y sx sy v (left.drop n) (left.take n) 0 parts } s.ops }

/-- R48, R49, R65, R68, R181: engine and bank events. (That a normal command holds its bank for 1 clk is the
model's reading: log entry 22.) -/
def Obligations.EngineAndBank : Prop := Part.EngineEvents ∧ Part.BankEvents

/-! ### Events: the former, waits, launches, the scheduler -/

/-- R151, R153, R155, R63, R64, R164: a crew of the one fibre of a boathouse, the eviction of a crew of
one fibre, a fibre that ships and arrives, and a clk of a site. (The turns that a clk puts on the
agenda are the model's form: log entries 4 and 26.) -/
def Obligations.FormerEvents : Prop :=
  ∀ s, s.Inv →
    (∀ site k f n, s.freeSlot site = some n → s.joinable site = [] → s.boathouse site = [(k, f)] →
      s.crewsOf site = [] → k = fkey f.gang f.fid → f.fid < 1024 → KV.find? k s.fibres = some f →
      f.walking = false →
      exec (.crewForm site) s = .next (if 2 ≤ (s.site site).formed then s else { s with
        crews := KV.put (ckey site n) { gang := f.gang, fids := [f.fid], alone := f.stepping } s.crews
        sites := (KV.put site { s.site site with
          formed := (s.site site).formed + 1, waits := KV.del k (s.site site).waits } s.sites)
        fibres := KV.put k { f with slot := some n } s.fibres })) ∧
    (∀ site n cr f, let rn := (s.runnable site).length
      let k := fkey cr.gang f.fid
      s.freeSlot site = none → (s.boathouse site).any (fun x => x.2.overdue rn) = true →
      (s.crewsOf site).any (fun c => c.2.evict) = false →
      (s.crewsOf site).filter (fun c => !s.crewHeld c.2 && !c.2.fromJoin &&
        !(c.2.fids.map fun i => s.fibre (fkey c.2.gang i)).any fun y => y.overdue rn || y.walking) = [(n, cr)] →
      cr.fids = [f.fid] → KV.find? k s.fibres = some f → f.site = site → f.slot = some n →
      KV.find? (ckey site n) s.crews = some cr →
      (cr.hints = none → f.flags = [] → exec (.crewEvict site) s = .next { s with
        crews := KV.del (ckey site n) s.crews
        fibres := KV.put k { f with slot := none, wbuf := [] } s.fibres
        ops := s.ops.filter fun o => !(decide (o.2.fibre = k) && decide (o.2.kind = .wread 0)) }) ∧
      -- R155, R179: it completes its hint group, and waits for the flags of its members
      (cr.hints.isSome = true ∨ (List.range 16).any f.holds = true → exec (.crewEvict site) s = .next { s with
        crews := (KV.put (ckey site n)
          { cr with evict := true, stall := if (List.range 16).any f.holds then 6 else 0 } s.crews) })) ∧
    (∀ k f dest, KV.find? k s.fibres = some f → f.ship = some ⟨dest, none⟩ → s.settled k = true →
      f.halt = none → f.park = none → f.flags = [] → s.issues f.site (s.gang f.gang) = true →
      (isSculler dest = true → (s.site dest).arrivals.length < 64 →
        exec (.siteShip k) s = .next { ((Run.start s).acquire f.site).s with
          nextId := s.nextId + 1
          sites := KV.put dest { s.site dest with arrivals := (s.site dest).arrivals ++ [k] } s.sites
          fibres := (KV.put k { f with
            ship := some ⟨dest, some s.nextId⟩
            snap := some ⟨f.win, f.pc, f.preds, f.age, f.fpf, f.count, f.pend⟩ } s.fibres) }) ∧
      (isSculler dest = false → ∃ sites, exec (.siteShip k) s = .next { ((Run.start s).acquire dest).s with
        sites := sites
        fibres := (KV.put k { f with
          site := dest, ship := none, snap := none
          iter := if isSculler f.site then none else f.iter } s.fibres) })) ∧
    (∀ n k rest f slot fresh, let site := 192 + n
      let x := s.site site
      let base := site * 2 ^ 20 + slot * 16384
      n < 384 → x.arrivals = k :: rest → KV.find? k s.fibres = some f → x.localSlot f.gang = some (slot, fresh) →
      f.halt = none → (s.gang f.gang).window ≤ 2048 → s.fibres.all (fun y => decide (y.2.site ≠ site)) = true →
      ∃ t, exec (.scullerArrival n) s = .next t ∧ t.mem = s.mem ∧
        t.fibres = KV.put k { f with site := site, ship := none } s.fibres ∧
        t.sites = KV.put site { x with
          arrivals := rest, lslots := if fresh then x.lslots ++ [(slot, f.gang)] else x.lslots } s.sites ∧
        (fresh = true → ∀ i < 16384, Memory.read t.scr (base + i) = 0) ∧ (fresh = false → t.scr = s.scr)) ∧
    ∀ site < 580, s.pkg.powered = true → (s.die (dieOf site)).failed = false →
      ∃ t turns, exec (.coreClkIssueSlots site) s = .next t ∧ (t.site site).clk = (s.site site).clk + 1 ∧
        (t.site site).budget = issueOf site ∧ t.mem = s.mem ∧
        ((∀ x ∈ s.fibres, x.2.region = none) → t.scr = s.scr) ∧ t.agenda = turns ++ s.agenda ∧ (∀ x ∈ turns, ∃ n wait cold, x = .issue site n wait cold) ∧
        (∀ c ∈ t.crewsOf site, t.issues site (t.gang c.2.gang) = true →
          ∃ wait cold, Turn.issue site c.1 wait cold ∈ turns) ∧
        (s.boathouse site = [] → (s.crewsOf site).any (fun c => c.2.evict) = false →
          t.crews = s.crews ∧ t.ops = s.ops ∧ t.gangs = s.gangs)

/-- R296, R298: a body word of a walk has the effect that it has outside of one, and its result is
readable at once; the fibre then stands at the walk's next step. -/
def Obligations.WalkBody : Prop :=
  ∀ s c cr f g d a b word,
    ∀ w ∈ [(Instr.add, fun (a b : Word) => BitVec.ofNat 32 (a.toNat + b.toNat)),
        (Instr.min, fun a b => if a.toInt ≤ b.toInt then a else b),
        (Instr.max, fun a b => if a.toInt ≤ b.toInt then b else a),
        (Instr.minu, fun a b => if a.toNat ≤ b.toNat then a else b),
        (Instr.maxu, fun a b => if a.toNat ≤ b.toNat then b else a),
        (Instr.and, fun a b => a &&& b), (Instr.or, fun a b => a ||| b)],
      Stands { s with cur := some c } c cr f g [src a, src b, dst d] → cr.hints = none → f.walking = true →
      f.walk.words[f.walk.pos]? = some word → decode word = .ok (w.1 g d a b) →
      let h := noHints f.pc
      let G := s.gang cr.gang
      let y := { f.passed h true with pc := f.pc }.gets d (w.2 (val G (f.now h) a) (val G (f.now h) b))
      let z := y.mature fun x => match x.when_ with | .count _ => true | .flag _ => false
      exec (.walkBodyWordIssue c.site c.slot) s = .next { s with
        cur := some { site := c.site, slot := c.slot, body := true }
        fibres := KV.put (fkey cr.gang f.fid) z.stepWalk s.fibres
        crews := KV.put (ckey c.site c.slot) { cr with stall := 0 } s.crews
        sites := KV.put c.site ((s.site c.site).spent c.site 1) s.sites }

/-- R253, R255, R308, R207: a line region that times out or is taken, a WAITV that loads again, and a
SLEEP whose time has passed. (That an abort discards the accesses to the line still in flight is the
model's reading: log entry 10.) -/
def Obligations.WaitEvents : Prop :=
  ∀ s k f, s.Inv → KV.find? k s.fibres = some f → f.stepping = false →
    (∀ g, f.region = some g → g.held = true → g.ending = false → f.slot = none → s.regionOps k g.line = [] →
      4096 ≤ s.sliceClk g.line - g.born → ∃ t, exec (.lineRegionTimeout k) s = .next t ∧
        t.mem = s.mem ∧ t.dirs = KV.update g.line (fun d => { d with held := none }) s.dirs ∧
        t.fibres = KV.put k { f.writeNow g.reg { v := 1 } with
          region := none, pc := g.ret, fence := [], flags := KV.del 15 f.flags
          pend := f.pend.filter fun e => decide (e.when_ ≠ .flag 15) && decide (e.reg ≠ g.reg) } s.fibres) ∧
    (∀ g, f.region = some g → g.held = false → g.ending = false → g.dup = false → s.canHold k g.line = true → s.QuietLine g.line → g.reg < 96 →
      ∃ t, exec (.lineRegionHeld k) s = .next t ∧ Undisturbed s t ∧ (t.dir g.line).held = some k ∧
        t.fibres = KV.put k { (f.writeNow g.reg {}).setFlag 15 { st := .done } with
          region := some { g with held := true, born := s.sliceClk g.line } } s.fibres) ∧
    (∀ p cc v skip again gph next x, f.wait = some ⟨.waitv p cc v false skip again gph, next⟩ → f.halt = none →
      f.park = none → (s.site f.site).preds = [] → s.issues f.site (s.gang f.gang) = true →
      s.check f.site (s.gang f.gang).ctx p 4 4 waitvNeed = .ok x → x.bank = false →
      let o := waitvLoad k f.site p x false
      s.via o = .dir → s.mayTake s.nextId o = true → s.lineBusy o = false → s.earlier s.nextId k = [] →
      s.QuietLine (x.key / 128) → x.key % 4 = 0 → (s.home x.key).p = false →
      ∃ t, exec (.waitvReload k) s = .next t ∧ Undisturbed s t ∧ t.ops = s.ops ∧
        t.fibres = KV.put k (if Machine.cond cc (s.home x.key).v v then { f with wait := none, pc := next, age := 0 }
          else { f with wait := some ⟨.waitv p cc v false skip true gph, next⟩ }) s.fibres) ∧
    (∀ next, f.wait = some ⟨.sleep 0, next⟩ → f.halt = none → exec (.sleepExpire k) s =
      .next { s with fibres := KV.put k { f with wait := none, pc := next, age := 0 } s.fibres })

/-- R325, R326, R327, R167, R168, R128: the dispatcher takes a record, places a group of gangs, and
ends a gang. (Serial numbers are the model's own: log entry 5; the ranges that a gang gets: log entry
24.) -/
def Obligations.LaunchEvents : Prop :=
  ∀ s, s.Inv →
    (∀ q, let w := s.wq q
      let ctx := w.ctx
      let dies : BitVec 4 := w.cfg.extractLsb' 56 4
      let p := ptrAdd 0 (w.base + BitVec.ofNat 64 (w.head.toNat % 2 ^ w.logn * 64)).toNat
      let take := ({ s with sites := [] } : State).takeRecord 0 ctx [] (if dies = 0 then (s.ctx ctx).dies else dies)
        none p
      q < 65536 → w.ready = true → (s.ctx ctx).live = true → (s.ctx ctx).st = .running →
      s.turnQueue ctx = some q → (w.tail - w.head).toNat ≤ 2 ^ w.logn →
      s.ops.all (fun o => decide (o.2.kind ≠ .take q)) = true →
      (∀ n, take = .status n → ∃ u, Reads s u ∧ exec (.wqTakeRecord q) s = .next { u with
        ctxs := KV.update ctx (fun c => { c with turn := q + 1 }) s.ctxs
        wqs := KV.put q { w with
          err := BitVec.ofNat 64 (n * 2 ^ 56 + w.head.toNat), cfg := w.cfg &&& ~~~(1#64 <<< 63) } s.wqs }) ∧
      (∀ l, take = .ok l →
        let k := s.nextId
        let launches := KV.put k { l with
          bars := (List.range 2).map fun n => (n, { expected := l.gangs * l.nfib }) } s.launches
        let before (x : Nat) : Bool := decide (l.prio ≤ (KV.getD x {} launches).prio)
        ∃ u, Reads s u ∧ exec (.wqTakeRecord q) s = .next { u with
          nextId := k + 1
          launches := launches
          wqs := KV.put q { w with head := w.head + 1 } s.wqs
          ctxs := KV.update ctx (fun c => { c with
            turn := q + 1
            pending := c.pending.takeWhile before ++ k :: c.pending.dropWhile before }) s.ctxs })) ∧
    (∀ ctx lk rest cores, let l := s.launch lk
      (s.ctx ctx).live = true → (s.ctx ctx).st = .running → (s.ctx ctx).pending = lk :: rest →
      KV.has lk s.launches = true → l.cor = false → l.nfib ≤ 1024 → s.placeGroups l l.placed 1 = some [cores] →
      ∃ t, exec (.gangPlace ctx) s = .next t ∧ t.mem = s.mem ∧ t.ops = s.ops ∧
        (t.launch lk).placed = l.placed + cores.length ∧
        (l.gangs ≤ l.placed + cores.length → (t.ctx ctx).pending = rest.filter (· ≠ lk)) ∧
        ∀ i < cores.length, ∃ g, KV.find? (s.nextId + 1 + i) t.gangs = some g ∧ g.core = cores.getD i 0 ∧
          g.launch = lk ∧ g.group = s.nextId ∧ g.rank = i ∧ g.number = l.placed + i ∧ g.nfib = l.nfib ∧
          g.window = l.window ∧ g.tiles = l.acc ∧ g.consts = l.consts ∧
          ∀ n < l.nfib, KV.find? (fkey (s.nextId + 1 + i) n) t.fibres = some
            { gang := s.nextId + 1 + i, fid := n, site := cores.getD i 0, pc := l.entry,
              wbase := g.rbase + n / 32 * l.window }) ∧
    ∀ gk g, let l := s.launch g.launch
      KV.find? gk s.gangs = some g → g.nfib ≤ g.exited → s.gangFibres gk = [] →
      s.ops.all (fun o => decide (o.2.fibre / 1024 ≠ gk)) = true → (s.lastWord g).any s.cellHeld = false →
      -- R329: gangs that waited for an island's point may start
      let started (l : List (Nat × Gang)) := l.map fun x => (x.1, { x.2 with started := true })
      ∃ t, exec (.gangEnd gk) s = .next t ∧ started t.gangs = started (KV.del gk s.gangs) ∧
        (s.pkg.vfNext = [] → t.gangs = KV.del gk s.gangs) ∧ t.fibres = s.fibres ∧ t.scr = s.scr ∧
        (l.ended + 1 < l.gangs → t.mem = s.mem ∧
          t.launches = KV.update g.launch (fun l => { l with ended := l.ended + 1 }) s.launches) ∧
        (l.gangs ≤ l.ended + 1 → t.launches = KV.del g.launch s.launches ∧
          (l.compl = none → t.mem = s.mem) ∧
          ∀ pa, l.compl = some (pa, false) → pa % 4 = 0 → InDram pa 4 → s.isLost pa = false →
            (t.coh pa).v = 1)

/-- R330, R331, R332, R339, R341, R345: the next entry reserves its dies, or is served where its context stands
on them; a slice is renewed, or ends: a context with nothing in flight is saved, with its one fibre's
registers in their image and its save status, and leaves its dies. -/
def Sys2Proof.Part.RingSteps (s : State) : Prop :=
  (let n := s.ringSize
    let m (i : Nat) : Nat := s.ringEntry i
    let order := (List.range n).map fun k => (s.pkg.ringptr + k) % n
    let ready (i : Nat) : Bool := s.entryReady i (m i)
    let bad (l : List Nat) : Nat := (l.filter fun j => entV (m j) && s.ringBad (m j)).length
    let counted (l : List Nat) : State :=
      { s with pkg := { s.pkg with schederr := s.pkg.schederr + BitVec.ofNat 32 (bad l) } }
    s.pkg.complete = true → s.pkg.reserved = none →
    (order.find? ready = none → exec .schedStep s = .next (counted order)) ∧
    ∀ i, order.find? ready = some i → let u := counted (order.takeWhile (· ≠ i))
      exec .schedStep s = .next (if s.inPlace i (m i) then { u with
          ctxs := KV.update i (fun x => { x with
            limit := max 12 (bitsOf (m i) 32 16), slice := bitsOf (m i) 16 16 }) s.ctxs
          pkg := { u.pkg with ringptr := (i + 1) % n } }
        else { u with pkg := { u.pkg with ringptr := i, reserved := some (i, m i) } })) ∧
  ∀ c, let x := s.ctx c
    KV.find? c s.ctxs = some x → x.live = true → x.slice ≠ 0 →
    (x.st ≠ .stopping → s.wanted c = false → exec (.sliceEnd c) s = .next s) ∧
    ((x.st = .quiesced ∨ (x.st = .running ∧ s.midGroup c = false)) → s.wanted c = true → s.ctxOps c = [] →
      (s.ctxFibres c).all (fun f => !f.2.away && f.2.region.isNone) = true →
      ∃ t, exec (.sliceEnd c) s = .next t ∧
        t.ctx c = { x with st := .saved, live := false, seq := (x.seq + 1) % 2 ^ 32 } ∧
        t.ctxGangs c = [] ∧ t.ctxFibres c = [] ∧
        (let status : Prop := (t.coh x.blk).v = BitVec.ofNat 32 ((x.seq + 1) % 2 ^ 32) ∧
            (t.coh (x.blk + 4)).v = 0x8000_0000
          let area (n : Nat) : Nat := coreArea (s.block x.blk) n
          DevFree s x.blk 8 → x.blk % 64 = 0 →
          (∀ n ∈ s.savers c, DevFree s (area n) (2 ^ 21) ∧
            (x.blk + 8 ≤ area n ∨ area n + 2 ^ 21 ≤ x.blk)) →
          (s.ctxGangs c = [] → status) ∧
          ∀ gk G k f, s.ctxGangs c = [(gk, G)] → s.ctxFibres c = [(k, f)] → G.slot < 16 →
            f.wbase + G.window ≤ 2048 → G.sbase + G.ssize ≤ 786432 → G.tiles ≤ 16 → f.pend.length ≤ 1000 →
            status ∧ ∀ i < G.window, (t.coh (area G.core + winOff f + 4 * i)).v = (KV.getD i {} f.win).v))

/-- R331, R341, R346 to R349: the entry that has reserved its dies starts from its block alone, or comes back
from its save area, each fibre with the PC, predicates and registers that stand there; one whose area does not
check is not restored, and its block says so. -/
def Sys2Proof.Part.Restores (s : State) : Prop :=
  ∀ c ok m, let blk := entBlk m
    let b := s.block blk
    let areas := s.areas b
    let y : Ctx := { s.ctx c with
      blk := blk, dies := entDies m, limit := max 12 (bitsOf m 32 16), slice := bitsOf m 16 16
      bndtbl := b.bndtbl, pgroot := b.pgroot, defctl := b.ctl, defvec := b.vec, defroute := b.route
      st := .running, live := true, seq := b.seq }
    let record (x : Nat × Saved) (i : Nat) : Nat := s.peekNat (x.1 * 2 ^ 21 + 0x14_2000 + 64 * i) 64
    let broken : Prop := (b.st = 2 ∧ (b.seq = 0 ∨ areas = [])) ∨ ∃ x ∈ areas, s.checks x = false ∨
      ∃ i < x.2.fibres.length, recordBad (record x i) = true
    s.pkg.reserved = some (c, m) → (s.ctx c).live = false → s.entryReady c m = true →
    s.diesFree c (entDies m) = true → DevFree s blk 8 →
    let next : Pkg := { s.pkg with reserved := none, ringptr := (c + 1) % s.ringSize }
    (b.fresh = true → ∃ t, exec (.contextRestore c ok) s = .next t ∧ t.fibres = s.fibres ∧ t.gangs = s.gangs ∧
      t.pkg = next ∧ t.ctx c = y ∧ (t.coh blk).v = 0 ∧ (t.coh (blk + 4)).v = 0) ∧
    (b.fresh = false → broken → ∃ t, exec (.contextRestore c ok) s = .next t ∧ t.fibres = s.fibres ∧
      t.gangs = s.gangs ∧ t.pkg = next ∧ (t.ctx c).live = false ∧
      (t.coh blk).v = BitVec.ofNat 32 b.seq ∧
      (t.coh (blk + 4)).v = BitVec.ofNat 32 (b.st * 2 ^ 30 + 2 ^ 29)) ∧
    (b.fresh = false → ¬ broken → ∃ t, exec (.contextRestore c ok) s = .next t ∧ t.ctx c = y ∧
      t.pkg.reserved = none ∧ t.pkg.ringptr = (c + 1) % s.ringSize ∧ t.areas b = [] ∧
      ∀ x k f gk G, areas = [x] → x.2.gangs = [(gk, G)] → x.2.fibres = [(k, f)] → f.gang = gk →
        (record x 0).testBit 191 = true → released f (record x 0) = false →
        InDram (x.1 * 2 ^ 21) (2 ^ 21) → winOff f + 4 * G.window ≤ 2 ^ 18 →
        (∃ H, KV.find? gk t.gangs = some H ∧ H.ctx = c ∧ H.core = G.core ∧ H.consts = G.consts ∧
          H.bars = G.bars) ∧
        ∃ z, KV.find? k t.fibres = some z ∧ z.gang = gk ∧ z.pc = BitVec.ofNat 54 (record x 0) ∧
          z.preds = BitVec.ofNat 8 (record x 0 / 2 ^ 153) ||| 1 ∧
          ∀ i < G.window, KV.getD i {} z.win = s.coh (x.1 * 2 ^ 21 + winOff f + 4 * i))

/-- R330 to R332, R336, R337, R339, R341, R345 to R349: the scheduler's steps, the save and the restore of a
context, and an entry that reaches the fault queue or waits for room. (When SCHEDERR counts, that a live context
is served at once, and what an area's opaque regions are to the check, are the model's readings: log entries 29,
33 and 60.) -/
def Obligations.SchedulerEvents : Prop :=
  ∀ s, s.Inv →
    Part.RingSteps s ∧ Part.Restores s ∧
    (∀ n e i, let d := s.die n
      let pa := d.fqbase.toNat + d.fqtail.toNat % d.fqSize * 64
      let y : Die := { d with fqtail := d.fqtail + 1, ctab := KV.put i { e with queued := true } d.ctab }
      let fresh (e : CEnt) : Bool := !e.queued && !e.waited
      s.pkg.powered = true → d.failed = false → d.nextReport = some (e, some i) →
      ((d.fqtail - d.fqhead).toNat < d.fqSize → DevFree s pa 64 → pa % 4 = 0 →
        ∃ t, exec (.faultQueueAppend n) s = .next t ∧ t.fibres = s.fibres ∧
          (t.die n).fqtail = d.fqtail + 1 ∧ (KV.find? i (t.die n).ctab).map CEnt.queued = some true ∧
          ((d.fqtail + 1 - d.fqhead).toNat < d.fqSize → t.die n = y) ∧
          ∀ j < 16, (t.coh (pa + 4 * j)).v = BitVec.ofNat 32 (e.bits (some i) / 2 ^ (32 * j))) ∧
      (d.fqSize ≤ (d.fqtail - d.fqhead).toNat →
        let n1 := (d.ctab.filter fun x => fresh x.2).length
        let n2 := (d.cwait.filter fun x => x.halt && fresh x).length
        let one (x : Nat × CEnt) : Nat × CEnt := (x.1, { x.2 with waited := x.2.waited || !x.2.queued })
        let two (x : CEnt) : CEnt := { x with waited := x.waited || x.halt }
        let z : Die := { d with
          fqovf := d.fqovf + BitVec.ofNat 32 (n1 + n2), ctab := d.ctab.map one, cwait := d.cwait.map two }
        exec (.faultQueueAppend n) s = .next { s with dies := KV.put n z s.dies }))

/-! ### Encodings -/

/-- R173 to R175, R180, R186, R187: words written out from the formats and the opcode map decode to
their instructions, and words of a reserved major, an unlisted function and an unlisted hint to none. -/
def Obligations.DecodedWords : Prop :=
  (∀ x ∈ [(0x2001427D#32, Instr.addi 0 5 4 0x7D), (0x81610144#32, .ld 11 4 2 4 1 0),
      (0x403FFFC0#32, .bra 1 0x1FFFC0), (0x011F3E7C#32, .add 8 124 124 124),
      (0x60014206#32, .fadd 0 5 4 6), (0xFE000C88#32, .pace 3 2 1), (0xC000C410#32, .mma 0 3 8 16),
      (0xA0010308#32, .put 0 4 6 8), (0xD8010002#32, .barg 0 4 2), (0xE801000D#32, .csrrd 0 4 0xD),
      (0xEC010005#32, .trap 0 4 0 5)], decode x.1 = .ok x.2) ∧
  decode 0x5E000000 = .error .reservedMajor ∧ decode 0x3C00000B = .error .reservedField ∧
  decode 0xFEC00000 = .error .hintError

/-- R173, R187: every well-formed instruction has one word, which decodes to it, in memory as its four
bytes with the lowest first; and a word decodes to no instruction but the well-formed one that has it. -/
def Obligations.EncodeDecode : Prop :=
  (∀ i : Instr, i.isWord = true → i.wf = true →
    i.encode = some i.word ∧ decode i.word = .ok i ∧
    ∀ rest, decodeBytes ((List.range 4).map (byteOf i.word.toNat) ++ rest) = .ok (i, rest)) ∧
  ∀ w i, decode w = .ok i → i.isWord = true ∧ i.wf = true ∧ i.encode = some w

/-! ### Memory, reset and the step -/

/-- R7, R27: in a byte store in canonical form a byte reads as it was last written, a write leaves
every other byte alone and keeps the form, and stores that read alike are equal. -/
def Obligations.ByteStores : Prop :=
  ∀ top m, Memory.canon top m = true →
    (∀ a b, Memory.canon top (Memory.write top a b m) = true ∧
      (a < top → Memory.read (Memory.write top a b m) a = b) ∧
      ∀ x ≠ a, Memory.read (Memory.write top a b m) x = Memory.read m x) ∧
    (∀ lo n a, Memory.canon top (Memory.zero lo n m) = true ∧
      Memory.read (Memory.zero lo n m) a = if lo ≤ a ∧ a < lo + n then 0 else Memory.read m a) ∧
    ∀ m', Memory.canon top m' = true → (∀ a, Memory.read m' a = Memory.read m a) → m' = m

/-- R382, R370, R45, R67, R115, R324, R325, R367, R373, R375, R380: when power has just been applied there are no
fibres, gangs, launches, contexts, crews, operations or bags, and every register of the management space whose
reset value the manual gives reads as it says. (That memory reads 0 and that bring-up is not complete are the
model's choices: log entries 1 to 3.) The invariant of every step holds. -/
def Obligations.ResetState : Prop :=
  State.reset.Inv ∧ State.reset.mem = [] ∧ State.reset.scr = [] ∧ State.reset.acc = [] ∧
  State.reset.fibres = [] ∧ State.reset.gangs = [] ∧ State.reset.launches = [] ∧
  State.reset.ctxs = [] ∧ State.reset.crews = [] ∧ State.reset.ops = [] ∧ State.reset.bags = [] ∧
  State.reset.pkg.complete = false ∧
  let reads (m : MReg) (v : DWord) : Prop := State.reset.mread m = v
  reads .pwrctl 0x0003_0000_0000_0898 ∧ reads .scrub 0x0001_5180_0000_0258 ∧ reads .schederr 0 ∧
  reads .preover 0 ∧ (∀ n h, reads (.peerwin n) 0 ∧ reads (.redwin n h) 0) ∧
  (∀ d, ∀ m ∈ [MReg.carve d, .quarcfg d, .quarstat d, .fqovf d, .mchead d, .mctail d, .errtail d], reads m 0) ∧
  (∀ k, reads (.chshare k) 0x0000_0C80_6410_8000) ∧
  ∀ q, ∀ m ∈ [MReg.wqbase q, .wqcfg q, .wqtail q, .wqhead q, .wqerr q], reads m 0

/-- R25, R317: every step answers a next state, and every step keeps memory, scratchpads and the
table of fibres in canonical form: whatever state it starts from, whichever agent moves. (The agenda, that no
event faults or is refused, and the form itself are the model's: log entries 4 and 42.) -/
def Obligations.StepsKeepTheForm : Prop :=
  (∀ s t, s.Inv → step s = .next t → t.Inv) ∧ ∀ s, ∃ t, step s = .next t

/-- R173, R188: at the turn of a crew with an issue slot the step is the meaning of the word at its
address, in the state in which it is the crew's turn; the site may have cached the page's translation.
The word is the four bytes there, the lowest address first, where no word of its line is poisoned. (A crew that
R155 has marked, and a fibre that has issued the word of its STEP, issue no more once their hint group is
complete.) -/
def Obligations.StepRunsTheWord : Prop :=
  ∀ s site slot wait rest cr fid fids,
    let f := s.fibre (fkey cr.gang fid)
    let ctx := (s.gang cr.gang).ctx
    let u := { s with agenda := rest, cur := some { site := site, slot := slot, wait := wait } }
    let v := ((Run.start u).cacheXl site ctx (f.pc.zeroExtend 64)).s
    s.agenda = .issue site slot wait false :: rest → KV.find? (ckey site slot) s.crews = some cr →
    cr.fids = fid :: fids → cr.idle = 0 → (s.site site).budget ≠ 0 → f.walking = false →
    (cr.evict = true ∨ f.stepped = true → cr.hints.isSome = true) →
    (∃ sites, v = { u with sites := sites }) ∧
    (∀ w i, s.fetchWord site ctx f.pc = .ok w → decode w = .ok i → step s = exec i v) ∧
    (∀ w e, s.fetchWord site ctx f.pc = .ok w → decode w = .error e →
      step s = exec (.undefinedEncoding w) v) ∧
    ∀ x, s.xlate site ctx f.pc 4 = .ok x → isSuper site = false → x.leaf.getLsbD 3 = true →
      x.leaf.getLsbD 4 = true → InDram x.pa 4 → x.bank = false → s.isLost x.pa = false →
      s.QuietLine (x.key / 128) → KV.range (32 * (x.key / 128)) 32 s.mpoison = [] → (s.home x.key).p = false →
      x.key % 4 = 0 → s.fetchWord site ctx f.pc = .ok (wordOfBytes (Memory.read s.mem x.key)
        (Memory.read s.mem (x.key + 1)) (Memory.read s.mem (x.key + 2)) (Memory.read s.mem (x.key + 3)))

/-! ### Operands that trap, and queues -/

/-- R176 to R178, R188, R54, R317: a register field that is illegal raises ILLEG with the lowest
reason, and a poisoned source register POISON, at the group's first word; nothing is performed. -/
def Sys2Proof.Part.OperandTraps : Prop :=
  ∀ w ∈ binaryWords, ∀ s c cr f g d a b, Solo s c cr f → (∀ n, f.IdleFlag n) →
    guardOk g (f.now (cr.group f.pc)) = true → PlainHints (cr.group f.pc) →
    (isSuper c.site && f.hm) = false →
    let G := s.gang cr.gang
    let us := [src a, src b, dst d]
    let x (k : Cls) (v : DWord) (r : Nat) : Fail :=
      { key := fkey cr.gang f.fid, lane := f.lane, cls := k, addr := v, reason := r,
        pc := (cr.group f.pc).start }
    (∀ n, usesErr G 1 us = some n → exec (w.1 g d a b) s =
      .next (s.trapped c cr f (f.failed cr) (x .illeg ((w.1 g d a b).word.zeroExtend 64) n))) ∧
    (usesErr G 1 us = none → us.all (fun u => !isQueue u.reg) = true →
      ∀ n, poisonReg us (operands s G (f.now (cr.group f.pc)) us) = some n → exec (w.1 g d a b) s =
        .next (s.trapped c cr f (f.failed cr) (x .poison (BitVec.ofNat 64 n) 1)))

/-- R176, R258: which register fields are illegal, and why, for one active lane: a window register
beyond the window (reason 2), a misaligned tuple or a written constant or identity (3), the reserved
number (2), and a queue that is not bound, or bound with another width (3). -/
def Sys2Proof.Part.RegisterFields : Prop :=
  ∀ (G : Gang) (u : Use), u.w = 1 ∨ u.w = 2 ∨ u.w = 4 → u.reg < 128 →
    (u.reg < 96 → Use.err G 1 u = if G.window < u.reg + u.w then some 2
      else if u.reg % u.w ≠ 0 then some 3 else none) ∧
    (96 ≤ u.reg → u.reg < 112 → Use.err G 1 u = if u.dst = true ∨ u.reg % u.w ≠ 0 then some 3 else none) ∧
    (112 ≤ u.reg → u.reg < 124 → KV.find? (u.reg - 112) G.queues = none → Use.err G 1 u = some 3) ∧
    (112 ≤ u.reg → u.reg < 124 → ∀ q, KV.find? (u.reg - 112) G.queues = some q →
      (q.regs ≠ u.w ∨ (u.dst = true ∧ q.kind = 2)) → Use.err G 1 u = some 3) ∧
    (u.reg = 124 → Use.err G 1 u = none) ∧
    (u.reg = 125 ∨ u.reg = 126 → Use.err G 1 u = if u.dst = true ∨ u.w ≠ 1 then some 3 else none) ∧
    (u.reg = 127 → Use.err G 1 u = some 2)

/-- R54, R176 to R178, R188: register fields that are illegal, and operands that trap. -/
def Obligations.RegisterOperands : Prop := Part.RegisterFields ∧ Part.OperandTraps

/-- R122, R178, R258, R259: ADD takes its first source from the head of a scratchpad ring, which moves on
by one, an acquire; or, the fibre's accesses done, puts its result at the tail of one. -/
def Obligations.QueueOperands : Prop :=
  ∀ s c cr f g (d a b : BitVec 7) n q, Solo s c cr f → (∀ n, f.IdleFlag n) →
    guardOk g (f.now (cr.group f.pc)) = true → PlainHints (cr.group f.pc) → isCore c.site = true →
    let G := s.gang cr.gang
    let F := f.now (cr.group f.pc)
    let us := [src a, src b, dst d]
    let u := s.after c cr f
    let slot (i : Nat) : Nat := G.scrKey (q.base + i % q.slots * 4)
    let binds (q : Queue) : List (Nat × Gang) :=
      KV.update cr.gang (fun G => { G with queues := KV.put n q G.queues }) s.gangs
    KV.find? n G.queues = some q → n < 12 → q.ew = 0 → usesErr G 1 us = none → isQueue b.toNat = false →
    (readReg G F b.toNat).p = false →
    (a.toNat = 112 + n → isQueue d.toNat = false → q.kind = 1 ∨ q.kind = 2 → q.head < q.tail →
      (s.scrWord (slot q.head)).p = false →
      let y := (f.passed (cr.group f.pc) true).gets d ((s.scrWord (slot q.head)).v + val G F b)
      exec (.add g d a b) s = .next ((Run.start { u with
        gangs := binds { q with head := q.head + 1 }
        fibres := KV.put (fkey cr.gang f.fid) y u.fibres }).acquire c.site).s) ∧
    (d.toNat = 112 + n → isQueue a.toNat = false → (readReg G F a.toNat).p = false → q.kind = 1 →
      0 < s.room G.ctx q → s.accessPending (fkey cr.gang f.fid) = false → slot q.tail + 4 ≤ scrTop → ∃ t, exec (.add g d a b) s = .next t ∧
        t = { u with gangs := binds { q with tail := q.tail + 1 }, scr := t.scr, spoison := t.spoison } ∧
        (t.scrWord (slot q.tail)).v = val G F a + val G F b ∧
        ∀ k, k < slot q.tail ∨ slot q.tail + 4 ≤ k → Memory.read t.scr k = Memory.read s.scr k)

/-- R25, R13, R20, R24, R317: a load or store of raw bytes whose address is misaligned raises ALIGN; one
out of its bounds BOUNDS, with the pointer; one that no leaf translates XLAT, with the walk's reason and
level; and one whose page lacks the permission, or is not a user page, PERM; in that order, at the
group's first word, and nothing is performed. -/
def Obligations.AccessTraps : Prop :=
  ∀ k ∈ (loadWords.map fun w => (w.ctor, w.n, w.regs, false)) ++
      (storeWords.map fun w => (w.ctor, w.n, w.regs, true)),
    ∀ s c cr f g d a p o, (k.1 g d a p o).wf = true → isSuper c.site = false →
    let n := k.2.1
    let wr := k.2.2.2
    let us := [src a 2, if wr then src d k.2.2.1 else dst d k.2.2.1]
    let P := (soloEnv s c cr f us).ptr 0
    let va := ptrVa P
    let ctx := (s.gang cr.gang).ctx
    let x (cl : Cls) (v : DWord) (r lv : Nat) : Fail :=
      { key := fkey cr.gang f.fid, lane := f.lane, cls := cl, addr := v, reason := r, level := lv,
        pc := (cr.group f.pc).start }
    let traps (cl : Cls) (v : DWord) (r lv : Nat) : Prop :=
      exec (k.1 g d a p o) s = .next (s.trapped c cr f (f.failed cr) (x cl v r lv))
    Stands s c cr f g us →
    (va.toNat % n ≠ 0 → traps .align (va.zeroExtend 64) 0 0) ∧
    (va.toNat % n = 0 → s.boundsOk c.site ctx P n (!wr) wr = false → traps .bounds P 0 0) ∧
    (va.toNat % n = 0 → s.boundsOk c.site ctx P n (!wr) wr = true →
      (∀ r lv, s.xlate c.site ctx va n = .error (r, lv) → traps .xlat (va.zeroExtend 64) r lv) ∧
      ∀ x, s.xlate c.site ctx va n = .ok x →
        (x.leaf.getLsbD (if wr then 2 else 1) = false → traps .perm (va.zeroExtend 64) 0 0) ∧
        (x.leaf.getLsbD (if wr then 2 else 1) = true → x.leaf.getLsbD 4 = false →
          traps .perm (va.zeroExtend 64) 1 0))
end

