-- ==== Sys2Proof/Laws/Arrivals.lean ====
section
/-! SUPPORT. What the operations on queue registers, packets that have arrived, and queues of work can do
(R178, R241, R325, R331, R366, R371). -/

namespace Sys2Proof.Machine
variable {s0 : State}

/-! ### Queue registers -/

theorem State.queueFull_reg {reg : Nat} (h : isQueue reg = false) (s : State) (g : Nat) :
    s.queueFull g reg = false := by simp [State.queueFull, h]
theorem Run.reserve_reg {reg : Nat} (h : isQueue reg = false) (r : Run s0) (g : Nat) : r.reserve g reg = r := by
  simp [Run.reserve, h]
theorem Run.unreserve_reg {reg : Nat} (h : isQueue reg = false) (r : Run s0) (g : Nat) :
    r.unreserve g reg = r := by simp [Run.unreserve, h]
theorem Run.pushRoom_reg {reg : Nat} (h : isQueue reg = false) (r : Run s0) (g : Nat) (w : PW) :
    r.pushRoom g reg w = r := by simp [Run.pushRoom, h]

/-- A queue takes a word where it has room, and is left as it is where it has none. -/
theorem Run.pushRoom_cases (r : Run s0) (g reg : Nat) (w : PW) :
    (isQueue reg = true ∧ r.s.queueFull g reg = false ∧ r.pushRoom g reg w = r.push g (reg - 112) [w]) ∨
    ((isQueue reg = false ∨ r.s.queueFull g reg = true) ∧ r.pushRoom g reg w = r) := by
  unfold Run.pushRoom
  cases isQueue reg <;> cases r.s.queueFull g reg <;> simp

/-- A value at hand at once is pushed to a queue, promised under the word's flag, or readable at once. -/
theorem Run.resultAt_reg {sig reg : Nat} (hq : isQueue reg = false) (hs : 12 ≤ sig) (r : Run s0) (k : Nat)
    (v : PW) : r.resultAt k sig reg v = r.updFibre k fun f => f.writeNow reg v := by
  simp [Run.resultAt, hq, show ¬sig < 12 by omega]

/-! ### Packets -/

/-- The turn of a packet that has arrived: it waits, goes on to the device behind a window, or is
performed and gone. -/
theorem Run.takePkt_cases (r : Run s0) (id : Nat) {o : Op} {kind : PktK} {p : Packet}
    (ho : KV.find? id r.s.ops = some o) (hk : o.kind = .packet kind p) :
    r.takePkt id = r ∨
    (o.stage = .pending ∧ r.s.relays p = true ∧ r.takePkt id = r.relay id kind p) ∨
    (o.stage = .pending ∧ (pktOrdered kind p = true → r.s.pktBefore id p.src = false) ∧
      ∃ q, r.performPkt kind p = some q ∧ r.takePkt id = q.delOp id) := by
  by_cases hw : o.stage ≠ .pending ∨ (pktOrdered kind p && r.s.pktBefore id p.src) = true
  · exact .inl (by simp only [Run.takePkt, ho, hk, if_pos hw])
  · have hs : o.stage = .pending := by simpa using fun h => hw (.inl h)
    have hb : pktOrdered kind p = true → r.s.pktBefore id p.src = false := by
      intro h
      cases hx : r.s.pktBefore id p.src
      · rfl
      · exact absurd (.inr (by simp [h, hx])) hw
    by_cases hr : kind ≠ .mailbox ∧ r.s.relays p = true
    · exact .inr (.inl ⟨hs, hr.2, by simp only [Run.takePkt, ho, hk, if_neg hw, if_pos hr]⟩)
    · cases hp : r.performPkt kind p with
      | none => exact .inl (by simp only [Run.takePkt, ho, hk, if_neg hw, if_neg hr, hp])
      | some q => exact .inr (.inr ⟨hs, hb, q, rfl, by simp only [Run.takePkt, ho, hk, if_neg hw, if_neg hr, hp]⟩)

/-- What is no packet is left alone. -/
theorem Run.takePkt_other (r : Run s0) (id : Nat) {o : Op} (ho : KV.find? id r.s.ops = some o)
    (hk : ∀ kind p, o.kind ≠ .packet kind p) : r.takePkt id = r := by
  simp only [Run.takePkt, ho]

/-! ### Queues of work and dies -/

/-- A context gives its dies up where an entry waits for them and it has nothing to run; nothing else of the
state changes. -/
theorem Run.yieldDies_cases (r : Run s0) (c : Nat) :
    r.yieldDies c = r ∨ (r.s.resident c = false ∧ (r.s.ctx c).live = true ∧
      r.yieldDies c = r.updCtx c fun x => { x with live := false }) := by
  simp only [Run.yieldDies]
  split
  · split
    · rename_i h
      exact .inr ⟨by simpa using h.2.2.2.1, h.2.1, rfl⟩
    · exact .inl rfl
  · exact .inl rfl

/-- What was read ahead for a queue goes, and no operation comes or changes. -/
theorem Run.dropTake_ops (r : Run s0) (q : Nat) : ∀ x ∈ (r.dropTake q).s.ops, x ∈ r.s.ops := by
  intro x hx
  exact List.mem_of_mem_filter hx
@[simp] theorem Run.dropTake_fibres (r : Run s0) (q : Nat) : (r.dropTake q).s.fibres = r.s.fibres := rfl
@[simp] theorem Run.dropTake_mem (r : Run s0) (q : Nat) : (r.dropTake q).s.mem = r.s.mem := rfl
@[simp] theorem Run.dropTake_wqs (r : Run s0) (q : Nat) : (r.dropTake q).s.wqs = r.s.wqs := rfl

end Sys2Proof.Machine
end

