-- ==== Sys2Proof/Laws/Crew.lean ====
section
/-! SUPPORT. What a word of a ready crew comes to: the laws through which statements about single
instructions go. `Ready.run` says it for any word that sends no lane elsewhere; `Ready.lanesEff` for
a word whose effect is on its lanes' fibres alone. -/

namespace Sys2Proof
open Machine
variable {s0 : State} {s : State} {c : Cur} {cr : Crew} {pc : VAddr}

theorem Machine.Run.ext_s {r q : Run s0} (h : r.s = q.s) : r = q := by cases r; cases q; cases h; rfl

theorem Machine.Fibre.mature_none (f : Fibre) (p : Pend → Bool) (h : f.pend.all (fun e => !p e) = true) :
    f.mature p = f := by
  have : ∀ (l : List Pend) (w : List (Nat × PW)) (acc : List Pend), l.all (fun e => !p e) = true →
      l.foldl (fun (w : List (Nat × PW) × List Pend) e =>
        if p e then (KV.putD e.reg {} e.v w.1, w.2.filter fun d => decide (d.reg ≠ e.reg))
        else (w.1, w.2 ++ [e])) (w, acc) = (w, acc ++ l) := by
    intro l
    induction l with
    | nil => simp
    | cons x t ih =>
      intro w acc hl
      simp only [List.all_cons, Bool.and_eq_true, Bool.not_eq_true'] at hl
      rw [List.foldl_cons, hl.1, if_neg (by simp), ih _ _ hl.2]
      simp
  unfold Fibre.mature
  rw [this f.pend f.win [] h]
  simp

theorem KV.del_none {α : Type} (k : Nat) (m : List (Nat × α)) (h : KV.find? k m = none) : KV.del k m = m := by
  induction m with
  | nil => rfl
  | cons x t ih =>
    obtain ⟨j, v⟩ := x
    simp only [KV.find?] at h
    simp only [KV.del]
    by_cases hjk : j = k
    · simp [hjk] at h
    · simp only [hjk, if_false] at h ⊢
      by_cases hk : k < j
      · rw [if_neg (by omega)]
      · rw [if_pos (by omega)]; rw [if_neg hk] at h; rw [ih h]

/-- The results still pending after `mature` were pending before. -/
theorem Machine.Fibre.mature_pend (f : Fibre) (p q : Pend → Bool) (h : f.pend.all q = true) :
    (f.mature p).pend.all q = true := by
  have : ∀ (l : List Pend) (w : List (Nat × PW)) (acc : List Pend), l.all q = true → acc.all q = true →
      (l.foldl (fun (w : List (Nat × PW) × List Pend) e =>
        if p e then (KV.putD e.reg {} e.v w.1, w.2.filter fun d => decide (d.reg ≠ e.reg))
        else (w.1, w.2 ++ [e])) (w, acc)).2.all q = true := by
    intro l
    induction l with
    | nil => intro w acc _ h; exact h
    | cons x t ih =>
      intro w acc hl ha
      simp only [List.all_cons, Bool.and_eq_true] at hl
      simp only [List.foldl_cons]
      split
      · refine ih _ _ hl.2 ?_
        rw [List.all_eq_true] at ha ⊢
        exact fun x hx => ha x (List.mem_of_mem_filter hx)
      · refine ih _ _ hl.2 ?_
        simp [ha, hl.1]
  exact this f.pend f.win [] h rfl

@[simp] theorem Machine.Fibre.settle_flags (f : Fibre) (n : Nat) : (f.settle n).flags = f.flags := by
  unfold Fibre.settle; split <;> rfl
@[simp] theorem Machine.Fibre.settle_fence (f : Fibre) (n : Nat) : (f.settle n).fence = f.fence := by
  unfold Fibre.settle; split <;> rfl
@[simp] theorem Machine.Fibre.settle_fid (f : Fibre) (n : Nat) : (f.settle n).fid = f.fid := by
  unfold Fibre.settle; split <;> rfl
@[simp] theorem Machine.Fibre.settle_region (f : Fibre) (n : Nat) : (f.settle n).region = f.region := by
  unfold Fibre.settle; split <;> rfl
@[simp] theorem Machine.Fibre.settle_count (f : Fibre) (n : Nat) : (f.settle n).count = f.count := by
  unfold Fibre.settle; split <;> rfl
@[simp] theorem Machine.Fibre.settle_stepping (f : Fibre) (n : Nat) : (f.settle n).stepping = f.stepping := by
  unfold Fibre.settle; split <;> rfl
@[simp] theorem Machine.Fibre.settle_toHalt (f : Fibre) (n : Nat) : (f.settle n).toHalt = f.toHalt := by
  unfold Fibre.settle; split <;> rfl
@[simp] theorem Machine.Fibre.settle_slot (f : Fibre) (n : Nat) : (f.settle n).slot = f.slot := by
  unfold Fibre.settle; split <;> rfl
@[simp] theorem Machine.Fibre.settle_gang (f : Fibre) (n : Nat) : (f.settle n).gang = f.gang := by
  unfold Fibre.settle; split <;> rfl
@[simp] theorem Machine.Fibre.settle_site (f : Fibre) (n : Nat) : (f.settle n).site = f.site := by
  unfold Fibre.settle; split <;> rfl
@[simp] theorem Machine.Fibre.settle_pc (f : Fibre) (n : Nat) : (f.settle n).pc = f.pc := by
  unfold Fibre.settle; split <;> rfl
@[simp] theorem Machine.Fibre.settle_preds (f : Fibre) (n : Nat) : (f.settle n).preds = f.preds := by
  unfold Fibre.settle; split <;> rfl

theorem Machine.Fibre.IdleFlag.settle {f : Fibre} {n : Nat} (h : f.IdleFlag n) (m : Nat) :
    (f.settle m).IdleFlag n := by
  refine ⟨by simpa using h.flag, ?_⟩
  unfold Fibre.settle
  split
  · exact h.pend
  · exact Fibre.mature_pend _ _ _ h.pend

theorem Machine.Fibre.IdleFlag.observe {f : Fibre} {n : Nat} (h : f.IdleFlag n) : f.observe n = f := by
  have hm : (f.mature fun e => decide (e.when_ = .flag n)) = f :=
    Fibre.mature_none _ _ (by simpa using h.pend)
  unfold Fibre.observe
  simp only [hm, KV.getD, h.flag]
  simp [KV.del_none _ _ h.flag]

theorem Machine.Fibre.IdleFlag.get {f : Fibre} {n : Nat} (h : f.IdleFlag n) : f.flag n = {} := by
  simp [Fibre.flag, KV.getD, h.flag]

theorem Machine.Fibre.IdleFlag.look {f : Fibre} {n : Nat} (h : f.IdleFlag n) : f.look n = f := by
  simp [Fibre.look, h.get]

theorem Machine.Fibre.IdleFlag.holds {f : Fibre} {n : Nat} (h : f.IdleFlag n) : f.holds n = false := by
  simp [Fibre.holds, h.get]

theorem fold_look {f : Fibre} (l : List Nat) (h : ∀ n ∈ l, f.IdleFlag n) : l.foldl Fibre.look f = f := by
  induction l with
  | nil => rfl
  | cons x t ih => rw [List.foldl_cons, (h x (by simp)).look]; exact ih fun n hn => h n (by simp [hn])

theorem fold_observe {f : Fibre} (l : List Nat) (h : ∀ n ∈ l, f.IdleFlag n) :
    l.foldl (fun f n => f.observe n) f = f := by
  induction l with
  | nil => rfl
  | cons x t ih => rw [List.foldl_cons, (h x (by simp)).observe]; exact ih fun n hn => h n (by simp [hn])

/-- The flags that a word without a wait of its own looks at. -/
theorem Member.idle {c : Cur} {cr : Crew} {pc : VAddr} {fid : Nat} {f : Fibre}
    (m : Member c cr pc fid f lr) (a : Bool) : ∀ n ∈ waitSet (cr.group pc) a false, f.IdleFlag n := by
  intro n hn
  unfold waitSet at hn
  simp only [Bool.false_eq_true, if_false, List.mem_cons] at hn
  rcases hn with rfl | hn
  · exact m.full
  · cases a
    · simp at hn
    · simp only [if_true, List.mem_filter, Bool.or_eq_true, decide_eq_true_eq] at hn
      rcases hn.2 with h | h
      · exact m.waits n h
      · exact h ▸ m.sig

/-! ### The lanes of a ready crew -/

/-- A word whose lanes wait for nothing but what R183 says, and go on at the next word. -/
structure Machine.Desc.Simple (d : Desc s0) : Prop where
  branch : d.branch = false
  target : d.target = none
  drain : d.drain = 0
  drainIf : ∀ s e, d.drainIf s e = false
  waits : d.waits = 0
  eights : d.eights = none
  plain : d.uses.all (fun u => !isQueue u.reg) = true

theorem readUse_plain {u : Use} (h : isQueue u.reg = false) (s t : State) (g : Gang) (f : Fibre) (i j : Nat) :
    readUse s g f i u = readUse t g f j u := by
  simp [readUse, h]

/-- The lane of a member of a ready crew. -/
def laneOf (s : State) (c : Cur) (cr : Crew) (d : Desc s0) (fid : Nat) : Env :=
  let e := mkEnv s c cr d fid
  { e with
    mask := laneMask (((cr.fids.map (mkEnv s c cr d)).filter Env.active).map Env.lane),
    v := operands s e.g e.f d.uses }

theorem Ready.fibre (R : Ready s c cr pc lr) {fid : Nat} (h : fid ∈ cr.fids) :
    KV.find? (fkey cr.gang fid) s.fibres = some (s.fibre (fkey cr.gang fid)) ∧
      Member c cr pc fid (s.fibre (fkey cr.gang fid)) lr := by
  obtain ⟨f, hf, m⟩ := R.fibres fid h
  have : s.fibre (fkey cr.gang fid) = f := by simp [State.fibre, KV.getD, hf]
  exact this ▸ ⟨hf, m⟩

theorem Ready.mkEnv_f (R : Ready s c cr pc lr) (d : Desc s0) {fid : Nat} (h : fid ∈ cr.fids) :
    (mkEnv s c cr d fid).f = (s.fibre (fkey cr.gang fid)).now (cr.group pc) := by
  have m := (R.fibre h).2
  simp only [mkEnv, m.full.look, R.word, m.stands]
  rfl

theorem Ready.raw (_R : Ready s c cr pc lr) (d : Desc s0) (hd : d.Simple) :
    withOperands s d (cr.fids.map (mkEnv s c cr d)) = cr.fids.map (laneOf s c cr d) := by
  unfold withOperands
  simp only [hd.eights]
  have : ∀ (l : List Env) (m : Word) (acc : List Env) (k : Nat),
      (l.foldl (fun (a : List Env × Nat) e =>
        let vs := (d.uses.filter fun u => !u.dst).map fun u => readUse s e.g e.f a.2 u
        (a.1 ++ [{ e with mask := m, v := vs }], if e.active && d.reads e then a.2 + 1 else a.2)) (acc, k)).1
      = acc ++ l.map fun e => { e with mask := m, v := operands s e.g e.f d.uses } := by
    intro l m
    induction l with
    | nil => simp
    | cons x t ih =>
      intro acc k
      simp only [List.foldl_cons]
      rw [ih]
      simp only [List.map_cons, List.append_assoc, List.singleton_append]
      have : ((d.uses.filter fun u => !u.dst).map fun u => readUse s x.g x.f k u) = operands s x.g x.f d.uses := by
        unfold operands
        apply List.map_congr_left
        intro u hu
        have := List.all_eq_true.mp hd.plain u (List.mem_of_mem_filter hu)
        exact readUse_plain (by simpa using this) _ _ _ _ _ _
      rw [this]
  rw [this]
  simp only [List.nil_append, List.map_map]
  rfl

theorem Ready.envs (R : Ready s c cr pc lr) (d : Desc s0) (hd : d.Simple) :
    crewEnvs s c cr d = cr.fids.map (laneOf s c cr d) := by
  unfold crewEnvs
  rw [← R.raw d hd]
  simp only [hd.drain]
  congr 1
  rw [List.map_map]
  apply List.map_congr_left
  intro fid h
  have hg : groupOf c cr d (cr.fids.map (mkEnv s c cr d)) = cr.group pc := by
    obtain ⟨x, l, hx⟩ := List.exists_cons_of_ne_nil R.some_
    have hpc : (mkEnv s c cr d x).pc = pc := ((R.fibre (by simp [hx] : x ∈ cr.fids)).2).stands
    simp [groupOf, R.word, hd.waits, hx, hpc, Crew.group]
  rw [hg]
  have e1 : (decide ((0 : Nat) = 1)) = false := rfl
  have e2 : (decide ((0 : Nat) = 2)) = false := rfl
  have m := (R.fibre h).2
  have hi : ∀ n ∈ waitSet (cr.group pc) (mkEnv s c cr d fid).active false, (mkEnv s c cr d fid).f.IdleFlag n := by
    intro n hn
    rw [R.mkEnv_f d h]
    exact (m.idle _ n hn).settle _
  have ha : ((mkEnv s c cr d fid).active && (d.branch || guardOk d.guard (mkEnv s c cr d fid).f)) =
      (mkEnv s c cr d fid).active := by
    simp [mkEnv, hd.branch]
  simp only [Function.comp, Bool.false_and, Bool.or_self, e1, e2, fold_look _ hi, ha]
  rfl

/-- The lanes of a ready crew that are active. -/
def actLanes (s : State) (c : Cur) (cr : Crew) (d : Desc s0) : List Env :=
  (cr.fids.map (laneOf s c cr d)).filter Env.active
def idleLanes (s : State) (c : Cur) (cr : Crew) (d : Desc s0) : List Env :=
  (cr.fids.map (laneOf s c cr d)).filter fun e => !e.active

/-- The state in which the word of a ready crew takes its slot. -/
def slotTaken (s : State) (c : Cur) (n : Nat) : Run s :=
  ((Run.start s).stallCrew c 0).spend c.site (if 24 ≤ n then 1 else 2) n

theorem updFibre_rest (r : Run s0) (k : Nat) (f : Fibre → Fibre) :
    (r.updFibre k f).s = { r.s with fibres := (r.updFibre k f).s.fibres } := by
  unfold Run.updFibre; split <;> rfl
theorem updFibre_ne (r : Run s0) (k j : Nat) (f : Fibre → Fibre) (h : j ≠ k) :
    KV.find? j (r.updFibre k f).s.fibres = KV.find? j r.s.fibres := by
  unfold Run.updFibre; split
  · exact KV.find?_put_ne h _ _
  · rfl
theorem updFibre_self (r : Run s0) (k : Nat) (f : Fibre → Fibre) (x : Fibre)
    (h : KV.find? k r.s.fibres = some x) : KV.find? k (r.updFibre k f).s.fibres = some (f x) := by
  unfold Run.updFibre; rw [h]; exact KV.find?_put_self _ _ _

/-- The fibres of a crew that was blocked start their ages afresh when its word takes its slot (R163). -/
theorem fresh_ages (cr : Crew) (l : List Nat) (r : Run s0) (k : Nat) :
    KV.find? k (r.each l fun r fid => r.updFibre (fkey cr.gang fid) fun f => { f with age := 0 }).s.fibres =
      (KV.find? k r.s.fibres).map fun f => if k ∈ l.map (fkey cr.gang) then { f with age := 0 } else f := by
  induction l generalizing r with
  | nil => simp [Run.each]
  | cons x t ih =>
    change KV.find? k ((r.updFibre (fkey cr.gang x) fun f => { f with age := 0 }).each t _).s.fibres = _
    rw [ih]
    by_cases hk : k = fkey cr.gang x
    · subst hk
      cases hf : KV.find? (fkey cr.gang x) r.s.fibres with
      | none =>
        have : (r.updFibre (fkey cr.gang x) fun f => { f with age := 0 }) = r := by
          unfold Run.updFibre; rw [hf]
        simp [this, hf]
      | some f =>
        rw [updFibre_self _ _ _ _ hf]
        simp
    · rw [updFibre_ne _ _ _ _ hk]
      simp [hk]

theorem fresh_rest (cr : Crew) (l : List Nat) (r : Run s0) :
    (r.each l fun r fid => r.updFibre (fkey cr.gang fid) fun f => { f with age := 0 }).s =
      { r.s with fibres :=
        (r.each l fun r fid => r.updFibre (fkey cr.gang fid) fun f => { f with age := 0 }).s.fibres } := by
  induction l generalizing r with
  | nil => rfl
  | cons x t ih =>
    change ((r.updFibre (fkey cr.gang x) fun f => { f with age := 0 }).each t _).s = _
    rw [ih, updFibre_rest]
    rfl

/-- The state in which a crew's word takes its slot: the slot is counted, and a crew that was blocked is so
no longer. -/
theorem slotTaken_rest (s : State) (c : Cur) (n : Nat) (R : KV.find? (ckey c.site c.slot) s.crews = some cr) :
    (slotTaken s c n).s = { s with
      fibres := (slotTaken s c n).s.fibres
      crews := KV.put (ckey c.site c.slot) { cr with stall := 0 } s.crews
      sites := KV.put c.site ((s.site c.site).spent c.site n) s.sites } := by
  have hb : Crew.blocked { cr with stall := 0 } = false := rfl
  have h : ∀ q : Run s, q.s = { s with fibres := q.s.fibres } →
      ((q.updCrew (ckey c.site c.slot) fun cr => { cr with stall := 0 }).spend c.site
        (if 24 ≤ n then 1 else 2) n).s = { s with
          fibres := q.s.fibres
          crews := KV.put (ckey c.site c.slot) { cr with stall := 0 } s.crews
          sites := KV.put c.site ((s.site c.site).spent c.site n) s.sites } := by
    intro q hq
    have : KV.update (ckey c.site c.slot) (fun cr => { cr with stall := 0 }) q.s.crews =
        KV.put (ckey c.site c.slot) { cr with stall := 0 } s.crews := by rw [hq]; simp [KV.update, R]
    unfold Run.spend Run.updSite Run.updCrew
    simp only [Run.mod, State.keep, this]
    rw [hq]
    rfl
  have R' : KV.find? (ckey c.site c.slot) (Run.start s).s.crews = some cr := R
  unfold slotTaken Run.stallCrew
  simp only [R', hb, Bool.not_false, Bool.and_true]
  split
  · rw [h _ (fresh_rest cr cr.fids (Run.start s))]
  · rw [h (Run.start s) rfl]

theorem slotTaken_fibres (s : State) (c : Cur) (n k : Nat) (R : KV.find? (ckey c.site c.slot) s.crews = some cr) :
    KV.find? k (slotTaken s c n).s.fibres = (KV.find? k s.fibres).map fun f =>
      if cr.blocked = true ∧ k ∈ cr.fids.map (fkey cr.gang) then { f with age := 0 } else f := by
  have hb : Crew.blocked { cr with stall := 0 } = false := rfl
  have R' : KV.find? (ckey c.site c.slot) (Run.start s).s.crews = some cr := R
  unfold slotTaken Run.stallCrew
  simp only [R', hb, Bool.not_false, Bool.and_true]
  split
  · rename_i h
    simp only [h, true_and]
    exact fresh_ages cr cr.fids (Run.start s) k
  · rename_i h
    simp only [h, Bool.false_eq_true, false_and, if_false]
    change KV.find? k s.fibres = _
    simp

theorem slotTaken_flag (s : State) (c : Cur) (n k j : Nat) (R : KV.find? (ckey c.site c.slot) s.crews = some cr) :
    ((slotTaken s c n).s.fibre k).flag j = (s.fibre k).flag j := by
  simp only [State.fibre, KV.getD, slotTaken_fibres s c n k R]
  cases KV.find? k s.fibres with
  | none => rfl
  | some f => simp only [Option.map_some, Option.getD_some]; split <;> rfl

theorem slotTaken_gang (s : State) (c : Cur) (n k : Nat) (R : KV.find? (ckey c.site c.slot) s.crews = some cr) :
    (slotTaken s c n).s.gang k = s.gang k := by
  rw [slotTaken_rest s c n R]; rfl

theorem slotTaken_preds (s : State) (c : Cur) (n : Nat) (R : KV.find? (ckey c.site c.slot) s.crews = some cr) :
    ((slotTaken s c n).s.site c.site).preds = (s.site c.site).preds := by
  rw [slotTaken_rest s c n R, State.site, KV.getD, KV.find?_put_self]
  rfl

theorem slotTaken_find (s : State) (c : Cur) (n : Nat) (R : KV.find? (ckey c.site c.slot) s.crews = some cr) :
    KV.find? (ckey c.site c.slot) ((slotTaken s c n).dropHints c).s.crews =
      some { cr with hints := none, stall := 0 } ∧
    ∀ k, k ≠ ckey c.site c.slot → KV.find? k ((slotTaken s c n).dropHints c).s.crews = KV.find? k s.crews := by
  have h1 : (slotTaken s c n).s.crews = KV.put (ckey c.site c.slot) { cr with stall := 0 } s.crews := by
    rw [slotTaken_rest s c n R]
  have h2 : ((slotTaken s c n).dropHints c).s.crews =
      KV.put (ckey c.site c.slot) { cr with hints := none, stall := 0 }
        (KV.put (ckey c.site c.slot) { cr with stall := 0 } s.crews) := by
    change KV.update (ckey c.site c.slot) (fun cr => { cr with hints := none }) (slotTaken s c n).s.crews = _
    simp [h1, KV.update, KV.find?_put_self]
  rw [h2]
  exact ⟨KV.find?_put_self _ _ _, fun k hk => by rw [KV.find?_put_ne hk, KV.find?_put_ne hk]⟩

/-! ### The word of a ready crew -/

theorem Ready.lane_f (R : Ready s c cr pc lr) (d : Desc s0) {fid : Nat} (h : fid ∈ cr.fids) :
    (laneOf s c cr d fid).f = (s.fibre (fkey cr.gang fid)).now (cr.group pc) := R.mkEnv_f d h

theorem Ready.lane_idle (R : Ready s c cr pc lr) (d : Desc s0) {fid : Nat} (h : fid ∈ cr.fids) (a : Bool) :
    ∀ n ∈ waitSet (cr.group pc) a false, (laneOf s c cr d fid).f.IdleFlag n := by
  intro n hn
  rw [R.lane_f d h]
  exact (((R.fibre h).2).idle a n hn).settle _

theorem queues_plain {us : List Use} (h : us.all (fun u => !isQueue u.reg) = true) :
    queueSrcs us = [] ∧ queueDsts us = [] := by
  rw [List.all_eq_true] at h
  constructor
  · simp only [queueSrcs, List.map_eq_nil_iff, List.filter_eq_nil_iff]
    intro u hu; have := h u hu; simp at this; simp [this]
  · simp only [queueDsts, List.map_eq_nil_iff, List.filter_eq_nil_iff]
    intro u hu; have := h u hu; simp at this; simp [this]

theorem each_nil {α : Type} (r : Run s0) (f : Run s0 → α → Run s0) : r.each [] f = r := rfl

theorem each_id {α : Type} (l : List α) (r : Run s0) : (r.each l fun r _ => r) = r := by
  unfold Run.each
  induction l with
  | nil => rfl
  | cons x t ih => exact ih

theorem raise_nil (r : Run s0) : r.raise [] = r := by
  unfold Run.raise
  simp only [List.filter_nil, List.map_nil, List.eraseDups_nil, each_nil]
  exact each_id _ r

/-- The flags that a lane of the issuing crew waits for before the word (R181, R183). -/
def waitsFor (s : State) (h : Hints) (d : Desc s0) (L : List Env) (e : Env) : List Nat :=
  waitSet h e.active ((d.target.isSome && (L.map fun e => e.next d).any fun x =>
      decide (some x ≠ (L.map fun e => e.next d).head?)) ||
    ((decide (d.drain = 1) && e.active) || (decide (d.drain = 2) && L.any Env.active) ||
      (e.active && d.drainIf s e)))

/-- A word whose lanes wait for nothing takes its slot at once. -/
theorem issueWord_idle (d : Desc s) (L : List Env) (h : Hints)
    (hcur : s.cur = some c) (hcrew : KV.find? (ckey c.site c.slot) s.crews = some cr)
    (hes : crewEnvs s c cr d = L) (hg : groupOf c cr d L = h)
    (hruns : s.issues c.site (s.gang cr.gang) = true)
    (hpreds : (s.site c.site).preds = [])
    (hfid : L.map (fun e => e.f.fid) = cr.fids)
    (hS : ∀ e ∈ L, e.site = c.site)
    (hF : ∀ e ∈ L, e.f.fence = [])
    (hI : ∀ e ∈ L, ∀ n ∈ waitsFor s h d L e, e.f.IdleFlag n)
    (hI15 : ∀ e ∈ L, e.f.IdleFlag 15)
    (hE : ∀ e ∈ L, ∀ n ∈ waitsFor s h d L e, (s.fibre e.key).flag n = {})
    (hM : ∀ e ∈ L, e.mask = laneMask ((L.filter Env.active).map Env.lane))
    (plain : d.uses.all (fun u => !isQueue u.reg) = true)
    (hs : staticErr d h (s.gang cr.gang) (L.filter Env.active).length = none)
    (haw : ∀ e ∈ L.filter Env.active, d.away s e = none)
    (hh : ∀ e ∈ L.filter Env.active, d.hold s e = false) (ha : d.holdAll s (L.filter Env.active) = false) :
    (Run.start s).issueWord d =
      (slotTaken s c (L.filter Env.active).length).issueLanes c cr d h L := by
  have hcur' : (Run.start s).s.cur = some c := hcur
  have hcrew' : KV.find? (ckey c.site c.slot) (Run.start s).s.crews = some cr := hcrew
  have hes' : crewEnvs (Run.start s).s c cr d = L := hes
  unfold Run.issueWord
  simp only [hcur', hcrew', hes', hg]
  have hw : ∀ e, waitSet h e.active ((d.target.isSome && (L.map fun e => e.next d).any fun x =>
      decide (some x ≠ (L.map fun e => e.next d).head?)) ||
    ((decide (d.drain = 1) && e.active) || (decide (d.drain = 2) && L.any Env.active) ||
      (e.active && d.drainIf (Run.start s).s e))) = waitsFor s h d L e := fun _ => rfl
  simp only [hw]
  generalize waitsFor s h d L = W at *
  have hnote : ∀ e ∈ L, (if (e.active && (d.illegFail (Run.start s).s none e).isSome) = true then none
      else (W e).find? (fun n => decide ((e.f.flag n).note ≠ none))) = none := by
    intro e he
    have : (W e).find? (fun n => decide ((e.f.flag n).note ≠ none)) = none := by
      rw [List.find?_eq_none]
      intro n hn
      simp [(hI e he n hn).get]
    rw [this, ite_self]
  have f1 : (L.filter fun e => decide ((if (e.active && (d.illegFail (Run.start s).s none e).isSome) = true then none
      else (W e).find? (fun n => decide ((e.f.flag n).note ≠ none))) = none)) = L :=
    List.filter_eq_self.mpr fun e he => by simp only [hnote e he, decide_true]
  have f2 : (L.filterMap fun e => (if (e.active && (d.illegFail (Run.start s).s none e).isSome) = true then none
      else (W e).find? (fun n => decide ((e.f.flag n).note ≠ none))).bind fun n =>
        ((e.f.flag n).note).map fun x => (e, n, x)) = [] := by
    rw [List.filterMap_eq_nil_iff]
    intro e he
    rw [hnote e he]; rfl
  have f0 : (L.any fun e => e.f.holds 15) = false := by
    rw [List.any_eq_false]
    intro e he
    simp [(hI15 e he).holds]
  have f3 : (L.any fun e => (Run.start s).s.fenced e.f ||
      (Run.start s).s.watchWait e.site e.gk e.f.fid e.key) = false := by
    rw [List.any_eq_false]
    intro e he
    have h2 : (Run.start s).s.fenced e.f = false := by simp [State.fenced, hF e he]
    have h3 : (Run.start s).s.watchWait e.site e.gk e.f.fid e.key = false := by
      have : ((Run.start s).s.site e.site).preds = [] := by rw [hS e he]; exact hpreds
      simp [State.watchWait, this]
    simp [h2, h3]
  have f4 : (L.any fun e => (W e).any fun n => decide (n ≠ 15) && e.f.holds n) = false := by
    rw [List.any_eq_false]
    intro e he
    rw [Bool.not_eq_true, List.any_eq_false]
    intro n hn
    simp [(hI e he n hn).holds]
  have f5 : (Run.start s).s.issues c.site ((Run.start s).s.gang cr.gang) = true := hruns
  have f6 : ∀ n, (Run.start s).s.queuesServe ((Run.start s).s.gang cr.gang) n d.uses = true := by
    intro n; simp [State.queuesServe, (queues_plain plain).1, (queues_plain plain).2]
  have f10 : ((L.filter Env.active).filter fun e => decide (d.away (Run.start s).s e = none)) =
      L.filter Env.active :=
    List.filter_eq_self.mpr fun e he => by rw [show d.away (Run.start s).s e = none from haw e he]; rfl
  have f11 : ((L.filter Env.active).any (pushHold (Run.start s).s d)) = false := by
    rw [List.any_eq_false]; intro e _; simp [pushHold, (queues_plain plain).2]
  have f7 : ((L.filter Env.active).any (d.hold (Run.start s).s)) = false := by
    rw [List.any_eq_false]; intro e he; rw [show d.hold (Run.start s).s e = false from hh e he]; simp
  have f8 : d.holdAll (Run.start s).s (L.filter Env.active) = false := ha
  have f9 : L.any (fun e => (W e).any fun n =>
      decide ((((((Run.start s).stallCrew c 0).spend c.site
        (if 24 ≤ (L.filter Env.active).length then 1 else 2) (L.filter Env.active).length).s.fibre e.key).flag n).st
          = FlagSt.done) &&
      (((((Run.start s).stallCrew c 0).spend c.site
        (if 24 ≤ (L.filter Env.active).length then 1 else 2) (L.filter Env.active).length).s.fibre e.key).flag n).eng)
      = false := by
    rw [List.any_eq_false]
    intro e he
    rw [Bool.not_eq_true, List.any_eq_false]
    intro n hn
    have : ((((Run.start s).stallCrew c 0).spend c.site
        (if 24 ≤ (L.filter Env.active).length then 1 else 2) (L.filter Env.active).length).s.fibre e.key).flag n = {} := by
      change ((slotTaken s c _).s.fibre e.key).flag n = {}
      rw [slotTaken_flag s c _ _ _ hcrew]; exact hE e he n hn
    simp [this]
  have f12 : (L.map fun e => { e with
      f := (W e).foldl (fun f n => f.observe n) e.f,
      mask := laneMask ((L.filter Env.active).map Env.lane) }) = L := by
    conv_rhs => rw [← List.map_id L]
    apply List.map_congr_left
    intro e he
    rw [fold_observe _ (hI e he), ← hM e he]
    rfl
  have f13 : staticErr d h ((Run.start s).s.gang cr.gang) (L.filter Env.active).length = none := hs
  simp only [f13] at *
  simp only [f1, f2, f0, f3, f4, f5, f6, f7, f8, f10, f11, each_nil, List.map_nil, raise_nil, f9, f12,
    hfid, Bool.not_true, Bool.and_false, Bool.false_eq_true, if_false]
  rfl

theorem Ready.issueWord (R : Ready s c cr pc lr) (d : Desc s) (hd : d.Simple)
    (hs : staticErr d (cr.group pc) (s.gang cr.gang) (actLanes s c cr d).length = none)
    (haw : ∀ e ∈ actLanes s c cr d, d.away s e = none)
    (hh : ∀ e ∈ actLanes s c cr d, d.hold s e = false) (ha : d.holdAll s (actLanes s c cr d) = false) :
    (Run.start s).issueWord d =
      (slotTaken s c (actLanes s c cr d).length).issueLanes c cr d (cr.group pc)
        (cr.fids.map (laneOf s c cr d)) := by
  have hL : ∀ P : Env → Prop, (∀ fid ∈ cr.fids, P (laneOf s c cr d fid)) →
      ∀ e ∈ cr.fids.map (laneOf s c cr d), P e := by
    intro P h e he
    obtain ⟨fid, hf, rfl⟩ := List.mem_map.mp he
    exact h fid hf
  have hg : groupOf c cr d (cr.fids.map (laneOf s c cr d)) = cr.group pc := by
    obtain ⟨x, l, hx⟩ := List.exists_cons_of_ne_nil R.some_
    have hpc : (laneOf s c cr d x).pc = pc := ((R.fibre (by simp [hx] : x ∈ cr.fids)).2).stands
    simp [groupOf, R.word, hd.waits, hx, hpc, Crew.group]
  have hw : ∀ e, waitsFor s (cr.group pc) d (cr.fids.map (laneOf s c cr d)) e =
      waitSet (cr.group pc) e.active false := by
    intro e; simp [waitsFor, hd.target, hd.drain, hd.drainIf]
  refine issueWord_idle d _ _ R.cur R.crew (R.envs d hd) hg R.runs R.preds ?_ (hL _ fun _ _ => rfl)
    (hL _ fun fid hf => ?_) (hL _ fun fid hf => ?_) (hL _ fun fid hf => ?_) (hL _ fun fid hf => ?_)
    (hL _ fun fid hf => ?_) hd.plain hs haw hh ha
  · rw [List.map_map]
    conv_rhs => rw [← List.map_id cr.fids]
    apply List.map_congr_left
    intro fid hf
    simp only [Function.comp, R.lane_f d hf, Fibre.now, Fibre.settle_fid]
    exact (R.fibre hf).2.ident
  · rw [R.lane_f d hf, Fibre.now, Fibre.settle_fence]
    exact (R.fibre hf).2.fence
  · rw [hw]; exact R.lane_idle d hf _
  · rw [R.lane_f d hf]; exact ((R.fibre hf).2.full).settle _
  · rw [hw]; exact fun n hn => ((R.fibre hf).2.idle _ n hn).get
  · simp only [laneOf, List.filter_map, List.map_map]
    rfl

/-- An active lane of a word passes every check before its effect. -/
structure Machine.Desc.Passes (d : Desc s0) (s : State) (e : Env) : Prop where
  legal : d.laneIlleg s e = none
  region : e.f.region = none ∨ d.noRegion = false
  away : d.away s e = none
  mask : d.full = true → maskCheck e = none
  clean : poisonReg d.uses e.v = none
  own : poisonOwn d e = none
  check : d.check s e = none

theorem plain_any {us : List Use} (h : us.all (fun u => !isQueue u.reg) = true) :
    us.any (fun u => isQueue u.reg) = false := by
  rw [List.any_eq_false]; rw [List.all_eq_true] at h
  intro u hu; have := h u hu; simp at this; simp [this]

theorem poisonElem_plain {us : List Use} (h : us.all (fun u => !isQueue u.reg) = true) (g : Gang)
    (hd : List (Nat × Nat)) (vs : List (List PW)) : poisonElem g hd us vs = none := by
  unfold poisonElem
  rw [List.findSome?_eq_none_iff]
  intro x hx
  have hm := (List.of_mem_zip (a := x.1) (b := x.2) hx).1
  have := List.all_eq_true.mp h x.1 (List.mem_of_mem_filter hm)
  simp only [Bool.not_eq_true'] at this
  simp [this]

theorem watch_none (r : Run s0) (site gk fid : Nat) (w : Bool) (cs : List Cand)
    (h : (r.s.site site).preds = []) : r.watch site gk fid w cs = (r, none) := by
  unfold Run.watch
  simp [h]

theorem passLane_ok (d : Desc s0) (plain : d.uses.all (fun u => !isQueue u.reg) = true) (p : Pass s0) (e : Env)
    (hv : e.v = operands p.r.s e.g e.f d.uses) (h : d.Passes p.r.s e)
    (hw : (p.r.s.site e.site).preds = []) : passLane d p e = { p with ok := p.ok ++ [e] } := by
  have hvs : (if d.eights.isSome = true then e.v else (d.uses.filter fun u => !u.dst).map fun u =>
      readUse p.r.s e.g e.f (KV.getD u.reg 0 p.heads) u) = e.v := by
    split
    · rfl
    · rw [hv]; unfold operands
      apply List.map_congr_left
      intro u hu
      have := List.all_eq_true.mp plain u (List.mem_of_mem_filter hu)
      exact readUse_plain (by simpa using this) _ _ _ _ _ _
  have hill : d.illegFail p.r.s none e = none := by simp [Desc.illegFail, h.legal]
  have hmask : (if d.full = true then maskCheck e else none) = none := by
    split
    · exact h.mask ‹_›
    · rfl
  have hheads : (if d.reads e = true then
      (queueSrcs d.uses).foldl (fun m n => KV.put n (KV.getD n 0 m + 1) m) p.heads
      else p.heads) = p.heads := by
    simp [(queues_plain plain).1]
  have hreg : ¬(e.f.region.isSome = true ∧ d.noRegion = true) := by
    rcases h.region with h | h <;> simp [h]
  unfold passLane
  simp only [hvs]
  simp only [hill, h.away, hmask, h.own, h.clean, poisonElem_plain plain, minReason, hreg, ite_self,
    if_false, watch_none p.r e.site _ _ _ _ hw, h.check, hheads]

/-- The lanes of a word before its effect: every lane has passed it (R163). -/
def stepped (s : State) (c : Cur) (d : Desc s) (acts idle : List Env) : Run s :=
  ((slotTaken s c acts.length).dropHints c).each (acts ++ idle) fun r e => r.advance d e

/-- The sticky flags that the lanes raise (R219). -/
def stuck (d : Desc s0) (acts : List Env) (r : Run s0) : Run s0 :=
  r.each acts fun r e => if d.exc e = 0 then r else r.updFibre e.key fun f => f.stick (d.exc e)

/-- What is left to do after the effect of a word (R154, R156, R360). -/
def settleCrew (c : Cur) (cr : Crew) (fall : VAddr) (r : Run s0) : Run s0 :=
  ((r.splitCrew c.site c.slot fall).each (cr.fids.map (fkey cr.gang)) fun r k => r.stopStep k).joinCrew
    c.site c.slot

theorem updFibre_sites (r : Run s0) (k : Nat) (f : Fibre → Fibre) : (r.updFibre k f).s.sites = r.s.sites := by
  unfold Run.updFibre; split <;> rfl

theorem afterLane_stuck (r : Run s0) (d : Desc s0) (s1 : State) (e : Env)
    (hw : (r.s.site e.site).preds = []) (hx : d.exc e &&& e.g.ten = 0) :
    r.afterLane d s1 e =
      (if d.exc e = 0 then r else r.updFibre e.key fun f => f.stick (d.exc e), none, none) := by
  unfold Run.afterLane
  have hw' : ∀ q : Run s0, q.s.sites = r.s.sites → (q.s.site e.site).preds = [] := by
    intro q hq; rw [State.site, hq]; exact hw
  have : ((if d.exc e = 0 then r else r.updFibre e.key fun f => f.stick (d.exc e)).s.site e.site).preds = [] := by
    apply hw'
    split
    · rfl
    · exact updFibre_sites _ _ _
  simp only [watch_none _ _ _ _ _ _ this, hx, if_true]

theorem after_all (d : Desc s0) (s1 : State) (acts : List Env) (r : Run s0) (site : Nat)
    (hs : ∀ e ∈ acts, e.site = site) (hw : (r.s.site site).preds = [])
    (hx : ∀ e ∈ acts, d.exc e &&& e.g.ten = 0) (fs : List Fail) (hs' : List (Nat × Fired)) :
    acts.foldl (fun (a : Run s0 × List Fail × List (Nat × Fired)) e =>
      let y := a.1.afterLane d s1 e
      (y.1, a.2.1 ++ y.2.1.toList, a.2.2 ++ y.2.2.toList)) (r, fs, hs') = (stuck d acts r, fs, hs') := by
  induction acts generalizing r with
  | nil => rfl
  | cons e t ih =>
    rw [List.foldl_cons]
    have he : e.site = site := hs e (by simp)
    rw [afterLane_stuck r d s1 e (by rw [he]; exact hw) (hx e (by simp))]
    simp only [Option.toList_none, List.append_nil]
    rw [ih]
    · rfl
    · exact fun e he => hs e (by simp [he])
    · split
      · exact hw
      · rw [State.site, updFibre_sites]; exact hw
    · exact fun e he => hx e (by simp [he])

theorem doHalts_nil (r : Run s0) (site gk : Nat) (crew : List Nat) (a : Bool) :
    r.doHalts site gk crew [] a = r := rfl

theorem passes_all (d : Desc s0) (hd : d.Simple) (acts : List Env) (r : Run s0) (ok : List Env)
    (hv : ∀ e ∈ acts, e.v = operands r.s e.g e.f d.uses) (h : ∀ e ∈ acts, d.Passes r.s e)
    (hw : ∀ e ∈ acts, (r.s.site e.site).preds = []) :
    acts.foldl (passLane d) { r := r, ok := ok } = { r := r, ok := ok ++ acts } := by
  induction acts generalizing ok with
  | nil => simp
  | cons e t ih =>
    rw [List.foldl_cons, passLane_ok d hd.plain { r := r, ok := ok } e (hv e (by simp)) (h e (by simp)) (hw e (by simp))]
    rw [ih]
    · simp
    · exact fun e he => hv e (by simp [he])
    · exact fun e he => h e (by simp [he])
    · exact fun e he => hw e (by simp [he])

theorem Ready.issueLanes (R : Ready s c cr pc lr) (d : Desc s) (hd : d.Simple)
    (hs : staticErr d (cr.group pc) (s.gang cr.gang) (actLanes s c cr d).length = none)
    (hp : ∀ e ∈ actLanes s c cr d, d.Passes (slotTaken s c (actLanes s c cr d).length).s e)
    (hx : ∀ e ∈ actLanes s c cr d, d.exc e &&& e.g.ten = 0)
    (hw : ((d.act (stepped s c d (actLanes s c cr d) (idleLanes s c cr d)) (actLanes s c cr d)).s.site
      c.site).preds = []) :
    (slotTaken s c (actLanes s c cr d).length).issueLanes c cr d (cr.group pc)
        (cr.fids.map (laneOf s c cr d)) =
      settleCrew c cr (pc + 4) (stuck d (actLanes s c cr d)
        (d.act (stepped s c d (actLanes s c cr d) (idleLanes s c cr d)) (actLanes s c cr d))) := by
  obtain ⟨x, l, hl⟩ := List.exists_cons_of_ne_nil R.some_
  have hpc : (laneOf s c cr d x).pc = pc := ((R.fibre (by simp [hl] : x ∈ cr.fids)).2).stands
  have hfall : (((cr.fids.map (laneOf s c cr d)).head?.map fun e => e.pc + 4).getD 0) = pc + 4 := by
    simp [hl, hpc]
  have hsite : ∀ e ∈ actLanes s c cr d, e.site = c.site := by
    intro e he
    obtain ⟨fid, _, rfl⟩ := List.mem_map.mp (List.mem_of_mem_filter he)
    rfl
  have hv : ∀ e ∈ actLanes s c cr d,
      e.v = operands (slotTaken s c (actLanes s c cr d).length).s e.g e.f d.uses := by
    intro e he
    obtain ⟨fid, _, rfl⟩ := List.mem_map.mp (List.mem_of_mem_filter he)
    unfold operands
    simp only [laneOf, operands]
    apply List.map_congr_left
    intro u hu
    have := List.all_eq_true.mp hd.plain u (List.mem_of_mem_filter hu)
    exact readUse_plain (by simpa using this) _ _ _ _ _ _
  have hpass := passes_all d hd (actLanes s c cr d) (slotTaken s c (actLanes s c cr d).length) [] hv hp
    (fun e he => by rw [hsite e he, slotTaken_preds _ _ _ R.crew]; exact R.preds)
  unfold Run.issueLanes
  have hg : (slotTaken s c (actLanes s c cr d).length).s.gang cr.gang = s.gang cr.gang := slotTaken_gang _ _ _ _ R.crew
  have ha : (cr.fids.map (laneOf s c cr d)).filter Env.active = actLanes s c cr d := rfl
  have hi : ((cr.fids.map (laneOf s c cr d)).filter fun e => !e.active) = idleLanes s c cr d := rfl
  have hall : (actLanes s c cr d).filter (fun e => !(actLanes s c cr d).any fun x => decide (x.key = e.key)) = [] := by
    rw [List.filter_eq_nil_iff]
    intro e he
    simp only [Bool.not_eq_true, Bool.not_eq_false', List.any_eq_true]
    exact ⟨e, he, by simp⟩
  simp only [ha, hi, hg, hs, hpass, hall, List.nil_append, List.any_nil, Bool.false_eq_true, if_false, ne_eq,
    not_true_eq_false, or_self, and_false, List.map_nil, List.append_nil, each_nil, R.word, hfall]
  unfold Run.perform
  simp only [each_nil, List.append_nil]
  have hpop : ¬(queueSrcs d.uses ≠ [] ∧ (actLanes s c cr d).any d.reads = true) := by
    simp [(queues_plain hd.plain).1]
  have htake : ∀ (r : Run s) e, r.takeElems d.uses e = r := by
    intro r e; unfold Run.takeElems; rw [(queues_plain hd.plain).1]; rfl
  simp only [htake, ite_self, each_id, hpop, if_false]
  have hall := after_all d (slotTaken s c (actLanes s c cr d).length).s (actLanes s c cr d)
    (d.act (stepped s c d (actLanes s c cr d) (idleLanes s c cr d)) (actLanes s c cr d)) c.site hsite hw hx [] []
  unfold stepped at hall
  rw [hall]
  simp only [raise_nil, doHalts_nil]
  rfl

theorem Ready.run (R : Ready s c cr pc lr) (d : Desc s) (hd : d.Simple)
    (hs : staticErr d (cr.group pc) (s.gang cr.gang) (actLanes s c cr d).length = none)
    (haw : ∀ e ∈ actLanes s c cr d, d.away s e = none)
    (hh : ∀ e ∈ actLanes s c cr d, d.hold s e = false) (ha : d.holdAll s (actLanes s c cr d) = false)
    (hp : ∀ e ∈ actLanes s c cr d, d.Passes (slotTaken s c (actLanes s c cr d).length).s e)
    (hx : ∀ e ∈ actLanes s c cr d, d.exc e &&& e.g.ten = 0)
    (hw : ((d.act (stepped s c d (actLanes s c cr d) (idleLanes s c cr d)) (actLanes s c cr d)).s.site
      c.site).preds = []) :
    runWord s d = .next (settleCrew c cr (pc + 4) (stuck d (actLanes s c cr d)
        (d.act (stepped s c d (actLanes s c cr d) (idleLanes s c cr d)) (actLanes s c cr d)))).s := by
  unfold runWord
  rw [R.issueWord d hd hs haw hh ha, R.issueLanes d hd hs hp hx hw]
  rfl

/-- What a sequence of changes to one fibre each comes to. -/
theorem each_keys {α : Type} (key : α → Nat) (st : Run s0 → α → Run s0) (G : α → Fibre → Fibre)
    (l : List α)
    (h1 : ∀ a ∈ l, ∀ r, (st r a).s = { r.s with fibres := (st r a).s.fibres })
    (h2 : ∀ a ∈ l, ∀ r k, k ≠ key a → KV.find? k (st r a).s.fibres = KV.find? k r.s.fibres)
    (h3 : ∀ a ∈ l, ∀ r f, KV.find? (key a) r.s.fibres = some f →
      KV.find? (key a) (st r a).s.fibres = some (G a f))
    (hl : (l.map key).Nodup) (r : Run s0) :
    (r.each l st).s = { r.s with fibres := (r.each l st).s.fibres } ∧
    (∀ k, k ∉ l.map key → KV.find? k (r.each l st).s.fibres = KV.find? k r.s.fibres) ∧
    (∀ a ∈ l, ∀ f, KV.find? (key a) r.s.fibres = some f →
      KV.find? (key a) (r.each l st).s.fibres = some (G a f)) := by
  induction l generalizing r with
  | nil => exact ⟨rfl, fun _ _ => rfl, fun _ h => by simp at h⟩
  | cons x t ih =>
    simp only [List.map_cons, List.nodup_cons] at hl
    obtain ⟨i1, i2, i3⟩ := ih (fun a ha => h1 a (List.mem_cons_of_mem _ ha))
      (fun a ha => h2 a (List.mem_cons_of_mem _ ha)) (fun a ha => h3 a (List.mem_cons_of_mem _ ha)) hl.2 (st r x)
    have hx : x ∈ x :: t := by simp
    have he : r.each (x :: t) st = (st r x).each t st := rfl
    rw [he]
    refine ⟨?_, ?_, ?_⟩
    · rw [i1, h1 x hx r]
    · intro k hk
      simp only [List.map_cons, List.mem_cons, not_or] at hk
      rw [i2 k hk.2, h2 x hx r k hk.1]
    · intro a ha f hf
      rcases List.mem_cons.mp ha with rfl | ha
      · rw [i2 _ hl.1]; exact h3 a hx r f hf
      · refine i3 a ha f ?_
        rw [h2 x hx r _ ?_]
        · exact hf
        · rintro h; exact hl.1 (h ▸ List.mem_map_of_mem ha)

/-! ### The tail of a word -/

theorem splitCrew_same (r : Run s0) (site slot : Nat) (fall p : VAddr)
    (h : ∀ cr, KV.find? (ckey site slot) r.s.crews = some cr →
      ∀ fid ∈ cr.fids, (r.s.fibre (fkey cr.gang fid)).pc = p) : r.splitCrew site slot fall = r := by
  unfold Run.splitCrew
  split
  · rfl
  · rename_i cr hc
    have hp := h cr hc
    simp only
    generalize hms : (cr.fids.map fun fid => (fkey cr.gang fid, (r.s.fibre (fkey cr.gang fid)).pc)) = ms
    have hm : ∀ m ∈ ms, m.2 = p := by
      intro m hm
      rw [← hms] at hm
      obtain ⟨fid, hf, rfl⟩ := List.mem_map.mp hm
      exact hp fid hf
    have best : ∀ (l : List (Nat × VAddr)) (F : VAddr → VAddr → Prop) [DecidableRel F] (b : Option VAddr), (∀ m ∈ l, m.2 = p) →
        (b = none ∨ b = some p) → (l ≠ [] ∨ b = some p) →
        l.foldl (fun (b : Option VAddr) m => match b with
          | none => some m.2
          | some y => if F y m.2 then some m.2 else b) b = some p := by
      intro l F _
      induction l with
      | nil => intro b _ _ h; simpa using h
      | cons x t ih =>
        intro b hl hb _
        rw [List.foldl_cons]
        refine ih _ (fun m hm => hl m (by simp [hm])) ?_ (Or.inr ?_)
        · right; rcases hb with rfl | rfl
          · simp [hl x (by simp)]
          · simp only; split
            · rw [hl x (by simp)]
            · rfl
        · rcases hb with rfl | rfl
          · simp [hl x (by simp)]
          · simp only; split
            · rw [hl x (by simp)]
            · rfl
    have hf : ∀ b : Option VAddr, (ms ≠ [] → b = some p) → ms.filter (fun m => decide (some m.2 ≠ b)) = [] := by
      intro b hb
      rw [List.filter_eq_nil_iff]
      intro m hm'
      simp [hm m hm', hb (List.ne_nil_of_mem hm')]
    rw [hf]
    · rfl
    · exact fun hne => best ms (fun y z => (ms.filter fun m => decide (m.2 = y)).length <
          (ms.filter fun m => decide (m.2 = z)).length ∨
        ((ms.filter fun m => decide (m.2 = y)).length = (ms.filter fun m => decide (m.2 = z)).length ∧
          y ≠ fall ∧ z = fall)) none hm (Or.inl rfl) (Or.inl hne)

theorem stopStep_same (r : Run s0) (k : Nat) (h : (r.s.fibre k).stepping = false)
    (h' : (r.s.fibre k).toHalt = none) : r.stopStep k = r := by
  unfold Run.stopStep; simp [h, h', Fibre.stepped]

theorem KV.find?_of_mem {α : Type} {m : List (Nat × α)} {k : Nat} {v : α} (h : KV.sorted m = true)
    (hm : (k, v) ∈ m) : KV.find? k m = some v := by
  have : ∀ (m : List (Nat × α)) (lo : Nat), KV.sortedFrom lo m = true → (k, v) ∈ m →
      lo ≤ k ∧ KV.find? k m = some v := by
    intro m
    induction m with
    | nil => intro _ _ h; simp at h
    | cons x t ih =>
      obtain ⟨j, w⟩ := x
      intro lo hs hm
      simp only [KV.sortedFrom, Bool.and_eq_true, decide_eq_true_eq] at hs
      rcases List.mem_cons.mp hm with h | h
      · cases h; exact ⟨hs.1, by simp [KV.find?]⟩
      · have := ih _ hs.2 h
        refine ⟨by omega, ?_⟩
        rw [KV.find?, if_neg (by omega), if_neg (by omega)]
        exact this.2
  exact (this m 0 h hm).2

theorem oldest_mem {l : List (Nat × Fibre)} {x : Nat × Fibre} (h : oldest l = some x) : x ∈ l := by
  have : ∀ (l : List (Nat × Fibre)) (b : Option (Nat × Fibre)) (x : Nat × Fibre),
      l.foldl (fun b x => match b with
        | none => some x
        | some y => if y.2.age < x.2.age ∨ (y.2.age = x.2.age ∧ x.2.fid < y.2.fid) then some x else b) b = some x →
      x ∈ l ∨ b = some x := by
    intro l
    induction l with
    | nil => intro b x h; exact Or.inr h
    | cons y t ih =>
      intro b x h
      rw [List.foldl_cons] at h
      rcases ih _ _ h with h | h
      · exact Or.inl (by simp [h])
      · cases b with
        | none => simp only [Option.some.injEq] at h; exact Or.inl (by simp [h])
        | some z =>
          simp only at h
          split at h
          · simp only [Option.some.injEq] at h; exact Or.inl (by simp [h])
          · exact Or.inr h
  rcases this l none x h with h | h
  · exact h
  · simp at h

theorem lanesOf_pos (site : Nat) : 0 < lanesOf site := by unfold lanesOf; split <;> decide

theorem mem_laneOrder {site fid : Nat} {l : List Nat} (h : fid ∈ l) : fid ∈ laneOrder site l := by
  unfold laneOrder
  rw [List.mem_flatMap]
  exact ⟨fid % lanesOf site, List.mem_range.mpr (Nat.mod_lt _ (lanesOf_pos site)), by simp [h]⟩

/-- R154: what the fibres that join a crew change. -/
structure Joined (s t : State) (site k0 : Nat) : Prop where
  rest : t = { s with fibres := t.fibres, crews := t.crews, sites := t.sites }
  sites : t.sites = s.sites ∨ ∃ w, t.sites = KV.put site { s.site site with waits := w } s.sites
  crews : ∀ k, k ≠ k0 → KV.find? k t.crews = KV.find? k s.crews
  fibres : ∀ k, (KV.find? k t.fibres).map (fun f => { f with slot := none }) =
    (KV.find? k s.fibres).map (fun f => { f with slot := none })
  members : ∀ k f, KV.find? k s.fibres = some f → f.slot ≠ none → KV.find? k t.fibres = some f
  crew : ∀ cr, KV.find? k0 s.crews = some cr →
    ∃ cr', KV.find? k0 t.crews = some cr' ∧ cr'.gang = cr.gang ∧ cr'.hints = cr.hints ∧
      ∀ fid ∈ cr.fids, fid ∈ cr'.fids

theorem Joined.refl (s : State) (site k0 : Nat) : Joined s s site k0 :=
  ⟨rfl, Or.inl rfl, fun _ _ => rfl, fun _ => rfl, fun _ _ h _ => h, fun cr h => ⟨cr, h, rfl, rfl, fun _ h => h⟩⟩

theorem Joined.add {s : State} {q : Run s0} {site k0 slot k : Nat} {f : Fibre} {c' : Crew} (F : List Nat → List Nat)
    (J : Joined s q.s site k0) (hf : KV.find? k s.fibres = some f) (hs : f.slot = none)
    (hc : KV.find? k0 q.s.crews = some c') (hfid : ∀ l : List Nat, ∀ x ∈ l, x ∈ F l) :
    Joined s (((q.updFibre k fun f => { f with slot := some slot }).waited site k).updCrew k0 fun c =>
      { c with fids := F c.fids }).s site k0 := by
  have e1 : (((q.updFibre k fun f => { f with slot := some slot }).waited site k).updCrew k0 fun c =>
      { c with fids := F c.fids }).s.fibres
      = (q.updFibre k fun f => { f with slot := some slot }).s.fibres := rfl
  have e0 : (q.updFibre k fun f => { f with slot := some slot }).s.crews = q.s.crews := by
    unfold Run.updFibre; split <;> rfl
  have e2 : (((q.updFibre k fun f => { f with slot := some slot }).waited site k).updCrew k0 fun c =>
      { c with fids := F c.fids }).s.crews = KV.put k0 { c' with fids := F c'.fids } q.s.crews := by
    unfold Run.updCrew Run.waited Run.updSite
    simp only [Run.mod, State.keep, e0, KV.update, hc]
  have e3 : (((q.updFibre k fun f => { f with slot := some slot }).waited site k).updCrew k0 fun c =>
      { c with fids := F c.fids }).s.sites =
      KV.put site { q.s.site site with waits := KV.del k (q.s.site site).waits } q.s.sites := by
    change KV.put site { (q.updFibre k fun f => { f with slot := some slot }).s.site site with
      waits := KV.del k ((q.updFibre k fun f => { f with slot := some slot }).s.site site).waits }
      (q.updFibre k fun f => { f with slot := some slot }).s.sites = _
    rw [updFibre_rest]; rfl
  refine ⟨?_, ?_, ?_, ?_, ?_, ?_⟩
  · unfold Run.updCrew Run.waited Run.updSite
    simp only [Run.mod, State.keep]
    rw [updFibre_rest, J.rest]
  · right
    rw [e3]
    rcases J.sites with h | ⟨w, h⟩
    · have e : q.s.site site = s.site site := by rw [State.site, h]; rfl
      exact ⟨KV.del k (s.site site).waits, by rw [e, h]⟩
    · have e : q.s.site site = { s.site site with waits := w } := by
        rw [State.site, KV.getD, h, KV.find?_put_self]; rfl
      exact ⟨KV.del k w, by rw [e, h, KV.put_put]⟩
  · intro j hj
    rw [e2, KV.find?_put_ne hj]; exact J.crews j hj
  · intro j
    rw [e1]
    by_cases hj : j = k
    · subst hj
      have := J.fibres j
      rw [hf] at this
      rcases hq : KV.find? j q.s.fibres with _ | g
      · rw [hq] at this; simp at this
      · rw [updFibre_self _ _ _ g hq, hf]
        rw [hq] at this
        simpa using this
    · rw [updFibre_ne _ _ _ _ hj]; exact J.fibres j
  · intro j g hg hgs
    rw [e1]
    have hj : j ≠ k := by
      rintro rfl
      rw [hf] at hg; cases hg; exact hgs hs
    rw [updFibre_ne _ _ _ _ hj]; exact J.members j g hg hgs
  · intro cr hcr
    obtain ⟨cr', h1, h2, h3, h4⟩ := J.crew cr hcr
    rw [hc] at h1; cases h1
    exact ⟨{ c' with fids := F c'.fids }, by rw [e2]; exact KV.find?_put_self _ _ _, h2, h3, fun x hx => hfid _ x (h4 x hx)⟩

theorem each_inv {α : Type} (P : Run s0 → Prop) (f : Run s0 → α → Run s0) (l : List α) (r : Run s0)
    (h : P r) (hf : ∀ q a, P q → P (f q a)) : P (r.each l f) := by
  unfold Run.each
  induction l generalizing r with
  | nil => exact h
  | cons x t ih => exact ih _ (hf r x h)

theorem joinCrew_joined (r : Run s0) (site slot : Nat) (hs : KV.sorted r.s.fibres = true) :
    Joined r.s (r.joinCrew site slot).s site (ckey site slot) := by
  unfold Run.joinCrew
  split
  · exact Joined.refl _ _ _
  · rename_i cr hc
    split
    · exact Joined.refl _ _ _
    · simp only
      split
      · exact Joined.refl _ _ _
      · split
        · exact Joined.refl _ _ _
        · refine each_inv (fun q => Joined r.s q.s site (ckey site slot)) _ _ _ (Joined.refl _ _ _) ?_
          intro q l J
          split
          · exact J
          · rename_i c' hc'
            split
            · exact J
            · split
              · exact J
              · rename_i x hx
                have hm := List.mem_of_mem_filter (List.mem_of_mem_filter (oldest_mem hx))
                have hslot : x.2.slot = none := by
                  have := List.of_mem_filter (List.mem_of_mem_filter (oldest_mem hx))
                  simp only [Fibre.formable, Bool.and_eq_true, decide_eq_true_eq] at this
                  exact this.1.1.1.1.1.1.1.1
                exact J.add (fun l => laneOrder site (x.2.fid :: l)) (KV.find?_of_mem hs (List.mem_of_mem_filter hm))
                  hslot hc' fun l y hy => mem_laneOrder (List.mem_cons_of_mem _ hy)

/-! ### What a word of the crew comes to, lane by lane -/

theorem fkey_inj {g a b : Nat} (h : fkey g a = fkey g b) : a = b := by unfold fkey at h; omega

theorem Ready.fids (R : Ready s c cr pc lr) : cr.fids.Nodup := List.Nodup.of_map _ R.lanes

theorem Ready.keys (R : Ready s c cr pc lr) (d : Desc s0) :
    (((cr.fids.map (laneOf s c cr d))).map Env.key).Nodup := by
  rw [List.map_map]
  exact R.fids.map fun a b h => fkey_inj h

theorem Ready.keys_split (R : Ready s c cr pc lr) (d : Desc s0) :
    ((actLanes s c cr d ++ idleLanes s c cr d).map Env.key).Nodup := by
  have hp : (actLanes s c cr d ++ idleLanes s c cr d).Perm (cr.fids.map (laneOf s c cr d)) := by
    unfold actLanes idleLanes
    exact List.filter_append_perm _ _
  exact (hp.map _).nodup_iff.mpr (R.keys d)

theorem Ready.keys_act (R : Ready s c cr pc lr) (d : Desc s0) : ((actLanes s c cr d).map Env.key).Nodup := by
  have := R.keys_split d
  rw [List.map_append] at this
  exact (List.nodup_append.mp this).1

/-- The fibre of a lane that has passed the word. -/
theorem Ready.advance (R : Ready s c cr pc lr) (d : Desc s) (hd : d.Simple) (r : Run s) {fid : Nat}
    (h : fid ∈ cr.fids) :
    r.advance d (laneOf s c cr d fid) = r.setFibre (fkey cr.gang fid)
      ((s.fibre (fkey cr.gang fid)).passed (cr.group pc) (laneOf s c cr d fid).active) := by
  have m := (R.fibre h).2
  have hf := R.lane_f d h
  have h1 : (laneOf s c cr d fid).now = (s.fibre (fkey cr.gang fid)).count + 1 + (cr.group pc).dist := by
    simp [laneOf, mkEnv, R.word, Crew.group, m.stands]
  have h2 : (laneOf s c cr d fid).sig = (cr.group pc).sig := by
    simp [laneOf, mkEnv, R.word, Crew.group, m.stands]
  have h3 : (laneOf s c cr d fid).body = false := R.word
  have h4 : (laneOf s c cr d fid).next d = (s.fibre (fkey cr.gang fid)).pc + 4 := by
    simp only [Env.next, hd.target]; rfl
  have h5 : (laneOf s c cr d fid).key = fkey cr.gang fid := rfl
  unfold Run.advance Fibre.passed
  simp only [h1, h2, h3, h4, h5, hf, Bool.false_eq_true, if_false]

theorem advance_eq (r : Run s0) (d : Desc s0) (e : Env) :
    ∃ x, r.advance d e = r.setFibre e.key x := ⟨_, rfl⟩

theorem spent_lanes (s : State) (cr : Crew) (R : Ready s c cr pc lr) (d : Desc s0) (hd : d.branch = false) :
    (actLanes s c cr d).length = (s.active cr pc d.guard).length := by
  unfold actLanes State.active State.members
  rw [List.filter_map, List.map_map, List.filter_map, List.length_map, List.length_map]
  congr 1
  apply List.filter_congr
  intro fid h
  have : (laneOf s c cr d fid).active = guardOk d.guard (laneOf s c cr d fid).f := by
    simp [laneOf, mkEnv, hd]
  simp only [Function.comp, this, R.lane_f d h]

/-- A change of a fibre that leaves where it stands and what it belongs to. -/
structure Keeps (F : Fibre → Fibre) : Prop where
  pc : ∀ x, (F x).pc = x.pc
  slot : ∀ x, (F x).slot = x.slot
  stepping : ∀ x, (F x).stepping = x.stepping
  toHalt : ∀ x, (F x).toHalt = x.toHalt

theorem Keeps.stick (b : BitVec 5) : Keeps fun f => f.stick b := ⟨fun _ => rfl, fun _ => rfl, fun _ => rfl, fun _ => rfl⟩
theorem Keeps.comp {F G : Fibre → Fibre} (hF : Keeps F) (hG : Keeps G) : Keeps fun x => G (F x) :=
  ⟨fun x => by rw [hG.pc, hF.pc], fun x => by rw [hG.slot, hF.slot], fun x => by rw [hG.stepping, hF.stepping],
    fun x => by rw [hG.toHalt, hF.toHalt]⟩

theorem passed_keeps (f : Fibre) (h : Hints) (a : Bool) :
    (f.passed h a).pc = f.pc + 4 ∧ (f.passed h a).slot = f.slot ∧ (f.passed h a).stepping = f.stepping ∧
      (f.passed h a).toHalt = f.toHalt := by
  unfold Fibre.passed Fibre.now Fibre.setFlag
  split <;> simp

/-- The effect of a word on the fibre of a lane, its flags among it. -/
def laneEff (d : Desc s0) (F : Env → Fibre → Fibre) (e : Env) (x : Fibre) : Fibre :=
  if d.exc e = 0 then F e x else (F e x).stick (d.exc e)

theorem keeps_laneEff (d : Desc s0) {F : Env → Fibre → Fibre} {e : Env} (h : Keeps (F e)) :
    Keeps (laneEff d F e) := by
  unfold laneEff
  split
  · exact h
  · exact h.comp (Keeps.stick _)

theorem Ready.lanesEff (R : Ready s c cr pc lr) (d : Desc s) (hd : d.Simple)
    (hs : staticErr d (cr.group pc) (s.gang cr.gang) (s.active cr pc d.guard).length = none)
    (haw : ∀ e ∈ actLanes s c cr d, d.away s e = none)
    (hh : ∀ e ∈ actLanes s c cr d, d.hold s e = false) (ha : d.holdAll s (actLanes s c cr d) = false)
    (hp : ∀ e ∈ actLanes s c cr d, d.Passes (slotTaken s c (actLanes s c cr d).length).s e)
    (hx : ∀ e ∈ actLanes s c cr d, d.exc e &&& e.g.ten = 0)
    (F : Env → Fibre → Fibre) (hF : ∀ e, Keeps (F e))
    (hact : ∀ r, d.act r (actLanes s c cr d) =
      r.each (actLanes s c cr d) fun r e => r.updFibre e.key (F e))
    (eff : Fibre → Fibre → Fibre)
    (he : ∀ fid ∈ cr.fids, guardOk d.guard ((s.fibre (fkey cr.gang fid)).now (cr.group pc)) = true →
      laneEff d F (laneOf s c cr d fid) ((s.fibre (fkey cr.gang fid)).passed (cr.group pc) true) =
        eff ((s.fibre (fkey cr.gang fid)).now (cr.group pc)) ((s.fibre (fkey cr.gang fid)).passed (cr.group pc) true)) :
    ∃ t, runWord s d = .next t ∧ Lanes s t c cr pc d.guard eff := by
  have hlen := spent_lanes s cr R d hd.branch
  rw [← hlen] at hs
  set A := actLanes s c cr d with hA
  set I := idleLanes s c cr d with hI
  -- the three passes over the lanes
  have hlane : ∀ e ∈ A ++ I, ∃ fid ∈ cr.fids, e = laneOf s c cr d fid := by
    intro e he
    rcases List.mem_append.mp he with h | h
    · obtain ⟨fid, hf, rfl⟩ := List.mem_map.mp (List.mem_of_mem_filter h); exact ⟨fid, hf, rfl⟩
    · obtain ⟨fid, hf, rfl⟩ := List.mem_map.mp (List.mem_of_mem_filter h); exact ⟨fid, hf, rfl⟩
  have q0 := slotTaken_find s c A.length R.crew
  set r0 := (slotTaken s c A.length).dropHints c with hr0
  obtain ⟨a1, a2, a3⟩ := each_keys (s0 := s) Env.key (fun r e => r.advance d e)
    (fun e _ => (s.fibre e.key).passed (cr.group pc) e.active) (A ++ I)
    (fun e _ r => by obtain ⟨x, hx⟩ := advance_eq r d e; rw [hx]; rfl)
    (fun e _ r k hk => by obtain ⟨x, hx⟩ := advance_eq r d e; rw [hx]; exact KV.find?_put_ne hk _ _)
    (fun e hm r f _ => by
      obtain ⟨fid, hf, rfl⟩ := hlane e hm
      rw [R.advance d hd r hf]; exact KV.find?_put_self _ _ _) (R.keys_split d) r0
  obtain ⟨b1, b2, b3⟩ := each_keys (s0 := s) Env.key (fun r e => r.updFibre e.key (F e)) F A
    (fun e _ r => updFibre_rest r _ _) (fun e _ r k hk => updFibre_ne r _ _ _ hk)
    (fun e _ r f hf => updFibre_self r _ _ f hf) (R.keys_act d) (stepped s c d A I)
  obtain ⟨c1, c2, c3⟩ := each_keys (s0 := s) Env.key
    (fun r e => if d.exc e = 0 then r else r.updFibre e.key fun f => f.stick (d.exc e))
    (fun e f => if d.exc e = 0 then f else f.stick (d.exc e)) A
    (fun e _ r => by split; rfl; exact updFibre_rest r _ _)
    (fun e _ r k hk => by split; rfl; exact updFibre_ne r _ _ _ hk)
    (fun e _ r f hf => by split; exact hf; exact updFibre_self r _ _ f hf) (R.keys_act d)
    (d.act (stepped s c d A I) A)
  have hstep : stepped s c d A I = r0.each (A ++ I) fun r e => r.advance d e := rfl
  have hstuck : (d.act (stepped s c d A I) A).each A
      (fun r e => if d.exc e = 0 then r else r.updFibre e.key fun f => f.stick (d.exc e)) =
      stuck d A (d.act (stepped s c d A I) A) := rfl
  rw [← hact] at b1 b2 b3
  rw [hstuck] at c1 c2 c3
  rw [← hstep] at a1 a2 a3
  set r3 := stuck d A (d.act (stepped s c d A I) A) with hr3
  have hrest : r3.s = { s with
      fibres := r3.s.fibres
      crews := r0.s.crews
      sites := KV.put c.site ((s.site c.site).spent c.site A.length) s.sites } := by
    have hr : r0.s = { s with
        fibres := r0.s.fibres
        crews := r0.s.crews
        sites := KV.put c.site ((s.site c.site).spent c.site A.length) s.sites } := by
      rw [hr0]
      have hdrop : ∀ q : Run s, (q.dropHints c).s = { q.s with crews := (q.dropHints c).s.crews } := fun _ => rfl
      rw [hdrop]
      have := slotTaken_rest s c A.length R.crew
      generalize (slotTaken s c A.length).dropHints c = q at *
      rw [this]
    rw [c1, b1, a1, hr]
  have hw : ((d.act (stepped s c d A I) A).s.site c.site).preds = [] := by
    rw [b1, a1]
    change ((slotTaken s c A.length).s.site c.site).preds = []
    rw [slotTaken_preds _ _ _ R.crew]; exact R.preds
  have hrun := R.run d hd hs haw hh ha hp hx hw
  rw [← hA, ← hI, ← hr3] at hrun
  -- each lane's fibre
  have hfib : ∀ fid ∈ cr.fids, KV.find? (fkey cr.gang fid) r3.s.fibres = some
      (if guardOk d.guard ((s.fibre (fkey cr.gang fid)).now (cr.group pc)) then
        eff ((s.fibre (fkey cr.gang fid)).now (cr.group pc)) ((s.fibre (fkey cr.gang fid)).passed (cr.group pc) true)
      else (s.fibre (fkey cr.gang fid)).passed (cr.group pc) false) := by
    intro fid hf
    have hact' : (laneOf s c cr d fid).active = guardOk d.guard ((s.fibre (fkey cr.gang fid)).now (cr.group pc)) := by
      rw [← R.lane_f d hf]; simp [laneOf, mkEnv, hd.branch]
    have hin : laneOf s c cr d fid ∈ cr.fids.map (laneOf s c cr d) := List.mem_map_of_mem hf
    obtain ⟨f0, h0⟩ : ∃ x, KV.find? (fkey cr.gang fid) r0.s.fibres = some x := by
      have := slotTaken_fibres s c A.length (fkey cr.gang fid) R.crew
      rw [(R.fibre hf).1] at this
      exact ⟨_, this⟩
    by_cases hg : guardOk d.guard ((s.fibre (fkey cr.gang fid)).now (cr.group pc)) = true
    · have hm : laneOf s c cr d fid ∈ A := List.mem_filter.mpr ⟨hin, by rw [hact']; exact hg⟩
      have x1 := a3 _ (List.mem_append_left _ hm) _ h0
      have x2 := b3 _ hm _ x1
      have x3 := c3 _ hm _ x2
      rw [if_pos hg, ← he fid hf hg]
      change KV.find? (laneOf s c cr d fid).key r3.s.fibres = _
      rw [x3]
      rw [hact', hg]
      simp only [laneEff]
      split <;> rfl
    · have hm : laneOf s c cr d fid ∈ I := List.mem_filter.mpr ⟨hin, by rw [hact']; simpa using hg⟩
      have hn : (laneOf s c cr d fid).key ∉ A.map Env.key := by
        intro h
        have := R.keys_split d
        rw [List.map_append, List.nodup_append] at this
        exact this.2.2 _ h _ (List.mem_map_of_mem hm) rfl
      have x1 := a3 _ (List.mem_append_right _ hm) _ h0
      rw [if_neg hg]
      change KV.find? (laneOf s c cr d fid).key r3.s.fibres = _
      rw [c2 _ hn, b2 _ hn, x1, hact']
      simp only [Bool.not_eq_true] at hg
      rw [hg]
      rfl
  have hz : ∀ fid ∈ cr.fids, ∃ x, KV.find? (fkey cr.gang fid) r3.s.fibres = some x ∧ x.pc = pc + 4 ∧
      x.slot = some c.slot ∧ x.stepping = false ∧ x.toHalt = none := by
    intro fid hf
    refine ⟨_, hfib fid hf, ?_⟩
    have m := (R.fibre hf).2
    by_cases hg : guardOk d.guard ((s.fibre (fkey cr.gang fid)).now (cr.group pc)) = true
    · rw [if_pos hg, ← he fid hf hg, (keeps_laneEff d (hF _)).pc, (keeps_laneEff d (hF _)).slot,
        (keeps_laneEff d (hF _)).stepping, (keeps_laneEff d (hF _)).toHalt, (passed_keeps _ _ _).1,
        (passed_keeps _ _ _).2.1, (passed_keeps _ _ _).2.2.1, (passed_keeps _ _ _).2.2.2, m.stands, m.slot,
        m.steps, m.halts]
      exact ⟨rfl, rfl, rfl, rfl⟩
    · rw [if_neg hg, (passed_keeps _ _ _).1, (passed_keeps _ _ _).2.1,
        (passed_keeps _ _ _).2.2.1, (passed_keeps _ _ _).2.2.2, m.stands, m.slot, m.steps, m.halts]
      exact ⟨rfl, rfl, rfl, rfl⟩
  have hcrew : KV.find? (ckey c.site c.slot) r3.s.crews = some { cr with hints := none, stall := 0 } := by
    rw [hrest]; exact q0.1
  -- the tail
  have htail : settleCrew c cr (pc + 4) r3 = r3.joinCrew c.site c.slot := by
    have e1 : r3.splitCrew c.site c.slot (pc + 4) = r3 := by
      apply splitCrew_same r3 c.site c.slot (pc + 4) (pc + 4)
      intro cr' hc' fid hf
      rw [hcrew] at hc'
      cases hc'
      obtain ⟨x, hx1, hx2, _, _⟩ := hz fid hf
      simp only [State.fibre, KV.getD, hx1, Option.getD_some, hx2]
    have e2 : ∀ ks : List Nat, (∀ k ∈ ks, ∃ fid ∈ cr.fids, k = fkey cr.gang fid) →
        (r3.each ks fun r k => r.stopStep k) = r3 := by
      intro ks
      induction ks with
      | nil => intro _; rfl
      | cons k t ih =>
        intro hk
        obtain ⟨fid, hf, rfl⟩ := hk k (by simp)
        have : r3.stopStep (fkey cr.gang fid) = r3 := by
          obtain ⟨x, hx1, _, _, hx2, hx3⟩ := hz fid hf
          apply stopStep_same <;> simp only [State.fibre, KV.getD, hx1, Option.getD_some, hx2, hx3]
        change (r3.stopStep (fkey cr.gang fid)).each t _ = r3
        rw [this]
        exact ih fun k hk' => hk k (by simp [hk'])
    unfold settleCrew
    rw [e1, e2 _ (by
      intro k hk
      obtain ⟨fid, hf, rfl⟩ := List.mem_map.mp hk
      exact ⟨fid, hf, rfl⟩)]
  have J := joinCrew_joined r3 c.site c.slot (r3.ok R.inv).fibres
  rw [htail] at hrun
  refine ⟨_, hrun, ?_, ?_, ?_, ?_, ?_⟩
  · intro fid hf f hfind
    have hff : s.fibre (fkey cr.gang fid) = f := by simp [State.fibre, KV.getD, hfind]
    rw [← hff]
    refine J.members _ _ (hfib fid hf) ?_
    obtain ⟨x, hx1, _, hx2, _⟩ := hz fid hf
    rw [hfib fid hf] at hx1
    cases hx1
    rw [hx2]; simp
  · intro k hk
    rw [J.fibres k]
    have hkey : ∀ L : List Env, (∀ e ∈ L, ∃ fid ∈ cr.fids, e = laneOf s c cr d fid) → k ∉ L.map Env.key := by
      intro L hL hm
      obtain ⟨e, he', rfl⟩ := List.mem_map.mp hm
      obtain ⟨fid, hf, rfl⟩ := hL e he'
      exact hk fid hf rfl
    have h1 := hkey (A ++ I) hlane
    have h2 := hkey A fun e h => hlane e (List.mem_append_left _ h)
    rw [c2 k h2, b2 k h2, a2 k h1]
    have : KV.find? k r0.s.fibres = KV.find? k s.fibres := by
      change KV.find? k (slotTaken s c A.length).s.fibres = _
      rw [slotTaken_fibres s c A.length k R.crew]
      have hk' : ¬k ∈ cr.fids.map (fkey cr.gang) := by
        rw [List.mem_map]; rintro ⟨fid, hf, rfl⟩; exact hk fid hf rfl
      simp [hk']
    rw [this]
  · obtain ⟨cr', x1, x2, x3, x4⟩ := J.crew _ hcrew
    exact ⟨cr', x1, x2, x3, x4⟩
  · intro k hk
    rw [J.crews k hk, hrest]
    exact q0.2 k hk
  · have hsites : r3.s.sites = KV.put c.site ((s.site c.site).spent c.site A.length) s.sites := by rw [hrest]
    rw [← hlen]
    rcases J.sites with h | ⟨w, h⟩
    · refine ⟨((s.site c.site).spent c.site A.length).waits, ?_⟩
      rw [J.rest, h, hrest]
    · refine ⟨w, ?_⟩
      rw [J.rest, h, hsites, State.site, KV.getD, hsites, KV.find?_put_self, KV.put_put, hrest]
      rfl

/-- A word with no check and no wait of its own. -/
structure Machine.Desc.Free (d : Desc s0) : Prop where
  simple : d.Simple
  full : d.full = false
  bad : d.bad = none
  wf : d.i.wf = true
  sup : d.scullerOnly = false
  ship : ∀ s e, d.toSculler s e = none
  hold : ∀ s e, d.hold s e = false
  holdAll : ∀ s es, d.holdAll s es = false
  check : ∀ s e, d.check s e = none

theorem hintErrs_none {d : Desc s0} {h : Hints} {g : Gang} (he : h.err = none) (hm : FitMods h d.rnd d.sat)
    (hp : d.paceOk = true) (hs : d.sigOk = true ∨ h.sig = 15)
    (hi : ∀ p, h.imm = some p → d.immOk = true ∧ d.immErr p = false) : hintErrs d h g = [] := by
  unfold hintErrs
  have h1 : (if h.pace = true ∧ ((!d.paceOk) = true ∨ (!d.sigOk) = true ∧ h.sig ≠ 15) then
      [(Instr.pace h.wait (BitVec.ofNat 4 h.sig) (BitVec.ofNat 3 h.dist)).word] else []) = [] := by
    rw [if_neg]
    rintro ⟨_, h | ⟨h, h'⟩⟩
    · simp [hp] at h
    · rcases hs with hs | hs
      · simp [hs] at h
      · exact h' hs
  have h3 : ¬(((!d.rnd) = true ∧ (h.mods.getD 0).extractLsb' 19 3 ≠ 0) ∨
      ((h.mods.getD 0).getLsbD 18 = true ∧ (!d.sat) = true) ∨
      ((h.mods.getD 0).getLsbD 17 = true ∧ (!d.tol) = true) ∨
      ((h.mods.getD 0).getLsbD 16 = true ∧ (!d.noal) = true) ∨
      ((h.mods.getD 0).getLsbD 15 = true ∧ (!g.dbg) = true)) := by
    rintro (⟨a, b⟩ | ⟨a, b⟩ | ⟨a, _⟩ | ⟨a, _⟩ | ⟨a, _⟩)
    · exact hm.rnd.elim (fun h => by simp [h] at a) b
    · exact hm.sat.elim (fun h => by simp [h] at b) (by rw [a]; simp)
    · rw [hm.tol] at a; cases a
    · rw [hm.noal] at a; cases a
    · rw [hm.wskip] at a; cases a
  simp only
  rw [if_neg h3, h1, he]
  cases hi' : h.imm with
  | none => rfl
  | some p => simp [(hi p hi').1, (hi p hi').2]

theorem Ready.plainWord (R : Ready s c cr pc) (d : Desc s) (hd : d.Free)
    (hm : FitMods (cr.group pc) d.rnd d.sat) (hp : d.paceOk = true) (hs : d.sigOk = true ∨ (cr.group pc).sig = 15)
    (hi : ∀ p, (cr.group pc).imm = some p → d.immOk = true ∧ d.immErr p = false)
    (fields : Fields s cr pc d.guard d.uses)
    (hhome : isCore c.site = true ∨ d.homeOnly = false)
    (hill : ∀ e ∈ actLanes s c cr d, ∀ s', d.illeg s' e = none)
    (hx : ∀ e ∈ actLanes s c cr d, d.exc e &&& e.g.ten = 0)
    (F : Env → Fibre → Fibre) (hF : ∀ e, Keeps (F e))
    (hact : ∀ r, d.act r (actLanes s c cr d) =
      r.each (actLanes s c cr d) fun r e => r.updFibre e.key (F e))
    (eff : Fibre → Fibre → Fibre)
    (he : ∀ fid ∈ cr.fids, guardOk d.guard ((s.fibre (fkey cr.gang fid)).now (cr.group pc)) = true →
      laneEff d F (laneOf s c cr d fid) ((s.fibre (fkey cr.gang fid)).passed (cr.group pc) true) =
        eff ((s.fibre (fkey cr.gang fid)).now (cr.group pc)) ((s.fibre (fkey cr.gang fid)).passed (cr.group pc) true)) :
    ∃ t, runWord s d = .next t ∧ Lanes s t c cr pc d.guard eff := by
  have haway : ∀ s' e, e ∈ actLanes s c cr d → d.away s' e = none := by
    intro s' e hmem
    obtain ⟨fid, hf, rfl⟩ := List.mem_map.mp (List.mem_of_mem_filter hmem)
    have hq := plain_any hd.simple.plain
    have h1 : (isSculler (laneOf s c cr d fid).site && (d.homeOnly || d.uses.any fun u => isQueue u.reg)) = false := by
      rcases hhome with h | h
      · have : isSculler (laneOf s c cr d fid).site = false := by
          change isSculler c.site = false
          simp only [isSculler, isCore, decide_eq_true_eq] at h ⊢
          simp only [Bool.and_eq_false_iff, decide_eq_false_iff_not]; omega
        simp [this]
      · simp [h, hq]
    unfold Desc.away
    rw [h1]
    simp [hd.ship]
  refine R.lanesEff d hd.simple ?_ (fun e he => haway _ e he) (fun e _ => hd.hold s e) (hd.holdAll _ _) ?_
    hx F hF hact eff he
  · unfold staticErr
    rw [hintErrs_none R.hints hm hp hs hi, hd.bad, hd.wf, fields.legal]
    rfl
  · intro e hmem
    have hmem' := hmem
    obtain ⟨fid, hf, rfl⟩ := List.mem_map.mp (List.mem_of_mem_filter hmem)
    have hact' := List.of_mem_filter hmem
    have m := (R.fibre hf).2
    have hf' := R.lane_f d hf
    refine ⟨?_, Or.inl ?_, haway _ _ hmem', by simp [hd.full], ?_, by simp [poisonOwn, hd.simple.eights],
      hd.check _ _⟩
    · have hsup : (isSuper (laneOf s c cr d fid).site && (d.homeOnly || d.scullerOnly ||
          d.uses.any fun u => isQueue u.reg)) = false := by
        rcases hhome with h | h
        · have : isSuper (laneOf s c cr d fid).site = false := by
            change isSuper c.site = false
            simp only [isSuper, isCore, decide_eq_true_eq] at h ⊢
            simp only [decide_eq_false_iff_not]; omega
          simp [this]
        · simp [h, hd.sup, plain_any hd.simple.plain]
      unfold Desc.laneIlleg
      rw [hill _ hmem' _, hsup]
      rfl
    · rw [hf', Fibre.now, Fibre.settle_region]; exact m.region rfl
    · have hg : (laneOf s c cr d fid).g = s.gang cr.gang := rfl
      have : (laneOf s c cr d fid).v = operands s (s.gang cr.gang) (laneOf s c cr d fid).f d.uses := rfl
      rw [this]
      refine fields.clean _ ?_
      unfold State.active State.members
      rw [List.mem_filter]
      refine ⟨?_, ?_⟩
      · rw [List.map_map, hf']
        exact List.mem_map_of_mem (f := (fun f => f.now (cr.group pc)) ∘ fun fid => s.fibre (fkey cr.gang fid)) hf
      · simpa [laneOf, mkEnv, hd.simple.branch] using hact'

/-- The results of a lane written at its issue count. -/
theorem result_plain (r : Run s0) (e : Env) (d : BitVec 7) (vs : List PW) (h : isQueue d.toNat = false) :
    r.result e d vs = r.updFibre e.key fun f =>
      (List.range vs.length).foldl (fun f i => f.writeAt e.now (d.toNat + i) (vs.getD i {})) f := by
  unfold Run.result; simp [h]

theorem result32_plain (r : Run s0) (e : Env) (d : BitVec 7) (v : Word) (h : isQueue d.toNat = false) :
    r.result32 e d v = r.updFibre e.key fun f => f.writeAt e.now d.toNat { v := v } := by
  unfold Run.result32; rw [result_plain r e d _ h]; rfl

theorem keeps_writeAt (n reg : Nat) (v : PW) : Keeps fun f => f.writeAt n reg v := by
  constructor <;> intro x <;> simp only [Fibre.writeAt] <;> split <;> rfl
theorem keeps_setPred (n : Nat) (b : Bool) : Keeps fun f => f.setPred n b := by
  constructor <;> intro x <;> simp only [Fibre.setPred] <;> split <;> rfl

theorem w_src (s : State) (g : Gang) (f : Fibre) (a : BitVec 7) (h : isQueue a.toNat = false) :
    w0 (readUse s g f 0 (src a)) = val g f a := by
  unfold readUse src val
  simp only [h, Bool.false_eq_true, if_false]
  split
  · rename_i h124; simp [w0, readReg, h124]
  · simp [w0]


end Sys2Proof
end

