-- ==== Sys2Proof/Laws/Die.lean ====
section
/-! SUPPORT. What a die's coalescing table and its power tokens can do (R294, R337). -/

namespace Sys2Proof.Machine

/-- A record that is placed leaves those that wait as they are. -/
theorem Die.place_cwait {d d' : Die} {e : CEnt} {b : Bool} (h : d.place e b = some d') :
    d'.cwait = d.cwait := by
  unfold Die.place at h
  split at h
  · cases h; rfl
  · obtain ⟨i, -, rfl⟩ := Option.map_eq_some_iff.1 h; rfl

/-- A record that finds no place has no open entry to join, and others wait or every entry is open. -/
theorem Die.place_none {d : Die} {e : CEnt} {b : Bool} (h : d.place e b = none) :
    (d.ctab.find? fun x => e.joins x.2) = none ∧ (b = true ∨ freeEntry d.ctab = none) := by
  unfold Die.place at h
  split at h
  · cases h
  · refine ⟨‹_›, ?_⟩
    cases b
    · exact .inr (by simpa using h)
    · exact .inl rfl

/-- Where the ring has room no entry waits to be written. -/
theorem Die.noteFull_room {d : Die} (h : (d.fqtail - d.fqhead).toNat < d.fqSize) : d.noteFull = d := by
  simp only [Die.noteFull, h, if_true]

@[simp] theorem Die.takeWaiting_nil (d : Die) (h : d.cwait = []) : d.takeWaiting = d.noteFull := by
  simp [Die.takeWaiting, h]

/-- A record that reaches the table is placed, or waits behind the others. -/
theorem attach_cases (d : Die) (e : CEnt) :
    let x := { e with order := d.arrivals }
    let d' := { d with arrivals := d.arrivals + 1 }
    let p := d'.place x (d.cwait.any fun c => !c.halt)
    (∃ y, p = some y ∧ attach d e = y.noteFull) ∨ (p = none ∧ attach d e = { d' with cwait := d.cwait ++ [x] }) := by
  simp only [attach]
  split
  · exact .inl ⟨_, ‹_›, rfl⟩
  · exact .inr ⟨‹_›, rfl⟩

/-- A token that passes leaves its cluster, unless that is itself the next one waiting. -/
theorem Die.passToken_gone {d : Die} {c n : Nat} (h : d.tokWait.contains c = false) :
    ∀ t ∈ (d.passToken c n).toks, t.cluster ≠ c := by
  have hw : ∀ w, d.nextWaiting c = some w → w ≠ c := by
    intro w hw e
    have := List.find?_some hw
    simp_all
  simp only [Die.passToken]
  split
  · simp
  · split
    · intro t ht
      simp only [List.mem_append, List.mem_filter, List.mem_singleton, decide_eq_true_eq] at ht
      rcases ht with ⟨-, h⟩ | rfl
      · exact h
      · exact hw _ ‹_›
    · simp

end Sys2Proof.Machine
end

