-- ==== Sys2Proof/Laws/Memory.lean ====
section
/-! SUPPORT. The laws of a byte store in canonical form: a byte reads as it was last written, and a
write leaves every other byte alone. (That writes keep the form is `Memory.canon_write` and
`Memory.canon_zero`, in Machine/Ops.lean.) -/

namespace Sys2Proof.Machine

theorem Memory.canon_sorted {top : Nat} {m : List Host.Cell} (h : Memory.canon top m = true) :
    KV.sorted m = true := by
  simp only [Memory.canon, Bool.and_eq_true] at h
  exact h.1.1

theorem Memory.read_write_self {top a : Nat} {m : List Host.Cell} (h : Memory.canon top m = true)
    (ha : a < top) (b : Byte) : Memory.read (Memory.write top a b m) a = b := by
  simp only [Memory.read, Memory.write, ha, if_true]
  exact KV.getD_putD_self a (Memory.canon_sorted h)

theorem Memory.read_write_ne {top a x : Nat} {m : List Host.Cell} (h : Memory.canon top m = true)
    (hx : x ≠ a) (b : Byte) : Memory.read (Memory.write top a b m) x = Memory.read m x := by
  unfold Memory.read Memory.write
  split
  · exact KV.getD_putD_ne hx (Memory.canon_sorted h)
  · rfl

theorem Memory.read_nil (a : Nat) : Memory.read [] a = 0 := rfl

end Sys2Proof.Machine
end

