-- ==== Sys2Proof/Laws/PerInstr.lean ====
section
/-! SUPPORT. Statements of one instruction each. Encoded: an instruction has a word just where it is a
word, and every row that is a step of another agent is well-formed (R173). -/

namespace Sys2Proof.Laws.Encoded

def Statement (i : Instr) : Prop := i.encode.isSome = i.isWord ∧ (i.isWord = false → i.wf = true)

theorem add : ∀ x0 x1 x2 x3, Statement (.add x0 x1 x2 x3) := fun _ _ _ _ => ⟨rfl, fun h => by cases h <;> rfl⟩
theorem sub : ∀ x0 x1 x2 x3, Statement (.sub x0 x1 x2 x3) := fun _ _ _ _ => ⟨rfl, fun h => by cases h <;> rfl⟩
theorem mul : ∀ x0 x1 x2 x3, Statement (.mul x0 x1 x2 x3) := fun _ _ _ _ => ⟨rfl, fun h => by cases h <;> rfl⟩
theorem mulhi : ∀ x0 x1 x2 x3, Statement (.mulhi x0 x1 x2 x3) := fun _ _ _ _ => ⟨rfl, fun h => by cases h <;> rfl⟩
theorem mulhiu : ∀ x0 x1 x2 x3, Statement (.mulhiu x0 x1 x2 x3) := fun _ _ _ _ => ⟨rfl, fun h => by cases h <;> rfl⟩
theorem mad : ∀ x0 x1 x2 x3, Statement (.mad x0 x1 x2 x3) := fun _ _ _ _ => ⟨rfl, fun h => by cases h <;> rfl⟩
theorem and : ∀ x0 x1 x2 x3, Statement (.and x0 x1 x2 x3) := fun _ _ _ _ => ⟨rfl, fun h => by cases h <;> rfl⟩
theorem or : ∀ x0 x1 x2 x3, Statement (.or x0 x1 x2 x3) := fun _ _ _ _ => ⟨rfl, fun h => by cases h <;> rfl⟩
theorem xor : ∀ x0 x1 x2 x3, Statement (.xor x0 x1 x2 x3) := fun _ _ _ _ => ⟨rfl, fun h => by cases h <;> rfl⟩
theorem shl : ∀ x0 x1 x2 x3, Statement (.shl x0 x1 x2 x3) := fun _ _ _ _ => ⟨rfl, fun h => by cases h <;> rfl⟩
theorem shr : ∀ x0 x1 x2 x3, Statement (.shr x0 x1 x2 x3) := fun _ _ _ _ => ⟨rfl, fun h => by cases h <;> rfl⟩
theorem sar : ∀ x0 x1 x2 x3, Statement (.sar x0 x1 x2 x3) := fun _ _ _ _ => ⟨rfl, fun h => by cases h <;> rfl⟩
theorem min : ∀ x0 x1 x2 x3, Statement (.min x0 x1 x2 x3) := fun _ _ _ _ => ⟨rfl, fun h => by cases h <;> rfl⟩
theorem max : ∀ x0 x1 x2 x3, Statement (.max x0 x1 x2 x3) := fun _ _ _ _ => ⟨rfl, fun h => by cases h <;> rfl⟩
theorem minu : ∀ x0 x1 x2 x3, Statement (.minu x0 x1 x2 x3) := fun _ _ _ _ => ⟨rfl, fun h => by cases h <;> rfl⟩
theorem maxu : ∀ x0 x1 x2 x3, Statement (.maxu x0 x1 x2 x3) := fun _ _ _ _ => ⟨rfl, fun h => by cases h <;> rfl⟩
theorem addi : ∀ x0 x1 x2 x3, Statement (.addi x0 x1 x2 x3) := fun _ _ _ _ => ⟨rfl, fun h => by cases h <;> rfl⟩
theorem andi : ∀ x0 x1 x2 x3, Statement (.andi x0 x1 x2 x3) := fun _ _ _ _ => ⟨rfl, fun h => by cases h <;> rfl⟩
theorem ori : ∀ x0 x1 x2 x3, Statement (.ori x0 x1 x2 x3) := fun _ _ _ _ => ⟨rfl, fun h => by cases h <;> rfl⟩
theorem xori : ∀ x0 x1 x2 x3, Statement (.xori x0 x1 x2 x3) := fun _ _ _ _ => ⟨rfl, fun h => by cases h <;> rfl⟩
theorem shli : ∀ x0 x1 x2 x3, Statement (.shli x0 x1 x2 x3) := fun _ _ _ _ => ⟨rfl, fun h => by cases h <;> rfl⟩
theorem shri : ∀ x0 x1 x2 x3, Statement (.shri x0 x1 x2 x3) := fun _ _ _ _ => ⟨rfl, fun h => by cases h <;> rfl⟩
theorem sari : ∀ x0 x1 x2 x3, Statement (.sari x0 x1 x2 x3) := fun _ _ _ _ => ⟨rfl, fun h => by cases h <;> rfl⟩
theorem setp : ∀ x0 x1 x2 x3 x4, Statement (.setp x0 x1 x2 x3 x4) := fun _ _ _ _ _ => ⟨rfl, fun h => by cases h <;> rfl⟩
theorem setpi : ∀ x0 x1 x2 x3 x4, Statement (.setpi x0 x1 x2 x3 x4) := fun _ _ _ _ _ => ⟨rfl, fun h => by cases h <;> rfl⟩
theorem sel : ∀ x0 x1 x2 x3, Statement (.sel x0 x1 x2 x3) := fun _ _ _ _ => ⟨rfl, fun h => by cases h <;> rfl⟩
theorem add64 : ∀ x0 x1 x2 x3, Statement (.add64 x0 x1 x2 x3) := fun _ _ _ _ => ⟨rfl, fun h => by cases h <;> rfl⟩
theorem adda : ∀ x0 x1 x2 x3, Statement (.adda x0 x1 x2 x3) := fun _ _ _ _ => ⟨rfl, fun h => by cases h <;> rfl⟩
theorem bfx : ∀ x0 x1 x2 x3, Statement (.bfx x0 x1 x2 x3) := fun _ _ _ _ => ⟨rfl, fun h => by cases h <;> rfl⟩
theorem bfi : ∀ x0 x1 x2 x3, Statement (.bfi x0 x1 x2 x3) := fun _ _ _ _ => ⟨rfl, fun h => by cases h <;> rfl⟩
theorem iun : ∀ x0 x1 x2 x3, Statement (.iun x0 x1 x2 x3) := fun _ _ _ _ => ⟨rfl, fun h => by cases h <;> rfl⟩
theorem ldi : ∀ x0 x1 x2, Statement (.ldi x0 x1 x2) := fun _ _ _ => ⟨rfl, fun h => by cases h <;> rfl⟩
theorem bra : ∀ x0 x1, Statement (.bra x0 x1) := fun _ _ => ⟨rfl, fun h => by cases h <;> rfl⟩
theorem bru : ∀ x0 x1, Statement (.bru x0 x1) := fun _ _ => ⟨rfl, fun h => by cases h <;> rfl⟩
theorem call : ∀ x0 x1, Statement (.call x0 x1) := fun _ _ => ⟨rfl, fun h => by cases h <;> rfl⟩
theorem ret : ∀ x0 x1, Statement (.ret x0 x1) := fun _ _ => ⟨rfl, fun h => by cases h <;> rfl⟩
theorem jmpi : ∀ x0 x1, Statement (.jmpi x0 x1) := fun _ _ => ⟨rfl, fun h => by cases h <;> rfl⟩
theorem exit : ∀ x0, Statement (.exit x0) := fun _ => ⟨rfl, fun h => by cases h <;> rfl⟩
theorem yield : ∀ x0, Statement (.yield x0) := fun _ => ⟨rfl, fun h => by cases h <;> rfl⟩
theorem spawn : ∀ x0 x1 x2, Statement (.spawn x0 x1 x2) := fun _ _ _ => ⟨rfl, fun h => by cases h <;> rfl⟩
theorem crewjoin : ∀ x0, Statement (.crewjoin x0) := fun _ => ⟨rfl, fun h => by cases h <;> rfl⟩
theorem lxch : ∀ x0 x1 x2 x3, Statement (.lxch x0 x1 x2 x3) := fun _ _ _ _ => ⟨rfl, fun h => by cases h <;> rfl⟩
theorem lagr : ∀ x0 x1 x2 x3 x4, Statement (.lagr x0 x1 x2 x3 x4) := fun _ _ _ _ _ => ⟨rfl, fun h => by cases h <;> rfl⟩
theorem lfold : ∀ x0 x1 x2 x3, Statement (.lfold x0 x1 x2 x3) := fun _ _ _ _ => ⟨rfl, fun h => by cases h <;> rfl⟩
theorem plog : ∀ x0 x1 x2 x3, Statement (.plog x0 x1 x2 x3) := fun _ _ _ _ => ⟨rfl, fun h => by cases h <;> rfl⟩
theorem brdec : ∀ x0 x1 x2, Statement (.brdec x0 x1 x2) := fun _ _ _ => ⟨rfl, fun h => by cases h <;> rfl⟩
theorem sleep : ∀ x0 x1, Statement (.sleep x0 x1) := fun _ _ => ⟨rfl, fun h => by cases h <;> rfl⟩
theorem fadd : ∀ x0 x1 x2 x3, Statement (.fadd x0 x1 x2 x3) := fun _ _ _ _ => ⟨rfl, fun h => by cases h <;> rfl⟩
theorem fsub : ∀ x0 x1 x2 x3, Statement (.fsub x0 x1 x2 x3) := fun _ _ _ _ => ⟨rfl, fun h => by cases h <;> rfl⟩
theorem fmul : ∀ x0 x1 x2 x3, Statement (.fmul x0 x1 x2 x3) := fun _ _ _ _ => ⟨rfl, fun h => by cases h <;> rfl⟩
theorem ffma : ∀ x0 x1 x2 x3, Statement (.ffma x0 x1 x2 x3) := fun _ _ _ _ => ⟨rfl, fun h => by cases h <;> rfl⟩
theorem fmin : ∀ x0 x1 x2 x3, Statement (.fmin x0 x1 x2 x3) := fun _ _ _ _ => ⟨rfl, fun h => by cases h <;> rfl⟩
theorem fmax : ∀ x0 x1 x2 x3, Statement (.fmax x0 x1 x2 x3) := fun _ _ _ _ => ⟨rfl, fun h => by cases h <;> rfl⟩
theorem fdiv : ∀ x0 x1 x2 x3, Statement (.fdiv x0 x1 x2 x3) := fun _ _ _ _ => ⟨rfl, fun h => by cases h <;> rfl⟩
theorem fsetp : ∀ x0 x1 x2 x3 x4, Statement (.fsetp x0 x1 x2 x3 x4) := fun _ _ _ _ _ => ⟨rfl, fun h => by cases h <;> rfl⟩
theorem func : ∀ x0 x1 x2 x3, Statement (.func x0 x1 x2 x3) := fun _ _ _ _ => ⟨rfl, fun h => by cases h <;> rfl⟩
theorem cvt : ∀ x0 x1 x2 x3 x4 x5, Statement (.cvt x0 x1 x2 x3 x4 x5) := fun _ _ _ _ _ _ => ⟨rfl, fun h => by cases h <;> rfl⟩
theorem padd2 : ∀ x0 x1 x2 x3, Statement (.padd2 x0 x1 x2 x3) := fun _ _ _ _ => ⟨rfl, fun h => by cases h <;> rfl⟩
theorem pfma2 : ∀ x0 x1 x2 x3, Statement (.pfma2 x0 x1 x2 x3) := fun _ _ _ _ => ⟨rfl, fun h => by cases h <;> rfl⟩
theorem pmul2 : ∀ x0 x1 x2 x3, Statement (.pmul2 x0 x1 x2 x3) := fun _ _ _ _ => ⟨rfl, fun h => by cases h <;> rfl⟩
theorem dot4 : ∀ x0 x1 x2 x3, Statement (.dot4 x0 x1 x2 x3) := fun _ _ _ _ => ⟨rfl, fun h => by cases h <;> rfl⟩
theorem dot2f : ∀ x0 x1 x2 x3, Statement (.dot2f x0 x1 x2 x3) := fun _ _ _ _ => ⟨rfl, fun h => by cases h <;> rfl⟩
theorem ld : ∀ x0 x1 x2 x3 x4 x5, Statement (.ld x0 x1 x2 x3 x4 x5) := fun _ _ _ _ _ _ => ⟨rfl, fun h => by cases h <;> rfl⟩
theorem st : ∀ x0 x1 x2 x3 x4 x5, Statement (.st x0 x1 x2 x3 x4 x5) := fun _ _ _ _ _ _ => ⟨rfl, fun h => by cases h <;> rfl⟩
theorem ldb : ∀ x0 x1 x2 x3 x4 x5, Statement (.ldb x0 x1 x2 x3 x4 x5) := fun _ _ _ _ _ _ => ⟨rfl, fun h => by cases h <;> rfl⟩
theorem stb : ∀ x0 x1 x2 x3 x4, Statement (.stb x0 x1 x2 x3 x4) := fun _ _ _ _ _ => ⟨rfl, fun h => by cases h <;> rfl⟩
theorem lde : ∀ x0 x1 x2 x3 x4 x5, Statement (.lde x0 x1 x2 x3 x4 x5) := fun _ _ _ _ _ _ => ⟨rfl, fun h => by cases h <;> rfl⟩
theorem ste : ∀ x0 x1 x2 x3 x4 x5, Statement (.ste x0 x1 x2 x3 x4 x5) := fun _ _ _ _ _ _ => ⟨rfl, fun h => by cases h <;> rfl⟩
theorem atom : ∀ x0 x1 x2 x3 x4 x5 x6, Statement (.atom x0 x1 x2 x3 x4 x5 x6) := fun _ _ _ _ _ _ _ => ⟨rfl, fun h => by cases h <;> rfl⟩
theorem cas : ∀ x0 x1 x2 x3 x4 x5, Statement (.cas x0 x1 x2 x3 x4 x5) := fun _ _ _ _ _ _ => ⟨rfl, fun h => by cases h <;> rfl⟩
theorem lrbegin : ∀ x0 x1 x2, Statement (.lrbegin x0 x1 x2) := fun _ _ _ => ⟨rfl, fun h => by cases h <;> rfl⟩
theorem lrend : ∀ x0, Statement (.lrend x0) := fun _ => ⟨rfl, fun h => by cases h <;> rfl⟩
theorem fenceAcq : ∀ x0, Statement (.fenceAcq x0) := fun _ => ⟨rfl, fun h => by cases h <;> rfl⟩
theorem fenceRel : ∀ x0, Statement (.fenceRel x0) := fun _ => ⟨rfl, fun h => by cases h <;> rfl⟩
theorem fenceFull : ∀ x0, Statement (.fenceFull x0) := fun _ => ⟨rfl, fun h => by cases h <;> rfl⟩
theorem cacheWb : ∀ x0 x1 x2, Statement (.cacheWb x0 x1 x2) := fun _ _ _ => ⟨rfl, fun h => by cases h <;> rfl⟩
theorem cacheInv : ∀ x0 x1 x2, Statement (.cacheInv x0 x1 x2) := fun _ _ _ => ⟨rfl, fun h => by cases h <;> rfl⟩
theorem cacheInvd : ∀ x0 x1 x2, Statement (.cacheInvd x0 x1 x2) := fun _ _ _ => ⟨rfl, fun h => by cases h <;> rfl⟩
theorem cachePref : ∀ x0 x1 x2, Statement (.cachePref x0 x1 x2) := fun _ _ _ => ⟨rfl, fun h => by cases h <;> rfl⟩
theorem lds : ∀ x0 x1 x2 x3 x4 x5, Statement (.lds x0 x1 x2 x3 x4 x5) := fun _ _ _ _ _ _ => ⟨rfl, fun h => by cases h <;> rfl⟩
theorem sts : ∀ x0 x1 x2 x3 x4 x5, Statement (.sts x0 x1 x2 x3 x4 x5) := fun _ _ _ _ _ _ => ⟨rfl, fun h => by cases h <;> rfl⟩
theorem atoms : ∀ x0 x1 x2 x3 x4 x5, Statement (.atoms x0 x1 x2 x3 x4 x5) := fun _ _ _ _ _ _ => ⟨rfl, fun h => by cases h <;> rfl⟩
theorem red : ∀ x0 x1 x2 x3 x4 x5 x6, Statement (.red x0 x1 x2 x3 x4 x5 x6) := fun _ _ _ _ _ _ _ => ⟨rfl, fun h => by cases h <;> rfl⟩
theorem put : ∀ x0 x1 x2 x3, Statement (.put x0 x1 x2 x3) := fun _ _ _ _ => ⟨rfl, fun h => by cases h <;> rfl⟩
theorem putm : ∀ x0 x1 x2 x3, Statement (.putm x0 x1 x2 x3) := fun _ _ _ _ => ⟨rfl, fun h => by cases h <;> rfl⟩
theorem drain : ∀ x0 x1 x2 x3, Statement (.drain x0 x1 x2 x3) := fun _ _ _ _ => ⟨rfl, fun h => by cases h <;> rfl⟩
theorem bcount : ∀ x0 x1 x2, Statement (.bcount x0 x1 x2) := fun _ _ _ => ⟨rfl, fun h => by cases h <;> rfl⟩
theorem bopen : ∀ x0 x1 x2, Statement (.bopen x0 x1 x2) := fun _ _ _ => ⟨rfl, fun h => by cases h <;> rfl⟩
theorem bseal : ∀ x0 x1, Statement (.bseal x0 x1) := fun _ _ => ⟨rfl, fun h => by cases h <;> rfl⟩
theorem bfree : ∀ x0 x1, Statement (.bfree x0 x1) := fun _ _ => ⟨rfl, fun h => by cases h <;> rfl⟩
theorem biter : ∀ x0 x1 x2 x3, Statement (.biter x0 x1 x2 x3) := fun _ _ _ _ => ⟨rfl, fun h => by cases h <;> rfl⟩
theorem gfetch : ∀ x0 x1 x2 x3, Statement (.gfetch x0 x1 x2 x3) := fun _ _ _ _ => ⟨rfl, fun h => by cases h <;> rfl⟩
theorem probe : ∀ x0 x1 x2, Statement (.probe x0 x1 x2) := fun _ _ _ => ⟨rfl, fun h => by cases h <;> rfl⟩
theorem rebal : ∀ x0 x1 x2 x3, Statement (.rebal x0 x1 x2 x3) := fun _ _ _ _ => ⟨rfl, fun h => by cases h <;> rfl⟩
theorem copy : ∀ x0 x1 x2 x3 x4 x5 x6, Statement (.copy x0 x1 x2 x3 x4 x5 x6) := fun _ _ _ _ _ _ _ => ⟨rfl, fun h => by cases h <;> rfl⟩
theorem copyb : ∀ x0 x1 x2, Statement (.copyb x0 x1 x2) := fun _ _ _ => ⟨rfl, fun h => by cases h <;> rfl⟩
theorem igather : ∀ x0 x1 x2, Statement (.igather x0 x1 x2) := fun _ _ _ => ⟨rfl, fun h => by cases h <;> rfl⟩
theorem iscatter : ∀ x0 x1 x2, Statement (.iscatter x0 x1 x2) := fun _ _ _ => ⟨rfl, fun h => by cases h <;> rfl⟩
theorem qbind : ∀ x0 x1 x2, Statement (.qbind x0 x1 x2) := fun _ _ _ => ⟨rfl, fun h => by cases h <;> rfl⟩
theorem qstat : ∀ x0 x1 x2, Statement (.qstat x0 x1 x2) := fun _ _ _ => ⟨rfl, fun h => by cases h <;> rfl⟩
theorem cpwait : ∀ x0 x1 x2, Statement (.cpwait x0 x1 x2) := fun _ _ _ => ⟨rfl, fun h => by cases h <;> rfl⟩
theorem wave : ∀ x0 x1 x2 x3, Statement (.wave x0 x1 x2 x3) := fun _ _ _ _ => ⟨rfl, fun h => by cases h <;> rfl⟩
theorem mma : ∀ x0 x1 x2 x3, Statement (.mma x0 x1 x2 x3) := fun _ _ _ _ => ⟨rfl, fun h => by cases h <;> rfl⟩
theorem mmas : ∀ x0 x1 x2 x3 x4, Statement (.mmas x0 x1 x2 x3 x4) := fun _ _ _ _ _ => ⟨rfl, fun h => by cases h <;> rfl⟩
theorem mmaq : ∀ x0 x1 x2 x3 x4, Statement (.mmaq x0 x1 x2 x3 x4) := fun _ _ _ _ _ => ⟨rfl, fun h => by cases h <;> rfl⟩
theorem accz : ∀ x0 x1, Statement (.accz x0 x1) := fun _ _ => ⟨rfl, fun h => by cases h <;> rfl⟩
theorem accld : ∀ x0 x1 x2, Statement (.accld x0 x1 x2) := fun _ _ _ => ⟨rfl, fun h => by cases h <;> rfl⟩
theorem accst : ∀ x0 x1 x2, Statement (.accst x0 x1 x2) := fun _ _ _ => ⟨rfl, fun h => by cases h <;> rfl⟩
theorem accrd : ∀ x0 x1 x2 x3, Statement (.accrd x0 x1 x2 x3) := fun _ _ _ _ => ⟨rfl, fun h => by cases h <;> rfl⟩
theorem accwr : ∀ x0 x1 x2 x3, Statement (.accwr x0 x1 x2 x3) := fun _ _ _ _ => ⟨rfl, fun h => by cases h <;> rfl⟩
theorem walk : ∀ x0 x1 x2, Statement (.walk x0 x1 x2) := fun _ _ _ => ⟨rfl, fun h => by cases h <;> rfl⟩
theorem nest : ∀ x0 x1 x2, Statement (.nest x0 x1 x2) := fun _ _ _ => ⟨rfl, fun h => by cases h <;> rfl⟩
theorem endw : ∀ x0, Statement (.endw x0) := fun _ => ⟨rfl, fun h => by cases h <;> rfl⟩
theorem barg : ∀ x0 x1 x2, Statement (.barg x0 x1 x2) := fun _ _ _ => ⟨rfl, fun h => by cases h <;> rfl⟩
theorem bara : ∀ x0 x1 x2 x3, Statement (.bara x0 x1 x2 x3) := fun _ _ _ _ => ⟨rfl, fun h => by cases h <;> rfl⟩
theorem barw : ∀ x0 x1 x2 x3, Statement (.barw x0 x1 x2 x3) := fun _ _ _ _ => ⟨rfl, fun h => by cases h <;> rfl⟩
theorem barc : ∀ x0 x1 x2, Statement (.barc x0 x1 x2) := fun _ _ _ => ⟨rfl, fun h => by cases h <;> rfl⟩
theorem barl : ∀ x0 x1 x2, Statement (.barl x0 x1 x2) := fun _ _ _ => ⟨rfl, fun h => by cases h <;> rfl⟩
theorem waitf : ∀ x0 x1, Statement (.waitf x0 x1) := fun _ _ => ⟨rfl, fun h => by cases h <;> rfl⟩
theorem waitv : ∀ x0 x1 x2 x3 x4, Statement (.waitv x0 x1 x2 x3 x4) := fun _ _ _ _ _ => ⟨rfl, fun h => by cases h <;> rfl⟩
theorem csrrd : ∀ x0 x1 x2, Statement (.csrrd x0 x1 x2) := fun _ _ _ => ⟨rfl, fun h => by cases h <;> rfl⟩
theorem csrwr : ∀ x0 x1 x2, Statement (.csrwr x0 x1 x2) := fun _ _ _ => ⟨rfl, fun h => by cases h <;> rfl⟩
theorem trap : ∀ x0 x1 x2 x3, Statement (.trap x0 x1 x2 x3) := fun _ _ _ _ => ⟨rfl, fun h => by cases h <;> rfl⟩
theorem rett : ∀ x0, Statement (.rett x0) := fun _ => ⟨rfl, fun h => by cases h <;> rfl⟩
theorem rettF : ∀ x0 x1, Statement (.rettF x0 x1) := fun _ _ => ⟨rfl, fun h => by cases h <;> rfl⟩
theorem watch : ∀ x0 x1 x2, Statement (.watch x0 x1 x2) := fun _ _ _ => ⟨rfl, fun h => by cases h <;> rfl⟩
theorem watchRd : ∀ x0 x1 x2, Statement (.watchRd x0 x1 x2) := fun _ _ _ => ⟨rfl, fun h => by cases h <;> rfl⟩
theorem insp : ∀ x0 x1 x2 x3, Statement (.insp x0 x1 x2 x3) := fun _ _ _ _ => ⟨rfl, fun h => by cases h <;> rfl⟩
theorem poke : ∀ x0 x1 x2 x3, Statement (.poke x0 x1 x2 x3) := fun _ _ _ _ => ⟨rfl, fun h => by cases h <;> rfl⟩
theorem step : ∀ x0 x1, Statement (.step x0 x1) := fun _ _ => ⟨rfl, fun h => by cases h <;> rfl⟩
theorem resume : ∀ x0 x1, Statement (.resume x0 x1) := fun _ _ => ⟨rfl, fun h => by cases h <;> rfl⟩
theorem pace : ∀ x0 x1 x2, Statement (.pace x0 x1 x2) := fun _ _ _ => ⟨rfl, fun h => by cases h <;> rfl⟩
theorem imm : ∀ x0, Statement (.imm x0) := fun _ => ⟨rfl, fun h => by cases h <;> rfl⟩
theorem mod : ∀ x0 x1 x2 x3 x4 x5, Statement (.mod x0 x1 x2 x3 x4 x5) := fun _ _ _ _ _ _ => ⟨rfl, fun h => by cases h <;> rfl⟩
theorem faultQueueAppend : ∀ x0, Statement (.faultQueueAppend x0) := fun _ => ⟨rfl, fun h => by cases h <;> rfl⟩
theorem crewForm : ∀ x0, Statement (.crewForm x0) := fun _ => ⟨rfl, fun h => by cases h <;> rfl⟩
theorem crewEvict : ∀ x0, Statement (.crewEvict x0) := fun _ => ⟨rfl, fun h => by cases h <;> rfl⟩
theorem flagComplete : ∀ x0, Statement (.flagComplete x0) := fun _ => ⟨rfl, fun h => by cases h <;> rfl⟩
theorem dirLoadRequest : ∀ x0 x1, Statement (.dirLoadRequest x0 x1) := fun _ _ => ⟨rfl, fun h => by cases h <;> rfl⟩
theorem dirStoreRequest : ∀ x0 x1, Statement (.dirStoreRequest x0 x1) := fun _ _ => ⟨rfl, fun h => by cases h <;> rfl⟩
theorem l1Evict : ∀ x0 x1, Statement (.l1Evict x0 x1) := fun _ _ => ⟨rfl, fun h => by cases h <;> rfl⟩
theorem l2LineMigrate : ∀ x0, Statement (.l2LineMigrate x0) := fun _ => ⟨rfl, fun h => by cases h <;> rfl⟩
theorem lineDieMigrate : ∀ x0, Statement (.lineDieMigrate x0) := fun _ => ⟨rfl, fun h => by cases h <;> rfl⟩
theorem tileFetchRetry : ∀ x0, Statement (.tileFetchRetry x0) := fun _ => ⟨rfl, fun h => by cases h <;> rfl⟩
theorem copyBeat : ∀ x0 x1, Statement (.copyBeat x0 x1) := fun _ _ => ⟨rfl, fun h => by cases h <;> rfl⟩
theorem placerPut : ∀ x0 x1, Statement (.placerPut x0 x1) := fun _ _ => ⟨rfl, fun h => by cases h <;> rfl⟩
theorem placerDrain : ∀ x0, Statement (.placerDrain x0) := fun _ => ⟨rfl, fun h => by cases h <;> rfl⟩
theorem placerBcount : ∀ x0, Statement (.placerBcount x0) := fun _ => ⟨rfl, fun h => by cases h <;> rfl⟩
theorem placerBseal : ∀ x0, Statement (.placerBseal x0) := fun _ => ⟨rfl, fun h => by cases h <;> rfl⟩
theorem placerBfree : ∀ x0, Statement (.placerBfree x0) := fun _ => ⟨rfl, fun h => by cases h <;> rfl⟩
theorem shareRecordWrite : ∀ x0 x1, Statement (.shareRecordWrite x0 x1) := fun _ _ => ⟨rfl, fun h => by cases h <;> rfl⟩
theorem bankCommandStart : ∀ x0 x1, Statement (.bankCommandStart x0 x1) := fun _ _ => ⟨rfl, fun h => by cases h <;> rfl⟩
theorem waveNextWave : ∀ x0, Statement (.waveNextWave x0) := fun _ => ⟨rfl, fun h => by cases h <;> rfl⟩
theorem thermalLimitChange : ∀ x0 x1, Statement (.thermalLimitChange x0 x1) := fun _ _ => ⟨rfl, fun h => by cases h <;> rfl⟩
theorem siteShip : ∀ x0, Statement (.siteShip x0) := fun _ => ⟨rfl, fun h => by cases h <;> rfl⟩
theorem scullerArrival : ∀ x0, Statement (.scullerArrival x0) := fun _ => ⟨rfl, fun h => by cases h <;> rfl⟩
theorem lineRegionTimeout : ∀ x0, Statement (.lineRegionTimeout x0) := fun _ => ⟨rfl, fun h => by cases h <;> rfl⟩
theorem lineRegionHeld : ∀ x0, Statement (.lineRegionHeld x0) := fun _ => ⟨rfl, fun h => by cases h <;> rfl⟩
theorem waitvReload : ∀ x0, Statement (.waitvReload x0) := fun _ => ⟨rfl, fun h => by cases h <;> rfl⟩
theorem sleepExpire : ∀ x0, Statement (.sleepExpire x0) := fun _ => ⟨rfl, fun h => by cases h <;> rfl⟩
theorem powerTokenRelease : ∀ x0 x1, Statement (.powerTokenRelease x0 x1) := fun _ _ => ⟨rfl, fun h => by cases h <;> rfl⟩
theorem wqTakeRecord : ∀ x0, Statement (.wqTakeRecord x0) := fun _ => ⟨rfl, fun h => by cases h <;> rfl⟩
theorem gangPlace : ∀ x0, Statement (.gangPlace x0) := fun _ => ⟨rfl, fun h => by cases h <;> rfl⟩
theorem gangEnd : ∀ x0, Statement (.gangEnd x0) := fun _ => ⟨rfl, fun h => by cases h <;> rfl⟩
theorem vfChangeStable : ∀ x0, Statement (.vfChangeStable x0) := fun _ => ⟨rfl, fun h => by cases h <;> rfl⟩
theorem schedStep : Statement (.schedStep) := ⟨rfl, fun h => by cases h <;> rfl⟩
theorem sliceEnd : ∀ x0, Statement (.sliceEnd x0) := fun _ => ⟨rfl, fun h => by cases h <;> rfl⟩
theorem contextRestore : ∀ x0 x1, Statement (.contextRestore x0 x1) := fun _ _ => ⟨rfl, fun h => by cases h <;> rfl⟩
theorem zeropage : ∀ x0, Statement (.zeropage x0) := fun _ => ⟨rfl, fun h => by cases h <;> rfl⟩
theorem xinval : ∀ x0, Statement (.xinval x0) := fun _ => ⟨rfl, fun h => by cases h <;> rfl⟩
theorem releaseResume : ∀ x0, Statement (.releaseResume x0) := fun _ => ⟨rfl, fun h => by cases h <;> rfl⟩
theorem releaseRedirect : ∀ x0, Statement (.releaseRedirect x0) := fun _ => ⟨rfl, fun h => by cases h <;> rfl⟩
theorem releaseHandler : ∀ x0, Statement (.releaseHandler x0) := fun _ => ⟨rfl, fun h => by cases h <;> rfl⟩
theorem releaseEmulate : ∀ x0, Statement (.releaseEmulate x0) := fun _ => ⟨rfl, fun h => by cases h <;> rfl⟩
theorem releaseEnd : ∀ x0, Statement (.releaseEnd x0) := fun _ => ⟨rfl, fun h => by cases h <;> rfl⟩
theorem preempt : ∀ x0, Statement (.preempt x0) := fun _ => ⟨rfl, fun h => by cases h <;> rfl⟩
theorem quiesce : ∀ x0, Statement (.quiesce x0) := fun _ => ⟨rfl, fun h => by cases h <;> rfl⟩
theorem resumectx : ∀ x0, Statement (.resumectx x0) := fun _ => ⟨rfl, fun h => by cases h <;> rfl⟩
theorem endctx : ∀ x0, Statement (.endctx x0) := fun _ => ⟨rfl, fun h => by cases h <;> rfl⟩
theorem dbgaccInsp : ∀ x0, Statement (.dbgaccInsp x0) := fun _ => ⟨rfl, fun h => by cases h <;> rfl⟩
theorem dbgaccPoke : ∀ x0, Statement (.dbgaccPoke x0) := fun _ => ⟨rfl, fun h => by cases h <;> rfl⟩
theorem dbgaccStep : ∀ x0, Statement (.dbgaccStep x0) := fun _ => ⟨rfl, fun h => by cases h <;> rfl⟩
theorem dbgaccResume : ∀ x0, Statement (.dbgaccResume x0) := fun _ => ⟨rfl, fun h => by cases h <;> rfl⟩
theorem dbgaccWatchSet : ∀ x0, Statement (.dbgaccWatchSet x0) := fun _ => ⟨rfl, fun h => by cases h <;> rfl⟩
theorem dbgaccWatchRead : ∀ x0, Statement (.dbgaccWatchRead x0) := fun _ => ⟨rfl, fun h => by cases h <;> rfl⟩
theorem bndsync : ∀ x0, Statement (.bndsync x0) := fun _ => ⟨rfl, fun h => by cases h <;> rfl⟩
theorem commandComplete : ∀ x0, Statement (.commandComplete x0) := fun _ => ⟨rfl, fun h => by cases h <;> rfl⟩
theorem carveWrite : ∀ x0 x1, Statement (.carveWrite x0 x1) := fun _ _ => ⟨rfl, fun h => by cases h <;> rfl⟩
theorem carveChangeoverDone : ∀ x0 x1, Statement (.carveChangeoverDone x0 x1) := fun _ _ => ⟨rfl, fun h => by cases h <;> rfl⟩
theorem quarcfgWrite : ∀ x0 x1, Statement (.quarcfgWrite x0 x1) := fun _ _ => ⟨rfl, fun h => by cases h <;> rfl⟩
theorem wqcfgWrite : ∀ x0 x1, Statement (.wqcfgWrite x0 x1) := fun _ _ => ⟨rfl, fun h => by cases h <;> rfl⟩
theorem rcRegisterWrite : ∀ x0 x1, Statement (.rcRegisterWrite x0 x1) := fun _ _ => ⟨rfl, fun h => by cases h <;> rfl⟩
theorem pwrctlWrite : ∀ x0, Statement (.pwrctlWrite x0) := fun _ => ⟨rfl, fun h => by cases h <;> rfl⟩
theorem mgmtRegisterWrite : ∀ x0 x1, Statement (.mgmtRegisterWrite x0 x1) := fun _ _ => ⟨rfl, fun h => by cases h <;> rfl⟩
theorem powerLimitStep : ∀ x0, Statement (.powerLimitStep x0) := fun _ => ⟨rfl, fun h => by cases h <;> rfl⟩
theorem patrolScrub : ∀ x0 x1, Statement (.patrolScrub x0 x1) := fun _ _ => ⟨rfl, fun h => by cases h <;> rfl⟩
theorem dieFailure : ∀ x0, Statement (.dieFailure x0) := fun _ => ⟨rfl, fun h => by cases h <;> rfl⟩
theorem flitReplay : ∀ x0, Statement (.flitReplay x0) := fun _ => ⟨rfl, fun h => by cases h <;> rfl⟩
theorem packetRead : ∀ x0, Statement (.packetRead x0) := fun _ => ⟨rfl, fun h => by cases h <;> rfl⟩
theorem packetWrite : ∀ x0, Statement (.packetWrite x0) := fun _ => ⟨rfl, fun h => by cases h <;> rfl⟩
theorem packetAtom : ∀ x0, Statement (.packetAtom x0) := fun _ => ⟨rfl, fun h => by cases h <;> rfl⟩
theorem packetRed : ∀ x0, Statement (.packetRed x0) := fun _ => ⟨rfl, fun h => by cases h <;> rfl⟩
theorem packetMailbox : ∀ x0, Statement (.packetMailbox x0) := fun _ => ⟨rfl, fun h => by cases h <;> rfl⟩
theorem packetResp : ∀ x0, Statement (.packetResp x0) := fun _ => ⟨rfl, fun h => by cases h <;> rfl⟩
theorem mailboxCredit : ∀ x0, Statement (.mailboxCredit x0) := fun _ => ⟨rfl, fun h => by cases h <;> rfl⟩
theorem powerOnBringup : ∀ x0 x1, Statement (.powerOnBringup x0 x1) := fun _ _ => ⟨rfl, fun h => by cases h <;> rfl⟩
theorem undefinedEncoding : ∀ x0, Statement (.undefinedEncoding x0) := fun _ => ⟨rfl, fun h => by cases h <;> rfl⟩
theorem unknownCommandCode : ∀ x0, Statement (.unknownCommandCode x0) := fun _ => ⟨rfl, fun h => by cases h <;> rfl⟩
theorem l1DropWithoutTelling : ∀ x0 x1, Statement (.l1DropWithoutTelling x0 x1) := fun _ _ => ⟨rfl, fun h => by cases h <;> rfl⟩
theorem walkBodyWordIssue : ∀ x0 x1, Statement (.walkBodyWordIssue x0 x1) := fun _ _ => ⟨rfl, fun h => by cases h <;> rfl⟩
theorem powerRemoved : Statement (.powerRemoved) := ⟨rfl, fun h => by cases h <;> rfl⟩
theorem coreClkIssueSlots : ∀ x0, Statement (.coreClkIssueSlots x0) := fun _ => ⟨rfl, fun h => by cases h <;> rfl⟩

end Sys2Proof.Laws.Encoded
end

