-- ==== Sys2Proof/Laws/Run.lean ====
section
/-! SUPPORT. What a run answers: a next state, in which the invariant holds if it held before. -/

namespace Sys2Proof.Machine
variable {s0 : State}

@[simp] theorem Run.start_s (s : State) : (Run.start s).s = s := rfl
@[simp] theorem Run.out_eq (r : Run s0) : r.out = .next r.s := rfl

/-- A run that answers `t` keeps the invariant. -/
theorem Run.out_inv (r : Run s0) {t : State} (h : r.out = .next t) (hi : s0.Inv) : t.Inv := by
  cases h; exact r.ok hi

/-- A word answers the state of a run. -/
theorem runWord_run (s : State) (d : Desc s) : ∃ r : Run s, runWord s d = .next r.s :=
  ⟨(Run.start s).issueWord d, rfl⟩

theorem runWord_inv {s t : State} {d : Desc s} (h : runWord s d = .next t) (hi : s.Inv) : t.Inv :=
  Run.out_inv _ h hi

end Sys2Proof.Machine
end

