-- ==== Sys2Proof/Laws/Solo.lean ====
section
/-! SUPPORT. What any word of a one-fibre crew comes to (`Solo.run`), and the tail of such a word. -/

namespace Sys2Proof
open Machine
variable {s0 : State} {s : State} {c : Cur} {cr : Crew} {f : Fibre}

/-- The lane of a one-fibre crew. -/
def soloLane (s : State) (c : Cur) (cr : Crew) (d : Desc s0) (f : Fibre) : Env :=
  let e := laneOf s c cr d f.fid
  { e with
    own := match d.eights with
      | none => []
      | some us => [us.flatMap fun u => readUse s e.g e.f 0 u],
    lead := if d.eights.isSome then e.key else 0 }

theorem Solo.mem (S : Solo s c cr f lr) : f.fid ∈ cr.fids := by rw [S.one]; simp
theorem Solo.fibre (S : Solo s c cr f lr) : s.fibre (fkey cr.gang f.fid) = f := by
  simp [State.fibre, KV.getD, S.here]
theorem Solo.member (S : Solo s c cr f lr) : Member c cr f.pc f.fid f lr := by
  have := (S.ready.fibre S.mem).2
  rwa [S.fibre] at this

theorem Solo.lane_f (S : Solo s c cr f lr) (d : Desc s0) : (soloLane s c cr d f).f = f.now (cr.group f.pc) := by
  have := S.ready.lane_f d S.mem
  rw [S.fibre] at this
  exact this

theorem Solo.envs (S : Solo s c cr f lr) (idle : ∀ n, f.IdleFlag n) (d : Desc s0) :
    crewEnvs s c cr d = [soloLane s c cr d f] := by
  have hidle : ∀ n, (mkEnv s c cr d f.fid).f.IdleFlag n := by
    intro n
    rw [S.ready.mkEnv_f d S.mem, S.fibre]
    exact (idle n).settle _
  have ha : ((mkEnv s c cr d f.fid).active && (d.branch || guardOk d.guard (mkEnv s c cr d f.fid).f)) =
      (mkEnv s c cr d f.fid).active := by
    simp only [mkEnv]
    cases d.branch <;> simp
  have hops : ((d.uses.filter fun u => !u.dst).map fun u =>
      readUse s (mkEnv s c cr d f.fid).g (mkEnv s c cr d f.fid).f 0 u) =
      operands s (mkEnv s c cr d f.fid).g (mkEnv s c cr d f.fid).f d.uses := rfl
  unfold crewEnvs withOperands
  simp only [S.one, List.map_cons, List.map_nil, fold_look _ (fun n _ => hidle n), ha, List.foldl_cons,
    List.foldl_nil, List.nil_append, hops, List.filter_singleton]
  have hguard : guardOk d.guard (mkEnv s c cr d f.fid).f = (mkEnv s c cr d f.fid).guard := rfl
  have hown : (mkEnv s c cr d f.fid).own = [] := rfl
  have hlead : (mkEnv s c cr d f.fid).lead = 0 := rfl
  cases he : d.eights with
  | none =>
    simp only [soloLane, laneOf, he, S.one, List.map_cons, List.map_nil, List.filter_singleton]
    generalize mkEnv s c cr d f.fid = e0 at *
    by_cases h : e0.active = true <;> simp [h, hguard, hown, hlead]
  | some us =>
    simp only [soloLane, laneOf, he, S.one, List.map_cons, List.map_nil, List.filter_cons]
    generalize mkEnv s c cr d f.fid = e0 at *
    by_cases h : e0.active = true <;> simp [h, hguard, hown, hlead]

theorem Solo.issueWord (S : Solo s c cr f lr) (idle : ∀ n, f.IdleFlag n) (d : Desc s)
    (plain : d.uses.all (fun u => !isQueue u.reg) = true)
    (ha : (soloLane s c cr d f).active = true)
    (hs : staticErr d { cr.group f.pc with wait := (cr.group f.pc).wait ||| d.waits } (s.gang cr.gang) 1 = none)
    (haw : d.away s (soloLane s c cr d f) = none)
    (hh : d.hold s (soloLane s c cr d f) = false) (hha : d.holdAll s [soloLane s c cr d f] = false) :
    (Run.start s).issueWord d = (slotTaken s c 1).issueLanes c cr d
      { cr.group f.pc with wait := (cr.group f.pc).wait ||| d.waits } [soloLane s c cr d f] := by
  have R := S.ready
  have hone : [soloLane s c cr d f].filter Env.active = [soloLane s c cr d f] := by simp [ha]
  have h1 : ∀ P : Env → Prop, P (soloLane s c cr d f) → ∀ e ∈ [soloLane s c cr d f], P e := by
    intro P h e he; rw [List.mem_singleton] at he; exact he ▸ h
  have hidle : ∀ n, (soloLane s c cr d f).f.IdleFlag n := by
    intro n; rw [S.lane_f]; exact (idle n).settle _
  have hg : groupOf c cr d [soloLane s c cr d f] =
      { cr.group f.pc with wait := (cr.group f.pc).wait ||| d.waits } := by
    have hpc : (soloLane s c cr d f).pc = f.pc := by
      change (s.fibre (fkey cr.gang f.fid)).pc = f.pc
      rw [S.fibre]
    simp [groupOf, R.word, hpc, Crew.group]
  have := issueWord_idle d [soloLane s c cr d f] _ R.cur R.crew (S.envs idle d) hg R.runs R.preds
    (by
      rw [List.map_singleton, S.one, S.lane_f, Fibre.now, Fibre.settle_fid])
    (h1 _ rfl)
    (h1 _ (by rw [S.lane_f, Fibre.now, Fibre.settle_fence]; exact S.member.fence))
    (h1 _ fun n _ => hidle n) (h1 _ (hidle 15))
    (h1 _ fun n _ => by
      change (s.fibre (fkey cr.gang f.fid)).flag n = {}
      rw [S.fibre]; exact (idle n).get)
    (h1 _ (by
      rw [hone]
      have : (mkEnv s c cr d f.fid).active = true := ha
      simp only [soloLane, laneOf, S.one, List.map_cons, List.map_nil, List.filter_singleton, this]
      rfl))
    plain (by rw [hone]; exact hs) (by rw [hone]; exact h1 _ haw) (by rw [hone]; exact h1 _ hh)
    (by rw [hone]; exact hha)
  rwa [hone] at this

/-- What a word does to the state of a one-fibre crew before its effect. -/
def soloStep (s : State) (c : Cur) (cr : Crew) (d : Desc s) (f : Fibre) : Run s :=
  ((slotTaken s c 1).dropHints c).setFibre (fkey cr.gang f.fid)
    (f.gone (cr.group f.pc) true ((soloLane s c cr d f).next d))

theorem Solo.advance (S : Solo s c cr f lr) (d : Desc s) (r : Run s)
    (ha : (soloLane s c cr d f).active = true) :
    r.advance d (soloLane s c cr d f) = r.setFibre (fkey cr.gang f.fid)
      (f.gone (cr.group f.pc) true ((soloLane s c cr d f).next d)) := by
  have R := S.ready
  have m := S.member
  have hf := S.lane_f d
  have h1 : (soloLane s c cr d f).now = f.count + 1 + (cr.group f.pc).dist := by
    change (s.fibre (fkey cr.gang f.fid)).count + 1 + (if c.body = true then 0 else
      (cr.hints.getD (noHints (s.fibre (fkey cr.gang f.fid)).pc)).dist) = _
    rw [S.fibre, R.word]; rfl
  have h2 : (soloLane s c cr d f).sig = (cr.group f.pc).sig := by
    change (if c.body = true then 16 else (cr.hints.getD (noHints (s.fibre (fkey cr.gang f.fid)).pc)).sig) = _
    rw [S.fibre, R.word]; rfl
  have h3 : (soloLane s c cr d f).body = false := R.word
  have h5 : (soloLane s c cr d f).key = fkey cr.gang f.fid := rfl
  unfold Run.advance Fibre.gone Fibre.passed
  simp only [h1, h2, h3, h5, hf, ha, true_and, Bool.false_eq_true, if_false]

theorem Solo.run (S : Solo s c cr f lr) (idle : ∀ n, f.IdleFlag n) (d : Desc s)
    (plain : d.uses.all (fun u => !isQueue u.reg) = true)
    (ha : (soloLane s c cr d f).active = true)
    (hs : staticErr d { cr.group f.pc with wait := (cr.group f.pc).wait ||| d.waits } (s.gang cr.gang) 1 = none)
    (haw : d.away s (soloLane s c cr d f) = none)
    (hh : d.hold s (soloLane s c cr d f) = false) (hha : d.holdAll s [soloLane s c cr d f] = false)
    (hp : d.Passes (slotTaken s c 1).s (soloLane s c cr d f))
    (hx : d.exc (soloLane s c cr d f) &&& (s.gang cr.gang).ten = 0)
    (hw : ((d.act (soloStep s c cr d f) [soloLane s c cr d f]).s.site c.site).preds = []) :
    runWord s d = .next (settleCrew c cr (f.pc + 4) (stuck d [soloLane s c cr d f]
      (d.act (soloStep s c cr d f) [soloLane s c cr d f]))).s := by
  have R := S.ready
  unfold runWord
  rw [S.issueWord idle d plain ha hs haw hh hha]
  have hpass : passLane d { r := slotTaken s c 1 } (soloLane s c cr d f) =
      { r := slotTaken s c 1, ok := [soloLane s c cr d f] } := by
    refine passLane_ok d plain _ _ ?_ hp ?_
    · unfold operands
      apply List.map_congr_left
      intro u hu
      have := List.all_eq_true.mp plain u (List.mem_of_mem_filter hu)
      exact readUse_plain (by simpa using this) _ _ _ _ _ _
    · rw [show (soloLane s c cr d f).site = c.site from rfl, slotTaken_preds _ _ _ R.crew]; exact R.preds
  have hg : (slotTaken s c 1).s.gang cr.gang = s.gang cr.gang := slotTaken_gang _ _ _ _ R.crew
  have hone : [soloLane s c cr d f].filter Env.active = [soloLane s c cr d f] := by simp [ha]
  have hnone : ([soloLane s c cr d f].filter fun e => !e.active) = [] := by simp [ha]
  have hstep : ((slotTaken s c 1).dropHints c).each ([soloLane s c cr d f] ++ []) (fun r e => r.advance d e) =
      soloStep s c cr d f := by
    change ((slotTaken s c 1).dropHints c).advance d (soloLane s c cr d f) = _
    rw [S.advance d _ ha]; rfl
  have hdone : [soloLane s c cr d f].filter
      (fun e => ! [soloLane s c cr d f].any fun x => decide (x.key = e.key)) = [] := by simp
  have hall := after_all d (slotTaken s c 1).s [soloLane s c cr d f]
    (d.act (soloStep s c cr d f) [soloLane s c cr d f]) c.site
    (by intro e he; simp only [List.mem_singleton] at he; subst he; rfl) hw
    (by intro e he; simp only [List.mem_singleton] at he; subst he; exact hx) [] []
  have hpc : (soloLane s c cr d f).pc = f.pc := by
    change (s.fibre (fkey cr.gang f.fid)).pc = f.pc
    rw [S.fibre]
  unfold Run.issueLanes
  simp only [hone, hnone, List.length_singleton, hg, hs, List.foldl_cons, List.foldl_nil, hpass, hdone, List.any_nil,
    Bool.false_eq_true, if_false, ne_eq, not_true_eq_false, or_self, and_false, List.map_nil, List.append_nil,
    each_nil, R.word, List.head?_cons, Option.map_some, Option.getD_some, hpc]
  unfold Run.perform
  rw [hstep]
  have hpop : ¬(queueSrcs d.uses ≠ [] ∧ [soloLane s c cr d f].any d.reads = true) := by
    simp [(queues_plain plain).1]
  have htake : ∀ (r : Run s) e, r.takeElems d.uses e = r := by
    intro r e; unfold Run.takeElems; rw [(queues_plain plain).1]; rfl
  simp only [htake, ite_self, each_id, each_nil, List.append_nil, hpop, if_false]
  rw [hall]
  simp only [raise_nil, doHalts_nil]
  rfl

/-- The tail of a word that leaves the fibre in its crew. -/
theorem Solo.settled (S : Solo s c cr f lr) (r : Run s0) (fall : VAddr) (x : Fibre)
    (hc : KV.find? (ckey c.site c.slot) r.s.crews = some { cr with hints := none, stall := 0 })
    (hx : KV.find? (fkey cr.gang f.fid) r.s.fibres = some x) (hstep : x.stepping = false)
    (hhalt : x.toHalt = none)
    (ho : r.s.fibres.all (fun x => decide (x.1 / 1024 ≠ cr.gang) || !x.2.formable) = true) :
    settleCrew c cr fall r = r := by
  have hf : r.s.fibre (fkey cr.gang f.fid) = x := by simp [State.fibre, KV.getD, hx]
  unfold settleCrew
  rw [splitCrew_same r c.site c.slot fall x.pc (by
    intro cr' hc' fid hfid
    rw [hc] at hc'; cases hc'
    rw [S.one] at hfid
    simp only [List.mem_singleton] at hfid
    subst hfid
    rw [hf])]
  rw [S.one]
  change (r.stopStep (fkey cr.gang f.fid)).joinCrew c.site c.slot = r
  rw [stopStep_same r _ (by rw [hf]; exact hstep) (by rw [hf]; exact hhalt)]
  unfold Run.joinCrew
  rw [hc]
  simp only [S.one]
  split
  · rfl
  · have hpool : ((KV.range (cr.gang * 1024) 1024 r.s.fibres).filter fun y =>
        y.2.formable && !y.2.stepping && !y.2.walking && decide (y.2.site = c.site) &&
          decide (y.2.pc = (r.s.fibre (fkey cr.gang f.fid)).pc)) = [] := by
      rw [List.filter_eq_nil_iff]
      intro y hy
      have hm := List.mem_of_mem_filter hy
      have hr := List.of_mem_filter hy
      simp only [Bool.and_eq_true, decide_eq_true_eq] at hr
      have hg : y.1 / 1024 = cr.gang := by omega
      have := List.all_eq_true.mp ho y hm
      simp only [hg, ne_eq, not_true_eq_false, decide_false, Bool.false_or, Bool.not_eq_true'] at this
      simp [this]
    simp only [hpool]
    rfl

/-- The tail of a word that has taken the fibre out of its crew. -/
theorem Solo.left (S : Solo s c cr f lr) (r : Run s0) (fall : VAddr)
    (hc : KV.find? (ckey c.site c.slot) r.s.crews = none)
    (hstep : (r.s.fibre (fkey cr.gang f.fid)).stepping = false)
    (hhalt : (r.s.fibre (fkey cr.gang f.fid)).toHalt = none) : settleCrew c cr fall r = r := by
  unfold settleCrew
  have h1 : r.splitCrew c.site c.slot fall = r := by unfold Run.splitCrew; rw [hc]
  rw [h1, S.one]
  change (r.stopStep (fkey cr.gang f.fid)).joinCrew c.site c.slot = r
  rw [stopStep_same r _ hstep hhalt]
  unfold Run.joinCrew
  rw [hc]
end Sys2Proof
end

