-- ==== Sys2Proof/Laws/State.lean ====
section
/-! SUPPORT. What each named update of a run leaves in each field of the state: the field it writes,
and every other as it was. -/

namespace Sys2Proof.Machine
variable {s0 : State}

/-! ### A change of fields other than memory, scratchpads and fibres -/

@[simp] theorem Run.mod_mem (r : Run s0) (f : State → State) : (r.mod f).s.mem = r.s.mem := rfl
@[simp] theorem Run.mod_mpoison (r : Run s0) (f : State → State) : (r.mod f).s.mpoison = (f r.s).mpoison := rfl
@[simp] theorem Run.mod_scr (r : Run s0) (f : State → State) : (r.mod f).s.scr = r.s.scr := rfl
@[simp] theorem Run.mod_spoison (r : Run s0) (f : State → State) : (r.mod f).s.spoison = (f r.s).spoison := rfl
@[simp] theorem Run.mod_acc (r : Run s0) (f : State → State) : (r.mod f).s.acc = (f r.s).acc := rfl
@[simp] theorem Run.mod_l1 (r : Run s0) (f : State → State) : (r.mod f).s.l1 = (f r.s).l1 := rfl
@[simp] theorem Run.mod_stored (r : Run s0) (f : State → State) : (r.mod f).s.stored = (f r.s).stored := rfl
@[simp] theorem Run.mod_fcache (r : Run s0) (f : State → State) : (r.mod f).s.fcache = (f r.s).fcache := rfl
@[simp] theorem Run.mod_sram (r : Run s0) (f : State → State) : (r.mod f).s.sram = (f r.s).sram := rfl
@[simp] theorem Run.mod_dpoison (r : Run s0) (f : State → State) : (r.mod f).s.dpoison = (f r.s).dpoison := rfl
@[simp] theorem Run.mod_fwd (r : Run s0) (f : State → State) : (r.mod f).s.fwd = (f r.s).fwd := rfl
@[simp] theorem Run.mod_hent (r : Run s0) (f : State → State) : (r.mod f).s.hent = (f r.s).hent := rfl
@[simp] theorem Run.mod_dirs (r : Run s0) (f : State → State) : (r.mod f).s.dirs = (f r.s).dirs := rfl
@[simp] theorem Run.mod_fibres (r : Run s0) (f : State → State) : (r.mod f).s.fibres = r.s.fibres := rfl
@[simp] theorem Run.mod_gangs (r : Run s0) (f : State → State) : (r.mod f).s.gangs = (f r.s).gangs := rfl
@[simp] theorem Run.mod_groups (r : Run s0) (f : State → State) : (r.mod f).s.groups = (f r.s).groups := rfl
@[simp] theorem Run.mod_launches (r : Run s0) (f : State → State) : (r.mod f).s.launches = (f r.s).launches := rfl
@[simp] theorem Run.mod_ctxs (r : Run s0) (f : State → State) : (r.mod f).s.ctxs = (f r.s).ctxs := rfl
@[simp] theorem Run.mod_crews (r : Run s0) (f : State → State) : (r.mod f).s.crews = (f r.s).crews := rfl
@[simp] theorem Run.mod_ops (r : Run s0) (f : State → State) : (r.mod f).s.ops = (f r.s).ops := rfl
@[simp] theorem Run.mod_sites (r : Run s0) (f : State → State) : (r.mod f).s.sites = (f r.s).sites := rfl
@[simp] theorem Run.mod_dies (r : Run s0) (f : State → State) : (r.mod f).s.dies = (f r.s).dies := rfl
@[simp] theorem Run.mod_bags (r : Run s0) (f : State → State) : (r.mod f).s.bags = (f r.s).bags := rfl
@[simp] theorem Run.mod_pchs (r : Run s0) (f : State → State) : (r.mod f).s.pchs = (f r.s).pchs := rfl
@[simp] theorem Run.mod_stks (r : Run s0) (f : State → State) : (r.mod f).s.stks = (f r.s).stks := rfl
@[simp] theorem Run.mod_wqs (r : Run s0) (f : State → State) : (r.mod f).s.wqs = (f r.s).wqs := rfl
@[simp] theorem Run.mod_pkg (r : Run s0) (f : State → State) : (r.mod f).s.pkg = (f r.s).pkg := rfl
@[simp] theorem Run.mod_saved (r : Run s0) (f : State → State) : (r.mod f).s.saved = (f r.s).saved := rfl
@[simp] theorem Run.mod_agenda (r : Run s0) (f : State → State) : (r.mod f).s.agenda = (f r.s).agenda := rfl
@[simp] theorem Run.mod_tick (r : Run s0) (f : State → State) : (r.mod f).s.tick = (f r.s).tick := rfl
@[simp] theorem Run.mod_cur (r : Run s0) (f : State → State) : (r.mod f).s.cur = (f r.s).cur := rfl
@[simp] theorem Run.mod_nextId (r : Run s0) (f : State → State) : (r.mod f).s.nextId = (f r.s).nextId := rfl
@[simp] theorem Run.mod_runs (r : Run s0) (f : State → State) : (r.mod f).s.runs = (f r.s).runs := rfl

/-! ### putByte -/

@[simp] theorem Run.putByte_mem (r : Run s0) (a : Nat) (b : Byte) :
    (r.putByte a b).s.mem = Memory.write (2 ^ 52) a b r.s.mem := rfl
@[simp] theorem Run.putByte_mpoison (r : Run s0) (a : Nat) (b : Byte) :
    (r.putByte a b).s.mpoison = r.s.mpoison := rfl
@[simp] theorem Run.putByte_scr (r : Run s0) (a : Nat) (b : Byte) : (r.putByte a b).s.scr = r.s.scr := rfl
@[simp] theorem Run.putByte_spoison (r : Run s0) (a : Nat) (b : Byte) :
    (r.putByte a b).s.spoison = r.s.spoison := rfl
@[simp] theorem Run.putByte_acc (r : Run s0) (a : Nat) (b : Byte) : (r.putByte a b).s.acc = r.s.acc := rfl
@[simp] theorem Run.putByte_l1 (r : Run s0) (a : Nat) (b : Byte) : (r.putByte a b).s.l1 = r.s.l1 := rfl
@[simp] theorem Run.putByte_stored (r : Run s0) (a : Nat) (b : Byte) :
    (r.putByte a b).s.stored = r.s.stored := rfl
@[simp] theorem Run.putByte_fcache (r : Run s0) (a : Nat) (b : Byte) :
    (r.putByte a b).s.fcache = r.s.fcache := rfl
@[simp] theorem Run.putByte_sram (r : Run s0) (a : Nat) (b : Byte) : (r.putByte a b).s.sram = r.s.sram := rfl
@[simp] theorem Run.putByte_dpoison (r : Run s0) (a : Nat) (b : Byte) :
    (r.putByte a b).s.dpoison = r.s.dpoison := rfl
@[simp] theorem Run.putByte_fwd (r : Run s0) (a : Nat) (b : Byte) : (r.putByte a b).s.fwd = r.s.fwd := rfl
@[simp] theorem Run.putByte_hent (r : Run s0) (a : Nat) (b : Byte) : (r.putByte a b).s.hent = r.s.hent := rfl
@[simp] theorem Run.putByte_dirs (r : Run s0) (a : Nat) (b : Byte) : (r.putByte a b).s.dirs = r.s.dirs := rfl
@[simp] theorem Run.putByte_fibres (r : Run s0) (a : Nat) (b : Byte) :
    (r.putByte a b).s.fibres = r.s.fibres := rfl
@[simp] theorem Run.putByte_gangs (r : Run s0) (a : Nat) (b : Byte) :
    (r.putByte a b).s.gangs = r.s.gangs := rfl
@[simp] theorem Run.putByte_groups (r : Run s0) (a : Nat) (b : Byte) :
    (r.putByte a b).s.groups = r.s.groups := rfl
@[simp] theorem Run.putByte_launches (r : Run s0) (a : Nat) (b : Byte) :
    (r.putByte a b).s.launches = r.s.launches := rfl
@[simp] theorem Run.putByte_ctxs (r : Run s0) (a : Nat) (b : Byte) : (r.putByte a b).s.ctxs = r.s.ctxs := rfl
@[simp] theorem Run.putByte_crews (r : Run s0) (a : Nat) (b : Byte) :
    (r.putByte a b).s.crews = r.s.crews := rfl
@[simp] theorem Run.putByte_ops (r : Run s0) (a : Nat) (b : Byte) : (r.putByte a b).s.ops = r.s.ops := rfl
@[simp] theorem Run.putByte_sites (r : Run s0) (a : Nat) (b : Byte) :
    (r.putByte a b).s.sites = r.s.sites := rfl
@[simp] theorem Run.putByte_dies (r : Run s0) (a : Nat) (b : Byte) : (r.putByte a b).s.dies = r.s.dies := rfl
@[simp] theorem Run.putByte_bags (r : Run s0) (a : Nat) (b : Byte) : (r.putByte a b).s.bags = r.s.bags := rfl
@[simp] theorem Run.putByte_pchs (r : Run s0) (a : Nat) (b : Byte) : (r.putByte a b).s.pchs = r.s.pchs := rfl
@[simp] theorem Run.putByte_stks (r : Run s0) (a : Nat) (b : Byte) : (r.putByte a b).s.stks = r.s.stks := rfl
@[simp] theorem Run.putByte_wqs (r : Run s0) (a : Nat) (b : Byte) : (r.putByte a b).s.wqs = r.s.wqs := rfl
@[simp] theorem Run.putByte_pkg (r : Run s0) (a : Nat) (b : Byte) : (r.putByte a b).s.pkg = r.s.pkg := rfl
@[simp] theorem Run.putByte_saved (r : Run s0) (a : Nat) (b : Byte) :
    (r.putByte a b).s.saved = r.s.saved := rfl
@[simp] theorem Run.putByte_agenda (r : Run s0) (a : Nat) (b : Byte) :
    (r.putByte a b).s.agenda = r.s.agenda := rfl
@[simp] theorem Run.putByte_tick (r : Run s0) (a : Nat) (b : Byte) : (r.putByte a b).s.tick = r.s.tick := rfl
@[simp] theorem Run.putByte_cur (r : Run s0) (a : Nat) (b : Byte) : (r.putByte a b).s.cur = r.s.cur := rfl
@[simp] theorem Run.putByte_nextId (r : Run s0) (a : Nat) (b : Byte) :
    (r.putByte a b).s.nextId = r.s.nextId := rfl
@[simp] theorem Run.putByte_runs (r : Run s0) (a : Nat) (b : Byte) : (r.putByte a b).s.runs = r.s.runs := rfl

/-! ### zeroMem -/

@[simp] theorem Run.zeroMem_mem (r : Run s0) (lo n : Nat) :
    (r.zeroMem lo n).s.mem = Memory.zero lo n r.s.mem := rfl
@[simp] theorem Run.zeroMem_mpoison (r : Run s0) (lo n : Nat) :
    (r.zeroMem lo n).s.mpoison = r.s.mpoison := rfl
@[simp] theorem Run.zeroMem_scr (r : Run s0) (lo n : Nat) : (r.zeroMem lo n).s.scr = r.s.scr := rfl
@[simp] theorem Run.zeroMem_spoison (r : Run s0) (lo n : Nat) :
    (r.zeroMem lo n).s.spoison = r.s.spoison := rfl
@[simp] theorem Run.zeroMem_acc (r : Run s0) (lo n : Nat) : (r.zeroMem lo n).s.acc = r.s.acc := rfl
@[simp] theorem Run.zeroMem_l1 (r : Run s0) (lo n : Nat) : (r.zeroMem lo n).s.l1 = r.s.l1 := rfl
@[simp] theorem Run.zeroMem_stored (r : Run s0) (lo n : Nat) : (r.zeroMem lo n).s.stored = r.s.stored := rfl
@[simp] theorem Run.zeroMem_fcache (r : Run s0) (lo n : Nat) : (r.zeroMem lo n).s.fcache = r.s.fcache := rfl
@[simp] theorem Run.zeroMem_sram (r : Run s0) (lo n : Nat) : (r.zeroMem lo n).s.sram = r.s.sram := rfl
@[simp] theorem Run.zeroMem_dpoison (r : Run s0) (lo n : Nat) :
    (r.zeroMem lo n).s.dpoison = r.s.dpoison := rfl
@[simp] theorem Run.zeroMem_fwd (r : Run s0) (lo n : Nat) : (r.zeroMem lo n).s.fwd = r.s.fwd := rfl
@[simp] theorem Run.zeroMem_hent (r : Run s0) (lo n : Nat) : (r.zeroMem lo n).s.hent = r.s.hent := rfl
@[simp] theorem Run.zeroMem_dirs (r : Run s0) (lo n : Nat) : (r.zeroMem lo n).s.dirs = r.s.dirs := rfl
@[simp] theorem Run.zeroMem_fibres (r : Run s0) (lo n : Nat) : (r.zeroMem lo n).s.fibres = r.s.fibres := rfl
@[simp] theorem Run.zeroMem_gangs (r : Run s0) (lo n : Nat) : (r.zeroMem lo n).s.gangs = r.s.gangs := rfl
@[simp] theorem Run.zeroMem_groups (r : Run s0) (lo n : Nat) : (r.zeroMem lo n).s.groups = r.s.groups := rfl
@[simp] theorem Run.zeroMem_launches (r : Run s0) (lo n : Nat) :
    (r.zeroMem lo n).s.launches = r.s.launches := rfl
@[simp] theorem Run.zeroMem_ctxs (r : Run s0) (lo n : Nat) : (r.zeroMem lo n).s.ctxs = r.s.ctxs := rfl
@[simp] theorem Run.zeroMem_crews (r : Run s0) (lo n : Nat) : (r.zeroMem lo n).s.crews = r.s.crews := rfl
@[simp] theorem Run.zeroMem_ops (r : Run s0) (lo n : Nat) : (r.zeroMem lo n).s.ops = r.s.ops := rfl
@[simp] theorem Run.zeroMem_sites (r : Run s0) (lo n : Nat) : (r.zeroMem lo n).s.sites = r.s.sites := rfl
@[simp] theorem Run.zeroMem_dies (r : Run s0) (lo n : Nat) : (r.zeroMem lo n).s.dies = r.s.dies := rfl
@[simp] theorem Run.zeroMem_bags (r : Run s0) (lo n : Nat) : (r.zeroMem lo n).s.bags = r.s.bags := rfl
@[simp] theorem Run.zeroMem_pchs (r : Run s0) (lo n : Nat) : (r.zeroMem lo n).s.pchs = r.s.pchs := rfl
@[simp] theorem Run.zeroMem_stks (r : Run s0) (lo n : Nat) : (r.zeroMem lo n).s.stks = r.s.stks := rfl
@[simp] theorem Run.zeroMem_wqs (r : Run s0) (lo n : Nat) : (r.zeroMem lo n).s.wqs = r.s.wqs := rfl
@[simp] theorem Run.zeroMem_pkg (r : Run s0) (lo n : Nat) : (r.zeroMem lo n).s.pkg = r.s.pkg := rfl
@[simp] theorem Run.zeroMem_saved (r : Run s0) (lo n : Nat) : (r.zeroMem lo n).s.saved = r.s.saved := rfl
@[simp] theorem Run.zeroMem_agenda (r : Run s0) (lo n : Nat) : (r.zeroMem lo n).s.agenda = r.s.agenda := rfl
@[simp] theorem Run.zeroMem_tick (r : Run s0) (lo n : Nat) : (r.zeroMem lo n).s.tick = r.s.tick := rfl
@[simp] theorem Run.zeroMem_cur (r : Run s0) (lo n : Nat) : (r.zeroMem lo n).s.cur = r.s.cur := rfl
@[simp] theorem Run.zeroMem_nextId (r : Run s0) (lo n : Nat) : (r.zeroMem lo n).s.nextId = r.s.nextId := rfl
@[simp] theorem Run.zeroMem_runs (r : Run s0) (lo n : Nat) : (r.zeroMem lo n).s.runs = r.s.runs := rfl

/-! ### putScr -/

@[simp] theorem Run.putScr_mem (r : Run s0) (a : Nat) (b : Byte) : (r.putScr a b).s.mem = r.s.mem := rfl
@[simp] theorem Run.putScr_mpoison (r : Run s0) (a : Nat) (b : Byte) :
    (r.putScr a b).s.mpoison = r.s.mpoison := rfl
@[simp] theorem Run.putScr_scr (r : Run s0) (a : Nat) (b : Byte) :
    (r.putScr a b).s.scr = Memory.write scrTop a b r.s.scr := rfl
@[simp] theorem Run.putScr_spoison (r : Run s0) (a : Nat) (b : Byte) :
    (r.putScr a b).s.spoison = r.s.spoison := rfl
@[simp] theorem Run.putScr_acc (r : Run s0) (a : Nat) (b : Byte) : (r.putScr a b).s.acc = r.s.acc := rfl
@[simp] theorem Run.putScr_l1 (r : Run s0) (a : Nat) (b : Byte) : (r.putScr a b).s.l1 = r.s.l1 := rfl
@[simp] theorem Run.putScr_stored (r : Run s0) (a : Nat) (b : Byte) :
    (r.putScr a b).s.stored = r.s.stored := rfl
@[simp] theorem Run.putScr_fcache (r : Run s0) (a : Nat) (b : Byte) :
    (r.putScr a b).s.fcache = r.s.fcache := rfl
@[simp] theorem Run.putScr_sram (r : Run s0) (a : Nat) (b : Byte) : (r.putScr a b).s.sram = r.s.sram := rfl
@[simp] theorem Run.putScr_dpoison (r : Run s0) (a : Nat) (b : Byte) :
    (r.putScr a b).s.dpoison = r.s.dpoison := rfl
@[simp] theorem Run.putScr_fwd (r : Run s0) (a : Nat) (b : Byte) : (r.putScr a b).s.fwd = r.s.fwd := rfl
@[simp] theorem Run.putScr_hent (r : Run s0) (a : Nat) (b : Byte) : (r.putScr a b).s.hent = r.s.hent := rfl
@[simp] theorem Run.putScr_dirs (r : Run s0) (a : Nat) (b : Byte) : (r.putScr a b).s.dirs = r.s.dirs := rfl
@[simp] theorem Run.putScr_fibres (r : Run s0) (a : Nat) (b : Byte) :
    (r.putScr a b).s.fibres = r.s.fibres := rfl
@[simp] theorem Run.putScr_gangs (r : Run s0) (a : Nat) (b : Byte) : (r.putScr a b).s.gangs = r.s.gangs := rfl
@[simp] theorem Run.putScr_groups (r : Run s0) (a : Nat) (b : Byte) :
    (r.putScr a b).s.groups = r.s.groups := rfl
@[simp] theorem Run.putScr_launches (r : Run s0) (a : Nat) (b : Byte) :
    (r.putScr a b).s.launches = r.s.launches := rfl
@[simp] theorem Run.putScr_ctxs (r : Run s0) (a : Nat) (b : Byte) : (r.putScr a b).s.ctxs = r.s.ctxs := rfl
@[simp] theorem Run.putScr_crews (r : Run s0) (a : Nat) (b : Byte) : (r.putScr a b).s.crews = r.s.crews := rfl
@[simp] theorem Run.putScr_ops (r : Run s0) (a : Nat) (b : Byte) : (r.putScr a b).s.ops = r.s.ops := rfl
@[simp] theorem Run.putScr_sites (r : Run s0) (a : Nat) (b : Byte) : (r.putScr a b).s.sites = r.s.sites := rfl
@[simp] theorem Run.putScr_dies (r : Run s0) (a : Nat) (b : Byte) : (r.putScr a b).s.dies = r.s.dies := rfl
@[simp] theorem Run.putScr_bags (r : Run s0) (a : Nat) (b : Byte) : (r.putScr a b).s.bags = r.s.bags := rfl
@[simp] theorem Run.putScr_pchs (r : Run s0) (a : Nat) (b : Byte) : (r.putScr a b).s.pchs = r.s.pchs := rfl
@[simp] theorem Run.putScr_stks (r : Run s0) (a : Nat) (b : Byte) : (r.putScr a b).s.stks = r.s.stks := rfl
@[simp] theorem Run.putScr_wqs (r : Run s0) (a : Nat) (b : Byte) : (r.putScr a b).s.wqs = r.s.wqs := rfl
@[simp] theorem Run.putScr_pkg (r : Run s0) (a : Nat) (b : Byte) : (r.putScr a b).s.pkg = r.s.pkg := rfl
@[simp] theorem Run.putScr_saved (r : Run s0) (a : Nat) (b : Byte) : (r.putScr a b).s.saved = r.s.saved := rfl
@[simp] theorem Run.putScr_agenda (r : Run s0) (a : Nat) (b : Byte) :
    (r.putScr a b).s.agenda = r.s.agenda := rfl
@[simp] theorem Run.putScr_tick (r : Run s0) (a : Nat) (b : Byte) : (r.putScr a b).s.tick = r.s.tick := rfl
@[simp] theorem Run.putScr_cur (r : Run s0) (a : Nat) (b : Byte) : (r.putScr a b).s.cur = r.s.cur := rfl
@[simp] theorem Run.putScr_nextId (r : Run s0) (a : Nat) (b : Byte) :
    (r.putScr a b).s.nextId = r.s.nextId := rfl
@[simp] theorem Run.putScr_runs (r : Run s0) (a : Nat) (b : Byte) : (r.putScr a b).s.runs = r.s.runs := rfl

/-! ### zeroScr -/

@[simp] theorem Run.zeroScr_mem (r : Run s0) (lo n : Nat) : (r.zeroScr lo n).s.mem = r.s.mem := rfl
@[simp] theorem Run.zeroScr_mpoison (r : Run s0) (lo n : Nat) :
    (r.zeroScr lo n).s.mpoison = r.s.mpoison := rfl
@[simp] theorem Run.zeroScr_scr (r : Run s0) (lo n : Nat) :
    (r.zeroScr lo n).s.scr = Memory.zero lo n r.s.scr := rfl
@[simp] theorem Run.zeroScr_spoison (r : Run s0) (lo n : Nat) :
    (r.zeroScr lo n).s.spoison = r.s.spoison := rfl
@[simp] theorem Run.zeroScr_acc (r : Run s0) (lo n : Nat) : (r.zeroScr lo n).s.acc = r.s.acc := rfl
@[simp] theorem Run.zeroScr_l1 (r : Run s0) (lo n : Nat) : (r.zeroScr lo n).s.l1 = r.s.l1 := rfl
@[simp] theorem Run.zeroScr_stored (r : Run s0) (lo n : Nat) : (r.zeroScr lo n).s.stored = r.s.stored := rfl
@[simp] theorem Run.zeroScr_fcache (r : Run s0) (lo n : Nat) : (r.zeroScr lo n).s.fcache = r.s.fcache := rfl
@[simp] theorem Run.zeroScr_sram (r : Run s0) (lo n : Nat) : (r.zeroScr lo n).s.sram = r.s.sram := rfl
@[simp] theorem Run.zeroScr_dpoison (r : Run s0) (lo n : Nat) :
    (r.zeroScr lo n).s.dpoison = r.s.dpoison := rfl
@[simp] theorem Run.zeroScr_fwd (r : Run s0) (lo n : Nat) : (r.zeroScr lo n).s.fwd = r.s.fwd := rfl
@[simp] theorem Run.zeroScr_hent (r : Run s0) (lo n : Nat) : (r.zeroScr lo n).s.hent = r.s.hent := rfl
@[simp] theorem Run.zeroScr_dirs (r : Run s0) (lo n : Nat) : (r.zeroScr lo n).s.dirs = r.s.dirs := rfl
@[simp] theorem Run.zeroScr_fibres (r : Run s0) (lo n : Nat) : (r.zeroScr lo n).s.fibres = r.s.fibres := rfl
@[simp] theorem Run.zeroScr_gangs (r : Run s0) (lo n : Nat) : (r.zeroScr lo n).s.gangs = r.s.gangs := rfl
@[simp] theorem Run.zeroScr_groups (r : Run s0) (lo n : Nat) : (r.zeroScr lo n).s.groups = r.s.groups := rfl
@[simp] theorem Run.zeroScr_launches (r : Run s0) (lo n : Nat) :
    (r.zeroScr lo n).s.launches = r.s.launches := rfl
@[simp] theorem Run.zeroScr_ctxs (r : Run s0) (lo n : Nat) : (r.zeroScr lo n).s.ctxs = r.s.ctxs := rfl
@[simp] theorem Run.zeroScr_crews (r : Run s0) (lo n : Nat) : (r.zeroScr lo n).s.crews = r.s.crews := rfl
@[simp] theorem Run.zeroScr_ops (r : Run s0) (lo n : Nat) : (r.zeroScr lo n).s.ops = r.s.ops := rfl
@[simp] theorem Run.zeroScr_sites (r : Run s0) (lo n : Nat) : (r.zeroScr lo n).s.sites = r.s.sites := rfl
@[simp] theorem Run.zeroScr_dies (r : Run s0) (lo n : Nat) : (r.zeroScr lo n).s.dies = r.s.dies := rfl
@[simp] theorem Run.zeroScr_bags (r : Run s0) (lo n : Nat) : (r.zeroScr lo n).s.bags = r.s.bags := rfl
@[simp] theorem Run.zeroScr_pchs (r : Run s0) (lo n : Nat) : (r.zeroScr lo n).s.pchs = r.s.pchs := rfl
@[simp] theorem Run.zeroScr_stks (r : Run s0) (lo n : Nat) : (r.zeroScr lo n).s.stks = r.s.stks := rfl
@[simp] theorem Run.zeroScr_wqs (r : Run s0) (lo n : Nat) : (r.zeroScr lo n).s.wqs = r.s.wqs := rfl
@[simp] theorem Run.zeroScr_pkg (r : Run s0) (lo n : Nat) : (r.zeroScr lo n).s.pkg = r.s.pkg := rfl
@[simp] theorem Run.zeroScr_saved (r : Run s0) (lo n : Nat) : (r.zeroScr lo n).s.saved = r.s.saved := rfl
@[simp] theorem Run.zeroScr_agenda (r : Run s0) (lo n : Nat) : (r.zeroScr lo n).s.agenda = r.s.agenda := rfl
@[simp] theorem Run.zeroScr_tick (r : Run s0) (lo n : Nat) : (r.zeroScr lo n).s.tick = r.s.tick := rfl
@[simp] theorem Run.zeroScr_cur (r : Run s0) (lo n : Nat) : (r.zeroScr lo n).s.cur = r.s.cur := rfl
@[simp] theorem Run.zeroScr_nextId (r : Run s0) (lo n : Nat) : (r.zeroScr lo n).s.nextId = r.s.nextId := rfl
@[simp] theorem Run.zeroScr_runs (r : Run s0) (lo n : Nat) : (r.zeroScr lo n).s.runs = r.s.runs := rfl

/-! ### setFibre -/

@[simp] theorem Run.setFibre_mem (r : Run s0) (k : Nat) (f : Fibre) : (r.setFibre k f).s.mem = r.s.mem := rfl
@[simp] theorem Run.setFibre_mpoison (r : Run s0) (k : Nat) (f : Fibre) :
    (r.setFibre k f).s.mpoison = r.s.mpoison := rfl
@[simp] theorem Run.setFibre_scr (r : Run s0) (k : Nat) (f : Fibre) : (r.setFibre k f).s.scr = r.s.scr := rfl
@[simp] theorem Run.setFibre_spoison (r : Run s0) (k : Nat) (f : Fibre) :
    (r.setFibre k f).s.spoison = r.s.spoison := rfl
@[simp] theorem Run.setFibre_acc (r : Run s0) (k : Nat) (f : Fibre) : (r.setFibre k f).s.acc = r.s.acc := rfl
@[simp] theorem Run.setFibre_l1 (r : Run s0) (k : Nat) (f : Fibre) : (r.setFibre k f).s.l1 = r.s.l1 := rfl
@[simp] theorem Run.setFibre_stored (r : Run s0) (k : Nat) (f : Fibre) :
    (r.setFibre k f).s.stored = r.s.stored := rfl
@[simp] theorem Run.setFibre_fcache (r : Run s0) (k : Nat) (f : Fibre) :
    (r.setFibre k f).s.fcache = r.s.fcache := rfl
@[simp] theorem Run.setFibre_sram (r : Run s0) (k : Nat) (f : Fibre) :
    (r.setFibre k f).s.sram = r.s.sram := rfl
@[simp] theorem Run.setFibre_dpoison (r : Run s0) (k : Nat) (f : Fibre) :
    (r.setFibre k f).s.dpoison = r.s.dpoison := rfl
@[simp] theorem Run.setFibre_fwd (r : Run s0) (k : Nat) (f : Fibre) : (r.setFibre k f).s.fwd = r.s.fwd := rfl
@[simp] theorem Run.setFibre_hent (r : Run s0) (k : Nat) (f : Fibre) :
    (r.setFibre k f).s.hent = r.s.hent := rfl
@[simp] theorem Run.setFibre_dirs (r : Run s0) (k : Nat) (f : Fibre) :
    (r.setFibre k f).s.dirs = r.s.dirs := rfl
@[simp] theorem Run.setFibre_fibres (r : Run s0) (k : Nat) (f : Fibre) :
    (r.setFibre k f).s.fibres = KV.put k f r.s.fibres := rfl
@[simp] theorem Run.setFibre_gangs (r : Run s0) (k : Nat) (f : Fibre) :
    (r.setFibre k f).s.gangs = r.s.gangs := rfl
@[simp] theorem Run.setFibre_groups (r : Run s0) (k : Nat) (f : Fibre) :
    (r.setFibre k f).s.groups = r.s.groups := rfl
@[simp] theorem Run.setFibre_launches (r : Run s0) (k : Nat) (f : Fibre) :
    (r.setFibre k f).s.launches = r.s.launches := rfl
@[simp] theorem Run.setFibre_ctxs (r : Run s0) (k : Nat) (f : Fibre) :
    (r.setFibre k f).s.ctxs = r.s.ctxs := rfl
@[simp] theorem Run.setFibre_crews (r : Run s0) (k : Nat) (f : Fibre) :
    (r.setFibre k f).s.crews = r.s.crews := rfl
@[simp] theorem Run.setFibre_ops (r : Run s0) (k : Nat) (f : Fibre) : (r.setFibre k f).s.ops = r.s.ops := rfl
@[simp] theorem Run.setFibre_sites (r : Run s0) (k : Nat) (f : Fibre) :
    (r.setFibre k f).s.sites = r.s.sites := rfl
@[simp] theorem Run.setFibre_dies (r : Run s0) (k : Nat) (f : Fibre) :
    (r.setFibre k f).s.dies = r.s.dies := rfl
@[simp] theorem Run.setFibre_bags (r : Run s0) (k : Nat) (f : Fibre) :
    (r.setFibre k f).s.bags = r.s.bags := rfl
@[simp] theorem Run.setFibre_pchs (r : Run s0) (k : Nat) (f : Fibre) :
    (r.setFibre k f).s.pchs = r.s.pchs := rfl
@[simp] theorem Run.setFibre_stks (r : Run s0) (k : Nat) (f : Fibre) :
    (r.setFibre k f).s.stks = r.s.stks := rfl
@[simp] theorem Run.setFibre_wqs (r : Run s0) (k : Nat) (f : Fibre) : (r.setFibre k f).s.wqs = r.s.wqs := rfl
@[simp] theorem Run.setFibre_pkg (r : Run s0) (k : Nat) (f : Fibre) : (r.setFibre k f).s.pkg = r.s.pkg := rfl
@[simp] theorem Run.setFibre_saved (r : Run s0) (k : Nat) (f : Fibre) :
    (r.setFibre k f).s.saved = r.s.saved := rfl
@[simp] theorem Run.setFibre_agenda (r : Run s0) (k : Nat) (f : Fibre) :
    (r.setFibre k f).s.agenda = r.s.agenda := rfl
@[simp] theorem Run.setFibre_tick (r : Run s0) (k : Nat) (f : Fibre) :
    (r.setFibre k f).s.tick = r.s.tick := rfl
@[simp] theorem Run.setFibre_cur (r : Run s0) (k : Nat) (f : Fibre) : (r.setFibre k f).s.cur = r.s.cur := rfl
@[simp] theorem Run.setFibre_nextId (r : Run s0) (k : Nat) (f : Fibre) :
    (r.setFibre k f).s.nextId = r.s.nextId := rfl
@[simp] theorem Run.setFibre_runs (r : Run s0) (k : Nat) (f : Fibre) :
    (r.setFibre k f).s.runs = r.s.runs := rfl

/-! ### delFibre -/

@[simp] theorem Run.delFibre_mem (r : Run s0) (k : Nat) : (r.delFibre k).s.mem = r.s.mem := rfl
@[simp] theorem Run.delFibre_mpoison (r : Run s0) (k : Nat) : (r.delFibre k).s.mpoison = r.s.mpoison := rfl
@[simp] theorem Run.delFibre_scr (r : Run s0) (k : Nat) : (r.delFibre k).s.scr = r.s.scr := rfl
@[simp] theorem Run.delFibre_spoison (r : Run s0) (k : Nat) : (r.delFibre k).s.spoison = r.s.spoison := rfl
@[simp] theorem Run.delFibre_acc (r : Run s0) (k : Nat) : (r.delFibre k).s.acc = r.s.acc := rfl
@[simp] theorem Run.delFibre_l1 (r : Run s0) (k : Nat) : (r.delFibre k).s.l1 = r.s.l1 := rfl
@[simp] theorem Run.delFibre_stored (r : Run s0) (k : Nat) : (r.delFibre k).s.stored = r.s.stored := rfl
@[simp] theorem Run.delFibre_fcache (r : Run s0) (k : Nat) : (r.delFibre k).s.fcache = r.s.fcache := rfl
@[simp] theorem Run.delFibre_sram (r : Run s0) (k : Nat) : (r.delFibre k).s.sram = r.s.sram := rfl
@[simp] theorem Run.delFibre_dpoison (r : Run s0) (k : Nat) : (r.delFibre k).s.dpoison = r.s.dpoison := rfl
@[simp] theorem Run.delFibre_fwd (r : Run s0) (k : Nat) : (r.delFibre k).s.fwd = r.s.fwd := rfl
@[simp] theorem Run.delFibre_hent (r : Run s0) (k : Nat) : (r.delFibre k).s.hent = r.s.hent := rfl
@[simp] theorem Run.delFibre_dirs (r : Run s0) (k : Nat) : (r.delFibre k).s.dirs = r.s.dirs := rfl
@[simp] theorem Run.delFibre_fibres (r : Run s0) (k : Nat) :
    (r.delFibre k).s.fibres = KV.del k r.s.fibres := rfl
@[simp] theorem Run.delFibre_gangs (r : Run s0) (k : Nat) : (r.delFibre k).s.gangs = r.s.gangs := rfl
@[simp] theorem Run.delFibre_groups (r : Run s0) (k : Nat) : (r.delFibre k).s.groups = r.s.groups := rfl
@[simp] theorem Run.delFibre_launches (r : Run s0) (k : Nat) : (r.delFibre k).s.launches = r.s.launches := rfl
@[simp] theorem Run.delFibre_ctxs (r : Run s0) (k : Nat) : (r.delFibre k).s.ctxs = r.s.ctxs := rfl
@[simp] theorem Run.delFibre_crews (r : Run s0) (k : Nat) : (r.delFibre k).s.crews = r.s.crews := rfl
@[simp] theorem Run.delFibre_ops (r : Run s0) (k : Nat) : (r.delFibre k).s.ops = r.s.ops := rfl
@[simp] theorem Run.delFibre_sites (r : Run s0) (k : Nat) : (r.delFibre k).s.sites = r.s.sites := rfl
@[simp] theorem Run.delFibre_dies (r : Run s0) (k : Nat) : (r.delFibre k).s.dies = r.s.dies := rfl
@[simp] theorem Run.delFibre_bags (r : Run s0) (k : Nat) : (r.delFibre k).s.bags = r.s.bags := rfl
@[simp] theorem Run.delFibre_pchs (r : Run s0) (k : Nat) : (r.delFibre k).s.pchs = r.s.pchs := rfl
@[simp] theorem Run.delFibre_stks (r : Run s0) (k : Nat) : (r.delFibre k).s.stks = r.s.stks := rfl
@[simp] theorem Run.delFibre_wqs (r : Run s0) (k : Nat) : (r.delFibre k).s.wqs = r.s.wqs := rfl
@[simp] theorem Run.delFibre_pkg (r : Run s0) (k : Nat) : (r.delFibre k).s.pkg = r.s.pkg := rfl
@[simp] theorem Run.delFibre_saved (r : Run s0) (k : Nat) : (r.delFibre k).s.saved = r.s.saved := rfl
@[simp] theorem Run.delFibre_agenda (r : Run s0) (k : Nat) : (r.delFibre k).s.agenda = r.s.agenda := rfl
@[simp] theorem Run.delFibre_tick (r : Run s0) (k : Nat) : (r.delFibre k).s.tick = r.s.tick := rfl
@[simp] theorem Run.delFibre_cur (r : Run s0) (k : Nat) : (r.delFibre k).s.cur = r.s.cur := rfl
@[simp] theorem Run.delFibre_nextId (r : Run s0) (k : Nat) : (r.delFibre k).s.nextId = r.s.nextId := rfl
@[simp] theorem Run.delFibre_runs (r : Run s0) (k : Nat) : (r.delFibre k).s.runs = r.s.runs := rfl

/-! ### dropFibres -/

@[simp] theorem Run.dropFibres_mem (r : Run s0) (p : Nat × Fibre → Bool) :
    (r.dropFibres p).s.mem = r.s.mem := rfl
@[simp] theorem Run.dropFibres_mpoison (r : Run s0) (p : Nat × Fibre → Bool) :
    (r.dropFibres p).s.mpoison = r.s.mpoison := rfl
@[simp] theorem Run.dropFibres_scr (r : Run s0) (p : Nat × Fibre → Bool) :
    (r.dropFibres p).s.scr = r.s.scr := rfl
@[simp] theorem Run.dropFibres_spoison (r : Run s0) (p : Nat × Fibre → Bool) :
    (r.dropFibres p).s.spoison = r.s.spoison := rfl
@[simp] theorem Run.dropFibres_acc (r : Run s0) (p : Nat × Fibre → Bool) :
    (r.dropFibres p).s.acc = r.s.acc := rfl
@[simp] theorem Run.dropFibres_l1 (r : Run s0) (p : Nat × Fibre → Bool) :
    (r.dropFibres p).s.l1 = r.s.l1 := rfl
@[simp] theorem Run.dropFibres_stored (r : Run s0) (p : Nat × Fibre → Bool) :
    (r.dropFibres p).s.stored = r.s.stored := rfl
@[simp] theorem Run.dropFibres_fcache (r : Run s0) (p : Nat × Fibre → Bool) :
    (r.dropFibres p).s.fcache = r.s.fcache := rfl
@[simp] theorem Run.dropFibres_sram (r : Run s0) (p : Nat × Fibre → Bool) :
    (r.dropFibres p).s.sram = r.s.sram := rfl
@[simp] theorem Run.dropFibres_dpoison (r : Run s0) (p : Nat × Fibre → Bool) :
    (r.dropFibres p).s.dpoison = r.s.dpoison := rfl
@[simp] theorem Run.dropFibres_fwd (r : Run s0) (p : Nat × Fibre → Bool) :
    (r.dropFibres p).s.fwd = r.s.fwd := rfl
@[simp] theorem Run.dropFibres_hent (r : Run s0) (p : Nat × Fibre → Bool) :
    (r.dropFibres p).s.hent = r.s.hent := rfl
@[simp] theorem Run.dropFibres_dirs (r : Run s0) (p : Nat × Fibre → Bool) :
    (r.dropFibres p).s.dirs = r.s.dirs := rfl
@[simp] theorem Run.dropFibres_fibres (r : Run s0) (p : Nat × Fibre → Bool) :
    (r.dropFibres p).s.fibres = r.s.fibres.filter fun e => !p e := rfl
@[simp] theorem Run.dropFibres_gangs (r : Run s0) (p : Nat × Fibre → Bool) :
    (r.dropFibres p).s.gangs = r.s.gangs := rfl
@[simp] theorem Run.dropFibres_groups (r : Run s0) (p : Nat × Fibre → Bool) :
    (r.dropFibres p).s.groups = r.s.groups := rfl
@[simp] theorem Run.dropFibres_launches (r : Run s0) (p : Nat × Fibre → Bool) :
    (r.dropFibres p).s.launches = r.s.launches := rfl
@[simp] theorem Run.dropFibres_ctxs (r : Run s0) (p : Nat × Fibre → Bool) :
    (r.dropFibres p).s.ctxs = r.s.ctxs := rfl
@[simp] theorem Run.dropFibres_crews (r : Run s0) (p : Nat × Fibre → Bool) :
    (r.dropFibres p).s.crews = r.s.crews := rfl
@[simp] theorem Run.dropFibres_ops (r : Run s0) (p : Nat × Fibre → Bool) :
    (r.dropFibres p).s.ops = r.s.ops := rfl
@[simp] theorem Run.dropFibres_sites (r : Run s0) (p : Nat × Fibre → Bool) :
    (r.dropFibres p).s.sites = r.s.sites := rfl
@[simp] theorem Run.dropFibres_dies (r : Run s0) (p : Nat × Fibre → Bool) :
    (r.dropFibres p).s.dies = r.s.dies := rfl
@[simp] theorem Run.dropFibres_bags (r : Run s0) (p : Nat × Fibre → Bool) :
    (r.dropFibres p).s.bags = r.s.bags := rfl
@[simp] theorem Run.dropFibres_pchs (r : Run s0) (p : Nat × Fibre → Bool) :
    (r.dropFibres p).s.pchs = r.s.pchs := rfl
@[simp] theorem Run.dropFibres_stks (r : Run s0) (p : Nat × Fibre → Bool) :
    (r.dropFibres p).s.stks = r.s.stks := rfl
@[simp] theorem Run.dropFibres_wqs (r : Run s0) (p : Nat × Fibre → Bool) :
    (r.dropFibres p).s.wqs = r.s.wqs := rfl
@[simp] theorem Run.dropFibres_pkg (r : Run s0) (p : Nat × Fibre → Bool) :
    (r.dropFibres p).s.pkg = r.s.pkg := rfl
@[simp] theorem Run.dropFibres_saved (r : Run s0) (p : Nat × Fibre → Bool) :
    (r.dropFibres p).s.saved = r.s.saved := rfl
@[simp] theorem Run.dropFibres_agenda (r : Run s0) (p : Nat × Fibre → Bool) :
    (r.dropFibres p).s.agenda = r.s.agenda := rfl
@[simp] theorem Run.dropFibres_tick (r : Run s0) (p : Nat × Fibre → Bool) :
    (r.dropFibres p).s.tick = r.s.tick := rfl
@[simp] theorem Run.dropFibres_cur (r : Run s0) (p : Nat × Fibre → Bool) :
    (r.dropFibres p).s.cur = r.s.cur := rfl
@[simp] theorem Run.dropFibres_nextId (r : Run s0) (p : Nat × Fibre → Bool) :
    (r.dropFibres p).s.nextId = r.s.nextId := rfl
@[simp] theorem Run.dropFibres_runs (r : Run s0) (p : Nat × Fibre → Bool) :
    (r.dropFibres p).s.runs = r.s.runs := rfl

/-! ### updGang -/

@[simp] theorem Run.updGang_mem (r : Run s0) (k : Nat) (f : Gang → Gang) :
    (r.updGang k f).s.mem = r.s.mem := rfl
@[simp] theorem Run.updGang_mpoison (r : Run s0) (k : Nat) (f : Gang → Gang) :
    (r.updGang k f).s.mpoison = r.s.mpoison := rfl
@[simp] theorem Run.updGang_scr (r : Run s0) (k : Nat) (f : Gang → Gang) :
    (r.updGang k f).s.scr = r.s.scr := rfl
@[simp] theorem Run.updGang_spoison (r : Run s0) (k : Nat) (f : Gang → Gang) :
    (r.updGang k f).s.spoison = r.s.spoison := rfl
@[simp] theorem Run.updGang_acc (r : Run s0) (k : Nat) (f : Gang → Gang) :
    (r.updGang k f).s.acc = r.s.acc := rfl
@[simp] theorem Run.updGang_l1 (r : Run s0) (k : Nat) (f : Gang → Gang) : (r.updGang k f).s.l1 = r.s.l1 := rfl
@[simp] theorem Run.updGang_stored (r : Run s0) (k : Nat) (f : Gang → Gang) :
    (r.updGang k f).s.stored = r.s.stored := rfl
@[simp] theorem Run.updGang_fcache (r : Run s0) (k : Nat) (f : Gang → Gang) :
    (r.updGang k f).s.fcache = r.s.fcache := rfl
@[simp] theorem Run.updGang_sram (r : Run s0) (k : Nat) (f : Gang → Gang) :
    (r.updGang k f).s.sram = r.s.sram := rfl
@[simp] theorem Run.updGang_dpoison (r : Run s0) (k : Nat) (f : Gang → Gang) :
    (r.updGang k f).s.dpoison = r.s.dpoison := rfl
@[simp] theorem Run.updGang_fwd (r : Run s0) (k : Nat) (f : Gang → Gang) :
    (r.updGang k f).s.fwd = r.s.fwd := rfl
@[simp] theorem Run.updGang_hent (r : Run s0) (k : Nat) (f : Gang → Gang) :
    (r.updGang k f).s.hent = r.s.hent := rfl
@[simp] theorem Run.updGang_dirs (r : Run s0) (k : Nat) (f : Gang → Gang) :
    (r.updGang k f).s.dirs = r.s.dirs := rfl
@[simp] theorem Run.updGang_fibres (r : Run s0) (k : Nat) (f : Gang → Gang) :
    (r.updGang k f).s.fibres = r.s.fibres := rfl
@[simp] theorem Run.updGang_gangs (r : Run s0) (k : Nat) (f : Gang → Gang) :
    (r.updGang k f).s.gangs = KV.update k f r.s.gangs := rfl
@[simp] theorem Run.updGang_groups (r : Run s0) (k : Nat) (f : Gang → Gang) :
    (r.updGang k f).s.groups = r.s.groups := rfl
@[simp] theorem Run.updGang_launches (r : Run s0) (k : Nat) (f : Gang → Gang) :
    (r.updGang k f).s.launches = r.s.launches := rfl
@[simp] theorem Run.updGang_ctxs (r : Run s0) (k : Nat) (f : Gang → Gang) :
    (r.updGang k f).s.ctxs = r.s.ctxs := rfl
@[simp] theorem Run.updGang_crews (r : Run s0) (k : Nat) (f : Gang → Gang) :
    (r.updGang k f).s.crews = r.s.crews := rfl
@[simp] theorem Run.updGang_ops (r : Run s0) (k : Nat) (f : Gang → Gang) :
    (r.updGang k f).s.ops = r.s.ops := rfl
@[simp] theorem Run.updGang_sites (r : Run s0) (k : Nat) (f : Gang → Gang) :
    (r.updGang k f).s.sites = r.s.sites := rfl
@[simp] theorem Run.updGang_dies (r : Run s0) (k : Nat) (f : Gang → Gang) :
    (r.updGang k f).s.dies = r.s.dies := rfl
@[simp] theorem Run.updGang_bags (r : Run s0) (k : Nat) (f : Gang → Gang) :
    (r.updGang k f).s.bags = r.s.bags := rfl
@[simp] theorem Run.updGang_pchs (r : Run s0) (k : Nat) (f : Gang → Gang) :
    (r.updGang k f).s.pchs = r.s.pchs := rfl
@[simp] theorem Run.updGang_stks (r : Run s0) (k : Nat) (f : Gang → Gang) :
    (r.updGang k f).s.stks = r.s.stks := rfl
@[simp] theorem Run.updGang_wqs (r : Run s0) (k : Nat) (f : Gang → Gang) :
    (r.updGang k f).s.wqs = r.s.wqs := rfl
@[simp] theorem Run.updGang_pkg (r : Run s0) (k : Nat) (f : Gang → Gang) :
    (r.updGang k f).s.pkg = r.s.pkg := rfl
@[simp] theorem Run.updGang_saved (r : Run s0) (k : Nat) (f : Gang → Gang) :
    (r.updGang k f).s.saved = r.s.saved := rfl
@[simp] theorem Run.updGang_agenda (r : Run s0) (k : Nat) (f : Gang → Gang) :
    (r.updGang k f).s.agenda = r.s.agenda := rfl
@[simp] theorem Run.updGang_tick (r : Run s0) (k : Nat) (f : Gang → Gang) :
    (r.updGang k f).s.tick = r.s.tick := rfl
@[simp] theorem Run.updGang_cur (r : Run s0) (k : Nat) (f : Gang → Gang) :
    (r.updGang k f).s.cur = r.s.cur := rfl
@[simp] theorem Run.updGang_nextId (r : Run s0) (k : Nat) (f : Gang → Gang) :
    (r.updGang k f).s.nextId = r.s.nextId := rfl
@[simp] theorem Run.updGang_runs (r : Run s0) (k : Nat) (f : Gang → Gang) :
    (r.updGang k f).s.runs = r.s.runs := rfl

/-! ### updSite -/

@[simp] theorem Run.updSite_mem (r : Run s0) (k : Nat) (f : Site → Site) :
    (r.updSite k f).s.mem = r.s.mem := rfl
@[simp] theorem Run.updSite_mpoison (r : Run s0) (k : Nat) (f : Site → Site) :
    (r.updSite k f).s.mpoison = r.s.mpoison := rfl
@[simp] theorem Run.updSite_scr (r : Run s0) (k : Nat) (f : Site → Site) :
    (r.updSite k f).s.scr = r.s.scr := rfl
@[simp] theorem Run.updSite_spoison (r : Run s0) (k : Nat) (f : Site → Site) :
    (r.updSite k f).s.spoison = r.s.spoison := rfl
@[simp] theorem Run.updSite_acc (r : Run s0) (k : Nat) (f : Site → Site) :
    (r.updSite k f).s.acc = r.s.acc := rfl
@[simp] theorem Run.updSite_l1 (r : Run s0) (k : Nat) (f : Site → Site) : (r.updSite k f).s.l1 = r.s.l1 := rfl
@[simp] theorem Run.updSite_stored (r : Run s0) (k : Nat) (f : Site → Site) :
    (r.updSite k f).s.stored = r.s.stored := rfl
@[simp] theorem Run.updSite_fcache (r : Run s0) (k : Nat) (f : Site → Site) :
    (r.updSite k f).s.fcache = r.s.fcache := rfl
@[simp] theorem Run.updSite_sram (r : Run s0) (k : Nat) (f : Site → Site) :
    (r.updSite k f).s.sram = r.s.sram := rfl
@[simp] theorem Run.updSite_dpoison (r : Run s0) (k : Nat) (f : Site → Site) :
    (r.updSite k f).s.dpoison = r.s.dpoison := rfl
@[simp] theorem Run.updSite_fwd (r : Run s0) (k : Nat) (f : Site → Site) :
    (r.updSite k f).s.fwd = r.s.fwd := rfl
@[simp] theorem Run.updSite_hent (r : Run s0) (k : Nat) (f : Site → Site) :
    (r.updSite k f).s.hent = r.s.hent := rfl
@[simp] theorem Run.updSite_dirs (r : Run s0) (k : Nat) (f : Site → Site) :
    (r.updSite k f).s.dirs = r.s.dirs := rfl
@[simp] theorem Run.updSite_fibres (r : Run s0) (k : Nat) (f : Site → Site) :
    (r.updSite k f).s.fibres = r.s.fibres := rfl
@[simp] theorem Run.updSite_gangs (r : Run s0) (k : Nat) (f : Site → Site) :
    (r.updSite k f).s.gangs = r.s.gangs := rfl
@[simp] theorem Run.updSite_groups (r : Run s0) (k : Nat) (f : Site → Site) :
    (r.updSite k f).s.groups = r.s.groups := rfl
@[simp] theorem Run.updSite_launches (r : Run s0) (k : Nat) (f : Site → Site) :
    (r.updSite k f).s.launches = r.s.launches := rfl
@[simp] theorem Run.updSite_ctxs (r : Run s0) (k : Nat) (f : Site → Site) :
    (r.updSite k f).s.ctxs = r.s.ctxs := rfl
@[simp] theorem Run.updSite_crews (r : Run s0) (k : Nat) (f : Site → Site) :
    (r.updSite k f).s.crews = r.s.crews := rfl
@[simp] theorem Run.updSite_ops (r : Run s0) (k : Nat) (f : Site → Site) :
    (r.updSite k f).s.ops = r.s.ops := rfl
@[simp] theorem Run.updSite_sites (r : Run s0) (k : Nat) (f : Site → Site) :
    (r.updSite k f).s.sites = KV.put k (f (r.s.site k)) r.s.sites := rfl
@[simp] theorem Run.updSite_dies (r : Run s0) (k : Nat) (f : Site → Site) :
    (r.updSite k f).s.dies = r.s.dies := rfl
@[simp] theorem Run.updSite_bags (r : Run s0) (k : Nat) (f : Site → Site) :
    (r.updSite k f).s.bags = r.s.bags := rfl
@[simp] theorem Run.updSite_pchs (r : Run s0) (k : Nat) (f : Site → Site) :
    (r.updSite k f).s.pchs = r.s.pchs := rfl
@[simp] theorem Run.updSite_stks (r : Run s0) (k : Nat) (f : Site → Site) :
    (r.updSite k f).s.stks = r.s.stks := rfl
@[simp] theorem Run.updSite_wqs (r : Run s0) (k : Nat) (f : Site → Site) :
    (r.updSite k f).s.wqs = r.s.wqs := rfl
@[simp] theorem Run.updSite_pkg (r : Run s0) (k : Nat) (f : Site → Site) :
    (r.updSite k f).s.pkg = r.s.pkg := rfl
@[simp] theorem Run.updSite_saved (r : Run s0) (k : Nat) (f : Site → Site) :
    (r.updSite k f).s.saved = r.s.saved := rfl
@[simp] theorem Run.updSite_agenda (r : Run s0) (k : Nat) (f : Site → Site) :
    (r.updSite k f).s.agenda = r.s.agenda := rfl
@[simp] theorem Run.updSite_tick (r : Run s0) (k : Nat) (f : Site → Site) :
    (r.updSite k f).s.tick = r.s.tick := rfl
@[simp] theorem Run.updSite_cur (r : Run s0) (k : Nat) (f : Site → Site) :
    (r.updSite k f).s.cur = r.s.cur := rfl
@[simp] theorem Run.updSite_nextId (r : Run s0) (k : Nat) (f : Site → Site) :
    (r.updSite k f).s.nextId = r.s.nextId := rfl
@[simp] theorem Run.updSite_runs (r : Run s0) (k : Nat) (f : Site → Site) :
    (r.updSite k f).s.runs = r.s.runs := rfl

/-! ### updDie -/

@[simp] theorem Run.updDie_mem (r : Run s0) (k : Nat) (f : Die → Die) : (r.updDie k f).s.mem = r.s.mem := rfl
@[simp] theorem Run.updDie_mpoison (r : Run s0) (k : Nat) (f : Die → Die) :
    (r.updDie k f).s.mpoison = r.s.mpoison := rfl
@[simp] theorem Run.updDie_scr (r : Run s0) (k : Nat) (f : Die → Die) : (r.updDie k f).s.scr = r.s.scr := rfl
@[simp] theorem Run.updDie_spoison (r : Run s0) (k : Nat) (f : Die → Die) :
    (r.updDie k f).s.spoison = r.s.spoison := rfl
@[simp] theorem Run.updDie_acc (r : Run s0) (k : Nat) (f : Die → Die) : (r.updDie k f).s.acc = r.s.acc := rfl
@[simp] theorem Run.updDie_l1 (r : Run s0) (k : Nat) (f : Die → Die) : (r.updDie k f).s.l1 = r.s.l1 := rfl
@[simp] theorem Run.updDie_stored (r : Run s0) (k : Nat) (f : Die → Die) :
    (r.updDie k f).s.stored = r.s.stored := rfl
@[simp] theorem Run.updDie_fcache (r : Run s0) (k : Nat) (f : Die → Die) :
    (r.updDie k f).s.fcache = r.s.fcache := rfl
@[simp] theorem Run.updDie_sram (r : Run s0) (k : Nat) (f : Die → Die) :
    (r.updDie k f).s.sram = r.s.sram := rfl
@[simp] theorem Run.updDie_dpoison (r : Run s0) (k : Nat) (f : Die → Die) :
    (r.updDie k f).s.dpoison = r.s.dpoison := rfl
@[simp] theorem Run.updDie_fwd (r : Run s0) (k : Nat) (f : Die → Die) : (r.updDie k f).s.fwd = r.s.fwd := rfl
@[simp] theorem Run.updDie_hent (r : Run s0) (k : Nat) (f : Die → Die) :
    (r.updDie k f).s.hent = r.s.hent := rfl
@[simp] theorem Run.updDie_dirs (r : Run s0) (k : Nat) (f : Die → Die) :
    (r.updDie k f).s.dirs = r.s.dirs := rfl
@[simp] theorem Run.updDie_fibres (r : Run s0) (k : Nat) (f : Die → Die) :
    (r.updDie k f).s.fibres = r.s.fibres := rfl
@[simp] theorem Run.updDie_gangs (r : Run s0) (k : Nat) (f : Die → Die) :
    (r.updDie k f).s.gangs = r.s.gangs := rfl
@[simp] theorem Run.updDie_groups (r : Run s0) (k : Nat) (f : Die → Die) :
    (r.updDie k f).s.groups = r.s.groups := rfl
@[simp] theorem Run.updDie_launches (r : Run s0) (k : Nat) (f : Die → Die) :
    (r.updDie k f).s.launches = r.s.launches := rfl
@[simp] theorem Run.updDie_ctxs (r : Run s0) (k : Nat) (f : Die → Die) :
    (r.updDie k f).s.ctxs = r.s.ctxs := rfl
@[simp] theorem Run.updDie_crews (r : Run s0) (k : Nat) (f : Die → Die) :
    (r.updDie k f).s.crews = r.s.crews := rfl
@[simp] theorem Run.updDie_ops (r : Run s0) (k : Nat) (f : Die → Die) : (r.updDie k f).s.ops = r.s.ops := rfl
@[simp] theorem Run.updDie_sites (r : Run s0) (k : Nat) (f : Die → Die) :
    (r.updDie k f).s.sites = r.s.sites := rfl
@[simp] theorem Run.updDie_dies (r : Run s0) (k : Nat) (f : Die → Die) :
    (r.updDie k f).s.dies = KV.put k (f (r.s.die k)) r.s.dies := rfl
@[simp] theorem Run.updDie_bags (r : Run s0) (k : Nat) (f : Die → Die) :
    (r.updDie k f).s.bags = r.s.bags := rfl
@[simp] theorem Run.updDie_pchs (r : Run s0) (k : Nat) (f : Die → Die) :
    (r.updDie k f).s.pchs = r.s.pchs := rfl
@[simp] theorem Run.updDie_stks (r : Run s0) (k : Nat) (f : Die → Die) :
    (r.updDie k f).s.stks = r.s.stks := rfl
@[simp] theorem Run.updDie_wqs (r : Run s0) (k : Nat) (f : Die → Die) : (r.updDie k f).s.wqs = r.s.wqs := rfl
@[simp] theorem Run.updDie_pkg (r : Run s0) (k : Nat) (f : Die → Die) : (r.updDie k f).s.pkg = r.s.pkg := rfl
@[simp] theorem Run.updDie_saved (r : Run s0) (k : Nat) (f : Die → Die) :
    (r.updDie k f).s.saved = r.s.saved := rfl
@[simp] theorem Run.updDie_agenda (r : Run s0) (k : Nat) (f : Die → Die) :
    (r.updDie k f).s.agenda = r.s.agenda := rfl
@[simp] theorem Run.updDie_tick (r : Run s0) (k : Nat) (f : Die → Die) :
    (r.updDie k f).s.tick = r.s.tick := rfl
@[simp] theorem Run.updDie_cur (r : Run s0) (k : Nat) (f : Die → Die) : (r.updDie k f).s.cur = r.s.cur := rfl
@[simp] theorem Run.updDie_nextId (r : Run s0) (k : Nat) (f : Die → Die) :
    (r.updDie k f).s.nextId = r.s.nextId := rfl
@[simp] theorem Run.updDie_runs (r : Run s0) (k : Nat) (f : Die → Die) :
    (r.updDie k f).s.runs = r.s.runs := rfl

/-! ### updCtx -/

@[simp] theorem Run.updCtx_mem (r : Run s0) (k : Nat) (f : Ctx → Ctx) : (r.updCtx k f).s.mem = r.s.mem := rfl
@[simp] theorem Run.updCtx_mpoison (r : Run s0) (k : Nat) (f : Ctx → Ctx) :
    (r.updCtx k f).s.mpoison = r.s.mpoison := rfl
@[simp] theorem Run.updCtx_scr (r : Run s0) (k : Nat) (f : Ctx → Ctx) : (r.updCtx k f).s.scr = r.s.scr := rfl
@[simp] theorem Run.updCtx_spoison (r : Run s0) (k : Nat) (f : Ctx → Ctx) :
    (r.updCtx k f).s.spoison = r.s.spoison := rfl
@[simp] theorem Run.updCtx_acc (r : Run s0) (k : Nat) (f : Ctx → Ctx) : (r.updCtx k f).s.acc = r.s.acc := rfl
@[simp] theorem Run.updCtx_l1 (r : Run s0) (k : Nat) (f : Ctx → Ctx) : (r.updCtx k f).s.l1 = r.s.l1 := rfl
@[simp] theorem Run.updCtx_stored (r : Run s0) (k : Nat) (f : Ctx → Ctx) :
    (r.updCtx k f).s.stored = r.s.stored := rfl
@[simp] theorem Run.updCtx_fcache (r : Run s0) (k : Nat) (f : Ctx → Ctx) :
    (r.updCtx k f).s.fcache = r.s.fcache := rfl
@[simp] theorem Run.updCtx_sram (r : Run s0) (k : Nat) (f : Ctx → Ctx) :
    (r.updCtx k f).s.sram = r.s.sram := rfl
@[simp] theorem Run.updCtx_dpoison (r : Run s0) (k : Nat) (f : Ctx → Ctx) :
    (r.updCtx k f).s.dpoison = r.s.dpoison := rfl
@[simp] theorem Run.updCtx_fwd (r : Run s0) (k : Nat) (f : Ctx → Ctx) : (r.updCtx k f).s.fwd = r.s.fwd := rfl
@[simp] theorem Run.updCtx_hent (r : Run s0) (k : Nat) (f : Ctx → Ctx) :
    (r.updCtx k f).s.hent = r.s.hent := rfl
@[simp] theorem Run.updCtx_dirs (r : Run s0) (k : Nat) (f : Ctx → Ctx) :
    (r.updCtx k f).s.dirs = r.s.dirs := rfl
@[simp] theorem Run.updCtx_fibres (r : Run s0) (k : Nat) (f : Ctx → Ctx) :
    (r.updCtx k f).s.fibres = r.s.fibres := rfl
@[simp] theorem Run.updCtx_gangs (r : Run s0) (k : Nat) (f : Ctx → Ctx) :
    (r.updCtx k f).s.gangs = r.s.gangs := rfl
@[simp] theorem Run.updCtx_groups (r : Run s0) (k : Nat) (f : Ctx → Ctx) :
    (r.updCtx k f).s.groups = r.s.groups := rfl
@[simp] theorem Run.updCtx_launches (r : Run s0) (k : Nat) (f : Ctx → Ctx) :
    (r.updCtx k f).s.launches = r.s.launches := rfl
@[simp] theorem Run.updCtx_ctxs (r : Run s0) (k : Nat) (f : Ctx → Ctx) :
    (r.updCtx k f).s.ctxs = KV.update k f r.s.ctxs := rfl
@[simp] theorem Run.updCtx_crews (r : Run s0) (k : Nat) (f : Ctx → Ctx) :
    (r.updCtx k f).s.crews = r.s.crews := rfl
@[simp] theorem Run.updCtx_ops (r : Run s0) (k : Nat) (f : Ctx → Ctx) : (r.updCtx k f).s.ops = r.s.ops := rfl
@[simp] theorem Run.updCtx_sites (r : Run s0) (k : Nat) (f : Ctx → Ctx) :
    (r.updCtx k f).s.sites = r.s.sites := rfl
@[simp] theorem Run.updCtx_dies (r : Run s0) (k : Nat) (f : Ctx → Ctx) :
    (r.updCtx k f).s.dies = r.s.dies := rfl
@[simp] theorem Run.updCtx_bags (r : Run s0) (k : Nat) (f : Ctx → Ctx) :
    (r.updCtx k f).s.bags = r.s.bags := rfl
@[simp] theorem Run.updCtx_pchs (r : Run s0) (k : Nat) (f : Ctx → Ctx) :
    (r.updCtx k f).s.pchs = r.s.pchs := rfl
@[simp] theorem Run.updCtx_stks (r : Run s0) (k : Nat) (f : Ctx → Ctx) :
    (r.updCtx k f).s.stks = r.s.stks := rfl
@[simp] theorem Run.updCtx_wqs (r : Run s0) (k : Nat) (f : Ctx → Ctx) : (r.updCtx k f).s.wqs = r.s.wqs := rfl
@[simp] theorem Run.updCtx_pkg (r : Run s0) (k : Nat) (f : Ctx → Ctx) : (r.updCtx k f).s.pkg = r.s.pkg := rfl
@[simp] theorem Run.updCtx_saved (r : Run s0) (k : Nat) (f : Ctx → Ctx) :
    (r.updCtx k f).s.saved = r.s.saved := rfl
@[simp] theorem Run.updCtx_agenda (r : Run s0) (k : Nat) (f : Ctx → Ctx) :
    (r.updCtx k f).s.agenda = r.s.agenda := rfl
@[simp] theorem Run.updCtx_tick (r : Run s0) (k : Nat) (f : Ctx → Ctx) :
    (r.updCtx k f).s.tick = r.s.tick := rfl
@[simp] theorem Run.updCtx_cur (r : Run s0) (k : Nat) (f : Ctx → Ctx) : (r.updCtx k f).s.cur = r.s.cur := rfl
@[simp] theorem Run.updCtx_nextId (r : Run s0) (k : Nat) (f : Ctx → Ctx) :
    (r.updCtx k f).s.nextId = r.s.nextId := rfl
@[simp] theorem Run.updCtx_runs (r : Run s0) (k : Nat) (f : Ctx → Ctx) :
    (r.updCtx k f).s.runs = r.s.runs := rfl

/-! ### updBag -/

@[simp] theorem Run.updBag_mem (r : Run s0) (k : Nat) (f : Bag → Bag) : (r.updBag k f).s.mem = r.s.mem := rfl
@[simp] theorem Run.updBag_mpoison (r : Run s0) (k : Nat) (f : Bag → Bag) :
    (r.updBag k f).s.mpoison = r.s.mpoison := rfl
@[simp] theorem Run.updBag_scr (r : Run s0) (k : Nat) (f : Bag → Bag) : (r.updBag k f).s.scr = r.s.scr := rfl
@[simp] theorem Run.updBag_spoison (r : Run s0) (k : Nat) (f : Bag → Bag) :
    (r.updBag k f).s.spoison = r.s.spoison := rfl
@[simp] theorem Run.updBag_acc (r : Run s0) (k : Nat) (f : Bag → Bag) : (r.updBag k f).s.acc = r.s.acc := rfl
@[simp] theorem Run.updBag_l1 (r : Run s0) (k : Nat) (f : Bag → Bag) : (r.updBag k f).s.l1 = r.s.l1 := rfl
@[simp] theorem Run.updBag_stored (r : Run s0) (k : Nat) (f : Bag → Bag) :
    (r.updBag k f).s.stored = r.s.stored := rfl
@[simp] theorem Run.updBag_fcache (r : Run s0) (k : Nat) (f : Bag → Bag) :
    (r.updBag k f).s.fcache = r.s.fcache := rfl
@[simp] theorem Run.updBag_sram (r : Run s0) (k : Nat) (f : Bag → Bag) :
    (r.updBag k f).s.sram = r.s.sram := rfl
@[simp] theorem Run.updBag_dpoison (r : Run s0) (k : Nat) (f : Bag → Bag) :
    (r.updBag k f).s.dpoison = r.s.dpoison := rfl
@[simp] theorem Run.updBag_fwd (r : Run s0) (k : Nat) (f : Bag → Bag) : (r.updBag k f).s.fwd = r.s.fwd := rfl
@[simp] theorem Run.updBag_hent (r : Run s0) (k : Nat) (f : Bag → Bag) :
    (r.updBag k f).s.hent = r.s.hent := rfl
@[simp] theorem Run.updBag_dirs (r : Run s0) (k : Nat) (f : Bag → Bag) :
    (r.updBag k f).s.dirs = r.s.dirs := rfl
@[simp] theorem Run.updBag_fibres (r : Run s0) (k : Nat) (f : Bag → Bag) :
    (r.updBag k f).s.fibres = r.s.fibres := rfl
@[simp] theorem Run.updBag_gangs (r : Run s0) (k : Nat) (f : Bag → Bag) :
    (r.updBag k f).s.gangs = r.s.gangs := rfl
@[simp] theorem Run.updBag_groups (r : Run s0) (k : Nat) (f : Bag → Bag) :
    (r.updBag k f).s.groups = r.s.groups := rfl
@[simp] theorem Run.updBag_launches (r : Run s0) (k : Nat) (f : Bag → Bag) :
    (r.updBag k f).s.launches = r.s.launches := rfl
@[simp] theorem Run.updBag_ctxs (r : Run s0) (k : Nat) (f : Bag → Bag) :
    (r.updBag k f).s.ctxs = r.s.ctxs := rfl
@[simp] theorem Run.updBag_crews (r : Run s0) (k : Nat) (f : Bag → Bag) :
    (r.updBag k f).s.crews = r.s.crews := rfl
@[simp] theorem Run.updBag_ops (r : Run s0) (k : Nat) (f : Bag → Bag) : (r.updBag k f).s.ops = r.s.ops := rfl
@[simp] theorem Run.updBag_sites (r : Run s0) (k : Nat) (f : Bag → Bag) :
    (r.updBag k f).s.sites = r.s.sites := rfl
@[simp] theorem Run.updBag_dies (r : Run s0) (k : Nat) (f : Bag → Bag) :
    (r.updBag k f).s.dies = r.s.dies := rfl
@[simp] theorem Run.updBag_bags (r : Run s0) (k : Nat) (f : Bag → Bag) :
    (r.updBag k f).s.bags = KV.put k (f (r.s.bag k)) r.s.bags := rfl
@[simp] theorem Run.updBag_pchs (r : Run s0) (k : Nat) (f : Bag → Bag) :
    (r.updBag k f).s.pchs = r.s.pchs := rfl
@[simp] theorem Run.updBag_stks (r : Run s0) (k : Nat) (f : Bag → Bag) :
    (r.updBag k f).s.stks = r.s.stks := rfl
@[simp] theorem Run.updBag_wqs (r : Run s0) (k : Nat) (f : Bag → Bag) : (r.updBag k f).s.wqs = r.s.wqs := rfl
@[simp] theorem Run.updBag_pkg (r : Run s0) (k : Nat) (f : Bag → Bag) : (r.updBag k f).s.pkg = r.s.pkg := rfl
@[simp] theorem Run.updBag_saved (r : Run s0) (k : Nat) (f : Bag → Bag) :
    (r.updBag k f).s.saved = r.s.saved := rfl
@[simp] theorem Run.updBag_agenda (r : Run s0) (k : Nat) (f : Bag → Bag) :
    (r.updBag k f).s.agenda = r.s.agenda := rfl
@[simp] theorem Run.updBag_tick (r : Run s0) (k : Nat) (f : Bag → Bag) :
    (r.updBag k f).s.tick = r.s.tick := rfl
@[simp] theorem Run.updBag_cur (r : Run s0) (k : Nat) (f : Bag → Bag) : (r.updBag k f).s.cur = r.s.cur := rfl
@[simp] theorem Run.updBag_nextId (r : Run s0) (k : Nat) (f : Bag → Bag) :
    (r.updBag k f).s.nextId = r.s.nextId := rfl
@[simp] theorem Run.updBag_runs (r : Run s0) (k : Nat) (f : Bag → Bag) :
    (r.updBag k f).s.runs = r.s.runs := rfl

/-! ### updPch -/

@[simp] theorem Run.updPch_mem (r : Run s0) (k : Nat) (f : Pch → Pch) : (r.updPch k f).s.mem = r.s.mem := rfl
@[simp] theorem Run.updPch_mpoison (r : Run s0) (k : Nat) (f : Pch → Pch) :
    (r.updPch k f).s.mpoison = r.s.mpoison := rfl
@[simp] theorem Run.updPch_scr (r : Run s0) (k : Nat) (f : Pch → Pch) : (r.updPch k f).s.scr = r.s.scr := rfl
@[simp] theorem Run.updPch_spoison (r : Run s0) (k : Nat) (f : Pch → Pch) :
    (r.updPch k f).s.spoison = r.s.spoison := rfl
@[simp] theorem Run.updPch_acc (r : Run s0) (k : Nat) (f : Pch → Pch) : (r.updPch k f).s.acc = r.s.acc := rfl
@[simp] theorem Run.updPch_l1 (r : Run s0) (k : Nat) (f : Pch → Pch) : (r.updPch k f).s.l1 = r.s.l1 := rfl
@[simp] theorem Run.updPch_stored (r : Run s0) (k : Nat) (f : Pch → Pch) :
    (r.updPch k f).s.stored = r.s.stored := rfl
@[simp] theorem Run.updPch_fcache (r : Run s0) (k : Nat) (f : Pch → Pch) :
    (r.updPch k f).s.fcache = r.s.fcache := rfl
@[simp] theorem Run.updPch_sram (r : Run s0) (k : Nat) (f : Pch → Pch) :
    (r.updPch k f).s.sram = r.s.sram := rfl
@[simp] theorem Run.updPch_dpoison (r : Run s0) (k : Nat) (f : Pch → Pch) :
    (r.updPch k f).s.dpoison = r.s.dpoison := rfl
@[simp] theorem Run.updPch_fwd (r : Run s0) (k : Nat) (f : Pch → Pch) : (r.updPch k f).s.fwd = r.s.fwd := rfl
@[simp] theorem Run.updPch_hent (r : Run s0) (k : Nat) (f : Pch → Pch) :
    (r.updPch k f).s.hent = r.s.hent := rfl
@[simp] theorem Run.updPch_dirs (r : Run s0) (k : Nat) (f : Pch → Pch) :
    (r.updPch k f).s.dirs = r.s.dirs := rfl
@[simp] theorem Run.updPch_fibres (r : Run s0) (k : Nat) (f : Pch → Pch) :
    (r.updPch k f).s.fibres = r.s.fibres := rfl
@[simp] theorem Run.updPch_gangs (r : Run s0) (k : Nat) (f : Pch → Pch) :
    (r.updPch k f).s.gangs = r.s.gangs := rfl
@[simp] theorem Run.updPch_groups (r : Run s0) (k : Nat) (f : Pch → Pch) :
    (r.updPch k f).s.groups = r.s.groups := rfl
@[simp] theorem Run.updPch_launches (r : Run s0) (k : Nat) (f : Pch → Pch) :
    (r.updPch k f).s.launches = r.s.launches := rfl
@[simp] theorem Run.updPch_ctxs (r : Run s0) (k : Nat) (f : Pch → Pch) :
    (r.updPch k f).s.ctxs = r.s.ctxs := rfl
@[simp] theorem Run.updPch_crews (r : Run s0) (k : Nat) (f : Pch → Pch) :
    (r.updPch k f).s.crews = r.s.crews := rfl
@[simp] theorem Run.updPch_ops (r : Run s0) (k : Nat) (f : Pch → Pch) : (r.updPch k f).s.ops = r.s.ops := rfl
@[simp] theorem Run.updPch_sites (r : Run s0) (k : Nat) (f : Pch → Pch) :
    (r.updPch k f).s.sites = r.s.sites := rfl
@[simp] theorem Run.updPch_dies (r : Run s0) (k : Nat) (f : Pch → Pch) :
    (r.updPch k f).s.dies = r.s.dies := rfl
@[simp] theorem Run.updPch_bags (r : Run s0) (k : Nat) (f : Pch → Pch) :
    (r.updPch k f).s.bags = r.s.bags := rfl
@[simp] theorem Run.updPch_pchs (r : Run s0) (k : Nat) (f : Pch → Pch) :
    (r.updPch k f).s.pchs = KV.put k (f (r.s.pch k)) r.s.pchs := rfl
@[simp] theorem Run.updPch_stks (r : Run s0) (k : Nat) (f : Pch → Pch) :
    (r.updPch k f).s.stks = r.s.stks := rfl
@[simp] theorem Run.updPch_wqs (r : Run s0) (k : Nat) (f : Pch → Pch) : (r.updPch k f).s.wqs = r.s.wqs := rfl
@[simp] theorem Run.updPch_pkg (r : Run s0) (k : Nat) (f : Pch → Pch) : (r.updPch k f).s.pkg = r.s.pkg := rfl
@[simp] theorem Run.updPch_saved (r : Run s0) (k : Nat) (f : Pch → Pch) :
    (r.updPch k f).s.saved = r.s.saved := rfl
@[simp] theorem Run.updPch_agenda (r : Run s0) (k : Nat) (f : Pch → Pch) :
    (r.updPch k f).s.agenda = r.s.agenda := rfl
@[simp] theorem Run.updPch_tick (r : Run s0) (k : Nat) (f : Pch → Pch) :
    (r.updPch k f).s.tick = r.s.tick := rfl
@[simp] theorem Run.updPch_cur (r : Run s0) (k : Nat) (f : Pch → Pch) : (r.updPch k f).s.cur = r.s.cur := rfl
@[simp] theorem Run.updPch_nextId (r : Run s0) (k : Nat) (f : Pch → Pch) :
    (r.updPch k f).s.nextId = r.s.nextId := rfl
@[simp] theorem Run.updPch_runs (r : Run s0) (k : Nat) (f : Pch → Pch) :
    (r.updPch k f).s.runs = r.s.runs := rfl

/-! ### updOp -/

@[simp] theorem Run.updOp_mem (r : Run s0) (k : Nat) (f : Op → Op) : (r.updOp k f).s.mem = r.s.mem := rfl
@[simp] theorem Run.updOp_mpoison (r : Run s0) (k : Nat) (f : Op → Op) :
    (r.updOp k f).s.mpoison = r.s.mpoison := rfl
@[simp] theorem Run.updOp_scr (r : Run s0) (k : Nat) (f : Op → Op) : (r.updOp k f).s.scr = r.s.scr := rfl
@[simp] theorem Run.updOp_spoison (r : Run s0) (k : Nat) (f : Op → Op) :
    (r.updOp k f).s.spoison = r.s.spoison := rfl
@[simp] theorem Run.updOp_acc (r : Run s0) (k : Nat) (f : Op → Op) : (r.updOp k f).s.acc = r.s.acc := rfl
@[simp] theorem Run.updOp_l1 (r : Run s0) (k : Nat) (f : Op → Op) : (r.updOp k f).s.l1 = r.s.l1 := rfl
@[simp] theorem Run.updOp_stored (r : Run s0) (k : Nat) (f : Op → Op) :
    (r.updOp k f).s.stored = r.s.stored := rfl
@[simp] theorem Run.updOp_fcache (r : Run s0) (k : Nat) (f : Op → Op) :
    (r.updOp k f).s.fcache = r.s.fcache := rfl
@[simp] theorem Run.updOp_sram (r : Run s0) (k : Nat) (f : Op → Op) : (r.updOp k f).s.sram = r.s.sram := rfl
@[simp] theorem Run.updOp_dpoison (r : Run s0) (k : Nat) (f : Op → Op) :
    (r.updOp k f).s.dpoison = r.s.dpoison := rfl
@[simp] theorem Run.updOp_fwd (r : Run s0) (k : Nat) (f : Op → Op) : (r.updOp k f).s.fwd = r.s.fwd := rfl
@[simp] theorem Run.updOp_hent (r : Run s0) (k : Nat) (f : Op → Op) : (r.updOp k f).s.hent = r.s.hent := rfl
@[simp] theorem Run.updOp_dirs (r : Run s0) (k : Nat) (f : Op → Op) : (r.updOp k f).s.dirs = r.s.dirs := rfl
@[simp] theorem Run.updOp_fibres (r : Run s0) (k : Nat) (f : Op → Op) :
    (r.updOp k f).s.fibres = r.s.fibres := rfl
@[simp] theorem Run.updOp_gangs (r : Run s0) (k : Nat) (f : Op → Op) :
    (r.updOp k f).s.gangs = r.s.gangs := rfl
@[simp] theorem Run.updOp_groups (r : Run s0) (k : Nat) (f : Op → Op) :
    (r.updOp k f).s.groups = r.s.groups := rfl
@[simp] theorem Run.updOp_launches (r : Run s0) (k : Nat) (f : Op → Op) :
    (r.updOp k f).s.launches = r.s.launches := rfl
@[simp] theorem Run.updOp_ctxs (r : Run s0) (k : Nat) (f : Op → Op) : (r.updOp k f).s.ctxs = r.s.ctxs := rfl
@[simp] theorem Run.updOp_crews (r : Run s0) (k : Nat) (f : Op → Op) :
    (r.updOp k f).s.crews = r.s.crews := rfl
@[simp] theorem Run.updOp_ops (r : Run s0) (k : Nat) (f : Op → Op) :
    (r.updOp k f).s.ops = KV.update k f r.s.ops := rfl
@[simp] theorem Run.updOp_sites (r : Run s0) (k : Nat) (f : Op → Op) :
    (r.updOp k f).s.sites = r.s.sites := rfl
@[simp] theorem Run.updOp_dies (r : Run s0) (k : Nat) (f : Op → Op) : (r.updOp k f).s.dies = r.s.dies := rfl
@[simp] theorem Run.updOp_bags (r : Run s0) (k : Nat) (f : Op → Op) : (r.updOp k f).s.bags = r.s.bags := rfl
@[simp] theorem Run.updOp_pchs (r : Run s0) (k : Nat) (f : Op → Op) : (r.updOp k f).s.pchs = r.s.pchs := rfl
@[simp] theorem Run.updOp_stks (r : Run s0) (k : Nat) (f : Op → Op) : (r.updOp k f).s.stks = r.s.stks := rfl
@[simp] theorem Run.updOp_wqs (r : Run s0) (k : Nat) (f : Op → Op) : (r.updOp k f).s.wqs = r.s.wqs := rfl
@[simp] theorem Run.updOp_pkg (r : Run s0) (k : Nat) (f : Op → Op) : (r.updOp k f).s.pkg = r.s.pkg := rfl
@[simp] theorem Run.updOp_saved (r : Run s0) (k : Nat) (f : Op → Op) :
    (r.updOp k f).s.saved = r.s.saved := rfl
@[simp] theorem Run.updOp_agenda (r : Run s0) (k : Nat) (f : Op → Op) :
    (r.updOp k f).s.agenda = r.s.agenda := rfl
@[simp] theorem Run.updOp_tick (r : Run s0) (k : Nat) (f : Op → Op) : (r.updOp k f).s.tick = r.s.tick := rfl
@[simp] theorem Run.updOp_cur (r : Run s0) (k : Nat) (f : Op → Op) : (r.updOp k f).s.cur = r.s.cur := rfl
@[simp] theorem Run.updOp_nextId (r : Run s0) (k : Nat) (f : Op → Op) :
    (r.updOp k f).s.nextId = r.s.nextId := rfl
@[simp] theorem Run.updOp_runs (r : Run s0) (k : Nat) (f : Op → Op) : (r.updOp k f).s.runs = r.s.runs := rfl

/-! ### delOp -/

@[simp] theorem Run.delOp_mem (r : Run s0) (k : Nat) : (r.delOp k).s.mem = r.s.mem := rfl
@[simp] theorem Run.delOp_mpoison (r : Run s0) (k : Nat) : (r.delOp k).s.mpoison = r.s.mpoison := rfl
@[simp] theorem Run.delOp_scr (r : Run s0) (k : Nat) : (r.delOp k).s.scr = r.s.scr := rfl
@[simp] theorem Run.delOp_spoison (r : Run s0) (k : Nat) : (r.delOp k).s.spoison = r.s.spoison := rfl
@[simp] theorem Run.delOp_acc (r : Run s0) (k : Nat) : (r.delOp k).s.acc = r.s.acc := rfl
@[simp] theorem Run.delOp_l1 (r : Run s0) (k : Nat) : (r.delOp k).s.l1 = r.s.l1 := rfl
@[simp] theorem Run.delOp_stored (r : Run s0) (k : Nat) : (r.delOp k).s.stored = r.s.stored := rfl
@[simp] theorem Run.delOp_fcache (r : Run s0) (k : Nat) : (r.delOp k).s.fcache = r.s.fcache := rfl
@[simp] theorem Run.delOp_sram (r : Run s0) (k : Nat) : (r.delOp k).s.sram = r.s.sram := rfl
@[simp] theorem Run.delOp_dpoison (r : Run s0) (k : Nat) : (r.delOp k).s.dpoison = r.s.dpoison := rfl
@[simp] theorem Run.delOp_fwd (r : Run s0) (k : Nat) : (r.delOp k).s.fwd = r.s.fwd := rfl
@[simp] theorem Run.delOp_hent (r : Run s0) (k : Nat) : (r.delOp k).s.hent = r.s.hent := rfl
@[simp] theorem Run.delOp_dirs (r : Run s0) (k : Nat) : (r.delOp k).s.dirs = r.s.dirs := rfl
@[simp] theorem Run.delOp_fibres (r : Run s0) (k : Nat) : (r.delOp k).s.fibres = r.s.fibres := rfl
@[simp] theorem Run.delOp_gangs (r : Run s0) (k : Nat) : (r.delOp k).s.gangs = r.s.gangs := rfl
@[simp] theorem Run.delOp_groups (r : Run s0) (k : Nat) : (r.delOp k).s.groups = r.s.groups := rfl
@[simp] theorem Run.delOp_launches (r : Run s0) (k : Nat) : (r.delOp k).s.launches = r.s.launches := rfl
@[simp] theorem Run.delOp_ctxs (r : Run s0) (k : Nat) : (r.delOp k).s.ctxs = r.s.ctxs := rfl
@[simp] theorem Run.delOp_crews (r : Run s0) (k : Nat) : (r.delOp k).s.crews = r.s.crews := rfl
@[simp] theorem Run.delOp_ops (r : Run s0) (k : Nat) : (r.delOp k).s.ops = KV.del k r.s.ops := rfl
@[simp] theorem Run.delOp_sites (r : Run s0) (k : Nat) : (r.delOp k).s.sites = r.s.sites := rfl
@[simp] theorem Run.delOp_dies (r : Run s0) (k : Nat) : (r.delOp k).s.dies = r.s.dies := rfl
@[simp] theorem Run.delOp_bags (r : Run s0) (k : Nat) : (r.delOp k).s.bags = r.s.bags := rfl
@[simp] theorem Run.delOp_pchs (r : Run s0) (k : Nat) : (r.delOp k).s.pchs = r.s.pchs := rfl
@[simp] theorem Run.delOp_stks (r : Run s0) (k : Nat) : (r.delOp k).s.stks = r.s.stks := rfl
@[simp] theorem Run.delOp_wqs (r : Run s0) (k : Nat) : (r.delOp k).s.wqs = r.s.wqs := rfl
@[simp] theorem Run.delOp_pkg (r : Run s0) (k : Nat) : (r.delOp k).s.pkg = r.s.pkg := rfl
@[simp] theorem Run.delOp_saved (r : Run s0) (k : Nat) : (r.delOp k).s.saved = r.s.saved := rfl
@[simp] theorem Run.delOp_agenda (r : Run s0) (k : Nat) : (r.delOp k).s.agenda = r.s.agenda := rfl
@[simp] theorem Run.delOp_tick (r : Run s0) (k : Nat) : (r.delOp k).s.tick = r.s.tick := rfl
@[simp] theorem Run.delOp_cur (r : Run s0) (k : Nat) : (r.delOp k).s.cur = r.s.cur := rfl
@[simp] theorem Run.delOp_nextId (r : Run s0) (k : Nat) : (r.delOp k).s.nextId = r.s.nextId := rfl
@[simp] theorem Run.delOp_runs (r : Run s0) (k : Nat) : (r.delOp k).s.runs = r.s.runs := rfl

/-! ### updPkg -/

@[simp] theorem Run.updPkg_mem (r : Run s0) (f : Pkg → Pkg) : (r.updPkg f).s.mem = r.s.mem := rfl
@[simp] theorem Run.updPkg_mpoison (r : Run s0) (f : Pkg → Pkg) : (r.updPkg f).s.mpoison = r.s.mpoison := rfl
@[simp] theorem Run.updPkg_scr (r : Run s0) (f : Pkg → Pkg) : (r.updPkg f).s.scr = r.s.scr := rfl
@[simp] theorem Run.updPkg_spoison (r : Run s0) (f : Pkg → Pkg) : (r.updPkg f).s.spoison = r.s.spoison := rfl
@[simp] theorem Run.updPkg_acc (r : Run s0) (f : Pkg → Pkg) : (r.updPkg f).s.acc = r.s.acc := rfl
@[simp] theorem Run.updPkg_l1 (r : Run s0) (f : Pkg → Pkg) : (r.updPkg f).s.l1 = r.s.l1 := rfl
@[simp] theorem Run.updPkg_stored (r : Run s0) (f : Pkg → Pkg) : (r.updPkg f).s.stored = r.s.stored := rfl
@[simp] theorem Run.updPkg_fcache (r : Run s0) (f : Pkg → Pkg) : (r.updPkg f).s.fcache = r.s.fcache := rfl
@[simp] theorem Run.updPkg_sram (r : Run s0) (f : Pkg → Pkg) : (r.updPkg f).s.sram = r.s.sram := rfl
@[simp] theorem Run.updPkg_dpoison (r : Run s0) (f : Pkg → Pkg) : (r.updPkg f).s.dpoison = r.s.dpoison := rfl
@[simp] theorem Run.updPkg_fwd (r : Run s0) (f : Pkg → Pkg) : (r.updPkg f).s.fwd = r.s.fwd := rfl
@[simp] theorem Run.updPkg_hent (r : Run s0) (f : Pkg → Pkg) : (r.updPkg f).s.hent = r.s.hent := rfl
@[simp] theorem Run.updPkg_dirs (r : Run s0) (f : Pkg → Pkg) : (r.updPkg f).s.dirs = r.s.dirs := rfl
@[simp] theorem Run.updPkg_fibres (r : Run s0) (f : Pkg → Pkg) : (r.updPkg f).s.fibres = r.s.fibres := rfl
@[simp] theorem Run.updPkg_gangs (r : Run s0) (f : Pkg → Pkg) : (r.updPkg f).s.gangs = r.s.gangs := rfl
@[simp] theorem Run.updPkg_groups (r : Run s0) (f : Pkg → Pkg) : (r.updPkg f).s.groups = r.s.groups := rfl
@[simp] theorem Run.updPkg_launches (r : Run s0) (f : Pkg → Pkg) :
    (r.updPkg f).s.launches = r.s.launches := rfl
@[simp] theorem Run.updPkg_ctxs (r : Run s0) (f : Pkg → Pkg) : (r.updPkg f).s.ctxs = r.s.ctxs := rfl
@[simp] theorem Run.updPkg_crews (r : Run s0) (f : Pkg → Pkg) : (r.updPkg f).s.crews = r.s.crews := rfl
@[simp] theorem Run.updPkg_ops (r : Run s0) (f : Pkg → Pkg) : (r.updPkg f).s.ops = r.s.ops := rfl
@[simp] theorem Run.updPkg_sites (r : Run s0) (f : Pkg → Pkg) : (r.updPkg f).s.sites = r.s.sites := rfl
@[simp] theorem Run.updPkg_dies (r : Run s0) (f : Pkg → Pkg) : (r.updPkg f).s.dies = r.s.dies := rfl
@[simp] theorem Run.updPkg_bags (r : Run s0) (f : Pkg → Pkg) : (r.updPkg f).s.bags = r.s.bags := rfl
@[simp] theorem Run.updPkg_pchs (r : Run s0) (f : Pkg → Pkg) : (r.updPkg f).s.pchs = r.s.pchs := rfl
@[simp] theorem Run.updPkg_stks (r : Run s0) (f : Pkg → Pkg) : (r.updPkg f).s.stks = r.s.stks := rfl
@[simp] theorem Run.updPkg_wqs (r : Run s0) (f : Pkg → Pkg) : (r.updPkg f).s.wqs = r.s.wqs := rfl
@[simp] theorem Run.updPkg_pkg (r : Run s0) (f : Pkg → Pkg) : (r.updPkg f).s.pkg = f r.s.pkg := rfl
@[simp] theorem Run.updPkg_saved (r : Run s0) (f : Pkg → Pkg) : (r.updPkg f).s.saved = r.s.saved := rfl
@[simp] theorem Run.updPkg_agenda (r : Run s0) (f : Pkg → Pkg) : (r.updPkg f).s.agenda = r.s.agenda := rfl
@[simp] theorem Run.updPkg_tick (r : Run s0) (f : Pkg → Pkg) : (r.updPkg f).s.tick = r.s.tick := rfl
@[simp] theorem Run.updPkg_cur (r : Run s0) (f : Pkg → Pkg) : (r.updPkg f).s.cur = r.s.cur := rfl
@[simp] theorem Run.updPkg_nextId (r : Run s0) (f : Pkg → Pkg) : (r.updPkg f).s.nextId = r.s.nextId := rfl
@[simp] theorem Run.updPkg_runs (r : Run s0) (f : Pkg → Pkg) : (r.updPkg f).s.runs = r.s.runs := rfl

/-! ### updCrew -/

@[simp] theorem Run.updCrew_mem (r : Run s0) (k : Nat) (f : Crew → Crew) :
    (r.updCrew k f).s.mem = r.s.mem := rfl
@[simp] theorem Run.updCrew_mpoison (r : Run s0) (k : Nat) (f : Crew → Crew) :
    (r.updCrew k f).s.mpoison = r.s.mpoison := rfl
@[simp] theorem Run.updCrew_scr (r : Run s0) (k : Nat) (f : Crew → Crew) :
    (r.updCrew k f).s.scr = r.s.scr := rfl
@[simp] theorem Run.updCrew_spoison (r : Run s0) (k : Nat) (f : Crew → Crew) :
    (r.updCrew k f).s.spoison = r.s.spoison := rfl
@[simp] theorem Run.updCrew_acc (r : Run s0) (k : Nat) (f : Crew → Crew) :
    (r.updCrew k f).s.acc = r.s.acc := rfl
@[simp] theorem Run.updCrew_l1 (r : Run s0) (k : Nat) (f : Crew → Crew) : (r.updCrew k f).s.l1 = r.s.l1 := rfl
@[simp] theorem Run.updCrew_stored (r : Run s0) (k : Nat) (f : Crew → Crew) :
    (r.updCrew k f).s.stored = r.s.stored := rfl
@[simp] theorem Run.updCrew_fcache (r : Run s0) (k : Nat) (f : Crew → Crew) :
    (r.updCrew k f).s.fcache = r.s.fcache := rfl
@[simp] theorem Run.updCrew_sram (r : Run s0) (k : Nat) (f : Crew → Crew) :
    (r.updCrew k f).s.sram = r.s.sram := rfl
@[simp] theorem Run.updCrew_dpoison (r : Run s0) (k : Nat) (f : Crew → Crew) :
    (r.updCrew k f).s.dpoison = r.s.dpoison := rfl
@[simp] theorem Run.updCrew_fwd (r : Run s0) (k : Nat) (f : Crew → Crew) :
    (r.updCrew k f).s.fwd = r.s.fwd := rfl
@[simp] theorem Run.updCrew_hent (r : Run s0) (k : Nat) (f : Crew → Crew) :
    (r.updCrew k f).s.hent = r.s.hent := rfl
@[simp] theorem Run.updCrew_dirs (r : Run s0) (k : Nat) (f : Crew → Crew) :
    (r.updCrew k f).s.dirs = r.s.dirs := rfl
@[simp] theorem Run.updCrew_fibres (r : Run s0) (k : Nat) (f : Crew → Crew) :
    (r.updCrew k f).s.fibres = r.s.fibres := rfl
@[simp] theorem Run.updCrew_gangs (r : Run s0) (k : Nat) (f : Crew → Crew) :
    (r.updCrew k f).s.gangs = r.s.gangs := rfl
@[simp] theorem Run.updCrew_groups (r : Run s0) (k : Nat) (f : Crew → Crew) :
    (r.updCrew k f).s.groups = r.s.groups := rfl
@[simp] theorem Run.updCrew_launches (r : Run s0) (k : Nat) (f : Crew → Crew) :
    (r.updCrew k f).s.launches = r.s.launches := rfl
@[simp] theorem Run.updCrew_ctxs (r : Run s0) (k : Nat) (f : Crew → Crew) :
    (r.updCrew k f).s.ctxs = r.s.ctxs := rfl
@[simp] theorem Run.updCrew_crews (r : Run s0) (k : Nat) (f : Crew → Crew) :
    (r.updCrew k f).s.crews = KV.update k f r.s.crews := rfl
@[simp] theorem Run.updCrew_ops (r : Run s0) (k : Nat) (f : Crew → Crew) :
    (r.updCrew k f).s.ops = r.s.ops := rfl
@[simp] theorem Run.updCrew_sites (r : Run s0) (k : Nat) (f : Crew → Crew) :
    (r.updCrew k f).s.sites = r.s.sites := rfl
@[simp] theorem Run.updCrew_dies (r : Run s0) (k : Nat) (f : Crew → Crew) :
    (r.updCrew k f).s.dies = r.s.dies := rfl
@[simp] theorem Run.updCrew_bags (r : Run s0) (k : Nat) (f : Crew → Crew) :
    (r.updCrew k f).s.bags = r.s.bags := rfl
@[simp] theorem Run.updCrew_pchs (r : Run s0) (k : Nat) (f : Crew → Crew) :
    (r.updCrew k f).s.pchs = r.s.pchs := rfl
@[simp] theorem Run.updCrew_stks (r : Run s0) (k : Nat) (f : Crew → Crew) :
    (r.updCrew k f).s.stks = r.s.stks := rfl
@[simp] theorem Run.updCrew_wqs (r : Run s0) (k : Nat) (f : Crew → Crew) :
    (r.updCrew k f).s.wqs = r.s.wqs := rfl
@[simp] theorem Run.updCrew_pkg (r : Run s0) (k : Nat) (f : Crew → Crew) :
    (r.updCrew k f).s.pkg = r.s.pkg := rfl
@[simp] theorem Run.updCrew_saved (r : Run s0) (k : Nat) (f : Crew → Crew) :
    (r.updCrew k f).s.saved = r.s.saved := rfl
@[simp] theorem Run.updCrew_agenda (r : Run s0) (k : Nat) (f : Crew → Crew) :
    (r.updCrew k f).s.agenda = r.s.agenda := rfl
@[simp] theorem Run.updCrew_tick (r : Run s0) (k : Nat) (f : Crew → Crew) :
    (r.updCrew k f).s.tick = r.s.tick := rfl
@[simp] theorem Run.updCrew_cur (r : Run s0) (k : Nat) (f : Crew → Crew) :
    (r.updCrew k f).s.cur = r.s.cur := rfl
@[simp] theorem Run.updCrew_nextId (r : Run s0) (k : Nat) (f : Crew → Crew) :
    (r.updCrew k f).s.nextId = r.s.nextId := rfl
@[simp] theorem Run.updCrew_runs (r : Run s0) (k : Nat) (f : Crew → Crew) :
    (r.updCrew k f).s.runs = r.s.runs := rfl

/-! ### bump -/

@[simp] theorem Run.bump_mem (r : Run s0) : r.bump.s.mem = r.s.mem := rfl
@[simp] theorem Run.bump_mpoison (r : Run s0) : r.bump.s.mpoison = r.s.mpoison := rfl
@[simp] theorem Run.bump_scr (r : Run s0) : r.bump.s.scr = r.s.scr := rfl
@[simp] theorem Run.bump_spoison (r : Run s0) : r.bump.s.spoison = r.s.spoison := rfl
@[simp] theorem Run.bump_acc (r : Run s0) : r.bump.s.acc = r.s.acc := rfl
@[simp] theorem Run.bump_l1 (r : Run s0) : r.bump.s.l1 = r.s.l1 := rfl
@[simp] theorem Run.bump_stored (r : Run s0) : r.bump.s.stored = r.s.stored := rfl
@[simp] theorem Run.bump_fcache (r : Run s0) : r.bump.s.fcache = r.s.fcache := rfl
@[simp] theorem Run.bump_sram (r : Run s0) : r.bump.s.sram = r.s.sram := rfl
@[simp] theorem Run.bump_dpoison (r : Run s0) : r.bump.s.dpoison = r.s.dpoison := rfl
@[simp] theorem Run.bump_fwd (r : Run s0) : r.bump.s.fwd = r.s.fwd := rfl
@[simp] theorem Run.bump_hent (r : Run s0) : r.bump.s.hent = r.s.hent := rfl
@[simp] theorem Run.bump_dirs (r : Run s0) : r.bump.s.dirs = r.s.dirs := rfl
@[simp] theorem Run.bump_fibres (r : Run s0) : r.bump.s.fibres = r.s.fibres := rfl
@[simp] theorem Run.bump_gangs (r : Run s0) : r.bump.s.gangs = r.s.gangs := rfl
@[simp] theorem Run.bump_groups (r : Run s0) : r.bump.s.groups = r.s.groups := rfl
@[simp] theorem Run.bump_launches (r : Run s0) : r.bump.s.launches = r.s.launches := rfl
@[simp] theorem Run.bump_ctxs (r : Run s0) : r.bump.s.ctxs = r.s.ctxs := rfl
@[simp] theorem Run.bump_crews (r : Run s0) : r.bump.s.crews = r.s.crews := rfl
@[simp] theorem Run.bump_ops (r : Run s0) : r.bump.s.ops = r.s.ops := rfl
@[simp] theorem Run.bump_sites (r : Run s0) : r.bump.s.sites = r.s.sites := rfl
@[simp] theorem Run.bump_dies (r : Run s0) : r.bump.s.dies = r.s.dies := rfl
@[simp] theorem Run.bump_bags (r : Run s0) : r.bump.s.bags = r.s.bags := rfl
@[simp] theorem Run.bump_pchs (r : Run s0) : r.bump.s.pchs = r.s.pchs := rfl
@[simp] theorem Run.bump_stks (r : Run s0) : r.bump.s.stks = r.s.stks := rfl
@[simp] theorem Run.bump_wqs (r : Run s0) : r.bump.s.wqs = r.s.wqs := rfl
@[simp] theorem Run.bump_pkg (r : Run s0) : r.bump.s.pkg = r.s.pkg := rfl
@[simp] theorem Run.bump_saved (r : Run s0) : r.bump.s.saved = r.s.saved := rfl
@[simp] theorem Run.bump_agenda (r : Run s0) : r.bump.s.agenda = r.s.agenda := rfl
@[simp] theorem Run.bump_tick (r : Run s0) : r.bump.s.tick = r.s.tick := rfl
@[simp] theorem Run.bump_cur (r : Run s0) : r.bump.s.cur = r.s.cur := rfl
@[simp] theorem Run.bump_nextId (r : Run s0) : r.bump.s.nextId = r.s.nextId + 1 := rfl
@[simp] theorem Run.bump_runs (r : Run s0) : r.bump.s.runs = r.s.runs := rfl

/-! ### updDir -/

@[simp] theorem Run.updDir_mem (r : Run s0) (line : Nat) (f : Dir → Dir) :
    (r.updDir line f).s.mem = r.s.mem := rfl
@[simp] theorem Run.updDir_mpoison (r : Run s0) (line : Nat) (f : Dir → Dir) :
    (r.updDir line f).s.mpoison = r.s.mpoison := rfl
@[simp] theorem Run.updDir_scr (r : Run s0) (line : Nat) (f : Dir → Dir) :
    (r.updDir line f).s.scr = r.s.scr := rfl
@[simp] theorem Run.updDir_spoison (r : Run s0) (line : Nat) (f : Dir → Dir) :
    (r.updDir line f).s.spoison = r.s.spoison := rfl
@[simp] theorem Run.updDir_acc (r : Run s0) (line : Nat) (f : Dir → Dir) :
    (r.updDir line f).s.acc = r.s.acc := rfl
@[simp] theorem Run.updDir_l1 (r : Run s0) (line : Nat) (f : Dir → Dir) :
    (r.updDir line f).s.l1 = r.s.l1 := rfl
@[simp] theorem Run.updDir_stored (r : Run s0) (line : Nat) (f : Dir → Dir) :
    (r.updDir line f).s.stored = r.s.stored := rfl
@[simp] theorem Run.updDir_fcache (r : Run s0) (line : Nat) (f : Dir → Dir) :
    (r.updDir line f).s.fcache = r.s.fcache := rfl
@[simp] theorem Run.updDir_sram (r : Run s0) (line : Nat) (f : Dir → Dir) :
    (r.updDir line f).s.sram = r.s.sram := rfl
@[simp] theorem Run.updDir_dpoison (r : Run s0) (line : Nat) (f : Dir → Dir) :
    (r.updDir line f).s.dpoison = r.s.dpoison := rfl
@[simp] theorem Run.updDir_fwd (r : Run s0) (line : Nat) (f : Dir → Dir) :
    (r.updDir line f).s.fwd = r.s.fwd := rfl
@[simp] theorem Run.updDir_hent (r : Run s0) (line : Nat) (f : Dir → Dir) :
    (r.updDir line f).s.hent = r.s.hent := rfl
@[simp] theorem Run.updDir_dirs (r : Run s0) (line : Nat) (f : Dir → Dir) :
    (r.updDir line f).s.dirs = KV.put line (f (r.s.dir line)) r.s.dirs := rfl
@[simp] theorem Run.updDir_fibres (r : Run s0) (line : Nat) (f : Dir → Dir) :
    (r.updDir line f).s.fibres = r.s.fibres := rfl
@[simp] theorem Run.updDir_gangs (r : Run s0) (line : Nat) (f : Dir → Dir) :
    (r.updDir line f).s.gangs = r.s.gangs := rfl
@[simp] theorem Run.updDir_groups (r : Run s0) (line : Nat) (f : Dir → Dir) :
    (r.updDir line f).s.groups = r.s.groups := rfl
@[simp] theorem Run.updDir_launches (r : Run s0) (line : Nat) (f : Dir → Dir) :
    (r.updDir line f).s.launches = r.s.launches := rfl
@[simp] theorem Run.updDir_ctxs (r : Run s0) (line : Nat) (f : Dir → Dir) :
    (r.updDir line f).s.ctxs = r.s.ctxs := rfl
@[simp] theorem Run.updDir_crews (r : Run s0) (line : Nat) (f : Dir → Dir) :
    (r.updDir line f).s.crews = r.s.crews := rfl
@[simp] theorem Run.updDir_ops (r : Run s0) (line : Nat) (f : Dir → Dir) :
    (r.updDir line f).s.ops = r.s.ops := rfl
@[simp] theorem Run.updDir_sites (r : Run s0) (line : Nat) (f : Dir → Dir) :
    (r.updDir line f).s.sites = r.s.sites := rfl
@[simp] theorem Run.updDir_dies (r : Run s0) (line : Nat) (f : Dir → Dir) :
    (r.updDir line f).s.dies = r.s.dies := rfl
@[simp] theorem Run.updDir_bags (r : Run s0) (line : Nat) (f : Dir → Dir) :
    (r.updDir line f).s.bags = r.s.bags := rfl
@[simp] theorem Run.updDir_pchs (r : Run s0) (line : Nat) (f : Dir → Dir) :
    (r.updDir line f).s.pchs = r.s.pchs := rfl
@[simp] theorem Run.updDir_stks (r : Run s0) (line : Nat) (f : Dir → Dir) :
    (r.updDir line f).s.stks = r.s.stks := rfl
@[simp] theorem Run.updDir_wqs (r : Run s0) (line : Nat) (f : Dir → Dir) :
    (r.updDir line f).s.wqs = r.s.wqs := rfl
@[simp] theorem Run.updDir_pkg (r : Run s0) (line : Nat) (f : Dir → Dir) :
    (r.updDir line f).s.pkg = r.s.pkg := rfl
@[simp] theorem Run.updDir_saved (r : Run s0) (line : Nat) (f : Dir → Dir) :
    (r.updDir line f).s.saved = r.s.saved := rfl
@[simp] theorem Run.updDir_agenda (r : Run s0) (line : Nat) (f : Dir → Dir) :
    (r.updDir line f).s.agenda = r.s.agenda := rfl
@[simp] theorem Run.updDir_tick (r : Run s0) (line : Nat) (f : Dir → Dir) :
    (r.updDir line f).s.tick = r.s.tick := rfl
@[simp] theorem Run.updDir_cur (r : Run s0) (line : Nat) (f : Dir → Dir) :
    (r.updDir line f).s.cur = r.s.cur := rfl
@[simp] theorem Run.updDir_nextId (r : Run s0) (line : Nat) (f : Dir → Dir) :
    (r.updDir line f).s.nextId = r.s.nextId := rfl
@[simp] theorem Run.updDir_runs (r : Run s0) (line : Nat) (f : Dir → Dir) :
    (r.updDir line f).s.runs = r.s.runs := rfl

/-! ### setL1 -/

@[simp] theorem Run.setL1_mem (r : Run s0) (core pa : Nat) (w : L1W) :
    (r.setL1 core pa w).s.mem = r.s.mem := rfl
@[simp] theorem Run.setL1_mpoison (r : Run s0) (core pa : Nat) (w : L1W) :
    (r.setL1 core pa w).s.mpoison = r.s.mpoison := rfl
@[simp] theorem Run.setL1_scr (r : Run s0) (core pa : Nat) (w : L1W) :
    (r.setL1 core pa w).s.scr = r.s.scr := rfl
@[simp] theorem Run.setL1_spoison (r : Run s0) (core pa : Nat) (w : L1W) :
    (r.setL1 core pa w).s.spoison = r.s.spoison := rfl
@[simp] theorem Run.setL1_acc (r : Run s0) (core pa : Nat) (w : L1W) :
    (r.setL1 core pa w).s.acc = r.s.acc := rfl
@[simp] theorem Run.setL1_l1 (r : Run s0) (core pa : Nat) (w : L1W) :
    (r.setL1 core pa w).s.l1 = KV.put (l1key core pa) w r.s.l1 := rfl
@[simp] theorem Run.setL1_stored (r : Run s0) (core pa : Nat) (w : L1W) :
    (r.setL1 core pa w).s.stored = r.s.stored := rfl
@[simp] theorem Run.setL1_fcache (r : Run s0) (core pa : Nat) (w : L1W) :
    (r.setL1 core pa w).s.fcache = r.s.fcache := rfl
@[simp] theorem Run.setL1_sram (r : Run s0) (core pa : Nat) (w : L1W) :
    (r.setL1 core pa w).s.sram = r.s.sram := rfl
@[simp] theorem Run.setL1_dpoison (r : Run s0) (core pa : Nat) (w : L1W) :
    (r.setL1 core pa w).s.dpoison = r.s.dpoison := rfl
@[simp] theorem Run.setL1_fwd (r : Run s0) (core pa : Nat) (w : L1W) :
    (r.setL1 core pa w).s.fwd = r.s.fwd := rfl
@[simp] theorem Run.setL1_hent (r : Run s0) (core pa : Nat) (w : L1W) :
    (r.setL1 core pa w).s.hent = r.s.hent := rfl
@[simp] theorem Run.setL1_dirs (r : Run s0) (core pa : Nat) (w : L1W) :
    (r.setL1 core pa w).s.dirs = r.s.dirs := rfl
@[simp] theorem Run.setL1_fibres (r : Run s0) (core pa : Nat) (w : L1W) :
    (r.setL1 core pa w).s.fibres = r.s.fibres := rfl
@[simp] theorem Run.setL1_gangs (r : Run s0) (core pa : Nat) (w : L1W) :
    (r.setL1 core pa w).s.gangs = r.s.gangs := rfl
@[simp] theorem Run.setL1_groups (r : Run s0) (core pa : Nat) (w : L1W) :
    (r.setL1 core pa w).s.groups = r.s.groups := rfl
@[simp] theorem Run.setL1_launches (r : Run s0) (core pa : Nat) (w : L1W) :
    (r.setL1 core pa w).s.launches = r.s.launches := rfl
@[simp] theorem Run.setL1_ctxs (r : Run s0) (core pa : Nat) (w : L1W) :
    (r.setL1 core pa w).s.ctxs = r.s.ctxs := rfl
@[simp] theorem Run.setL1_crews (r : Run s0) (core pa : Nat) (w : L1W) :
    (r.setL1 core pa w).s.crews = r.s.crews := rfl
@[simp] theorem Run.setL1_ops (r : Run s0) (core pa : Nat) (w : L1W) :
    (r.setL1 core pa w).s.ops = r.s.ops := rfl
@[simp] theorem Run.setL1_sites (r : Run s0) (core pa : Nat) (w : L1W) :
    (r.setL1 core pa w).s.sites = r.s.sites := rfl
@[simp] theorem Run.setL1_dies (r : Run s0) (core pa : Nat) (w : L1W) :
    (r.setL1 core pa w).s.dies = r.s.dies := rfl
@[simp] theorem Run.setL1_bags (r : Run s0) (core pa : Nat) (w : L1W) :
    (r.setL1 core pa w).s.bags = r.s.bags := rfl
@[simp] theorem Run.setL1_pchs (r : Run s0) (core pa : Nat) (w : L1W) :
    (r.setL1 core pa w).s.pchs = r.s.pchs := rfl
@[simp] theorem Run.setL1_stks (r : Run s0) (core pa : Nat) (w : L1W) :
    (r.setL1 core pa w).s.stks = r.s.stks := rfl
@[simp] theorem Run.setL1_wqs (r : Run s0) (core pa : Nat) (w : L1W) :
    (r.setL1 core pa w).s.wqs = r.s.wqs := rfl
@[simp] theorem Run.setL1_pkg (r : Run s0) (core pa : Nat) (w : L1W) :
    (r.setL1 core pa w).s.pkg = r.s.pkg := rfl
@[simp] theorem Run.setL1_saved (r : Run s0) (core pa : Nat) (w : L1W) :
    (r.setL1 core pa w).s.saved = r.s.saved := rfl
@[simp] theorem Run.setL1_agenda (r : Run s0) (core pa : Nat) (w : L1W) :
    (r.setL1 core pa w).s.agenda = r.s.agenda := rfl
@[simp] theorem Run.setL1_tick (r : Run s0) (core pa : Nat) (w : L1W) :
    (r.setL1 core pa w).s.tick = r.s.tick := rfl
@[simp] theorem Run.setL1_cur (r : Run s0) (core pa : Nat) (w : L1W) :
    (r.setL1 core pa w).s.cur = r.s.cur := rfl
@[simp] theorem Run.setL1_nextId (r : Run s0) (core pa : Nat) (w : L1W) :
    (r.setL1 core pa w).s.nextId = r.s.nextId := rfl
@[simp] theorem Run.setL1_runs (r : Run s0) (core pa : Nat) (w : L1W) :
    (r.setL1 core pa w).s.runs = r.s.runs := rfl

/-! ### dropL1 -/

@[simp] theorem Run.dropL1_mem (r : Run s0) (core pa : Nat) : (r.dropL1 core pa).s.mem = r.s.mem := rfl
@[simp] theorem Run.dropL1_mpoison (r : Run s0) (core pa : Nat) :
    (r.dropL1 core pa).s.mpoison = r.s.mpoison := rfl
@[simp] theorem Run.dropL1_scr (r : Run s0) (core pa : Nat) : (r.dropL1 core pa).s.scr = r.s.scr := rfl
@[simp] theorem Run.dropL1_spoison (r : Run s0) (core pa : Nat) :
    (r.dropL1 core pa).s.spoison = r.s.spoison := rfl
@[simp] theorem Run.dropL1_acc (r : Run s0) (core pa : Nat) : (r.dropL1 core pa).s.acc = r.s.acc := rfl
@[simp] theorem Run.dropL1_l1 (r : Run s0) (core pa : Nat) :
    (r.dropL1 core pa).s.l1 = KV.del (l1key core pa) r.s.l1 := rfl
@[simp] theorem Run.dropL1_stored (r : Run s0) (core pa : Nat) :
    (r.dropL1 core pa).s.stored = r.s.stored := rfl
@[simp] theorem Run.dropL1_fcache (r : Run s0) (core pa : Nat) :
    (r.dropL1 core pa).s.fcache = r.s.fcache := rfl
@[simp] theorem Run.dropL1_sram (r : Run s0) (core pa : Nat) : (r.dropL1 core pa).s.sram = r.s.sram := rfl
@[simp] theorem Run.dropL1_dpoison (r : Run s0) (core pa : Nat) :
    (r.dropL1 core pa).s.dpoison = r.s.dpoison := rfl
@[simp] theorem Run.dropL1_fwd (r : Run s0) (core pa : Nat) : (r.dropL1 core pa).s.fwd = r.s.fwd := rfl
@[simp] theorem Run.dropL1_hent (r : Run s0) (core pa : Nat) : (r.dropL1 core pa).s.hent = r.s.hent := rfl
@[simp] theorem Run.dropL1_dirs (r : Run s0) (core pa : Nat) : (r.dropL1 core pa).s.dirs = r.s.dirs := rfl
@[simp] theorem Run.dropL1_fibres (r : Run s0) (core pa : Nat) :
    (r.dropL1 core pa).s.fibres = r.s.fibres := rfl
@[simp] theorem Run.dropL1_gangs (r : Run s0) (core pa : Nat) : (r.dropL1 core pa).s.gangs = r.s.gangs := rfl
@[simp] theorem Run.dropL1_groups (r : Run s0) (core pa : Nat) :
    (r.dropL1 core pa).s.groups = r.s.groups := rfl
@[simp] theorem Run.dropL1_launches (r : Run s0) (core pa : Nat) :
    (r.dropL1 core pa).s.launches = r.s.launches := rfl
@[simp] theorem Run.dropL1_ctxs (r : Run s0) (core pa : Nat) : (r.dropL1 core pa).s.ctxs = r.s.ctxs := rfl
@[simp] theorem Run.dropL1_crews (r : Run s0) (core pa : Nat) : (r.dropL1 core pa).s.crews = r.s.crews := rfl
@[simp] theorem Run.dropL1_ops (r : Run s0) (core pa : Nat) : (r.dropL1 core pa).s.ops = r.s.ops := rfl
@[simp] theorem Run.dropL1_sites (r : Run s0) (core pa : Nat) : (r.dropL1 core pa).s.sites = r.s.sites := rfl
@[simp] theorem Run.dropL1_dies (r : Run s0) (core pa : Nat) : (r.dropL1 core pa).s.dies = r.s.dies := rfl
@[simp] theorem Run.dropL1_bags (r : Run s0) (core pa : Nat) : (r.dropL1 core pa).s.bags = r.s.bags := rfl
@[simp] theorem Run.dropL1_pchs (r : Run s0) (core pa : Nat) : (r.dropL1 core pa).s.pchs = r.s.pchs := rfl
@[simp] theorem Run.dropL1_stks (r : Run s0) (core pa : Nat) : (r.dropL1 core pa).s.stks = r.s.stks := rfl
@[simp] theorem Run.dropL1_wqs (r : Run s0) (core pa : Nat) : (r.dropL1 core pa).s.wqs = r.s.wqs := rfl
@[simp] theorem Run.dropL1_pkg (r : Run s0) (core pa : Nat) : (r.dropL1 core pa).s.pkg = r.s.pkg := rfl
@[simp] theorem Run.dropL1_saved (r : Run s0) (core pa : Nat) : (r.dropL1 core pa).s.saved = r.s.saved := rfl
@[simp] theorem Run.dropL1_agenda (r : Run s0) (core pa : Nat) :
    (r.dropL1 core pa).s.agenda = r.s.agenda := rfl
@[simp] theorem Run.dropL1_tick (r : Run s0) (core pa : Nat) : (r.dropL1 core pa).s.tick = r.s.tick := rfl
@[simp] theorem Run.dropL1_cur (r : Run s0) (core pa : Nat) : (r.dropL1 core pa).s.cur = r.s.cur := rfl
@[simp] theorem Run.dropL1_nextId (r : Run s0) (core pa : Nat) :
    (r.dropL1 core pa).s.nextId = r.s.nextId := rfl
@[simp] theorem Run.dropL1_runs (r : Run s0) (core pa : Nat) : (r.dropL1 core pa).s.runs = r.s.runs := rfl

/-! ### updFibre: a fibre that is there -/

@[simp] theorem Run.updFibre_mem (r : Run s0) (k : Nat) (f : Fibre → Fibre) :
    (r.updFibre k f).s.mem = r.s.mem := by unfold Run.updFibre; split <;> rfl
@[simp] theorem Run.updFibre_mpoison (r : Run s0) (k : Nat) (f : Fibre → Fibre) :
    (r.updFibre k f).s.mpoison = r.s.mpoison := by unfold Run.updFibre; split <;> rfl
@[simp] theorem Run.updFibre_scr (r : Run s0) (k : Nat) (f : Fibre → Fibre) :
    (r.updFibre k f).s.scr = r.s.scr := by unfold Run.updFibre; split <;> rfl
@[simp] theorem Run.updFibre_spoison (r : Run s0) (k : Nat) (f : Fibre → Fibre) :
    (r.updFibre k f).s.spoison = r.s.spoison := by unfold Run.updFibre; split <;> rfl
@[simp] theorem Run.updFibre_acc (r : Run s0) (k : Nat) (f : Fibre → Fibre) :
    (r.updFibre k f).s.acc = r.s.acc := by unfold Run.updFibre; split <;> rfl
@[simp] theorem Run.updFibre_l1 (r : Run s0) (k : Nat) (f : Fibre → Fibre) :
    (r.updFibre k f).s.l1 = r.s.l1 := by unfold Run.updFibre; split <;> rfl
@[simp] theorem Run.updFibre_stored (r : Run s0) (k : Nat) (f : Fibre → Fibre) :
    (r.updFibre k f).s.stored = r.s.stored := by unfold Run.updFibre; split <;> rfl
@[simp] theorem Run.updFibre_fcache (r : Run s0) (k : Nat) (f : Fibre → Fibre) :
    (r.updFibre k f).s.fcache = r.s.fcache := by unfold Run.updFibre; split <;> rfl
@[simp] theorem Run.updFibre_sram (r : Run s0) (k : Nat) (f : Fibre → Fibre) :
    (r.updFibre k f).s.sram = r.s.sram := by unfold Run.updFibre; split <;> rfl
@[simp] theorem Run.updFibre_dpoison (r : Run s0) (k : Nat) (f : Fibre → Fibre) :
    (r.updFibre k f).s.dpoison = r.s.dpoison := by unfold Run.updFibre; split <;> rfl
@[simp] theorem Run.updFibre_fwd (r : Run s0) (k : Nat) (f : Fibre → Fibre) :
    (r.updFibre k f).s.fwd = r.s.fwd := by unfold Run.updFibre; split <;> rfl
@[simp] theorem Run.updFibre_hent (r : Run s0) (k : Nat) (f : Fibre → Fibre) :
    (r.updFibre k f).s.hent = r.s.hent := by unfold Run.updFibre; split <;> rfl
@[simp] theorem Run.updFibre_dirs (r : Run s0) (k : Nat) (f : Fibre → Fibre) :
    (r.updFibre k f).s.dirs = r.s.dirs := by unfold Run.updFibre; split <;> rfl
@[simp] theorem Run.updFibre_gangs (r : Run s0) (k : Nat) (f : Fibre → Fibre) :
    (r.updFibre k f).s.gangs = r.s.gangs := by unfold Run.updFibre; split <;> rfl
@[simp] theorem Run.updFibre_groups (r : Run s0) (k : Nat) (f : Fibre → Fibre) :
    (r.updFibre k f).s.groups = r.s.groups := by unfold Run.updFibre; split <;> rfl
@[simp] theorem Run.updFibre_launches (r : Run s0) (k : Nat) (f : Fibre → Fibre) :
    (r.updFibre k f).s.launches = r.s.launches := by unfold Run.updFibre; split <;> rfl
@[simp] theorem Run.updFibre_ctxs (r : Run s0) (k : Nat) (f : Fibre → Fibre) :
    (r.updFibre k f).s.ctxs = r.s.ctxs := by unfold Run.updFibre; split <;> rfl
@[simp] theorem Run.updFibre_crews (r : Run s0) (k : Nat) (f : Fibre → Fibre) :
    (r.updFibre k f).s.crews = r.s.crews := by unfold Run.updFibre; split <;> rfl
@[simp] theorem Run.updFibre_ops (r : Run s0) (k : Nat) (f : Fibre → Fibre) :
    (r.updFibre k f).s.ops = r.s.ops := by unfold Run.updFibre; split <;> rfl
@[simp] theorem Run.updFibre_sites (r : Run s0) (k : Nat) (f : Fibre → Fibre) :
    (r.updFibre k f).s.sites = r.s.sites := by unfold Run.updFibre; split <;> rfl
@[simp] theorem Run.updFibre_dies (r : Run s0) (k : Nat) (f : Fibre → Fibre) :
    (r.updFibre k f).s.dies = r.s.dies := by unfold Run.updFibre; split <;> rfl
@[simp] theorem Run.updFibre_bags (r : Run s0) (k : Nat) (f : Fibre → Fibre) :
    (r.updFibre k f).s.bags = r.s.bags := by unfold Run.updFibre; split <;> rfl
@[simp] theorem Run.updFibre_pchs (r : Run s0) (k : Nat) (f : Fibre → Fibre) :
    (r.updFibre k f).s.pchs = r.s.pchs := by unfold Run.updFibre; split <;> rfl
@[simp] theorem Run.updFibre_stks (r : Run s0) (k : Nat) (f : Fibre → Fibre) :
    (r.updFibre k f).s.stks = r.s.stks := by unfold Run.updFibre; split <;> rfl
@[simp] theorem Run.updFibre_wqs (r : Run s0) (k : Nat) (f : Fibre → Fibre) :
    (r.updFibre k f).s.wqs = r.s.wqs := by unfold Run.updFibre; split <;> rfl
@[simp] theorem Run.updFibre_pkg (r : Run s0) (k : Nat) (f : Fibre → Fibre) :
    (r.updFibre k f).s.pkg = r.s.pkg := by unfold Run.updFibre; split <;> rfl
@[simp] theorem Run.updFibre_saved (r : Run s0) (k : Nat) (f : Fibre → Fibre) :
    (r.updFibre k f).s.saved = r.s.saved := by unfold Run.updFibre; split <;> rfl
@[simp] theorem Run.updFibre_agenda (r : Run s0) (k : Nat) (f : Fibre → Fibre) :
    (r.updFibre k f).s.agenda = r.s.agenda := by unfold Run.updFibre; split <;> rfl
@[simp] theorem Run.updFibre_tick (r : Run s0) (k : Nat) (f : Fibre → Fibre) :
    (r.updFibre k f).s.tick = r.s.tick := by unfold Run.updFibre; split <;> rfl
@[simp] theorem Run.updFibre_cur (r : Run s0) (k : Nat) (f : Fibre → Fibre) :
    (r.updFibre k f).s.cur = r.s.cur := by unfold Run.updFibre; split <;> rfl
@[simp] theorem Run.updFibre_nextId (r : Run s0) (k : Nat) (f : Fibre → Fibre) :
    (r.updFibre k f).s.nextId = r.s.nextId := by unfold Run.updFibre; split <;> rfl
@[simp] theorem Run.updFibre_runs (r : Run s0) (k : Nat) (f : Fibre → Fibre) :
    (r.updFibre k f).s.runs = r.s.runs := by unfold Run.updFibre; split <;> rfl
theorem Run.updFibre_fibres (r : Run s0) (k : Nat) (f : Fibre → Fibre) {x : Fibre}
    (h : KV.find? k r.s.fibres = some x) : (r.updFibre k f).s.fibres = KV.put k (f x) r.s.fibres := by
  simp [Run.updFibre, h]

/-! ### Updates of a fibre -/

@[simp] theorem Fibre.setFlag_gang (f : Fibre) (n : Nat) (x : Flag) : (f.setFlag n x).gang = f.gang := rfl
@[simp] theorem Fibre.setFlag_fid (f : Fibre) (n : Nat) (x : Flag) : (f.setFlag n x).fid = f.fid := rfl
@[simp] theorem Fibre.setFlag_site (f : Fibre) (n : Nat) (x : Flag) : (f.setFlag n x).site = f.site := rfl
@[simp] theorem Fibre.setFlag_slot (f : Fibre) (n : Nat) (x : Flag) : (f.setFlag n x).slot = f.slot := rfl
@[simp] theorem Fibre.setFlag_pc (f : Fibre) (n : Nat) (x : Flag) : (f.setFlag n x).pc = f.pc := rfl
@[simp] theorem Fibre.setFlag_preds (f : Fibre) (n : Nat) (x : Flag) : (f.setFlag n x).preds = f.preds := rfl
@[simp] theorem Fibre.setFlag_wbase (f : Fibre) (n : Nat) (x : Flag) : (f.setFlag n x).wbase = f.wbase := rfl
@[simp] theorem Fibre.setFlag_age (f : Fibre) (n : Nat) (x : Flag) : (f.setFlag n x).age = f.age := rfl
@[simp] theorem Fibre.setFlag_count (f : Fibre) (n : Nat) (x : Flag) : (f.setFlag n x).count = f.count := rfl
@[simp] theorem Fibre.setFlag_win (f : Fibre) (n : Nat) (x : Flag) : (f.setFlag n x).win = f.win := rfl
@[simp] theorem Fibre.setFlag_pend (f : Fibre) (n : Nat) (x : Flag) : (f.setFlag n x).pend = f.pend := rfl
@[simp] theorem Fibre.setFlag_fpf (f : Fibre) (n : Nat) (x : Flag) : (f.setFlag n x).fpf = f.fpf := rfl
@[simp] theorem Fibre.setFlag_poll (f : Fibre) (n : Nat) (x : Flag) : (f.setFlag n x).poll = f.poll := rfl
@[simp] theorem Fibre.setFlag_dem (f : Fibre) (n : Nat) (x : Flag) : (f.setFlag n x).dem = f.dem := rfl
@[simp] theorem Fibre.setFlag_park (f : Fibre) (n : Nat) (x : Flag) : (f.setFlag n x).park = f.park := rfl
@[simp] theorem Fibre.setFlag_halt (f : Fibre) (n : Nat) (x : Flag) : (f.setFlag n x).halt = f.halt := rfl
@[simp] theorem Fibre.setFlag_hm (f : Fibre) (n : Nat) (x : Flag) : (f.setFlag n x).hm = f.hm := rfl
@[simp] theorem Fibre.setFlag_trec (f : Fibre) (n : Nat) (x : Flag) : (f.setFlag n x).trec = f.trec := rfl
@[simp] theorem Fibre.setFlag_wait (f : Fibre) (n : Nat) (x : Flag) : (f.setFlag n x).wait = f.wait := rfl
@[simp] theorem Fibre.setFlag_ship (f : Fibre) (n : Nat) (x : Flag) : (f.setFlag n x).ship = f.ship := rfl
@[simp] theorem Fibre.setFlag_relMark (f : Fibre) (n : Nat) (x : Flag) : (f.setFlag n x).relMark = f.relMark := rfl
@[simp] theorem Fibre.setFlag_fence (f : Fibre) (n : Nat) (x : Flag) : (f.setFlag n x).fence = f.fence := rfl
@[simp] theorem Fibre.setFlag_restart (f : Fibre) (n : Nat) (x : Flag) : (f.setFlag n x).restart = f.restart := rfl
@[simp] theorem Fibre.setFlag_walk (f : Fibre) (n : Nat) (x : Flag) : (f.setFlag n x).walk = f.walk := rfl
@[simp] theorem Fibre.setFlag_region (f : Fibre) (n : Nat) (x : Flag) : (f.setFlag n x).region = f.region := rfl
@[simp] theorem Fibre.setFlag_iter (f : Fibre) (n : Nat) (x : Flag) : (f.setFlag n x).iter = f.iter := rfl
@[simp] theorem Fibre.setFlag_snap (f : Fibre) (n : Nat) (x : Flag) : (f.setFlag n x).snap = f.snap := rfl
@[simp] theorem Fibre.setFlag_fresh (f : Fibre) (n : Nat) (x : Flag) : (f.setFlag n x).fresh = f.fresh := rfl
@[simp] theorem Fibre.setFlag_stepping (f : Fibre) (n : Nat) (x : Flag) : (f.setFlag n x).stepping = f.stepping := rfl
@[simp] theorem Fibre.setFlag_wbuf (f : Fibre) (n : Nat) (x : Flag) : (f.setFlag n x).wbuf = f.wbuf := rfl
@[simp] theorem Fibre.setFlag_owedFpx (f : Fibre) (n : Nat) (x : Flag) : (f.setFlag n x).owedFpx = f.owedFpx := rfl
@[simp] theorem Fibre.setFlag_flags (f : Fibre) (n : Nat) (x : Flag) :
    (f.setFlag n x).flags = KV.putD n {} x f.flags := rfl
@[simp] theorem Fibre.setPred_gang (f : Fibre) (n : Nat) (b : Bool) : (f.setPred n b).gang = f.gang := by
  unfold Fibre.setPred; split <;> rfl
@[simp] theorem Fibre.setPred_fid (f : Fibre) (n : Nat) (b : Bool) : (f.setPred n b).fid = f.fid := by
  unfold Fibre.setPred; split <;> rfl
@[simp] theorem Fibre.setPred_site (f : Fibre) (n : Nat) (b : Bool) : (f.setPred n b).site = f.site := by
  unfold Fibre.setPred; split <;> rfl
@[simp] theorem Fibre.setPred_slot (f : Fibre) (n : Nat) (b : Bool) : (f.setPred n b).slot = f.slot := by
  unfold Fibre.setPred; split <;> rfl
@[simp] theorem Fibre.setPred_pc (f : Fibre) (n : Nat) (b : Bool) : (f.setPred n b).pc = f.pc := by
  unfold Fibre.setPred; split <;> rfl
@[simp] theorem Fibre.setPred_wbase (f : Fibre) (n : Nat) (b : Bool) : (f.setPred n b).wbase = f.wbase := by
  unfold Fibre.setPred; split <;> rfl
@[simp] theorem Fibre.setPred_age (f : Fibre) (n : Nat) (b : Bool) : (f.setPred n b).age = f.age := by
  unfold Fibre.setPred; split <;> rfl
@[simp] theorem Fibre.setPred_flags (f : Fibre) (n : Nat) (b : Bool) : (f.setPred n b).flags = f.flags := by
  unfold Fibre.setPred; split <;> rfl
@[simp] theorem Fibre.setPred_count (f : Fibre) (n : Nat) (b : Bool) : (f.setPred n b).count = f.count := by
  unfold Fibre.setPred; split <;> rfl
@[simp] theorem Fibre.setPred_win (f : Fibre) (n : Nat) (b : Bool) : (f.setPred n b).win = f.win := by
  unfold Fibre.setPred; split <;> rfl
@[simp] theorem Fibre.setPred_pend (f : Fibre) (n : Nat) (b : Bool) : (f.setPred n b).pend = f.pend := by
  unfold Fibre.setPred; split <;> rfl
@[simp] theorem Fibre.setPred_fpf (f : Fibre) (n : Nat) (b : Bool) : (f.setPred n b).fpf = f.fpf := by
  unfold Fibre.setPred; split <;> rfl
@[simp] theorem Fibre.setPred_poll (f : Fibre) (n : Nat) (b : Bool) : (f.setPred n b).poll = f.poll := by
  unfold Fibre.setPred; split <;> rfl
@[simp] theorem Fibre.setPred_dem (f : Fibre) (n : Nat) (b : Bool) : (f.setPred n b).dem = f.dem := by
  unfold Fibre.setPred; split <;> rfl
@[simp] theorem Fibre.setPred_park (f : Fibre) (n : Nat) (b : Bool) : (f.setPred n b).park = f.park := by
  unfold Fibre.setPred; split <;> rfl
@[simp] theorem Fibre.setPred_halt (f : Fibre) (n : Nat) (b : Bool) : (f.setPred n b).halt = f.halt := by
  unfold Fibre.setPred; split <;> rfl
@[simp] theorem Fibre.setPred_hm (f : Fibre) (n : Nat) (b : Bool) : (f.setPred n b).hm = f.hm := by
  unfold Fibre.setPred; split <;> rfl
@[simp] theorem Fibre.setPred_trec (f : Fibre) (n : Nat) (b : Bool) : (f.setPred n b).trec = f.trec := by
  unfold Fibre.setPred; split <;> rfl
@[simp] theorem Fibre.setPred_wait (f : Fibre) (n : Nat) (b : Bool) : (f.setPred n b).wait = f.wait := by
  unfold Fibre.setPred; split <;> rfl
@[simp] theorem Fibre.setPred_ship (f : Fibre) (n : Nat) (b : Bool) : (f.setPred n b).ship = f.ship := by
  unfold Fibre.setPred; split <;> rfl
@[simp] theorem Fibre.setPred_relMark (f : Fibre) (n : Nat) (b : Bool) : (f.setPred n b).relMark = f.relMark := by
  unfold Fibre.setPred; split <;> rfl
@[simp] theorem Fibre.setPred_fence (f : Fibre) (n : Nat) (b : Bool) : (f.setPred n b).fence = f.fence := by
  unfold Fibre.setPred; split <;> rfl
@[simp] theorem Fibre.setPred_restart (f : Fibre) (n : Nat) (b : Bool) : (f.setPred n b).restart = f.restart := by
  unfold Fibre.setPred; split <;> rfl
@[simp] theorem Fibre.setPred_walk (f : Fibre) (n : Nat) (b : Bool) : (f.setPred n b).walk = f.walk := by
  unfold Fibre.setPred; split <;> rfl
@[simp] theorem Fibre.setPred_region (f : Fibre) (n : Nat) (b : Bool) : (f.setPred n b).region = f.region := by
  unfold Fibre.setPred; split <;> rfl
@[simp] theorem Fibre.setPred_iter (f : Fibre) (n : Nat) (b : Bool) : (f.setPred n b).iter = f.iter := by
  unfold Fibre.setPred; split <;> rfl
@[simp] theorem Fibre.setPred_snap (f : Fibre) (n : Nat) (b : Bool) : (f.setPred n b).snap = f.snap := by
  unfold Fibre.setPred; split <;> rfl
@[simp] theorem Fibre.setPred_fresh (f : Fibre) (n : Nat) (b : Bool) : (f.setPred n b).fresh = f.fresh := by
  unfold Fibre.setPred; split <;> rfl
@[simp] theorem Fibre.setPred_stepping (f : Fibre) (n : Nat) (b : Bool) : (f.setPred n b).stepping = f.stepping := by
  unfold Fibre.setPred; split <;> rfl
@[simp] theorem Fibre.setPred_wbuf (f : Fibre) (n : Nat) (b : Bool) : (f.setPred n b).wbuf = f.wbuf := by
  unfold Fibre.setPred; split <;> rfl
@[simp] theorem Fibre.setPred_owedFpx (f : Fibre) (n : Nat) (b : Bool) : (f.setPred n b).owedFpx = f.owedFpx := by
  unfold Fibre.setPred; split <;> rfl
@[simp] theorem Fibre.writeAt_gang (f : Fibre) (n r : Nat) (v : PW) : (f.writeAt n r v).gang = f.gang := by
  unfold Fibre.writeAt; split <;> rfl
@[simp] theorem Fibre.writeAt_fid (f : Fibre) (n r : Nat) (v : PW) : (f.writeAt n r v).fid = f.fid := by
  unfold Fibre.writeAt; split <;> rfl
@[simp] theorem Fibre.writeAt_site (f : Fibre) (n r : Nat) (v : PW) : (f.writeAt n r v).site = f.site := by
  unfold Fibre.writeAt; split <;> rfl
@[simp] theorem Fibre.writeAt_slot (f : Fibre) (n r : Nat) (v : PW) : (f.writeAt n r v).slot = f.slot := by
  unfold Fibre.writeAt; split <;> rfl
@[simp] theorem Fibre.writeAt_pc (f : Fibre) (n r : Nat) (v : PW) : (f.writeAt n r v).pc = f.pc := by
  unfold Fibre.writeAt; split <;> rfl
@[simp] theorem Fibre.writeAt_preds (f : Fibre) (n r : Nat) (v : PW) : (f.writeAt n r v).preds = f.preds := by
  unfold Fibre.writeAt; split <;> rfl
@[simp] theorem Fibre.writeAt_wbase (f : Fibre) (n r : Nat) (v : PW) : (f.writeAt n r v).wbase = f.wbase := by
  unfold Fibre.writeAt; split <;> rfl
@[simp] theorem Fibre.writeAt_age (f : Fibre) (n r : Nat) (v : PW) : (f.writeAt n r v).age = f.age := by
  unfold Fibre.writeAt; split <;> rfl
@[simp] theorem Fibre.writeAt_flags (f : Fibre) (n r : Nat) (v : PW) : (f.writeAt n r v).flags = f.flags := by
  unfold Fibre.writeAt; split <;> rfl
@[simp] theorem Fibre.writeAt_count (f : Fibre) (n r : Nat) (v : PW) : (f.writeAt n r v).count = f.count := by
  unfold Fibre.writeAt; split <;> rfl
@[simp] theorem Fibre.writeAt_win (f : Fibre) (n r : Nat) (v : PW) : (f.writeAt n r v).win = f.win := by
  unfold Fibre.writeAt; split <;> rfl
@[simp] theorem Fibre.writeAt_fpf (f : Fibre) (n r : Nat) (v : PW) : (f.writeAt n r v).fpf = f.fpf := by
  unfold Fibre.writeAt; split <;> rfl
@[simp] theorem Fibre.writeAt_poll (f : Fibre) (n r : Nat) (v : PW) : (f.writeAt n r v).poll = f.poll := by
  unfold Fibre.writeAt; split <;> rfl
@[simp] theorem Fibre.writeAt_dem (f : Fibre) (n r : Nat) (v : PW) : (f.writeAt n r v).dem = f.dem := by
  unfold Fibre.writeAt; split <;> rfl
@[simp] theorem Fibre.writeAt_park (f : Fibre) (n r : Nat) (v : PW) : (f.writeAt n r v).park = f.park := by
  unfold Fibre.writeAt; split <;> rfl
@[simp] theorem Fibre.writeAt_halt (f : Fibre) (n r : Nat) (v : PW) : (f.writeAt n r v).halt = f.halt := by
  unfold Fibre.writeAt; split <;> rfl
@[simp] theorem Fibre.writeAt_hm (f : Fibre) (n r : Nat) (v : PW) : (f.writeAt n r v).hm = f.hm := by
  unfold Fibre.writeAt; split <;> rfl
@[simp] theorem Fibre.writeAt_trec (f : Fibre) (n r : Nat) (v : PW) : (f.writeAt n r v).trec = f.trec := by
  unfold Fibre.writeAt; split <;> rfl
@[simp] theorem Fibre.writeAt_wait (f : Fibre) (n r : Nat) (v : PW) : (f.writeAt n r v).wait = f.wait := by
  unfold Fibre.writeAt; split <;> rfl
@[simp] theorem Fibre.writeAt_ship (f : Fibre) (n r : Nat) (v : PW) : (f.writeAt n r v).ship = f.ship := by
  unfold Fibre.writeAt; split <;> rfl
@[simp] theorem Fibre.writeAt_relMark (f : Fibre) (n r : Nat) (v : PW) : (f.writeAt n r v).relMark = f.relMark := by
  unfold Fibre.writeAt; split <;> rfl
@[simp] theorem Fibre.writeAt_fence (f : Fibre) (n r : Nat) (v : PW) : (f.writeAt n r v).fence = f.fence := by
  unfold Fibre.writeAt; split <;> rfl
@[simp] theorem Fibre.writeAt_restart (f : Fibre) (n r : Nat) (v : PW) : (f.writeAt n r v).restart = f.restart := by
  unfold Fibre.writeAt; split <;> rfl
@[simp] theorem Fibre.writeAt_walk (f : Fibre) (n r : Nat) (v : PW) : (f.writeAt n r v).walk = f.walk := by
  unfold Fibre.writeAt; split <;> rfl
@[simp] theorem Fibre.writeAt_region (f : Fibre) (n r : Nat) (v : PW) : (f.writeAt n r v).region = f.region := by
  unfold Fibre.writeAt; split <;> rfl
@[simp] theorem Fibre.writeAt_iter (f : Fibre) (n r : Nat) (v : PW) : (f.writeAt n r v).iter = f.iter := by
  unfold Fibre.writeAt; split <;> rfl
@[simp] theorem Fibre.writeAt_snap (f : Fibre) (n r : Nat) (v : PW) : (f.writeAt n r v).snap = f.snap := by
  unfold Fibre.writeAt; split <;> rfl
@[simp] theorem Fibre.writeAt_fresh (f : Fibre) (n r : Nat) (v : PW) : (f.writeAt n r v).fresh = f.fresh := by
  unfold Fibre.writeAt; split <;> rfl
@[simp] theorem Fibre.writeAt_stepping (f : Fibre) (n r : Nat) (v : PW) : (f.writeAt n r v).stepping = f.stepping := by
  unfold Fibre.writeAt; split <;> rfl
@[simp] theorem Fibre.writeAt_wbuf (f : Fibre) (n r : Nat) (v : PW) : (f.writeAt n r v).wbuf = f.wbuf := by
  unfold Fibre.writeAt; split <;> rfl
@[simp] theorem Fibre.writeAt_owedFpx (f : Fibre) (n r : Nat) (v : PW) : (f.writeAt n r v).owedFpx = f.owedFpx := by
  unfold Fibre.writeAt; split <;> rfl
@[simp] theorem Fibre.promise_gang (f : Fibre) (r n op : Nat) : (f.promise r n op).gang = f.gang := by
  unfold Fibre.promise; split <;> rfl
@[simp] theorem Fibre.promise_fid (f : Fibre) (r n op : Nat) : (f.promise r n op).fid = f.fid := by
  unfold Fibre.promise; split <;> rfl
@[simp] theorem Fibre.promise_site (f : Fibre) (r n op : Nat) : (f.promise r n op).site = f.site := by
  unfold Fibre.promise; split <;> rfl
@[simp] theorem Fibre.promise_slot (f : Fibre) (r n op : Nat) : (f.promise r n op).slot = f.slot := by
  unfold Fibre.promise; split <;> rfl
@[simp] theorem Fibre.promise_pc (f : Fibre) (r n op : Nat) : (f.promise r n op).pc = f.pc := by
  unfold Fibre.promise; split <;> rfl
@[simp] theorem Fibre.promise_preds (f : Fibre) (r n op : Nat) : (f.promise r n op).preds = f.preds := by
  unfold Fibre.promise; split <;> rfl
@[simp] theorem Fibre.promise_wbase (f : Fibre) (r n op : Nat) : (f.promise r n op).wbase = f.wbase := by
  unfold Fibre.promise; split <;> rfl
@[simp] theorem Fibre.promise_age (f : Fibre) (r n op : Nat) : (f.promise r n op).age = f.age := by
  unfold Fibre.promise; split <;> rfl
@[simp] theorem Fibre.promise_flags (f : Fibre) (r n op : Nat) : (f.promise r n op).flags = f.flags := by
  unfold Fibre.promise; split <;> rfl
@[simp] theorem Fibre.promise_count (f : Fibre) (r n op : Nat) : (f.promise r n op).count = f.count := by
  unfold Fibre.promise; split <;> rfl
@[simp] theorem Fibre.promise_win (f : Fibre) (r n op : Nat) : (f.promise r n op).win = f.win := by
  unfold Fibre.promise; split <;> rfl
@[simp] theorem Fibre.promise_fpf (f : Fibre) (r n op : Nat) : (f.promise r n op).fpf = f.fpf := by
  unfold Fibre.promise; split <;> rfl
@[simp] theorem Fibre.promise_poll (f : Fibre) (r n op : Nat) : (f.promise r n op).poll = f.poll := by
  unfold Fibre.promise; split <;> rfl
@[simp] theorem Fibre.promise_dem (f : Fibre) (r n op : Nat) : (f.promise r n op).dem = f.dem := by
  unfold Fibre.promise; split <;> rfl
@[simp] theorem Fibre.promise_park (f : Fibre) (r n op : Nat) : (f.promise r n op).park = f.park := by
  unfold Fibre.promise; split <;> rfl
@[simp] theorem Fibre.promise_halt (f : Fibre) (r n op : Nat) : (f.promise r n op).halt = f.halt := by
  unfold Fibre.promise; split <;> rfl
@[simp] theorem Fibre.promise_hm (f : Fibre) (r n op : Nat) : (f.promise r n op).hm = f.hm := by
  unfold Fibre.promise; split <;> rfl
@[simp] theorem Fibre.promise_trec (f : Fibre) (r n op : Nat) : (f.promise r n op).trec = f.trec := by
  unfold Fibre.promise; split <;> rfl
@[simp] theorem Fibre.promise_wait (f : Fibre) (r n op : Nat) : (f.promise r n op).wait = f.wait := by
  unfold Fibre.promise; split <;> rfl
@[simp] theorem Fibre.promise_ship (f : Fibre) (r n op : Nat) : (f.promise r n op).ship = f.ship := by
  unfold Fibre.promise; split <;> rfl
@[simp] theorem Fibre.promise_relMark (f : Fibre) (r n op : Nat) : (f.promise r n op).relMark = f.relMark := by
  unfold Fibre.promise; split <;> rfl
@[simp] theorem Fibre.promise_fence (f : Fibre) (r n op : Nat) : (f.promise r n op).fence = f.fence := by
  unfold Fibre.promise; split <;> rfl
@[simp] theorem Fibre.promise_restart (f : Fibre) (r n op : Nat) : (f.promise r n op).restart = f.restart := by
  unfold Fibre.promise; split <;> rfl
@[simp] theorem Fibre.promise_walk (f : Fibre) (r n op : Nat) : (f.promise r n op).walk = f.walk := by
  unfold Fibre.promise; split <;> rfl
@[simp] theorem Fibre.promise_region (f : Fibre) (r n op : Nat) : (f.promise r n op).region = f.region := by
  unfold Fibre.promise; split <;> rfl
@[simp] theorem Fibre.promise_iter (f : Fibre) (r n op : Nat) : (f.promise r n op).iter = f.iter := by
  unfold Fibre.promise; split <;> rfl
@[simp] theorem Fibre.promise_snap (f : Fibre) (r n op : Nat) : (f.promise r n op).snap = f.snap := by
  unfold Fibre.promise; split <;> rfl
@[simp] theorem Fibre.promise_fresh (f : Fibre) (r n op : Nat) : (f.promise r n op).fresh = f.fresh := by
  unfold Fibre.promise; split <;> rfl
@[simp] theorem Fibre.promise_stepping (f : Fibre) (r n op : Nat) : (f.promise r n op).stepping = f.stepping := by
  unfold Fibre.promise; split <;> rfl
@[simp] theorem Fibre.promise_wbuf (f : Fibre) (r n op : Nat) : (f.promise r n op).wbuf = f.wbuf := by
  unfold Fibre.promise; split <;> rfl
@[simp] theorem Fibre.promise_owedFpx (f : Fibre) (r n op : Nat) : (f.promise r n op).owedFpx = f.owedFpx := by
  unfold Fibre.promise; split <;> rfl
@[simp] theorem Fibre.writeNow_gang (f : Fibre) (r : Nat) (v : PW) : (f.writeNow r v).gang = f.gang := by
  unfold Fibre.writeNow; split <;> rfl
@[simp] theorem Fibre.writeNow_fid (f : Fibre) (r : Nat) (v : PW) : (f.writeNow r v).fid = f.fid := by
  unfold Fibre.writeNow; split <;> rfl
@[simp] theorem Fibre.writeNow_site (f : Fibre) (r : Nat) (v : PW) : (f.writeNow r v).site = f.site := by
  unfold Fibre.writeNow; split <;> rfl
@[simp] theorem Fibre.writeNow_slot (f : Fibre) (r : Nat) (v : PW) : (f.writeNow r v).slot = f.slot := by
  unfold Fibre.writeNow; split <;> rfl
@[simp] theorem Fibre.writeNow_pc (f : Fibre) (r : Nat) (v : PW) : (f.writeNow r v).pc = f.pc := by
  unfold Fibre.writeNow; split <;> rfl
@[simp] theorem Fibre.writeNow_preds (f : Fibre) (r : Nat) (v : PW) : (f.writeNow r v).preds = f.preds := by
  unfold Fibre.writeNow; split <;> rfl
@[simp] theorem Fibre.writeNow_wbase (f : Fibre) (r : Nat) (v : PW) : (f.writeNow r v).wbase = f.wbase := by
  unfold Fibre.writeNow; split <;> rfl
@[simp] theorem Fibre.writeNow_age (f : Fibre) (r : Nat) (v : PW) : (f.writeNow r v).age = f.age := by
  unfold Fibre.writeNow; split <;> rfl
@[simp] theorem Fibre.writeNow_flags (f : Fibre) (r : Nat) (v : PW) : (f.writeNow r v).flags = f.flags := by
  unfold Fibre.writeNow; split <;> rfl
@[simp] theorem Fibre.writeNow_count (f : Fibre) (r : Nat) (v : PW) : (f.writeNow r v).count = f.count := by
  unfold Fibre.writeNow; split <;> rfl
@[simp] theorem Fibre.writeNow_fpf (f : Fibre) (r : Nat) (v : PW) : (f.writeNow r v).fpf = f.fpf := by
  unfold Fibre.writeNow; split <;> rfl
@[simp] theorem Fibre.writeNow_poll (f : Fibre) (r : Nat) (v : PW) : (f.writeNow r v).poll = f.poll := by
  unfold Fibre.writeNow; split <;> rfl
@[simp] theorem Fibre.writeNow_dem (f : Fibre) (r : Nat) (v : PW) : (f.writeNow r v).dem = f.dem := by
  unfold Fibre.writeNow; split <;> rfl
@[simp] theorem Fibre.writeNow_park (f : Fibre) (r : Nat) (v : PW) : (f.writeNow r v).park = f.park := by
  unfold Fibre.writeNow; split <;> rfl
@[simp] theorem Fibre.writeNow_halt (f : Fibre) (r : Nat) (v : PW) : (f.writeNow r v).halt = f.halt := by
  unfold Fibre.writeNow; split <;> rfl
@[simp] theorem Fibre.writeNow_hm (f : Fibre) (r : Nat) (v : PW) : (f.writeNow r v).hm = f.hm := by
  unfold Fibre.writeNow; split <;> rfl
@[simp] theorem Fibre.writeNow_trec (f : Fibre) (r : Nat) (v : PW) : (f.writeNow r v).trec = f.trec := by
  unfold Fibre.writeNow; split <;> rfl
@[simp] theorem Fibre.writeNow_wait (f : Fibre) (r : Nat) (v : PW) : (f.writeNow r v).wait = f.wait := by
  unfold Fibre.writeNow; split <;> rfl
@[simp] theorem Fibre.writeNow_ship (f : Fibre) (r : Nat) (v : PW) : (f.writeNow r v).ship = f.ship := by
  unfold Fibre.writeNow; split <;> rfl
@[simp] theorem Fibre.writeNow_relMark (f : Fibre) (r : Nat) (v : PW) : (f.writeNow r v).relMark = f.relMark := by
  unfold Fibre.writeNow; split <;> rfl
@[simp] theorem Fibre.writeNow_fence (f : Fibre) (r : Nat) (v : PW) : (f.writeNow r v).fence = f.fence := by
  unfold Fibre.writeNow; split <;> rfl
@[simp] theorem Fibre.writeNow_restart (f : Fibre) (r : Nat) (v : PW) : (f.writeNow r v).restart = f.restart := by
  unfold Fibre.writeNow; split <;> rfl
@[simp] theorem Fibre.writeNow_walk (f : Fibre) (r : Nat) (v : PW) : (f.writeNow r v).walk = f.walk := by
  unfold Fibre.writeNow; split <;> rfl
@[simp] theorem Fibre.writeNow_region (f : Fibre) (r : Nat) (v : PW) : (f.writeNow r v).region = f.region := by
  unfold Fibre.writeNow; split <;> rfl
@[simp] theorem Fibre.writeNow_iter (f : Fibre) (r : Nat) (v : PW) : (f.writeNow r v).iter = f.iter := by
  unfold Fibre.writeNow; split <;> rfl
@[simp] theorem Fibre.writeNow_snap (f : Fibre) (r : Nat) (v : PW) : (f.writeNow r v).snap = f.snap := by
  unfold Fibre.writeNow; split <;> rfl
@[simp] theorem Fibre.writeNow_fresh (f : Fibre) (r : Nat) (v : PW) : (f.writeNow r v).fresh = f.fresh := by
  unfold Fibre.writeNow; split <;> rfl
@[simp] theorem Fibre.writeNow_stepping (f : Fibre) (r : Nat) (v : PW) : (f.writeNow r v).stepping = f.stepping := by
  unfold Fibre.writeNow; split <;> rfl
@[simp] theorem Fibre.writeNow_wbuf (f : Fibre) (r : Nat) (v : PW) : (f.writeNow r v).wbuf = f.wbuf := by
  unfold Fibre.writeNow; split <;> rfl
@[simp] theorem Fibre.writeNow_owedFpx (f : Fibre) (r : Nat) (v : PW) : (f.writeNow r v).owedFpx = f.owedFpx := by
  unfold Fibre.writeNow; split <;> rfl

end Sys2Proof.Machine
end

