-- ==== Sys2Proof/Tests/Slice0.lean ====
section
/-! SUPPORT. Tests: well-formedness, decoding, and for every statement a state that meets its
hypotheses. Words are written out from the formats of R173 and the opcode map of R186; expected values
come from the manual. -/

namespace Sys2Proof.Tests
open Machine

set_option Elab.async false

/-! ### Checks that decide the premises of the statements -/

def flagsQuiet (f : Fibre) : Bool := decide (f.flags = []) && decide (f.pend = [])

theorem idle_of {f : Fibre} (h : flagsQuiet f = true) (n : Nat) : f.IdleFlag n := by
  simp only [flagsQuiet, Bool.and_eq_true, decide_eq_true_eq] at h
  exact ⟨by rw [h.1]; rfl, by rw [h.2]; rfl⟩

def invOk (s : State) : Bool := Memory.wf s.mem && Memory.canon scrTop s.scr && KV.sorted s.fibres

theorem inv_of {s : State} (h : invOk s = true) : s.Inv := by
  simp only [invOk, Bool.and_eq_true] at h
  exact ⟨h.1.1, h.1.2, h.2⟩

def memberOk (c : Cur) (cr : Crew) (pc : VAddr) (fid : Nat) (f : Fibre) (lr : Bool) : Bool :=
  decide (f.fid = fid ∧ fid < 1024 ∧ f.gang = cr.gang ∧ f.site = c.site ∧ f.slot = some c.slot ∧
    f.pc = pc ∧ f.fence = [] ∧ (lr = false → f.region = none) ∧ f.stepping = false ∧ f.toHalt = none) && flagsQuiet f

theorem member_of {c : Cur} {cr : Crew} {pc : VAddr} {fid : Nat} {f : Fibre} {lr : Bool}
    (h : memberOk c cr pc fid f lr = true) : Member c cr pc fid f lr := by
  simp only [memberOk, Bool.and_eq_true, decide_eq_true_eq] at h
  obtain ⟨⟨h1, h2, h3, h4, h5, h6, h7, h8, h9, h10⟩, hf⟩ := h
  exact ⟨h1, h2, h3, h4, h5, h6, h7, h8, h9, h10, idle_of hf 15, fun n _ => idle_of hf n, idle_of hf _⟩

def readyOk (s : State) (c : Cur) (cr : Crew) (pc : VAddr) (lr : Bool := false) : Bool :=
  invOk s && decide (s.cur = some c) && decide (c.body = false) &&
  decide (KV.find? (ckey c.site c.slot) s.crews = some cr) && decide (cr.fids ≠ []) &&
  decide (cr.fids.map (· % lanesOf c.site)).Nodup && s.issues c.site (s.gang cr.gang) &&
  decide ((cr.group pc).err = none) && decide ((s.site c.site).preds = []) &&
  cr.fids.all fun fid => match KV.find? (fkey cr.gang fid) s.fibres with
    | some f => memberOk c cr pc fid f lr
    | none => false

theorem ready_of {s : State} {c : Cur} {cr : Crew} {pc : VAddr} {lr : Bool}
    (h : readyOk s c cr pc lr = true) : Ready s c cr pc lr := by
  simp only [readyOk, Bool.and_eq_true, decide_eq_true_eq, List.all_eq_true] at h
  obtain ⟨⟨⟨⟨⟨⟨⟨⟨⟨h1, h2⟩, h3⟩, h4⟩, h5⟩, h6⟩, h7⟩, h8⟩, h9⟩, h10⟩ := h
  refine ⟨inv_of h1, h2, h3, h4, h5, h6, h7, h8, h9, fun fid hf => ?_⟩
  have := h10 fid hf
  split at this
  · exact ⟨_, ‹_›, member_of this⟩
  · cases this

def fieldsOk (s : State) (cr : Crew) (pc : VAddr) (g : BitVec 4) (us : List Use) : Bool :=
  decide (usesErr (s.gang cr.gang) (s.active cr pc g).length us = none) &&
  us.all (fun u => !isQueue u.reg) &&
  (s.active cr pc g).all fun f => decide (poisonReg us (operands s (s.gang cr.gang) f us) = none)

theorem fields_of {s : State} {cr : Crew} {pc : VAddr} {g : BitVec 4} {us : List Use}
    (h : fieldsOk s cr pc g us = true) : Fields s cr pc g us := by
  rw [fieldsOk, Bool.and_eq_true, Bool.and_eq_true, decide_eq_true_eq] at h
  refine ⟨h.1.1, h.1.2, fun f hf => ?_⟩
  have := (List.all_eq_true.mp h.2) f hf
  simpa using this

def modsOk (h : Hints) (rnd sat : Bool) : Bool :=
  decide ((rnd = true ∨ (h.mods.getD 0).extractLsb' 19 3 = 0) ∧ (sat = true ∨ (h.mods.getD 0).getLsbD 18 = false) ∧
    (h.mods.getD 0).getLsbD 17 = false ∧ (h.mods.getD 0).getLsbD 16 = false ∧ (h.mods.getD 0).getLsbD 15 = false)

theorem mods_of {h : Hints} {rnd sat : Bool} (e : modsOk h rnd sat = true) : FitMods h rnd sat := by
  simp only [modsOk, decide_eq_true_eq] at e
  exact ⟨e.1, e.2.1, e.2.2.1, e.2.2.2.1, e.2.2.2.2⟩

def plainOk (h : Hints) : Bool := decide (h.imm = none) && modsOk h false false
theorem plain_of {h : Hints} (e : plainOk h = true) : PlainHints h := by
  simp only [plainOk, Bool.and_eq_true, decide_eq_true_eq] at e
  exact ⟨e.1, mods_of e.2⟩

def soloOk (s : State) (c : Cur) (cr : Crew) (f : Fibre) (lr : Bool := false) : Bool :=
  readyOk s c cr f.pc lr && decide (cr.fids = [f.fid]) &&
  decide (KV.find? (fkey cr.gang f.fid) s.fibres = some f) &&
  s.fibres.all (fun x => decide (x.1 / 1024 ≠ cr.gang) || !x.2.formable)

theorem solo_of {s : State} {c : Cur} {cr : Crew} {f : Fibre} {lr : Bool}
    (h : soloOk s c cr f lr = true) : Solo s c cr f lr := by
  simp only [soloOk, Bool.and_eq_true, decide_eq_true_eq] at h
  exact ⟨ready_of h.1.1.1, h.1.1.2, h.1.2, h.2⟩

def standsOk (s : State) (c : Cur) (cr : Crew) (f : Fibre) (g : BitVec 4) (us : List Use)
    (rnd lr : Bool := false) : Bool :=
  soloOk s c cr f lr && flagsQuiet f && guardOk g (f.now (cr.group f.pc)) && fieldsOk s cr f.pc g us &&
  modsOk (cr.group f.pc) rnd false

theorem stands_of {s : State} {c : Cur} {cr : Crew} {f : Fibre} {g : BitVec 4} {us : List Use} {lr : Bool}
    (h : standsOk s c cr f g us false lr = true) : Stands s c cr f g us lr := by
  simp only [standsOk, Bool.and_eq_true] at h
  exact ⟨solo_of h.1.1.1.1, idle_of h.1.1.1.2, h.1.1.2, fields_of h.1.2, mods_of h.2⟩

theorem starts_of {s : State} {c : Cur} {cr : Crew} {f : Fibre} {g : BitVec 4} {us : List Use} {rnd : Bool}
    (h : (standsOk s c cr f g us rnd && c.wait) = true) : Starts s c cr f g us rnd := by
  simp only [standsOk, Bool.and_eq_true] at h
  exact ⟨solo_of h.1.1.1.1.1, idle_of h.1.1.1.1.2, h.1.1.1.2, fields_of h.1.1.2, mods_of h.1.2, h.2⟩

def octetOk (s : State) (c : Cur) (cr : Crew) (pc : VAddr) (g : BitVec 4) (us own : List Use) (k : Nat) : Bool :=
  readyOk s c cr pc && isCore c.site && decide (cr.fids.map (· % 32) = (List.range 8).map (8 * k + ·)) &&
  (cr.fids.all fun fid => flagsQuiet (s.fibre (fkey cr.gang fid)) &&
    guardOk g ((s.fibre (fkey cr.gang fid)).now (cr.group pc))) &&
  fieldsOk s cr pc g us && fieldsOk s cr pc g own && modsOk (cr.group pc) false false && c.wait

theorem octet_of {s : State} {c : Cur} {cr : Crew} {pc : VAddr} {g : BitVec 4} {us own : List Use} {k : Nat}
    (h : octetOk s c cr pc g us own k = true) : Octet s c cr pc g us own := by
  simp only [octetOk, Bool.and_eq_true, decide_eq_true_eq, List.all_eq_true] at h
  obtain ⟨⟨⟨⟨⟨⟨⟨h1, h2⟩, h3⟩, h4⟩, h5⟩, h6⟩, h7⟩, h8⟩ := h
  exact ⟨ready_of h1, h2, ⟨k, h3⟩, fun fid hf => idle_of (h4 fid hf).1, fun fid hf => (h4 fid hf).2,
    fields_of h5, fields_of h6, mods_of h7, h8⟩

/-- The value of a result, if it is one. -/
def okOf {ε α : Type} : Except ε α → Option α
  | .ok x => some x
  | .error _ => none
theorem ok_of {ε α : Type} {e : Except ε α} (h : (okOf e).isSome = true) : ∃ x, e = .ok x := by
  cases e with
  | ok x => exact ⟨x, rfl⟩
  | error _ => cases h
theorem some_of {α : Type} {o : Option α} (h : o.isSome = true) : ∃ x, o = some x := Option.isSome_iff_exists.mp h

/-! ### Encodings -/

/-- An ill-formed instruction for each check of WellFormed, at the first value that the manual does
not list. -/
theorem test_wf_refuses : [Instr.shli 0 1 2 32, .shri 0 1 2 64, .sari 0 1 2 127, .setp 0 12 1 2 3,
    .setpi 0 15 1 2 3, .iun 0 1 2 11, .lagr 0 3 1 2 3, .lfold 0 1 2 10, .plog 0 8 0 0, .plog 0 1 64 4,
    .plog 0 1 8 5, .plog 0 1 8 0x10, .plog 0 1 1 0x11, .plog 0 1 2 7, .plog 0 1 2 0x13, .fsetp 0 14 1 2 3,
    .func 0 1 2 12, .cvt 0 1 2 7 0 0, .cvt 0 1 2 0 7 0, .cvt 0 1 2 3 3 0, .cvt 0 1 2 0 5 1, .ld 0 1 2 6 0 0,
    .ld 0 1 2 0 3 0, .st 0 1 2 7 0 0, .st 0 1 2 0 2 0, .ldb 0 1 2 0 3 0, .ldb 0 1 2 0 0 2, .stb 0 1 2 6 0,
    .stb 0 1 2 0 2, .lde 0 1 2 0 0 3, .lde 0 1 2 6 0 0, .ste 0 1 2 0 0 3, .ste 0 1 2 0 2 0, .atom 0 1 2 6 0 0 0,
    .atom 0 1 2 4 0 1 1, .cas 0 1 2 6 0 0, .cas 0 1 2 0 0 2, .lds 0 1 2 1 0 0, .lds 0 1 2 0 3 0,
    .sts 0 1 2 3 0 0, .sts 0 1 2 0 2 0, .atoms 0 1 2 6 0 0, .red 0 1 2 4 0 0 0, .red 0 1 2 7 0 0 0,
    .copy 0 1 2 0 0 1 1, .qbind 0 111 2, .qbind 0 124 2, .qstat 0 1 111, .wave 0 1 2 5, .mmas 0 7 1 2 3,
    .bara 0 1 1 4, .bara 0 1 3 0, .barw 0 1 2 2, .waitv 0 1 2 12 0, .csrrd 0 1 0x18, .csrrd 0 1 0x40,
    .csrwr 0 1 0x1F, .insp 0 1 2 0x65, .poke 0 1 2 0x7F, .pace 0 12 0, .pace 0 14 0].all (!·.wf) = true := by
  decide +kernel

/-- R175, R174, R180: the words that the manual writes out, and an illegal word of each kind (R187). -/
theorem test_decode_manual :
    decode 0x2001427D = .ok (.addi 0 5 4 125) ∧ decode 0x81610144 = .ok (.ld 11 4 2 4 1 0) ∧
    decode 0x403FFFC0 = .ok (.bra 1 0x1FFFC0) ∧ decode 0x011F3E7C = .ok (.add 8 124 124 124) ∧
    decode 0xFE000C88 = .ok (.pace 3 2 1) ∧ decode 0x7E000000 = .error .reservedMajor ∧
    decode 0x4A000001 = .error .reservedField ∧ decode 0xFE000001 = .error .hintError ∧
    decode 0xFE000300 = .error .hintError ∧ decodeBytes [0x7D, 0x42, 0x01, 0x20, 9] = .ok (.addi 0 5 4 125, [9]) ∧
    decodeBytes [0x7D, 0x42, 0x01] = .error .short := by
  decide +kernel

/-! Every word of the opcode map, with its fields in the places that the map gives them. -/

theorem test_decode_integer : ∀ x ∈ [
      (0x017ACB41#32, Instr.add 11 107 22 65), (0x037ACB41#32, Instr.sub 11 107 22 65),
      (0x057ACB41#32, Instr.mul 11 107 22 65), (0x077ACB41#32, Instr.mulhi 11 107 22 65),
      (0x097ACB41#32, Instr.mulhiu 11 107 22 65), (0x0B7ACB41#32, Instr.mad 11 107 22 65),
      (0x0D7ACB41#32, Instr.and 11 107 22 65), (0x0F7ACB41#32, Instr.or 11 107 22 65),
      (0x117ACB41#32, Instr.xor 11 107 22 65), (0x137ACB41#32, Instr.shl 11 107 22 65),
      (0x157ACB41#32, Instr.shr 11 107 22 65), (0x177ACB41#32, Instr.sar 11 107 22 65),
      (0x197ACB41#32, Instr.min 11 107 22 65), (0x1B7ACB41#32, Instr.max 11 107 22 65),
      (0x1D7ACB41#32, Instr.minu 11 107 22 65), (0x1F7ACB41#32, Instr.maxu 11 107 22 65),
      (0x217ACB41#32, Instr.addi 11 107 22 65), (0x237ACB41#32, Instr.andi 11 107 22 65),
      (0x257ACB41#32, Instr.ori 11 107 22 65), (0x277ACB41#32, Instr.xori 11 107 22 65),
      (0x297ACB15#32, Instr.shli 11 107 22 21), (0x2B7ACB09#32, Instr.shri 11 107 22 9),
      (0x2D7ACB1E#32, Instr.sari 11 107 22 30), (0x2F6DA0EC#32, Instr.setp 11 6 6 65 108),
      (0x3177A0EC#32, Instr.setpi 11 11 6 65 108), (0x337ACB41#32, Instr.sel 11 107 22 65),
      (0x357ACB41#32, Instr.add64 11 107 22 65), (0x377ACB41#32, Instr.adda 11 107 22 65),
      (0x397ACB41#32, Instr.bfx 11 107 22 65), (0x3B7ACB41#32, Instr.bfi 11 107 22 65),
      (0x3D7ACB0A#32, Instr.iun 11 107 22 10), (0x3F7AE9CF#32, Instr.ldi 11 107 10703)],
    decode x.1 = .ok x.2 ∧ x.2.encode = some x.1 := by decide +kernel

theorem test_decode_control : ∀ x ∈ [
      (0x4162468A#32, Instr.bra 11 149130), (0x4362468A#32, Instr.bru 11 149130),
      (0x4562468A#32, Instr.call 11 149130), (0x477AC000#32, Instr.ret 11 107),
      (0x497AC000#32, Instr.jmpi 11 107), (0x4B600000#32, Instr.exit 11), (0x4D600000#32, Instr.yield 11),
      (0x4F7ACB00#32, Instr.spawn 11 107 22), (0x51600000#32, Instr.crewjoin 11),
      (0x537ACB41#32, Instr.lxch 11 107 22 65), (0x5565A0EC#32, Instr.lagr 11 2 6 65 108),
      (0x577ACB09#32, Instr.lfold 11 107 22 9), (0x5960D504#32, Instr.plog 11 3 42 4),
      (0x5B7AE9CF#32, Instr.brdec 11 107 10703), (0x5D7AC000#32, Instr.sleep 11 107)],
    decode x.1 = .ok x.2 ∧ x.2.encode = some x.1 := by decide +kernel

theorem test_decode_float : ∀ x ∈ [
      (0x617ACB41#32, Instr.fadd 11 107 22 65), (0x637ACB41#32, Instr.fsub 11 107 22 65),
      (0x657ACB41#32, Instr.fmul 11 107 22 65), (0x677ACB41#32, Instr.ffma 11 107 22 65),
      (0x697ACB41#32, Instr.fmin 11 107 22 65), (0x6B7ACB41#32, Instr.fmax 11 107 22 65),
      (0x6D7ACB41#32, Instr.fdiv 11 107 22 65), (0x6F7BA0EC#32, Instr.fsetp 11 13 6 65 108),
      (0x717ACB0B#32, Instr.func 11 107 22 11), (0x737ACB3B#32, Instr.cvt 11 107 22 3 5 1),
      (0x757ACB41#32, Instr.padd2 11 107 22 65), (0x777ACB41#32, Instr.pfma2 11 107 22 65),
      (0x797ACB41#32, Instr.pmul2 11 107 22 65), (0x7B7ACB41#32, Instr.dot4 11 107 22 65),
      (0x7D7ACB41#32, Instr.dot2f 11 107 22 65)],
    decode x.1 = .ok x.2 ∧ x.2.encode = some x.1 := by decide +kernel

theorem test_decode_memory : ∀ x ∈ [
      (0x817ACB5B#32, Instr.ld 11 107 22 5 2 3), (0x837ACB37#32, Instr.st 11 107 22 3 1 3),
      (0x857ACB45#32, Instr.ldb 11 107 22 4 1 1), (0x877ACB24#32, Instr.stb 11 107 22 2 1),
      (0x897ACB1A#32, Instr.lde 11 107 22 1 2 2), (0x8B7ACB51#32, Instr.ste 11 107 22 5 0 1),
      (0x8D7ACB52#32, Instr.atom 11 107 22 5 0 1 0), (0x8F7ACB51#32, Instr.cas 11 107 22 5 0 1),
      (0x917ACB00#32, Instr.lrbegin 11 107 22), (0x93600000#32, Instr.lrend 11),
      (0x95600001#32, Instr.fenceAcq 11), (0x95600002#32, Instr.fenceRel 11),
      (0x95600003#32, Instr.fenceFull 11), (0x977ACB00#32, Instr.cacheWb 11 107 22),
      (0x977ACB01#32, Instr.cacheInv 11 107 22), (0x977ACB02#32, Instr.cacheInvd 11 107 22),
      (0x977ACB03#32, Instr.cachePref 11 107 22), (0x997ACB6B#32, Instr.lds 11 107 22 6 2 3),
      (0x9B7ACB77#32, Instr.sts 11 107 22 7 1 3), (0x9D7ACB52#32, Instr.atoms 11 107 22 5 0 1),
      (0x9F7ACB23#32, Instr.red 11 107 22 2 0 1 1)],
    decode x.1 = .ok x.2 ∧ x.2.encode = some x.1 := by decide +kernel

theorem test_decode_bag : ∀ x ∈ [
      (0xA17ACB41#32, Instr.put 11 107 22 65), (0xA37ACB41#32, Instr.putm 11 107 22 65),
      (0xA57ACB41#32, Instr.drain 11 107 22 65), (0xA77ACB00#32, Instr.bcount 11 107 22),
      (0xA77ACB01#32, Instr.bopen 11 107 22), (0xA7603582#32, Instr.bseal 11 107),
      (0xA7603583#32, Instr.bfree 11 107), (0xA97ACB41#32, Instr.biter 11 107 22 65),
      (0xAB7ACB41#32, Instr.gfetch 11 107 22 65), (0xAD7ACB00#32, Instr.probe 11 107 22),
      (0xAF7ACB41#32, Instr.rebal 11 107 22 65), (0xB17ACB14#32, Instr.copy 11 107 22 1 0 1 0),
      (0xB37AC060#32, Instr.copyb 11 107 6), (0xB57ACB00#32, Instr.igather 11 107 22),
      (0xB77ACB00#32, Instr.iscatter 11 107 22), (0xB97C4B00#32, Instr.qbind 11 113 22),
      (0xBB7AFD80#32, Instr.qstat 11 107 123), (0xBD7AC006#32, Instr.cpwait 11 107 6),
      (0xBF7ACB04#32, Instr.wave 11 107 22 4)],
    decode x.1 = .ok x.2 ∧ x.2.encode = some x.1 := by decide +kernel

theorem test_decode_matrix : ∀ x ∈ [
      (0xC162CB41#32, Instr.mma 11 11 22 65), (0xC375A0EC#32, Instr.mmas 11 5 6 65 108),
      (0xC56DA0EC#32, Instr.mmaq 11 3 6 65 108), (0xC77AC000#32, Instr.accz 11 107),
      (0xC97ACB00#32, Instr.accld 11 107 22), (0xCB7ACB00#32, Instr.accst 11 107 22),
      (0xCD7ACB41#32, Instr.accrd 11 107 22 65), (0xCF7ACB41#32, Instr.accwr 11 107 22 65),
      (0xD17ACB00#32, Instr.walk 11 107 22), (0xD37ACB00#32, Instr.nest 11 107 22),
      (0xD5600000#32, Instr.endw 11)],
    decode x.1 = .ok x.2 ∧ x.2.encode = some x.1 := by decide +kernel

theorem test_decode_system : ∀ x ∈ [
      (0xD97AC016#32, Instr.barg 11 107 22), (0xDB7AC023#32, Instr.bara 11 107 1 3),
      (0xDD6035C1#32, Instr.barw 11 107 2 1), (0xDF7AC002#32, Instr.barc 11 107 2),
      (0xE17AC000#32, Instr.barl 11 107 0), (0xE360068A#32, Instr.waitf 11 1674),
      (0xE57ACB58#32, Instr.waitv 11 107 22 11 0), (0xE97AC03F#32, Instr.csrrd 11 107 63),
      (0xEB60358B#32, Instr.csrwr 11 107 11), (0xED7AC001#32, Instr.trap 11 107 0 1),
      (0xEF600000#32, Instr.rett 11), (0xEF603581#32, Instr.rettF 11 107),
      (0xF17ACB00#32, Instr.watch 11 107 22), (0xF17ACB01#32, Instr.watchRd 11 107 22),
      (0xF37ACB64#32, Instr.insp 11 107 22 100), (0xF57ACB60#32, Instr.poke 11 107 22 96),
      (0xF7603580#32, Instr.step 11 107), (0xF7603581#32, Instr.resume 11 107)],
    decode x.1 = .ok x.2 ∧ x.2.encode = some x.1 := by decide +kernel

theorem test_decode_hint : ∀ x ∈ [
      (0xFE0D14B0#32, Instr.pace 837 2 6), (0xFE412345#32, Instr.imm 74565),
      (0xFE9A8000#32, Instr.mod 0 3 0 1 0 1)],
    decode x.1 = .ok x.2 ∧ x.2.encode = some x.1 := by decide +kernel

/-! ### States that meet the premises of the statements

`demo` is a crew of one fibre at address 4096 of core 5, with pages 8 (policy NC), 9 (format 2), 10
(compute region) and 11 mapped, in a gang with every right. -/

def leaf (pp x : Nat) : DWord := BitVec.ofNat 64 (0xC000_0000_0000_00BE + pp * 2 ^ 22 + x)
def pages : List (Nat × Nat × DWord) :=
  [(2 ^ 42 + 1, 1, leaf 1 0), (2 ^ 42 + 8, 1, leaf 8 0), (2 ^ 42 + 9, 1, leaf 9 0x200),
   (2 ^ 42 + 10, 1, leaf 16 0x40000), (2 ^ 42 + 11, 1, leaf 11 0x700)]
def fib (site : Nat) (win : List (Nat × Word)) : Fibre where
  gang := 3
  fid := 5
  site := site
  slot := some 7
  pc := 4096
  preds := 3
  win := win.map fun x => (x.1, { v := x.2 })
def gang : Gang where
  ctx := 1
  nfib := 40
  window := 96
  ssize := 4096
  sbase := 1536
  core := 5
  tiles := 4
  dbg := true
def cur (site : Nat) (wait : Bool := true) : Cur := { site := site, slot := 7, wait := wait }
def crew (h : Option Hints := none) : Crew := { gang := 3, fids := [5], hints := h }
def key : Nat := 3 * 1024 + 5
/-- The fibre `f` alone in its crew, whose group is `h`. -/
def demo (f : Fibre) (h : Option Hints := none) (wait : Bool := true) : State where
  cur := some (cur f.site wait)
  crews := [(ckey f.site 7, crew h)]
  gangs := [(3, gang)]
  ctxs := [(1, { live := true, dies := 15, bndtbl := 1 })]
  sites := [(f.site, { budget := 4, tlb := pages })]
  fibres := [(key, f)]
  nextId := 42
/-- A group with every hint that a plain word takes. -/
def hinted : Hints := { start := 4084, pace := true, sig := 3, wait := 5, dist := 2 }

def regs : Fibre := fib 5 [(4, 6), (5, 1), (6, 0x8000), (8, 0x8010)]

/-- A word on plain registers, alone and at the end of a hint group, with an operand field at each kind
of register: window, constant, identity, gz. -/
theorem witness_registers : ∀ h ∈ [none, some hinted], ∀ us ∈ [[src 4, src 5, dst 6], [src 4, src 5, src 6, dst 6],
      [src 96, src 125, dst 95], [src 124, src 126, dst 124], [src 4, dst 6], [dst 6], [src 4, src 5], [],
      [src 4 2, src 6 2, dst 8 2], [src 4 2, src 5, dst 8 2], [src 124 2, src 94 2, dst 124 2],
      [src 4 4, dst 8 4]],
    Ready (demo regs h) (cur 5) (crew h) 4096 ∧ PlainHints ((crew h).group 4096) ∧
      Fields (demo regs h) (crew h) 4096 0 us := by
  intro h hh us hu
  refine ⟨ready_of ?_, plain_of ?_, fields_of ?_⟩ <;> revert us h <;> decide +kernel

/-- A group that also widens an immediate. -/
def widened (p : BitVec 22) : Hints := { start := 4088, imm := some p, pace := true, sig := 15, wait := 5 }

/-- ImmediateOperands: without and with an IMM hint, at the first and last immediates. -/
theorem witness_immediates : ∀ h ∈ [none, some hinted, some (widened 0), some (widened 0x3FFFFF)],
    Ready (demo regs h) (cur 5) (crew h) 4096 ∧ FitMods ((crew h).group 4096) false false ∧
      Fields (demo regs h) (crew h) 4096 0 [src 4, dst 6] ∧ Fields (demo regs h) (crew h) 4096 0 [dst 124] := by
  intro h hh
  refine ⟨ready_of ?_, mods_of ?_, fields_of ?_, fields_of ?_⟩ <;> revert h <;> decide +kernel
theorem witness_shift_immediates : ∀ i ∈ [(0 : BitVec 7), 31], i.toNat < 32 ∧ (immediate (noHints 4096) i).toNat < 32 ∧
    (immediate (widened 0) i).toNat < 32 := by decide +kernel
theorem witness_ldi_immediates : ∀ h ∈ [none, some hinted, some (widened 1)], ∀ i ∈ [0, 127],
    (((crew h).group 4096).imm = none ∨ (BitVec.ofNat 14 i).toNat < 128) := by decide +kernel

/-- Eight lanes in two halves of a warp, of which the guard p1 keeps some. -/
def lanes (h : Option Hints) : State :=
  let f (n : Nat) : Fibre := { fib 5 [(4, BitVec.ofNat 32 (n % 3)), (5, BitVec.ofNat 32 n)] with
    fid := n, preds := if n % 2 = 0 then 3 else 1 }
  { demo regs h with
    crews := [(ckey 5 7, { crew h with fids := [0, 5, 14, 31] })]
    fibres := [0, 5, 14, 31].map fun n => (3 * 1024 + n, f n) }

/-- IntegerWords, LaneExchange, LaneWords and the other words of a whole crew, on four lanes with every
guard: all, some and none of them active. -/
theorem witness_lanes : ∀ h ∈ [none, some hinted], ∀ g ∈ [(0 : BitVec 4), 1, 9, 2, 8],
    ∀ us ∈ [[src 4, src 5, dst 6], [src 4, src 5, src 6, dst 6], [src 4, dst 6], [dst 6], [src 4, src 5], [src 4]],
    Ready (lanes h) (cur 5) { crew h with fids := [0, 5, 14, 31] } 4096 ∧ PlainHints ((crew h).group 4096) ∧
      Fields (lanes h) { crew h with fids := [0, 5, 14, 31] } 4096 g us := by
  intro h hh g hg us hu
  refine ⟨ready_of ?_, plain_of ?_, fields_of ?_⟩ <;> revert h g us <;> decide +kernel

/-! Floating point. -/

theorem noTrap_of {s : State} {cr : Crew} {pc : VAddr} {g : BitVec 4} {x : Fibre → Exc}
    (h : (s.gang cr.gang).ten = 0) : NoTrap s cr pc g x := fun f _ => by rw [h]; exact BitVec.and_zero
/-- A group with a rounding mode, and one that saturates too. -/
def rounded (m : BitVec 22) : Hints := { start := 4092, mods := some m }

/-- FloatArithmetic, FloatFunctionWords and SlowFloat: no hint, a hint group, and each rounding mode. -/
theorem witness_floats : ∀ h ∈ [none, some hinted, some (rounded (1#1 ++ 0#21)), some (rounded (1#1 ++ 3#2 ++ 0#19))],
    ∀ us ∈ [[src 4, src 5, dst 6], [src 4, src 5, src 6, dst 6], [src 4, src 5], [src 4, dst 6]],
    Ready (demo regs h) (cur 5) (crew h) 4096 ∧ ((crew h).group 4096).imm = none ∧
      FitMods ((crew h).group 4096) true false ∧ Fields (demo regs h) (crew h) 4096 0 us ∧
      ∀ x, NoTrap (demo regs h) (crew h) 4096 0 x := by
  intro h hh us hu
  refine ⟨ready_of ?_, ?_, mods_of ?_, fields_of ?_, fun x => noTrap_of ?_⟩ <;> revert h us <;> decide +kernel
theorem witness_traps_enabled : let s := { demo regs with gangs := [(3, { gang with ten := 31 })] }
    NoTrap s crew 4096 0 (fun f => (resWord (fadd f32 0 (val gang f 96).toNat (val gang f 96).toNat)).2) := by
  intro s f hf
  revert f
  decide +kernel

/-- ConvertWords: every pair of formats and both shapes. -/
theorem witness_ConvertWords : ∀ df sf : Fin 8, ∀ k : Fin 2,
    (Instr.cvt 0 8 4 (BitVec.ofNat 3 df) (BitVec.ofNat 3 sf) (BitVec.ofNat 1 k)).wf = true →
    let ws := cvtWidth sf
    let wd := cvtWidth df
    Fields (demo regs) crew 4096 0 [src 4 (cvtRegs ws wd (decide (k = 1)) ws), dst 8 (cvtRegs ws wd (decide (k = 1)) wd)] := by
  intro df sf k h ws wd
  refine fields_of ?_
  revert df sf k
  decide +kernel
/-- SAT where the destination takes it. -/
theorem witness_saturation : FitMods (rounded (1#1 ++ 1#2 ++ 1#1 ++ 0#18)) true true := mods_of (by decide +kernel)

/-- NanOperands: a quiet and a signalling NaN of either sign in each format, and a number. -/
theorem witness_NanOperands : ∀ F ∈ [f32, f16, bf16], ∀ a ∈ [F.qnan, F.infCode + 1, F.qnan + 2 ^ (F.e + F.m)],
    (F.isNan a || F.isNan 0) = true ∧ (F.isNan 0 || F.isNan a) = true := by decide +kernel

theorem rat_ne {F : Fmt} {c : Nat} (h : F.ef c ≠ 0) : F.rat c ≠ 0 := by
  rw [Fmt.rat, if_neg h]
  exact mul_ne_zero (by split <;> norm_num) (by positivity)
/-- NanAndRounding: 0, the largest finite value of either sign, and 1 in each format. -/
theorem witness_RoundedOnce : (∀ F ∈ [f32, f16, bf16], ∀ x ∈ [0, F.big, 2 ^ (F.e + F.m) + F.big], F.finite x = true) ∧
    f32.rat 0x3F800000 ≠ 0 ∧ f16.rat 0x3C00 ≠ 0 ∧ bf16.rat 0x3F80 ≠ 0 := by
  exact ⟨by decide +kernel, rat_ne (by decide +kernel), rat_ne (by decide +kernel), rat_ne (by decide +kernel)⟩
theorem witness_PackedAndDot : (∀ x y z : Nat, ((fun x _ _ => (x % 2 ^ 16, {}) : Nat → Nat → Nat → Res) x y z).1 < 2 ^ 16) ∧
    f32.finite (0x7F7F_FFFF#32).toNat = true ∧ ∀ i < 2, bf16.finite ((0x7F7F_BF80#32).toNat / 2 ^ (16 * i) % 2 ^ 16) = true :=
  ⟨fun _ _ _ => Nat.mod_lt _ (by decide), by decide +kernel, by decide +kernel⟩
theorem zero_rat (F : Fmt) (h : F.ef 0 = 0) (g : F.mf 0 = 0) : F.rat 0 = 0 := by simp [Fmt.rat, h, g]
theorem witness_Conversions : ∀ sf < 5, (fmtOf sf).finite 0 = true ∧ |(fmtOf sf).rat 0| ≤ (fmtOf 0).rat ((fmtOf 0).big) := by
  intro sf h
  refine ⟨by revert sf; decide +kernel, ?_⟩
  rw [zero_rat _ (by revert sf; decide +kernel) (by revert sf; decide +kernel)]
  have e : (fmtOf 0).neg (fmtOf 0).big = false := by decide +kernel
  simp only [Fmt.rat, e, Bool.false_eq_true, if_false, one_mul]
  split <;> norm_num <;> positivity

/-! ### Words that start an operation -/

/-- A fibre of core 5 whose register pair 4 is the pointer `p`. -/
def at_ (p : Nat) : Fibre := fib 5 [(4, BitVec.ofNat 32 p), (8, 0x8010), (9, 64), (10, 0x4040_0000), (16, 0x40)]
def env (s : State) (us : List Use) (site : Nat := 5) (h : Option Hints := none) : Env :=
  soloEnv s (cur site) (crew h) (s.fibre key) us

/-- LoadAccesses: on pages with policy NC, with a format, and of a compute region, the last aligned
address of a page too. -/
theorem witness_LoadWords : ∀ w ∈ loadWords, ∀ h ∈ [none, some hinted], ∀ o ∈ [(0 : BitVec 2), 1, 2],
    ∀ p ∈ [0x8000, 0x8FF0, 0xA010], ∀ pol ∈ [(0 : BitVec 3), 5],
    let us := [src 4 2, dst 8 w.regs]
    (w.ctor 0 8 4 pol o).wf = true ∧ Starts (demo (at_ p) h) (cur 5) (crew h) (at_ p) 0 us ∧
      ∃ x, memCheck (demo (at_ p) h) (env (demo (at_ p) h) us 5 h) ((env (demo (at_ p) h) us 5 h).ptr 0) w.n
        { rd := true, pol := some pol.toNat } = .ok x := by
  intro w hw h hh o ho p hp pol hpol
  refine ⟨?_, starts_of ?_, ok_of ?_⟩ <;> revert w h o p pol <;> decide +kernel
theorem witness_ElementLoads : ∀ sz ∈ [(0 : BitVec 2), 1, 2], ∀ p ∈ [0x9010, 0x9FF0, 0xB010],
    let us := [src 4 2, dst 8 (2 ^ sz.toNat)]
    (Instr.lde 0 8 4 0 0 sz).wf = true ∧ Starts (demo (at_ p)) (cur 5) crew (at_ p) 0 us ∧
      ∃ x, elemCheck (demo (at_ p)) (env (demo (at_ p)) us) ((env (demo (at_ p)) us).ptr 0) (2 ^ sz.toNat)
        { rd := true, pol := some 0 } = .ok x := by
  intro sz hs p hp
  refine ⟨?_, starts_of ?_, ok_of ?_⟩ <;> revert sz p <;> decide +kernel

/-- StoreAccesses, in the same places. -/
theorem witness_StoreWords : ∀ w ∈ storeWords, ∀ h ∈ [none, some hinted], ∀ o ∈ [(0 : BitVec 2), 1],
    ∀ p ∈ [0x8000, 0x8FF0, 0xA010],
    let us := [src 4 2, src 8 w.regs]
    (w.ctor 0 8 4 5 o).wf = true ∧ Starts (demo (at_ p) h) (cur 5) (crew h) (at_ p) 0 us ∧
      ∃ x, memCheck (demo (at_ p) h) (env (demo (at_ p) h) us 5 h) ((env (demo (at_ p) h) us 5 h).ptr 0) w.n
        { wr := true, pol := some 5 } = .ok x := by
  intro w hw h hh o ho p hp
  refine ⟨?_, starts_of ?_, ok_of ?_⟩ <;> revert w h o p <;> decide +kernel
theorem witness_ElementStores : ∀ sz ∈ [(0 : BitVec 2), 1, 2], ∀ p ∈ [0x9010, 0x9FF0, 0xB010],
    let us := [src 4 2, src 8 (2 ^ sz.toNat)]
    (Instr.ste 0 8 4 0 1 sz).wf = true ∧ Starts (demo (at_ p)) (cur 5) crew (at_ p) 0 us ∧
      ((demo (at_ p)).gang 3).ten = 0 ∧
      ∃ x, elemCheck (demo (at_ p)) (env (demo (at_ p)) us) ((env (demo (at_ p)) us).ptr 0) (2 ^ sz.toNat)
        { wr := true, pol := some 0 } = .ok x := by
  intro sz hs p hp
  refine ⟨?_, starts_of ?_, ?_, ok_of ?_⟩ <;> revert sz p <;> decide +kernel

/-- AtomicWords: one and two words, in a page of either kind. -/
theorem witness_AtomicWords : ∀ w ∈ [(0 : BitVec 1), 1], ∀ p ∈ [0x8010, 0xA010],
    let n := 1 + w.toNat
    (Instr.atom 0 8 4 3 3 1 w).wf = true ∧ (Instr.red 0 8 4 3 0 0 w).wf = true ∧
      (Instr.cas 0 8 4 5 0 (w.zeroExtend 2)).wf = true ∧
      (∀ us ∈ [[src 4 2, src 8 n, dst 8 n], [src 4 2, src 8 n], [src 4 2, src 8 (2 * n), dst 8 n]],
        Starts (demo (at_ p)) (cur 5) crew (at_ p) 0 us) ∧
      ∃ x, memCheck (demo (at_ p)) (env (demo (at_ p)) [src 4 2]) ((env (demo (at_ p)) [src 4 2]).ptr 0) (4 * n)
        { rd := true, wr := true } = .ok x := by
  intro w hw p hp
  refine ⟨?_, ?_, ?_, fun us hu => starts_of ?_, ok_of ?_⟩
  on_goal 4 => revert us
  all_goals revert w p; decide +kernel

/-- ScratchpadWords: at the first and the last place of the scratchpad's 4096 bytes. -/
theorem witness_ScratchpadWords : ∀ x ∈ [0, 0x40, 4080], ∀ sz : Fin 4,
    (∀ us ∈ [[src 4, dst 8 (sizeRegs (BitVec.ofNat 2 sz))], [src 4, src 8 (sizeRegs (BitVec.ofNat 2 sz))]],
      Starts (demo (at_ x)) (cur 5) crew (at_ x) 0 us ∧
      scrCheck (demo (at_ x)) (env (demo (at_ x)) us) 0 x (sizeBytes (BitVec.ofNat 2 sz)) = none) ∧
    (Starts (demo (at_ x)) (cur 5) crew (at_ x) 0 [src 4, src 8, dst 8] ∧
      atomsCheck (env (demo (at_ x)) [src 4, src 8, dst 8]) = none) ∧
    (demo (at_ x)).peerBase (env (demo (at_ x)) [src 4]) 0 = some (5 * 2 ^ 20 + 1536) := by
  intro x hx sz
  refine ⟨fun us hu => ⟨starts_of ?_, ?_⟩, ⟨starts_of ?_, ?_⟩, ?_⟩
  on_goal 1 => revert us
  on_goal 2 => revert us
  all_goals revert x sz; decide +kernel

/-- ConversionsAndSlow: FDIV and FSQRT with and without a rounding mode. -/
theorem witness_SlowFloat : ∀ h ∈ [none, some hinted, some (rounded (1#1 ++ 2#2 ++ 0#19))],
    ((crew h).group 4096).imm = none ∧ Starts (demo (at_ 1) h) (cur 5) (crew h) (at_ 1) 0 [src 10, src 4, dst 8] true ∧
      Starts (demo (at_ 1) h) (cur 5) (crew h) (at_ 1) 0 [src 10, dst 8] true := by
  intro h hh
  refine ⟨?_, starts_of ?_, starts_of ?_⟩ <;> revert h <;> decide +kernel

/-- CacheWords: a range of one line, and one over the end of a page. -/
theorem witness_CacheWords : ∀ p ∈ [0x8000, 0x8FFC], ∀ k : Fin 4,
    let s := demo (at_ p)
    Starts s (cur 5) crew (at_ p) 0 [src 4 2, src 9] ∧
      ∃ xs, rangeCheck s (env s [src 4 2, src 9]) k = .ok xs ∧
        extentLines (BitVec.ofNat 54 p) 64 xs ≠ [] := by
  intro p hp k s
  have h : ((okOf (rangeCheck s (env s [src 4 2, src 9]) k)).any fun xs =>
      decide (extentLines (BitVec.ofNat 54 p) 64 xs ≠ [])) = true := by
    subst s; revert p k; decide +kernel
  refine ⟨starts_of ?_, ?_⟩
  · subst s; clear h; revert p k; decide +kernel
  · generalize rangeCheck s (env s [src 4 2, src 9]) k = r at h
    cases r with
    | error e => cases h
    | ok xs => exact ⟨xs, rfl, by simpa [okOf] using h⟩

/-! Bags, copies, index copies. -/

/-- Memory with the `n` bytes of `v` at `a`, the lowest first. -/
def poke (n a v : Nat) (m : List Host.Cell) : List Host.Cell :=
  (List.range n).foldl (fun m i => Memory.write (2 ^ 52) (a + i) (BitVec.ofNat 8 (v / 2 ^ (8 * i))) m) m

/-- The same for 32-bit words; a descriptor is sixteen of them. -/
def words (a : Nat) (l : List Nat) (m : List Host.Cell) : List Host.Cell :=
  (List.range l.length).foldl (fun m i => poke 4 (a + 4 * i) (l.getD i 0) m) m
theorem ok2_of {ε α β : Type} {e : Except ε (α × β)} (h : (okOf e).isSome = true) : ∃ a b, e = .ok (a, b) := by
  obtain ⟨x, rfl⟩ := ok_of h
  exact ⟨x.1, x.2, rfl⟩

def bag : Bag := { isOpen := true, ctx := 1, gen := 6, scount := 4, rs := 32, caps := 100, blocks := [0x200000] }
/-- A fibre with a handle of bag 3 in register 4, a key, and a scratchpad offset. -/
def putter (site : Nat) : Fibre :=
  fib site [(4, BitVec.ofNat 32 (handleOf 3 6)), (5, 64), (8, 1), (9, 32), (14, 7), (20, 0x8000_0000), (21, 64)]
def bagged (site : Nat) (h : Option Hints := none) : State :=
  let s := demo (putter site) h
  { s with bags := [(3, bag)], sites := s.sites.map fun (x : Nat × Site) => (x.1, { x.2 with lslots := [(2, 3)] }) }

/-- BagInstructions: PUT of a record of eight registers, and PUTM of one in the scratchpad. -/
theorem witness_PutWords : ∀ h ∈ [none, some hinted], let s := bagged 5 h
    (Starts s (cur 5) (crew h) (putter 5) 0 [src 4, src 5] ∧ putErr (env s [src 4, src 5] 5 h) 8 = none ∧
      s.putBad 1 (handleOf 3 6) = none ∧ bagKey (handleOf 3 6) = 3 ∧
      ∃ ws, putRegs (env s [src 4, src 5] 5 h) 8 (32 / 4) = some ws ∧ ws.all (fun w => !w.p) = true) ∧
    (Starts s (cur 5) (crew h) (putter 5) 0 [src 5, src 4, src 8 2] ∧ s.scrPending key = false ∧
      putmCheck s (env s [src 5, src 4, src 8 2] 5 h) = none ∧
      s.putmWords (env s [src 5, src 4, src 8 2] 5 h) 32 ≠ []) := by
  intro h hh s
  have e : ((putRegs (env s [src 4, src 5] 5 h) 8 (32 / 4)).any fun ws => ws.all fun w => !w.p) = true := by
    subst s; revert h; decide +kernel
  refine ⟨⟨starts_of ?_, ?_, ?_, ?_, ?_⟩, starts_of ?_, ?_, ?_, ?_⟩
  on_goal 5 => generalize putRegs (env s [src 4, src 5] 5 h) 8 (32 / 4) = r at e; cases r with
    | none => cases e
    | some ws => exact ⟨ws, rfl, e⟩
  all_goals clear e; subst s; revert h; decide +kernel

/-- DRAIN to memory and to a queue, BCOUNT, BSEAL, BFREE, and BITER on its sculler. -/
theorem witness_BagRequests : ∀ h ∈ [none, some hinted],
    (Starts (bagged 5 h) (cur 5) (crew h) (putter 5) 0 [src 4, src 8 2, dst 12] ∧
      drainCheck (bagged 5 h) (env (bagged 5 h) [src 4, src 8 2, dst 12] 5 h) = none ∧
      drainQueue (env (bagged 5 h) [src 4, src 8 2, dst 12] 5 h) = none) ∧
    (∀ us ∈ [[src 4, dst 12 2], [src 4]], Starts (bagged 5 h) (cur 5) (crew h) (putter 5) 0 us) ∧
    (bagged 5 h).handleBad 1 (handleOf 3 6) = none ∧
    (Starts (bagged 192 h) (cur 192) (crew h) (putter 192) 0 [src 4, src 20 2, dst 12 2] ∧
      biterCheck (bagged 192 h) (env (bagged 192 h) [src 4, src 20 2, dst 12 2] 192 h) = none ∧
      (bagged 192 h).biterSite (env (bagged 192 h) [src 4, src 20 2, dst 12 2] 192 h) = 192) := by
  intro h hh
  refine ⟨⟨starts_of ?_, ?_, ?_⟩, fun us hu => starts_of ?_, ?_, starts_of ?_, ?_, ?_⟩
  on_goal 4 => revert us
  all_goals revert h; decide +kernel
def feeding : State :=
  let f := fib 5 [(4, BitVec.ofNat 32 (handleOf 3 6)), (8, 1), (9, 0x8000_0002)]
  { demo f with bags := [(3, bag)], gangs := [(3, { gang with queues := [(2, { kind := 1, ew := 2, slm1 := 3 })] })] }
theorem witness_drain_to_queue : let e := env feeding [src 4, src 8 2, dst 12]
    Starts feeding (cur 5) crew (feeding.fibre key) 0 [src 4, src 8 2, dst 12] ∧ drainCheck feeding e = none ∧
      drainQueue e = some 2 := by
  refine ⟨starts_of ?_, ?_, ?_⟩ <;> decide +kernel

/-- BOPEN of an image at 0x8040, with the 512 pages of its block mapped. -/
def opener : State :=
  let block := (List.range 512).map fun k =>
    (2 ^ 42 + 1024 + k, (2, (BitVec.ofNat 64 (0xC000_0000_0000_00BE + 2 ^ 22 * 0x400 + 2 ^ 18 + 2 ^ 19) : DWord)))
  { demo (at_ 0x8040) with
    mem := words 0x8040 [0x8800, 0, 2 ^ 5 + 2 ^ 22, 0, 2 ^ 4 + 2 ^ 25, 100] []
    sites := [(5, { budget := 4, tlb := pages ++ block })] }
theorem witness_BagOpens : Starts opener (cur 5) crew (at_ 0x8040) 0 [src 4 2, dst 12] ∧
    opener.accessPending key = false ∧ openNeed opener (env opener [src 4 2, dst 12]) = [] ∧
    ∃ b k, openBag opener (env opener [src 4 2, dst 12]) = .ok (b, k) := by
  have h : (okOf (openBag opener (env opener [src 4 2, dst 12]))).isSome = true := by decide +kernel
  exact ⟨starts_of (by decide +kernel), by decide +kernel, by decide +kernel, ok2_of h⟩

/-- CopyWords: scratchpad to memory, memory to a queue, and no byte at all. -/
def copier (d n : Nat) : Fibre := fib 5 [(4, 0x8100), (6, BitVec.ofNat 32 d), (8, BitVec.ofNat 32 n)]
def copying (d n : Nat) : State :=
  { demo (copier d n) with
    gangs := [(3, { gang with queues := [(2, { kind := 2, ew := 1, ch := 3, slm1 := 15 })], chans := [(3, { copies := [7], st := .running })] })]
    }
theorem witness_CopyWords : ∀ x ∈ [(0x9100, 48, (0 : BitVec 1), (0 : BitVec 1), (0 : BitVec 1)), (0x100, 3840, 0, 1, 0),
      (114, 48, 0, 0, 1), (0x9100, 0, 1, 0, 0)],
    let s := copying x.1 x.2.1
    let e := env s [src 4 4, src 8]
    let k := copyEnds (decide (x.2.2.1 = 1)) (decide (x.2.2.2.1 = 1)) (decide (x.2.2.2.2 = 1)) e
    (Instr.copy 0 4 8 3 x.2.2.1 x.2.2.2.1 x.2.2.2.2).wf = true ∧
      Starts s (cur 5) crew (copier x.1 x.2.1) 0 [src 4 4, src 8] ∧
      (x.2.1 ≠ 0 → endCheck s e x.2.1 false k.1 = none ∧ endCheck s e x.2.1 true k.2 = none) := by
  intro x hx s e k
  refine ⟨?_, starts_of ?_, ?_⟩ <;> subst k <;> subst e <;> subst s <;> revert x <;> decide +kernel
def copybed : State :=
  { demo (at_ 0x8040) with mem := words 0x8040 [0, 0, 0, 0, 0, 0, 0, 0, 0, 0x20008, 64, 64, 0x9800, 0, 0x9100, 0] [] }
theorem witness_copyb : let e := env copybed [src 4 2]
    Starts copybed (cur 5) crew (at_ 0x8040) 0 [src 4 2] ∧ engineHold copybed e = false ∧
      copybNeed copybed e = [] ∧ ∃ x, copybPlan copybed e = .ok x := by
  refine ⟨starts_of ?_, ?_, ?_, ok_of ?_⟩ <;> decide +kernel

/-- IndexCopies: rows that all stand (a move), and a row outside its array (a status). -/
def indexed (rows : Nat) : State :=
  { demo (at_ 0x8040) with
    mem := words 0x8040 [64, 0, 0, 0, 0, 0, 0, 0, 0, 0, 0x30001, rows, 0x9000, 0, 0x8200, 0] (words 0x8200 [3, 5, 1] []) }
theorem witness_IndexWords : ∀ n ∈ [10, 2], ∀ wr : Bool, let e := env (indexed n) [src 4 2, dst 12]
    Starts (indexed n) (cur 5) crew (at_ 0x8040) 0 [src 4 2, dst 12] ∧ engineHold (indexed n) e = false ∧
      indexNeed (indexed n) e = [] ∧
      (n = 2 → ∃ k, probePass (indexed n) e wr = .ok (.status k)) ∧
      (n = 10 → ∃ ix rows pages, probePass (indexed n) e wr = .ok (.move ix rows pages)) := by
  intro n hn wr
  have h : (match probePass (indexed n) (env (indexed n) [src 4 2, dst 12]) wr with
      | .ok (.status _) => n == 2 | .ok (.move _ _ _) => n == 10 | .error _ => false) = true := by
    revert n wr; decide +kernel
  refine ⟨starts_of ?_, ?_, ?_, fun k => ?_, fun k => ?_⟩
  on_goal 4 => split at h <;> first | exact ⟨_, ‹_›⟩ | (simp at h; omega) | cases h
  on_goal 4 => split at h <;> first | exact ⟨_, _, _, ‹_›⟩ | (simp at h; omega) | cases h
  all_goals clear h; revert n wr; decide +kernel
def gathering (p : Nat) : State :=
  { demo (at_ 0x8040) with mem := poke 64 0x8040 (100 + p * 2 ^ 64 + 0x8300 * 2 ^ 128) (poke 16 0x9040 0x3f80_4000_4080 []) }
theorem witness_GatherFetch : ∀ p ∈ [0x9040, 0xB040], let e := env (gathering p) [src 4 2, src 21, dst 12 4]
    Starts (gathering p) (cur 5) crew (at_ 0x8040) 0 [src 4 2, src 21, dst 12 4] ∧ engineHold (gathering p) e = false ∧
      gfetchNeed (gathering p) e = [] ∧
      ∃ x vs, gfetchPlan (gathering p) e = .ok (some x) ∧ x.value (gathering p) e = some vs := by
  intro p hp
  have h : (match gfetchPlan (gathering p) (env (gathering p) [src 4 2, src 21, dst 12 4]) with
      | .ok (some x) => (x.value (gathering p) (env (gathering p) [src 4 2, src 21, dst 12 4])).isSome
      | _ => false) = true := by revert p; decide +kernel
  refine ⟨starts_of ?_, ?_, ?_, ?_⟩
  on_goal 4 =>
    split at h
    · obtain ⟨vs, hv⟩ := some_of h
      exact ⟨_, vs, ‹_›, hv⟩
    · cases h
  all_goals clear h; revert p; decide +kernel

/-- Rebalance: three lanes of four with rows of one, two and no element. -/
theorem witness_Rebalance : ∀ h ∈ [none, some hinted], ∀ g ∈ [(0 : BitVec 4), 1, 9],
    let cr := { crew h with fids := [0, 5, 14, 31] }
    Ready (lanes h) (cur 5) cr 4096 ∧ PlainHints (cr.group 4096) ∧ (cur 5).wait = true ∧
      Fields (lanes h) cr 4096 g [src 4, src 6, dst 12 2] ∧
      ∀ fid ∈ cr.fids, ∀ n, ((lanes h).fibre (fkey 3 fid)).IdleFlag n := by
  intro h hh g hg cr
  refine ⟨ready_of ?_, plain_of ?_, rfl, fields_of ?_, fun fid hf => idle_of ?_⟩
  on_goal 4 => revert fid
  all_goals subst cr; revert h g; decide +kernel

/-! Waves, accumulators, registers read, launches, eights. -/

/-- WaveWords: every function, on the sculler of the row of X. -/
def waver (site : Nat) : Fibre := fib site [(4, 0xA000), (6, 0xC000), (8, 55)]
def waving (h : Option Hints) (site : Nat) : State :=
  let s := demo (waver site) h
  { s with sites := [(site, { budget := 4, tlb := pages ++ [(2 ^ 42 + 12, 1, leaf 0x20 0x40000)] })] }
theorem witness_WaveWords : ∀ h ∈ [none, some hinted], ∀ o ∈ [(0 : BitVec 7), 1, 2, 3, 4],
    let site := 192 + scullerOf (crKey 0x10000 2048)
    let us := [src 4 4] ++ (if o = 0 ∨ o = 4 then [src 8] else []) ++ [dst 8 4]
    (Instr.wave 0 4 8 o).wf = true ∧ isSculler site = true ∧
      Starts (waving h site) (cur site) (crew h) (waver site) 0 us ∧
      waveSite (waving h site) (env (waving h site) us site h) = none ∧
      ∃ w, wavePlan o.toNat (waving h site) (env (waving h site) us site h) = .ok w := by
  intro h hh o ho
  refine ⟨?_, ?_, starts_of ?_, ?_, ok_of ?_⟩ <;> revert h o <;> decide +kernel

/-- AccumulatorElements: the first and last element, of the last tile of the gang. -/
theorem witness_AccumulatorElements : ∀ n ∈ [0, 1023], let f := fib 5 [(4, 7), (6, BitVec.ofNat 32 n)]
    Starts (demo f) (cur 5) crew f 0 [src 6, dst 12] ∧ Starts (demo f) (cur 5) crew f 0 [src 4, src 6] ∧
      ((env (demo f) [src 6, dst 12]).w 0).toNat < 1024 ∧ ((env (demo f) [src 4, src 6]).w 1).toNat < 1024 ∧
      (3 : BitVec 7).toNat < ((demo f).gang 3).tiles := by
  intro n hn
  refine ⟨starts_of ?_, starts_of ?_, ?_, ?_, ?_⟩ <;> revert n <;> decide +kernel

/-- A gang whose fibre 6 is halted. -/
def halted (w : List (Nat × Word)) (site : Nat := 5) (h : Option Hints := none) : State :=
  { demo (fib site w) h with
    fibres := [(key, fib site w), (key + 1, { gang := 3, fid := 6, site := 5, pc := 4200, halt := some { pred := 1, cand := 55 } })] }

/-- ReadWords: CSRRD of every register that can be read, WATCH_RD, and INSP of every item. -/
theorem witness_CSRRD : ∀ n : Fin 64, csrReadErr n gang = none → (Instr.csrrd 0 12 (BitVec.ofNat 7 n)).wf = true →
    Starts (demo regs) (cur 5) crew regs 0 [dst 12 2] ∧ (demo regs).flagsDue key = false := by
  intro n _ _
  exact ⟨starts_of (by decide +kernel), by decide +kernel⟩
theorem witness_csr_readable : ∀ n ∈ [0, 1, 5, 0x10, 0x17], csrReadErr n gang = none := by decide +kernel
theorem witness_INSP : ∀ n ∈ [(0 : BitVec 7), 95, 0x60, 0x61, 0x62, 0x63, 0x64],
    let s := halted [(4, 6), (5, 8)]
    Starts s (cur 5) crew (fib 5 [(4, 6), (5, 8)]) 0 [src 4 2, dst 12 4] ∧ (s.gang 3).dbg = true ∧
      itemErr (s.gang 3) n.toNat 8 = none ∧ s.haltedAt 3 6 = some (key + 1) ∧
      itemHold s (env s [src 4 2, dst 12 4]) 0 n.toNat = false := by
  intro n hn
  refine ⟨starts_of ?_, ?_, ?_, ?_, ?_⟩ <;> revert n <;> decide +kernel

/-- SpawnWord: a record that is accepted, and one with more fibres than a gang can have. -/
def spawning (fibres : Nat) : State :=
  { demo (at_ 0x8040) with
    mem := words 0x8040 [0, 0, 0, 0, 0, 0x8000 + fibres + 4 * 2 ^ 18, 1024, 3, 0, 0, 0x4000] [] }
theorem witness_SpawnWord : ∀ n ∈ [64, 1025], let e := env (spawning n) [src 4 2, dst 12]
    Starts (spawning n) (cur 5) crew (at_ 0x8040) 0 [src 4 2, dst 12] ∧
      (spawning n).storeDue (spawning n).nextId e.key (spawnCells (spawning n) e) = false ∧
      (n = 1025 → ∃ k, spawnTake (spawning n) e = .status k) ∧
      (n = 64 → (∃ l, spawnTake (spawning n) e = .ok l) ∧ ((spawning n).die 0).children < 1024) := by
  intro n hn
  have h : (match spawnTake (spawning n) (env (spawning n) [src 4 2, dst 12]) with
      | .status _ => n == 1025 | .ok _ => n == 64 | _ => false) = true := by
    revert n; decide +kernel
  have hd : ((spawning n).die 0).children < 1024 := by clear h; revert n; decide +kernel
  refine ⟨starts_of ?_, ?_, fun k => ?_, fun k => ⟨?_, hd⟩⟩
  on_goal 3 => split at h <;> first | exact ⟨_, ‹_›⟩ | (simp at h; omega) | cases h
  on_goal 3 => split at h <;> first | exact ⟨_, ‹_›⟩ | (simp at h; omega) | cases h
  all_goals clear h hd; revert n; decide +kernel

/-- MatrixWords, AccumulatorWords: the second eight of a warp, with operands in memory; the
metadata is poisoned, which is no error (R284). -/
def eight (h : Option Hints := none) : Crew := { crew h with fids := [8, 9, 10, 11, 12, 13, 14, 15] }
def octet (h : Option Hints := none) : State :=
  let w (n : Nat) : List (Nat × Word) := [(4, 0x9000), (6, 0x8100), (8, 0x9000), (12, 0x9000), (14, 0xB000),
    (16, 5), (20, BitVec.ofNat 32 (77 + n)), (24, BitVec.ofNat 32 (88 + n)), (27, 1)]
  { demo regs h with
    crews := [(ckey 5 7, eight h)], dies := [(0, { free := [1] })]
    mpoison := [(0x8100 / 4, ())]
    fibres := [8, 9, 10, 11, 12, 13, 14, 15].map fun n => (3 * 1024 + n, { fib 5 (w n) with fid := n }) }
/-- What MatrixWords asks of a word, whatever the group's hints. -/
def MatrixFits (h : Option Hints) (x : MmaWord) (us own : List Use) (d : Desc (octet h)) : Prop :=
  Octet (octet h) (cur 5) (eight h) 4096 0 us own ∧
  (∀ e ∈ crewEnvs (octet h) (cur 5) (eight h) d, tileIlleg x.t e = none ∧ errOf (mmaPlan (octet h) x e) = none ∧
    mmaNeed x (octet h) e = [] ∧ (x.form = 1 → engineHold (octet h) e = false)) ∧
  (octet h).tokenHold (crewEnvs (octet h) (cur 5) (eight h) d) = false ∧
  ∃ o, mmaPlan (octet h) x (octetLane (octet h) (cur 5) (eight h) d) = .ok o
theorem witness_MMA : ∀ h ∈ [none, some hinted],
    MatrixFits h { form := 0, t := 1 } [src 4 2, src 8 2] [] (plainDesc 0 1 4 8) := by
  intro h hh
  refine ⟨octet_of (k := 1) ?_, ?_, ?_, ok_of ?_⟩ <;> revert h <;> decide +kernel
theorem witness_MMAS : (Instr.mmas 0 1 1 4 8).wf = true ∧ ∀ h ∈ [none, some hinted],
    MatrixFits h { form := 1, t := 1, code := 1 } [src 4 4, src 8 2] [] (sparseDesc 0 1 1 4 8) := by
  refine ⟨by decide +kernel, fun h hh => ⟨octet_of (k := 1) ?_, ?_, ?_, ok_of ?_⟩⟩ <;> revert h <;> decide +kernel
theorem witness_MMAQ : ∀ h ∈ [none, some hinted], vqErr ((octet h).gang 3) 16 = none ∧
    MatrixFits h { form := 2, t := 1, slot := 2, b := (0, 2) } [src 12 4]
      [src 16 4, { src 16 4 with reg := 20 }, { src 16 4 with reg := 24 }] (mmaqDesc 0 2 1 12 16 ((octet h).gang 3)) := by
  intro h hh
  refine ⟨?_, octet_of (k := 1) ?_, ?_, ?_, ok_of ?_⟩ <;> revert h <;> decide +kernel
theorem witness_TileWords : ∀ h ∈ [none, some hinted],
    Octet (octet h) (cur 5) (eight h) 4096 0 [] [] ∧
    (∀ fid ∈ (eight h).fids, 1 + fid % 32 / 8 < min 16 ((octet h).gang 3).tiles) ∧
    ∀ w ∈ [(Instr.accld, false), (Instr.accst, true)],
      let d : Desc (octet h) := accMemDesc (w.1 0 1 4) 0 1 4 w.2
      Octet (octet h) (cur 5) (eight h) 4096 0 [src 4 2] [] ∧
      (∀ e ∈ crewEnvs (octet h) (cur 5) (eight h) d, tileIlleg 1 e = none) ∧
      ∃ ps, accMem (octet h) (octetLane (octet h) (cur 5) (eight h) d) w.2 = .ok ps := by
  intro h hh
  refine ⟨octet_of (k := 1) ?_, ?_, fun w hw => ⟨octet_of (k := 1) ?_, ?_, ok_of ?_⟩⟩
  iterate 2 on_goal 1 => revert h; decide +kernel
  all_goals revert h w; decide +kernel

/-! ### Control flow, barriers, fences -/

/-- A group that names no flag to signal. -/
def quiet : Hints := { start := 4088, pace := true, sig := 15, wait := 5, dist := 2 }
/-- BranchWords: a taken and a not taken guard, without and with an IMM hint. -/
def jumper : Fibre := fib 5 [(4, 0x1000), (5, 0xC0000)]
theorem witness_BranchWords : ∀ h ∈ [none, some hinted, some (widened 0x12345)],
    Solo (demo jumper h) (cur 5) (crew h) jumper ∧ (∀ n, jumper.IdleFlag n) ∧
      FitMods ((crew h).group 4096) false false ∧
      (∀ us ∈ [[src 4 2], [src 4, dst 4]], Fields (demo jumper h) (crew h) 4096 0 us) ∧
      (val64 gang (jumper.now ((crew h).group 4096)) 4).extractLsb' 0 2 = 0 ∧
      guardOk 1 (jumper.now ((crew h).group 4096)) = true ∧ guardOk 9 (jumper.now ((crew h).group 4096)) = false := by
  intro h hh
  refine ⟨solo_of ?_, idle_of ?_, mods_of ?_, fun us hu => fields_of ?_, ?_, ?_, ?_⟩
  on_goal 4 => revert us
  all_goals revert h; decide +kernel

/-- SplitBranches: four lanes that the guard p1 divides in halves, each with a pointer of its own. -/
def forked (h : Option Hints) : State :=
  { lanes h with
    fibres := (lanes h).fibres.map fun (x : Nat × Fibre) => (x.1, { x.2 with win := [(4, { v := BitVec.ofNat 32 (64 * x.2.fid) })] }) }
theorem witness_SplitBranches : ∀ h ∈ [none, some hinted], ∀ g ∈ [(0 : BitVec 4), 1, 9],
    let cr := { crew h with fids := [0, 5, 14, 31] }
    Ready (forked h) (cur 5) cr 4096 ∧ FitMods (cr.group 4096) false false ∧ (cr.group 4096).imm = none ∧
      (∀ fid ∈ cr.fids, ∀ n, ((forked h).fibre (fkey 3 fid)).IdleFlag n) ∧ Fields (forked h) cr 4096 g [src 4 2] ∧
      ∀ f ∈ (forked h).members cr, (val64 gang (f.now (cr.group 4096)) 4).extractLsb' 0 2 = 0 := by
  intro h hh g hg cr
  refine ⟨ready_of ?_, mods_of ?_, ?_, fun fid hf => idle_of ?_, fields_of ?_, ?_⟩
  on_goal 4 => revert fid
  all_goals subst cr; revert h g; decide +kernel
/-- The crew that stays: of two that go and two that fall through, the latter. -/
theorem test_stay : stayAt 4 [4, 64, 4, 64] = 4 ∧ stayAt 4 [64, 8, 64, 4] = 64 ∧ stayAt 4 [64, 8] = 64 := by decide +kernel

/-- LeavingCrews: a SLEEP of 0 and of the longest time, and EXIT in a gang that is listed. -/
theorem witness_LeavingCrews : ∀ h ∈ [none, some quiet], ∀ n ∈ [0, 0xFFFF_FFFF], let f := fib 5 [(4, BitVec.ofNat 32 n)]
    ((crew h).group 4096).imm = none ∧ Stands (demo f h) (cur 5) (crew h) f 0 [] ∧
      Stands (demo f h) (cur 5) (crew h) f 0 [src 4] ∧ KV.has 3 (demo f h).gangs = true := by
  intro h hh n hn
  refine ⟨?_, stands_of ?_, stands_of ?_, ?_⟩ <;> revert h n <;> decide +kernel

/-- A state in which every barrier of the gang expects `n` fibres and has one arrival. -/
def barred (n v : Nat) (h : Option Hints := none) : State :=
  let b : Bar := { expected := n, phase := 9, arrived := [key + 4] }
  let all (k : Nat) := (List.range k).map fun i => (i, b)
  { demo (fib 5 [(4, BitVec.ofNat 32 v)]) h with
    gangs := [(3, { gang with bars := all 16 })]
    groups := [(0, { gangs := [3], bars := all 4 })]
    launches := [(0, { cor := true, gangs := 1, bars := all 2 })] }
/-- BarrierWords: an arrival that does not complete the phase, and one that does, at every barrier. -/
theorem witness_arrivals : ∀ w ∈ arriveWords 0 12, ∀ n ∈ [2, 5],
    let b := (barred n 0).bar 3 w.2.1 w.2.2.1
    b.arrived.contains key = false ∧ (n = 5 → b.arrived.length + 1 ≠ b.expected) ∧
      (n = 2 → b.arrived.length + 1 = b.expected) ∧
      (w.2.1 = 2 → ((barred n 0).launch ((barred n 0).gang 3).launch).cor = true) ∧
      (barred n 0).waiters 3 w.2.1 w.2.2.1 (fun k => match k with | .rearrive _ _ _ _ _ _ => true | _ => false) = [] := by
  decide +kernel
theorem witness_BarrierWords : ∀ h ∈ [none, some quiet], ∀ n ∈ [2, 5], ∀ v ∈ [8, 9, 10],
    ((crew h).group 4096).imm = none ∧ (barred n v h).accessPending key = false ∧
      Stands (barred n v h) (cur 5) (crew h) (fib 5 [(4, BitVec.ofNat 32 v)]) 0 [dst 12] ∧
      Stands (barred n v h) (cur 5) (crew h) (fib 5 [(4, BitVec.ofNat 32 v)]) 0 [src 4] ∧
      ∀ x ∈ [((0 : BitVec 2), (15 : BitVec 5)), (1, 3), (2, 1)], (Instr.barw 0 4 x.1 x.2).wf = true := by
  intro h hh n hn v hv
  refine ⟨?_, ?_, stands_of ?_, stands_of ?_, ?_⟩ <;> revert h n v <;> decide +kernel

/-- A completion that releases the other fibre of the gang. -/
theorem witness_BarrierCompletion : ∀ w ∈ arriveWords 0 12,
    let y : Fibre := { fib 5 [] with fid := 9, slot := none, wait := some ⟨.bar w.2.1 w.2.2.1 9, 5000⟩ }
    let s := barred 2 0
    let s := { s with fibres := s.fibres ++ [(key + 4, y)] }
    Stands s (cur 5) crew (fib 5 [(4, 0)]) 0 [dst 12] ∧ s.accessPending key = false ∧ KV.find? (key + 4) s.fibres = some y ∧
      s.sameBar w.2.1 y.gang 3 = true ∧ (s.bar 3 w.2.1 w.2.2.1).phase = 9 ∧
      (s.bar 3 w.2.1 w.2.2.1).arrived.contains key = false ∧
      (s.bar 3 w.2.1 w.2.2.1).arrived.length + 1 = (s.bar 3 w.2.1 w.2.2.1).expected ∧
      s.waiters 3 w.2.1 w.2.2.1 (fun k => match k with | .rearrive _ _ _ _ _ _ => true | _ => false) = [] := by
  intro w hw
  refine ⟨stands_of ?_, ?_⟩ <;> revert w <;> decide +kernel

/-- FencesAndWaits: no load and no access pending; WAITV of a word; a count just reached. -/
def waiter : Fibre := fib 5 [(4, 3), (6, 77), (8, 0x8000)]
def reached (h : Option Hints) : State :=
  { demo waiter h with gangs := [(3, { gang with chans := [(2, { count := 3 })] })] }
theorem witness_FencesAndWaits : ∀ h ∈ [none, some quiet],
    ((crew h).group 4096).imm = none ∧ (((crew h).group 4096).pace = true → ((crew h).group 4096).sig = 15) ∧
      Stands (reached h) (cur 5) (crew h) waiter 0 [] ∧ (reached h).loadPending key = false ∧
      (reached h).accessPending key = false ∧
      Stands (reached h) (cur 5) (crew h) waiter 0 [src 6, src 8 2] ∧
      (∀ o : Fin 2, (Instr.waitv 0 6 8 0 (BitVec.ofNat 1 o)).wf = true) ∧
      (∃ x, memCheck (reached h) (env (reached h) [src 6, src 8 2] 5 h)
        ((env (reached h) [src 6, src 8 2] 5 h).ptr 1) 4 waitvNeed = .ok x) ∧
      Stands (reached h) (cur 5) (crew h) waiter 0 [src 4 2] ∧
      cpReached (KV.getD 2 {} ((reached h).gang 3).chans) (val64 ((reached h).gang 3) (waiter.now ((crew h).group 4096)) 4).toNat = true := by
  intro h hh
  refine ⟨?_, ?_, stands_of ?_, ?_, ?_, stands_of ?_, ?_, ok_of ?_, stands_of ?_, ?_⟩
  all_goals revert h; decide +kernel

/-- HeldWords: one lane of two whose last word waits for its full completion, which an acquire keeps back, or whose
flag 3 the next word's PACE names. -/
def lagging (i : Fin 3) : State :=
  let h : Option Hints := if i = 2 then some { hinted with wait := 8 } else none
  let f : Fibre := { fib 5 [] with
    fid := 14
    flags := if i = 0 then [(15, { st := .busy })] else if i = 2 then [(3, { st := .busy })] else []
    fence := if i = 1 then [7] else [] }
  { demo regs h with
    crews := [(ckey 5 7, { crew h with fids := [5, 14] })]
    fibres := [(key, regs), (3 * 1024 + 14, f)]
    ops := [(7, { kind := .load .words, fibre := 3 * 1024 + 14, acc := { acq := true, n := 4 } })] }
theorem turns_of {s : State} {c : Cur} {cr : Crew}
    (h : (s.cur = some c ∧ c.body = false ∧ KV.find? (ckey c.site c.slot) s.crews = some cr ∧ cr.fids ≠ [] ∧
      s.issues c.site (s.gang cr.gang) = true)) : Turns s c cr := ⟨h.1, h.2.1, h.2.2.1, h.2.2.2.1, h.2.2.2.2⟩
theorem witness_HeldWords : ∀ i : Fin 3, let s := lagging i
    let h : Option Hints := if i = 2 then some { hinted with wait := 8 } else none
    let cr := { crew h with fids := [5, 14] }
    let f := s.fibre (fkey 3 14)
    Turns s (cur 5) cr ∧ f.holds 15 = decide (i = 0) ∧ s.fenced f = decide (i = 1) ∧
      (∀ fid ∈ cr.fids, i ≠ 0 → (s.fibre (fkey 3 fid)).holds 15 = false) ∧
      (i = 2 → (s.site 5).preds = [] ∧ (∀ fid ∈ cr.fids, s.fenced (s.fibre (fkey 3 fid)) = false) ∧
        (cr.group f.pc).wait.getLsbD 3 = true ∧ f.holds 3 = true ∧ f.flags.map Prod.fst = [3] ∧ f.pend = [] ∧
        guardOk 0 (f.now (cr.group f.pc)) = true) := by
  intro i
  refine ⟨turns_of ?_, ?_⟩ <;> revert i <;> decide +kernel

/-- LineRegions: LRBEGIN of a line of DRAM, and LREND of a region at its last clk. -/
theorem witness_RegionOpens : ∀ d ∈ [(7 : BitVec 7), 124], let f := fib 5 [(4, 0x8000)]
    Stands (demo f) (cur 5) crew f 0 [src 4 2, dst d] ∧
      ∃ x, regionCheck (demo f) (env (demo f) [src 4 2, dst d]) = .ok x := by
  intro d hd
  refine ⟨stands_of ?_, ok_of ?_⟩ <;> revert d <;> decide +kernel
def regional : Fibre :=
  { fib 5 [] with region := some { line := 0x99, buf := [(3, 7), (127, 8)], ret := 4000, reg := 9, held := true, born := 1 } }
theorem witness_RegionCloses : let s := { demo regional with sites := [(5, { budget := 4 }), (576, { clk := 4096 })] }
    Stands s (cur 5) crew regional 0 [] true ∧ s.accessPending key = false ∧
      s.sliceClk 0x99 - 1 < 4096 := by
  refine ⟨stands_of ?_, ?_, ?_⟩ <;> decide +kernel

/-- QueueBindings: free, a ring at the end of the scratchpad, a ring of a channel, a mailbox; over a
queue that is not in use. -/
def binding (v : Nat) : Fibre := fib 5 [(4, BitVec.ofNat 32 v), (5, BitVec.ofNat 32 (v / 2 ^ 32))]
def bound (v : Nat) (h : Option Hints) : State :=
  { demo (binding v) h with
    gangs := [(3, { gang with queues := [(2, { kind := 1, ew := 0 })] })]
    pkg := { boxes := [(1 * 128 + 17, [(0, [{ v := 3 }])])] } }
theorem witness_QueueBindings : ∀ h ∈ [none, some hinted],
    ∀ v ∈ [0, 2 ^ 62 + 2 ^ 60 + 3 * 2 ^ 20 + 4064, 2 ^ 63 + 2 ^ 60 + 5 * 2 ^ 48 + 4 * 2 ^ 20 + 0x80, 3 * 2 ^ 62 + 17 * 2 ^ 32],
    let s := bound v h
    let b := val64 (s.gang 3) ((binding v).now ((crew h).group 4096)) 4
    let x := mkQueue b ((KV.getD (boxOf 1 (efld b 32 16)) [] s.pkg.boxes).map Prod.snd)
    Stands s (cur 5) (crew h) (binding v) 0 [src 4 2] ∧ Stands s (cur 5) (crew h) (binding v) 0 [dst 12] ∧
      (Instr.qbind 0 114 0).wf = true ∧ bindErr b = none ∧
      ((x.kind = 1 ∨ x.kind = 2) → x.base + x.slots * (4 * x.regs) ≤ (s.gang 3).ssize) ∧
      (KV.find? 2 (s.gang 3).queues).all (fun y => !y.inUse) = true ∧ KV.has 2 (s.gang 3).queues = true := by
  intro h hh v hv
  refine ⟨stands_of ?_, stands_of ?_, ?_, ?_, ?_, ?_, ?_⟩ <;> revert h v <;> decide +kernel

/-- ControlWrites: all bits one, and a pointer to a word in handler mode. -/
theorem witness_ControlWrites : ∀ h ∈ [none, some hinted], ∀ v ∈ [0xFFFF_FFFF_FFFF_FFFF, 0x2AAA_AAAA_AAAA_AAAA, 0x1000],
    let f := { binding v with hm := true }
    Stands (demo f h) (cur 5) (crew h) f 0 [src 4 2] ∧ ((demo f h).gang 3).dbg = true ∧
      (v = 0x2AAA_AAAA_AAAA_AAAA → (val64 gang (f.now ((crew h).group 4096)) 4).getLsbD 1 = true) ∧
      (v = 0x1000 → (val64 gang (f.now ((crew h).group 4096)) 4).extractLsb' 0 2 = 0) := by
  intro h hh v hv
  refine ⟨stands_of ?_, ?_, ?_, ?_⟩ <;> revert h v <;> decide +kernel

/-! ### Hints, traps, debugging, walks -/

/-- HintWords: the first hint of a group, and one after another of its kind. -/
theorem witness_HintWords : ∀ h ∈ [none, some hinted, some (widened 5), some (rounded 0)],
    Solo (demo regs h) (cur 5) (crew h) regs ∧ ∀ n, regs.IdleFlag n := by
  intro h hh
  refine ⟨solo_of ?_, idle_of ?_⟩ <;> revert h <;> decide +kernel

theorem error_of {ε α : Type} {e : Except ε α} (h : (okOf e).isNone = true) : ∃ b, e = .error b := by
  cases e with
  | error b => exact ⟨b, rfl⟩
  | ok _ => cases h
/-- TrapWords: outside handler mode. -/
theorem witness_SoftwareTraps : ∀ h ∈ [none, some quiet], let f := fib 5 [(4, 0x1234), (5, 0xABCD_0000)]
    ((crew h).group 4096).imm = none ∧ (((crew h).group 4096).pace = true → ((crew h).group 4096).sig = 15) ∧
      Stands (demo f h) (cur 5) (crew h) f 0 [src 4 2] ∧ (isSuper 5 && f.hm) = false ∧
      Stands (demo f h) (cur 5) (crew h) f 0 [] ∧ ∀ w ∈ [(0x3C00_000B : Word), 0x5E00_0000],
        w.extractLsb' 21 4 = 0 ∧ w.extractLsb' 25 7 ≠ 0x7F ∧ ∃ b, decode w = .error b := by
  intro h hh
  refine ⟨?_, ?_, stands_of ?_, ?_, stands_of ?_, fun w hw => ?_⟩
  on_goal 6 =>
    simp only [List.mem_cons, List.not_mem_nil, or_false] at hw
    rcases hw with rfl | rfl <;> exact ⟨by decide, by decide, error_of (by decide +kernel)⟩
  all_goals revert h; decide +kernel
/-- In handler mode, beside a fibre that is parked for the gang's handler. -/
def handler : Fibre := { fib 5 [(4, 6)] with hm := true, trec := { r1 := 0x8_8888 } }
def parked : Fibre :=
  { gang := 3, fid := 6, site := 5, hm := true, pc := 4104, park := some { sup := false, record := { r1 := 0x9990 }, cls := .illeg } }
theorem witness_TrapReturns : ∀ h ∈ [none, some quiet],
    let s := { demo handler h with fibres := [(key, handler), (key + 1, parked)] }
    ((crew h).group 4096).imm = none ∧ (((crew h).group 4096).pace = true → ((crew h).group 4096).sig = 15) ∧
      KV.has 3 s.gangs = true ∧ Stands s (cur 5) (crew h) handler 0 [] ∧ handler.hm = true ∧ handler.park = none ∧
      Stands s (cur 5) (crew h) handler 0 [src 4] ∧
      (val (s.gang 3) (handler.now ((crew h).group 4096)) 4).toNat = 6 ∧ KV.find? (fkey 3 6) s.fibres = some parked ∧
      6 < (s.gang 3).nfib ∧ parked.halt = none ∧ parked.restart = 0 ∧ (0x9990 : VAddr) ≠ handler.pc + 4 := by
  intro h hh
  refine ⟨?_, ?_, ?_, stands_of ?_, ?_, ?_, stands_of ?_, ?_, ?_, ?_, ?_, ?_, ?_⟩ <;> revert h <;> decide +kernel

/-- DebugWords: a predicate of either kind of site; POKE of every item; RESUME and STEP. -/
def poker (w : List (Nat × Word)) : List (Nat × Word) := (4, 0x1000) :: (5, 7) :: (6, 0xF7) :: (7, 0xFF) :: w
theorem witness_WATCH : ∀ site ∈ [5, 200], let w := [(4, (0 : Word)), (7, 0x8000_0000)]
    let s := halted w site
    Stands s (cur site) crew (fib site w) 0 [src 4 4] ∧ (s.gang 3).dbg = true ∧ KV.has 3 s.gangs = true ∧
      watchBad (BitVec.ofNat 128 (wordsVal ((env s [src 4 4] site).op 0))) = false ∧
      ∀ n : Fin 16, s.watchTaken (env s [src 4 4] site).watchSite 3 n = false := by
  intro site hs
  refine ⟨stands_of ?_, ?_, ?_, ?_, ?_⟩ <;> revert site <;> decide +kernel
theorem halted_of {s : State} {gk n : Nat} {f x : Fibre}
    (h : (KV.find? (fkey gk n) s.fibres = some x ∧ x.halt.isSome = true ∧ n < 1024 ∧ n ≠ f.fid)) : Halted s gk f n x :=
  ⟨h.1, h.2.1, h.2.2.1, h.2.2.2⟩
theorem witness_POKE : ∀ el ∈ [(0 : BitVec 7), 95, 0x60, 0x63, 0x64], let w := poker [(8, 6), (9, 0x0FFC)]
    let s := halted w
    let e := env s [src 4 4, src 8 2]
    Stands s (cur 5) crew (fib 5 w) 0 [src 4 4, src 8 2] ∧ (e.w 1).toNat = 6 ∧ (w1 (e.op 1)).toNat = 0x0FFC ∧
      Halted s 3 (fib 5 w) 6 (s.fibre (fkey 3 6)) ∧ (((e.op 0).getD 0 {}).v).extractLsb' 0 2 = 0 ∧
      0x0FFC / 1024 < (s.gang 3).tiles ∧ itemHold s e 1 el.toNat = false ∧ (s.fibre (fkey 3 6)).gang = 3 := by
  intro el he
  refine ⟨stands_of ?_, ?_, ?_, halted_of ?_, ?_, ?_, ?_, ?_⟩ <;> revert el <;> decide +kernel
theorem witness_RESUME : ∀ v ∈ [6, 0xFFFF_FFFF], let w := [(4, BitVec.ofNat 32 v)]
    let s := halted w
    let x := s.fibre (fkey 3 6)
    Starts s (cur 5) crew (fib 5 w) 0 [src 4] ∧ Stands s (cur 5) crew (fib 5 w) 0 [src 4] ∧
      Halted s 3 (fib 5 w) 6 x ∧ x.owedFpx = none ∧ x.wait = none ∧ x.pc ≠ 4100 ∧
      (s.gangFibres 3).filter (fun k => (s.fibre k).halt.isSome) = [fkey 3 6] := by
  intro v hv
  refine ⟨starts_of ?_, stands_of ?_, halted_of ?_, ?_, ?_, ?_, ?_⟩ <;> revert v <;> decide +kernel

/-- WatchedWords: a PC predicate over the word's address, at its threshold and short of it, with each action;
one over another address. -/
def watcher (act lo thr : Nat) : WPred where
  desc := BitVec.ofNat 128 (2 ^ 127 + act * 2 ^ 124 + 5 * 2 ^ 121 + 2 ^ 116 + thr * 2 ^ 80 + lo * 2 ^ 26 + 4)
  gang := some 3
  count := 2
theorem witness_WatchedWords : ∀ h ∈ [none, some hinted], ∀ act ∈ [0, 1, 2, 3, 4], ∀ lo ∈ [4084, 4096, 8000], ∀ thr ∈ [0, 3, 4],
    let p := watcher act lo thr
    let s := demo regs h
    let start := ((crew h).group 4096).start
    let hit := (candHit p.desc (.pc start)).isSome
    Stands s (cur 5) (crew h) regs 0 [src 4, src 5, dst 6] ∧ isCore 5 = true ∧ (s.site 5).woff = false ∧
      ((crew h).group 4096).imm = none ∧ regs.fresh = false ∧ regs.park = none ∧ regs.halt = none ∧
      s.covers p 3 5 = true ∧ p.desc.toNat / 2 ^ 121 % 8 = 5 ∧ p.desc.toNat / 2 ^ 124 % 8 = act ∧
      hit = decide (lo = start.toNat) ∧ max 1 (p.desc.toNat / 2 ^ 80 % 2 ^ 16) = max 1 thr ∧ KV.has 3 s.gangs = true := by
  intro h hh act ha lo hl thr ht
  refine ⟨stands_of ?_, ?_⟩ <;> revert h act lo thr <;> decide +kernel

/-- WalkWords: a body of two words over a loop of two dimensions and two vectors, an empty body, and a
loop of no vector. -/
def walker (dims : Nat) (body : List Instr) : State :=
  let w : List Nat := (body ++ [Instr.endw 0]).map fun i => i.word.toNat
  { demo (fib 5 [(4, 0x8000), (12, 0x1111), (13, 0x44), (14, 0x2222), (15, 0x88)]) with
    mem := words 4100 w (words 0x8000 [3 + 2 ^ 16 * dims, 0, 0x12 * 2 ^ 16, 0, 256, 272, 0, 0, 512, 528] []) }
theorem witness_WalkWords : ∀ d ∈ [2, 0], ∀ body ∈ [[Instr.add 0 4 5 6, .addi 0 7 7 1], []],
    let s := walker d body
    let e := env s [src 4 2]
    Starts s (cur 5) crew (s.fibre key) 0 [src 4 2] ∧ engineHold s e = false ∧ walkNeed s e = [] ∧
      12 + 2 * 2 ≤ (s.gang 3).window ∧
      (∃ ws, e.bodyOf s = .words ws ∧ ws.any (okWord isEight) = false ∧ ws.length = body.length) ∧
      ∃ l, loopCheck s e = .ok l ∧ basePoison e 12 l = none := by
  intro d hd body hb s e
  have h : (match e.bodyOf s with
      | .words ws => !ws.any (okWord isEight) && decide (ws.length = body.length) | _ => false) = true := by
    subst e; subst s; revert d body; decide +kernel
  have hl : (match loopCheck s e with
      | .ok l => decide (basePoison e 12 l = none) | .error _ => false) = true := by
    clear h; subst e; subst s; revert d body; decide +kernel
  refine ⟨starts_of ?_, ?_, ?_, ?_, ?_, ?_⟩
  on_goal 6 =>
    split at hl
    · exact ⟨_, ‹_›, of_decide_eq_true hl⟩
    · cases hl
  on_goal 5 =>
    split at h
    · simp only [Bool.and_eq_true, Bool.not_eq_true', decide_eq_true_eq] at h
      exact ⟨_, ‹_›, h⟩
    · cases h
  all_goals clear h hl; subst e; subst s; revert d body; decide +kernel

/-! ### The dies' commands -/

/-- The command that die 0 takes next. -/
def nextCmd (s : State) : Cmd := cmdOf ((s.nextEntry 0).getD 0)
def takesOk (s : State) : Bool :=
  s.dieUp 0 && decide ((s.die 0).cmd = none) && (s.nextEntry 0).isSome && !cmdReserved ((s.nextEntry 0).getD 0) &&
    decide (s.entryRead 0 = none) && !(nextCmd s).unknown
theorem takes_of {s : State} (h : takesOk s = true) : Takes s 0 (nextCmd s) := by
  simp only [takesOk, Bool.and_eq_true, Bool.not_eq_true', decide_eq_true_eq] at h
  obtain ⟨m, hm⟩ := some_of h.1.1.1.2
  refine ⟨h.1.1.1.1.1, h.1.1.1.1.2, ⟨m, hm, ?_, ?_⟩, h.1.2, h.2⟩
  · simpa [hm] using h.1.1.2
  · simp [nextCmd, hm]

/-- Die 0 with one entry in its ring: command `code` with operands 0 to 3, each of two words; a ring of
four contexts, the second of which has the demo gang. -/
def ordered (code : Nat) (ops : List Nat) : State :=
  let ent (i : Nat) : List Nat := [0, 0x8F00_0000, 0x30000 + 64 * i, 0]
  { demo (fib 5 []) with
    cur := none
    crews := []
    mem := words 0x8000 ([code, 0, 0x9000, 0] ++ ops) (words 0x20000 (ent 0 ++ ent 1 ++ ent 2 ++ ent 3) [])
    pkg := { ringbase := 0x20000, ringlen := 4, complete := true, evaddr := 0x77000 }
    dies := [(0, { mcbase := 0x8000, mctail := 1 })]
    ctxs := [(1, { blk := 0x30040, live := true, dies := 15 })] }

/-- MemoryCommands: ZEROPAGE of a page, XINVAL of everything and of one page, BNDSYNC, a code that is not
known, and a completion. -/
theorem witness_ZEROPAGE : let s := ordered 1 [0x10000, 0, 0x1000]
    s.Inv ∧ Takes s 0 (nextCmd s) ∧ (nextCmd s).code = 1 ∧ (nextCmd s).op2 = 0 ∧ (nextCmd s).op3 = 0 ∧
      s.zeroable (nextCmd s).op0.toNat (nextCmd s).op1.toNat = true := by
  refine ⟨inv_of ?_, takes_of ?_, ?_, ?_, ?_, ?_⟩ <;> decide +kernel
theorem witness_XINVAL : ∀ x ∈ [(0, 0), (0x8000, 0x1000)], let s := ordered 2 [1, 0, x.1, 0, x.2]
    let c := nextCmd s
    Takes s 0 c ∧ c.code = 2 ∧ c.op0.toNat < 256 ∧ s.cmdCtx c.op0 = some 1 ∧ c.op3 = 0 ∧ c.op1.toNat < 2 ^ 54 ∧
      c.op1.toNat % 4096 = 0 ∧ c.op2.toNat % 4096 = 0 ∧ (c.op2 = 0 ∨ c.op1.toNat + c.op2.toNat ≤ 2 ^ 54) ∧
      s.oldAccess 1 s.nextId = false ∧ s.nextId ≠ 0 := by
  intro x hx
  refine ⟨takes_of ?_, ?_, ?_, ?_, ?_, ?_, ?_, ?_, ?_, ?_, ?_⟩ <;> revert x <;> decide +kernel
theorem inDram_of {pa n : Nat} (h : (List.range n).all (fun i => isDram (pa + i)) = true) : InDram pa n :=
  fun i hi => List.all_eq_true.mp h i (List.mem_range.mpr hi)
/-- Addresses that the device may write now, where no line is listed and no die has failed. -/
def quietOk (s : State) : Bool :=
  decide (s.dirs = [] ∧ s.pkg.lost = []) && !s.devBusy && s.dies.all fun d => !d.2.failed
theorem notFailed_of (l : List (Nat × Die)) (h : l.all (fun d => !d.2.failed) = true) (k : Nat) :
    (KV.getD k {} l).failed = false := by
  unfold KV.getD
  induction l with
  | nil => rfl
  | cons x t ih =>
    obtain ⟨i, d⟩ := x
    simp only [List.all_cons, Bool.and_eq_true, Bool.not_eq_true'] at h
    unfold KV.find?
    split_ifs
    · exact h.1
    · rfl
    · exact ih h.2
theorem isDram_of {pa : Nat} (h : pa < 0xC0_0000_0000) : isDram pa = true := by simp [isDram, place, h]
theorem devFree_of {s : State} {pa n : Nat} (h : quietOk s = true) (hp : pa + n ≤ 0xC0_0000_0000) : DevFree s pa n := by
  simp only [quietOk, Bool.and_eq_true, decide_eq_true_eq, Bool.not_eq_true'] at h
  obtain ⟨⟨⟨hd, hl⟩, hb⟩, hf⟩ := h
  refine ⟨fun i hi => isDram_of (by omega), fun i hi => ?_, fun i hi => ?_, hb⟩
  · have := notFailed_of s.dies hf (homeDie (pa + i))
    simp only [State.isLost, hl, State.die, this, Bool.or_eq_false_iff]
    exact ⟨rfl, by split <;> rfl⟩
  · simp only [State.cellHeld, State.dir, hd, State.l2Full, State.roomAt, State.sliceLines]
    simp only [KV.getD, KV.find?]
    simp
    rfl

theorem witness_BNDSYNC : let s := ordered 9 [1, 0, 0x4001, 0xFFF]
    Takes s 0 (nextCmd s) ∧ (nextCmd s).code = 9 ∧ s.cmdCtx (nextCmd s).op0 = some 1 ∧ (nextCmd s).op2 = 0 ∧
      (nextCmd s).op3 = 0 ∧ DevFree s (entBlk (s.ringEntry 1) + 24) 8 := by
  refine ⟨takes_of ?_, ?_, ?_, ?_, ?_, devFree_of ?_ ?_⟩ <;> decide +kernel
theorem witness_unknown_commands : ∀ x ∈ [0, 0xEE, 1 + 0x200], let s := ordered x []
    s.dieUp 0 = true ∧ (s.die 0).cmd = none ∧ (s.nextEntry 0).isSome = true ∧
      (cmdReserved ((s.nextEntry 0).getD 0) || (nextCmd s).unknown) = true := by decide +kernel
theorem witness_completion : ∀ ev : Bool,
    let c : Cmd := { code := 5, op0 := 1, op1 := 0, op2 := 0, op3 := 0, caddr := 0x9000, ev := ev, status := some 2 }
    let s := { ordered 0 [] with dies := [(0, { cmd := some c })] }
    s.Inv ∧ s.dieUp 0 = true ∧ (s.die 0).cmd = some c ∧ c.caddr % 4 = 0 ∧ DevFree s c.caddr 4 ∧ s.pkg.evaddr ≠ 0 := by
  intro ev
  refine ⟨inv_of ?_, ?_, ?_, ?_, devFree_of ?_ ?_, ?_⟩ <;> revert ev <;> decide +kernel

/-- ContextAndRelease: each action on a fibre that is attached to entry 9. -/
def held : Fibre :=
  { fib 5 [] with fid := 6, slot := none, park := some { sup := true, record := { r1 := 4104 }, cls := .illeg } }
def entry : CEnt := { ctx := 1, cls := .illeg, reason := 0, page := 4, record := { r1 := 4104 }, fibres := [key + 1], queued := true }
def attached (ops : List Nat) (w : Word) : State :=
  let s := ordered 3 ops
  { s with
    fibres := [(key + 1, held)]
    gangs := [(3, { gang with trapvec := 0x4440 })]
    mem := poke 4 0x1008 w.toNat s.mem
    dies := [(0, { mcbase := 0x8000, mctail := 1, ctab := [(9, entry)] })] }
def attachedOk (s : State) : Bool :=
  decide (KV.find? 9 (s.die 0).ctab = some entry ∧ KV.find? (key + 1) s.fibres = some held ∧
    (s.die 0).cwait = [] ∧ ((s.die 0).fqtail - (s.die 0).fqhead).toNat < (s.die 0).fqSize ∧ KV.has 3 s.gangs = true)
theorem attached_of {s : State} (h : attachedOk s = true) :
    Attached s 0 9 (key + 1) held { sup := true, record := { r1 := 4104 }, cls := .illeg } entry := by
  obtain ⟨h1, h2, h3, h4, h5⟩ := of_decide_eq_true h
  exact ⟨h1, rfl, h2, rfl, rfl, rfl, h3, h4, h5⟩
theorem witness_ReleaseCommands :
    ∀ x ∈ [(0, [9]), (1, [9 + 0x1_0000, 0, 0x5554]), (2, [9 + 0x2_0000]), (3, [9 + 0x3_0000, 0, 0, 0, 0x2222, 0x1111])],
    let s := attached x.2 0x0002_0A06
    let c := nextCmd s
    Takes s 0 c ∧ c.code = 3 ∧ c.action = x.1 ∧ s.releaseBad 0 c = false ∧ c.op0.toNat % 512 = 9 ∧
      Attached s 0 9 (key + 1) held { sup := true, record := { r1 := 4104 }, cls := .illeg } entry ∧
      notForHandler (s.gang 3) held .illeg = false := by
  intro x hx
  refine ⟨takes_of ?_, ?_, ?_, ?_, ?_, attached_of ?_, ?_⟩ <;> revert x <;> decide +kernel
/-- EMULATE of a word with a destination and of one without. -/
theorem witness_EMULATE : ∀ i ∈ [(Instr.add 0 4 5 6, some (dst 4)), (Instr.setp 0 1 2 5 6, none)],
    let s := attached [9 + 0x3_0000] i.1.word
    ({ sup := true, record := { r1 := 4104 }, cls := .illeg } : Park).acquires = false ∧
      s.groupInstr 5 1 4104 4 = some (i.1, 4104) ∧ s.popsOf (s.gang 3) held i.1 = [] ∧ (rolesOf i.1).1 = i.2 := by
  decide +kernel

/-- The commands on a context: quiesced, running, and any. -/
def inState (code : Nat) (st : CtxSt) : State :=
  { ordered code [1] with ctxs := [(1, { blk := 0x30040, live := true, dies := 15, st := st })] }
theorem witness_ContextCommands : ∀ x ∈ [(4, CtxSt.quiesced), (5, .running), (6, .quiesced), (7, .running)],
    let s := inState x.1 x.2
    let c := nextCmd s
    Takes s 0 c ∧ c.code = x.1 ∧ c.indexOnly = true ∧ s.cmdCtx c.op0 = some 1 ∧ KV.has 1 s.ctxs = true ∧
      (s.ctx 1).live = true ∧ (s.ctx 1).st = x.2 ∧ s.midGroup 1 = false := by
  intro x hx
  refine ⟨takes_of ?_, ?_, ?_, ?_, ?_, ?_, ?_, ?_⟩ <;> revert x <;> decide +kernel
theorem witness_RELEASE_END : let s := attached [9 + 0x4_0000] 0
    let c := nextCmd s
    Takes s 0 c ∧ c.code = 3 ∧ c.action = 4 ∧ s.releaseBad 0 c = false ∧ c.op0.toNat % 512 = 9 ∧
      KV.find? 9 (s.die 0).ctab = some entry ∧ KV.has entry.ctx s.ctxs = true := by
  refine ⟨takes_of ?_, ?_, ?_, ?_, ?_, ?_, ?_⟩ <;> decide +kernel

/-- DebugCommands: each kind, on the halted fibre 6 of the gang in slot 0 of core 5, and every item. -/
def debugged (kind fid sel : Nat) (ops : List Nat) : State :=
  let s := ordered 8 ([1 + 5 * 256, fid + kind * 2 ^ 16 + sel * 2 ^ 24] ++ ops)
  { s with fibres := [(key + 1, { gang := 3, fid := 6, site := 5, halt := some { pred := 3 } })] }
theorem witness_DebugCommands : ∀ x ∈ [(0, 6, 0x61, [0]), (1, 6, 7, [0, 0, 4]), (2, 6, 0, []), (3, 6, 0, []),
      (4, 0, 15, [0, 0, 0, 0, 0, 0x8000_0000]), (5, 0, 15, [])],
    let s := debugged x.1 x.2.1 x.2.2.1 x.2.2.2
    let c := nextCmd s
    s.Inv ∧ Takes s 0 c ∧ c.code = 8 ∧ c.kind = x.1 ∧ s.dbgBad c = false ∧ s.dbgGang c = some (3, gang) ∧
      KV.find? 3 s.gangs = some gang ∧ c.caddr % 4 = 0 ∧ DevFree s (c.caddr + 16) 16 := by
  intro x hx
  refine ⟨inv_of ?_, takes_of ?_, ?_, ?_, ?_, ?_, ?_, ?_, devFree_of ?_ ?_⟩ <;> revert x <;> decide +kernel
theorem witness_debug_items : ∀ sel ∈ [0, 95, 0x60, 0x63, 0x64], let s := debugged 1 6 sel [0, 0, 4]
    let x := s.fibre (fkey 3 6)
    KV.find? (fkey 3 6) s.fibres = some x ∧ x.halt.isSome = true ∧ x.gang = 3 ∧ itemErr gang sel 0 = none ∧
      s.itemBusy gang (fkey 3 6) sel 0 = false ∧ pokeErr sel (nextCmd s).words = none ∧ x.owedFpx = none ∧
      x.wait = none ∧ (nextCmd s).target = none ∧ (nextCmd s).op0.getLsbD 42 = false := by decide +kernel
theorem witness_debug_watch : let s := debugged 4 0 15 [0, 0, 0, 0, 0, 0x8000_0000]
    watchBad (groupBits (nextCmd s).words) = false ∧ s.watchTaken 5 3 15 = false := by decide +kernel

/-! ### Events: registers, packets, power -/

def up : State := { demo (fib 5 []) with cur := none, pkg := { complete := true, stage := 5 } }
/-- RegisterWrites: a package that has come up; the last die and unit, changing in each direction. -/
theorem witness_RegisterWrites : up.up = true := by decide +kernel
theorem witness_changeover : ∀ r : Bool, let bit : BitVec 12 := 0x800
    let s := { up with dies := [(3, { want := if r then bit else 0, pend := bit, carving := if r then bit else 0 })] }
    s.Inv ∧ (s.die 3).pend.getLsbD 11 = true ∧ (s.die 3).ready.getLsbD 11 = false ∧
      (s.die 3).want.getLsbD 11 = (s.die 3).carving.getLsbD 11 := by
  intro r
  refine ⟨inv_of ?_, ?_, ?_, ?_⟩ <;> revert r <;> decide +kernel

/-- PacketsAndMessages: the last port. -/
def packet (addr len : Nat) (data : List Byte := []) (op width : Nat := 0) : Packet :=
  { src := 9, port := 35, tag := 88, addr := addr, data := data, len := len, op := op, width := width, poison := [] }
theorem arrives_of {s : State} {p : Packet}
    (h : (s.up && decide (p.port < 36) && !s.pkg.portsDown.getLsbD p.port) = true) : Arrives s p := by
  simp only [Bool.and_eq_true, Bool.not_eq_true', decide_eq_true_eq] at h
  exact ⟨h.1.1, h.1.2, h.2⟩
def reachOk (s : State) (pa n : Nat) (wr : Bool) : Bool :=
  decide (4 ≤ n ∧ n ≤ 128) && (List.range n).all (fun i => isDram (pa + i)) && !s.refusesPkt pa n wr &&
    !s.pktHeld pa n && decide (s.dirs = [])
theorem quietLine_of {s : State} (h : s.dirs = []) (n : Nat) : s.QuietLine n := by
  simp only [State.QuietLine, State.dir, h]; exact ⟨rfl, rfl⟩
theorem reachable_of {s : State} {pa n : Nat} {wr : Bool} (h : reachOk s pa n wr = true) : Reachable s pa n wr := by
  simp only [reachOk, Bool.and_eq_true, Bool.not_eq_true', decide_eq_true_eq] at h
  exact ⟨h.1.1.1.1, inDram_of h.1.1.1.2, h.1.1.2, h.1.2, fun i _ => quietLine_of h.2 _⟩
/-- A register's READ and WRITE, and DRAM at the ends of a line. -/
theorem witness_PacketEvents :
    (∀ off ∈ [0, 0x38, 0x1FF8], (mreg off).isSome = true) ∧
    (∀ x ∈ [(0x7000, 128), (0x707C, 4)], up.Inv ∧ Arrives up (packet x.1 x.2) ∧ Reachable up x.1 x.2 false ∧
      Reachable up x.1 x.2 true) ∧
    (∀ x ∈ [(0, 4), (3, 8), (16, 8)], let p := packet 0x7008 0 (List.replicate (if x.1 = 16 then 16 else x.2) 1) x.1 x.2
      pktAtomOk p = true ∧ Reachable up p.addr p.width true ∧ up.anyPoison p.addr p.width = false) := by
  refine ⟨by decide +kernel, fun x hx => ⟨inv_of ?_, arrives_of ?_, reachable_of ?_, reachable_of ?_⟩,
    fun x hx => ⟨?_, reachable_of ?_, ?_⟩⟩ <;> revert x <;> decide +kernel
theorem inTurn_of {s : State} {k : PktK} {p : Packet} (h : (!pktOrdered k p || !s.pktBefore s.nextId p.src) = true) :
    s.inTurn k p := by simpa [State.inTurn] using h
theorem notInTurn_of {s : State} {k : PktK} {p : Packet} (h : (pktOrdered k p && s.pktBefore s.nextId p.src) = true) :
    ¬ s.inTurn k p := by simpa [State.inTurn] using h
/-- In turn: each kind, behind nothing, and without release behind an earlier packet of its sender; not in turn
with it. -/
def behind : State := { up with ops := [(40, { kind := .packet .write (packet 0x7000 0 [1, 2, 3, 4]), site := Config.sites })] }
theorem witness_turns : (∀ k ∈ [PktK.read, .write, .atom, .red, .mailbox], up.inTurn k { packet 0x7000 4 with rel := true }) ∧
    (∀ k ∈ [PktK.read, .write, .atom, .red], behind.inTurn k (packet 0x7000 4)) ∧
    ∀ k ∈ [PktK.read, .write, .atom, .red, .mailbox], ¬ behind.inTurn k { packet 0x7000 4 with rel := true } := by
  refine ⟨fun k hk => inTurn_of ?_, fun k hk => inTurn_of ?_, fun k hk => notInTurn_of ?_⟩ <;> revert k <;> decide +kernel
/-- Packets that are refused, that wait for a line that is held, and that go on to a window. -/
theorem witness_packets_turned_away : ∀ wr : Bool,
    let hole := 0x00C0_0000_0000
    let window := 0x8_0000_0000_0000 + 2 * 2 ^ 41
    let s := { up with pkg := { up.pkg with peerwin := [(2, 2 ^ 63 + 9 * 2 ^ 32)] }, dirs := [(0xE0, { held := some key })] }
    s.Inv ∧ (∀ pa ∈ [hole, 0x7000], isMgmt pa = false ∧ s.relays (packet pa 4) = false) ∧
      s.refusesPkt hole 4 wr = true ∧ s.refusesPkt 0x7000 4 wr = false ∧ s.pktHeld 0x7000 4 = true ∧
      s.relays (packet window 4) = true := by
  intro wr
  refine ⟨inv_of ?_, ?_⟩ <;> revert wr <;> decide +kernel
/-- A mailbox with room for one more and a full one, a credit for a bound queue, a response to each kind of
access. -/
def posted (n : Nat) (o : Op) : State :=
  { up with
    ops := [(88, o)]
    gangs := [(3, { gang with queues := [(2, { kind := 3, ew := 0, mbox := 2 * 128 + 4, unread := 63 })] })]
    pkg := { complete := true, stage := 5, peerwin := [(2, 9 * 2 ^ 32)], boxes := [(1 * 128 + 4, List.replicate n (0, []))]
             sent := [((1 * 4096 + 9) * 128 + 4, 64)] } }
def away : List Op :=
  [{ kind := .wread 0, stage := .away, fibre := key, acc := { pa := 0xC_0000_0000_0106, n := 9 } },
   { kind := .load .words, stage := .away, site := 200, flag := 3, fibre := key, acc := { pa := 0xC_0000_0000_0100, n := 16 } },
   { kind := .store [1, 2] [], stage := .away, site := 200, flag := 3, fibre := key, acc := { pa := 0xC_0000_0000_0106, n := 2 } }]
theorem witness_MessageEvents : ∀ i : Fin 3, ∀ n ∈ [63, 64], let o := away.getD i { kind := .wread 0 }
    let s := posted n o
    let p := { packet 4 0 [1, 2, 3, 4, 5, 6, 7, 8, 9] with ctx := 1 }
    s.up = true ∧ Arrives s p ∧ s.inTurn .mailbox p ∧ (KV.getD (boxOf p.ctx p.addr) [] s.pkg.boxes).length = n ∧
      (∃ G, s.gangs.find? (fun g => g.2.queues.any (s.credits p.ctx p.src p.addr g.2)) = some (3, G) ∧
        (G.queues.find? (s.credits p.ctx p.src p.addr G)).isSome = true) ∧ KV.find? p.tag s.ops = some o ∧ o.stage = .away ∧
      (KV.find? key s.fibres).isSome = true ∧ p.op = 0 ∧ p.poison = [] ∧ s.earlier p.tag o.fibre = [] ∧ o.got = [] := by
  intro i n hn o s p
  have h : ((s.gangs.find? fun g => g.2.queues.any (s.credits p.ctx p.src p.addr g.2)).all fun g => decide (g.1 = 3) &&
      (g.2.queues.find? (s.credits p.ctx p.src p.addr g.2)).isSome) = true ∧
      (s.gangs.find? fun g => g.2.queues.any (s.credits p.ctx p.src p.addr g.2)).isSome = true := by
    subst p; subst s; subst o; revert i n; decide +kernel
  refine ⟨?_, arrives_of ?_, inTurn_of ?_, ?_, ?_, ?_, ?_, ?_, ?_, ?_, ?_, ?_⟩
  on_goal 5 =>
    obtain ⟨x, hx⟩ := some_of h.2
    have h := h.1
    simp only [hx, Option.all_some, Bool.and_eq_true, decide_eq_true_eq] at h
    exact ⟨x.2, by rw [hx, ← h.1], h.2⟩
  all_goals clear h; subst p; subst s; subst o; revert i n; decide +kernel
/-- The sixteenth failed replay of a run at the last port, with nothing away through it, and the one after it. -/
theorem witness_replays : ∀ n ∈ [15, 16], let s := { up with pkg := { complete := true, replays := [(35, n)] } }
    s.up = true ∧ s.pkg.portsDown.getLsbD 35 = false ∧ KV.getD 35 0 s.pkg.replays = n ∧
      s.ops.all (fun o => decide (o.2.stage ≠ .away) || o.2.placed || decide (o.2.port ≠ 35)) = true := by
  decide +kernel

/-- PowerEvents: power off, and a start that failed; a token that is due, with and without a cluster
that waits for it; the largest thermal limit; a change of voltage and frequency. -/
theorem witness_bringup : ∀ s ∈ [{ up with pkg := { powered := false } }, State.reset],
    s.pkg.powered = false ∨ (s.pkg.complete = false ∧ s.pkg.bootReason = 0) := by
  intro s hs
  simp only [List.mem_cons, List.not_mem_nil, or_false] at hs
  rcases hs with rfl | rfl
  · exact .inl rfl
  · exact .inr ⟨rfl, rfl⟩
theorem witness_PowerEvents : ∀ w ∈ [[], [1, 5]],
    let d : Die := { toks := { cluster := 3, idle := 64 } :: (List.range 3).map (fun i => { cluster := 4 + i }),
                     free := List.range 5, tokWait := w }
    let s := { up with dies := [(0, d)], pkg := { complete := true, stage := 5, vfNext := [(11, 4)] } }
    s.up = true ∧ (s.die 0).failed = false ∧ isDram 0xBF_FFFF_FFFF = true ∧ (KV.find? 11 s.pkg.vfNext).isSome = true ∧
      s.pkg.therm ≤ s.pkg.therm ∧ 0 < s.pkg.therm ∧ d.tokenDue 3 = true ∧
      s.pkg.tokens = (d.toks.filter fun x => decide (x.cluster ≠ 3)).length + d.free.length + 1 := by decide +kernel

/-! ### Events: lines, engines, bags, banks -/

/-- DirectoryAndLines: a load and a store under NC, OWN and WT, of the last bytes of a line. -/
def access (k : OpK) (site n pol : Nat) : Op :=
  { kind := k, fibre := key, site := site, flag := 3, dst := 4, acc := { pa := 0x7080 - n, n := n, pol := pol } }
def under (o : Op) : State := { up with ops := [(11, o)] }
theorem witness_DirectoryEvents : ∀ pol ∈ [1, 2, 3], ∀ n ∈ [1, 16], ∀ k ∈ [OpK.load .words, .store (List.replicate n 7) []],
    let o := access k 5 n pol
    let s := under o
    s.Inv ∧ KV.find? 11 s.ops = some o ∧ o.stage = .pending ∧ s.via o = .dir ∧ s.mayTake 11 o = true ∧
      s.lineBusy o = false ∧ o.acc.pa % 128 + n ≤ 128 ∧ s.QuietLine (o.acc.pa / 128) ∧ s.earlier 11 key = [] ∧
      s.anyPoison o.acc.pa n = false ∧ s.inL1 5 (o.acc.pa / 128) = false ∧ o.flag < 16 ∧ o.got = [] ∧
      o.acc.acq = false ∧ (o.acc.pa % 4 + n ≤ 4 ∨ o.acc.pa % 4 = 0) := by
  intro pol hp n hn k hk
  simp only [List.mem_cons, List.not_mem_nil, or_false] at hk
  refine ⟨inv_of ?_, ?_, ?_, ?_, ?_, ?_, ?_, quietLine_of rfl _, ?_, ?_, ?_, ?_, ?_, ?_, ?_⟩ <;>
    rcases hk with rfl | rfl <;> revert pol n <;> decide +kernel
/-- Every part of such a load goes to the directory too. -/
theorem witness_load_parts : ∀ pol ∈ [1, 2, 3], ∀ n ∈ [1, 16], ∀ j, 0 < j →
    let o := access (.load .words) 5 n pol
    (under o).via (o.next j) = .dir := by
  intro pol hp n hn j hj o
  have h : ∀ i < 5, 0 < i → (under o).via (o.next i) = .dir := by subst o; revert pol n; decide +kernel
  have e : o.next j = o.next (min j 4) := by
    have : n ≤ 16 := by clear h o hp; revert n; decide
    have : o.acc.n ≤ 16 := this
    unfold Op.next
    have e : min (4 * j) (o.acc.n - 4 * o.got.length) = min (4 * min j 4) (o.acc.n - 4 * o.got.length) := by omega
    simp only [e]
  rw [e]; exact h _ (by omega) (by omega)

/-- A line with a tracked copy, one whose owner has some of its bytes, and one that has earned a move. -/
def cached : State :=
  { up with
    dirs := [(0xE0, { t := 4, sharers := 1 }), (0xE1, { t := 4, owners := [(3, 1), (47, 2)] }),
             (0xE2, { t := 4, inL2 := true, due := some 11, dueDie := some 3, slice := 5 })]
    l1 := [(0 * 2 ^ 50 + 0xE0 * 32, { st := .tracked, v := 9 }), (47 * 2 ^ 50 + 0xE1 * 32 + 1, { st := .owned, v := 7, mask := 5 })] }
theorem witness_LineEvents : cached.Inv ∧ cached.inL1 0 0xE0 = true ∧ cached.QuietLine 0xE0 ∧ cached.inL1 47 0xE1 = true ∧
    dieOf 47 = (cached.dir 0xE1).holder ∧ (cached.dir 0xE1).pmasks = [] ∧ inL2 0xE1 = true ∧
    (cached.dir 0xE1).wst 1 = .o 47 ∧ (cached.l1? 0 (4 * (0xE0 * 32))).map L1W.st = some .tracked ∧
    ((cached.dir 0xE2).due = some 11 ∧ (cached.dir 0xE2).inL2 = true ∧
      cached.mayMove 0xE2 (cached.dir 0xE2).holder (2 * 11 + 0xE2 % 2) = true ∧ cached.fwdVictim 0xE2 = none) ∧
    ((cached.dir 0xE2).dueDie = some 3 ∧ 3 ≠ (cached.dir 0xE2).holder ∧ (cached.die 3).failed = false ∧
      cached.mayMove 0xE2 3 (0xE2 % 24) = true ∧ cached.hentVictim 0xE2 = none) := by
  refine ⟨inv_of ?_, ?_, ⟨?_, ?_⟩, ?_, ?_, ?_, ?_, ?_, ?_, ⟨?_, ?_, ?_, ?_⟩, ?_, ?_, ?_, ?_, ?_⟩ <;> decide +kernel
/-- A move that sends another line back first: the forwarding entries, and the holder entries, of the
line's set are full, where the lines of this state fall into one set. -/
def oldLines : List Nat := (List.range 8).map fun i => 0xE2 + 49152 * (i + 1)
def crowdedSet : State :=
  { cached with
    fwd := [(cached.fwdKey 0xE2, oldLines)], hent := [(hentKey 0xE2, oldLines)]
    dirs := (KV.put 0xE2 { cached.dir 0xE2 with slice := 0xE2 % 24 } cached.dirs) ++
      oldLines.map fun n => (n, { inL2 := true, holder := 1, slice := 7 }) }
theorem sameSet_all {k n line : Nat} {l : List Nat} (h : ∀ x ∈ l, Config.setOf k x = Config.setOf k line) :
    sameSet k n line l = l := List.filter_eq_self.mpr fun x hx => by simp [h x hx]
theorem witness_victims (h : ∀ k, ∀ x ∈ oldLines, Config.setOf k x = Config.setOf k 0xE2) :
    let v := 0xE2 + 49152
    crowdedSet.fwdVictim 0xE2 = some v ∧ crowdedSet.hentVictim 0xE2 = some v ∧
      crowdedSet.mayMove v (crowdedSet.dir 0xE2).holder (v % 24) = true ∧
      crowdedSet.mayMove v (homeDie (v * 128)) (v % 24) = true ∧
      (crowdedSet.dir 0xE2).due = some 11 ∧ (crowdedSet.dir 0xE2).inL2 = true ∧
      (crowdedSet.dir 0xE2).slice = 0xE2 % 24 ∧ (crowdedSet.dir 0xE2).dueDie = some 3 ∧
      (crowdedSet.dir 0xE2).holder = homeDie (0xE2 * 128) ∧ (crowdedSet.die 3).failed = false ∧
      crowdedSet.mayMove 0xE2 (crowdedSet.dir 0xE2).holder (2 * 11 + 0xE2 % 2) = true ∧
      crowdedSet.mayMove 0xE2 3 (0xE2 % 24) = true := by
  have e : oldLines.filter (· ≠ 0xE2) = oldLines := by decide +kernel
  have f : KV.getD (crowdedSet.fwdKey 0xE2) [] crowdedSet.fwd = oldLines := by decide +kernel
  have g : KV.getD (hentKey 0xE2) [] crowdedSet.hent = oldLines := by decide +kernel
  refine ⟨?_, ?_, by decide +kernel⟩
  · simp only [State.fwdVictim, lruOf, f, e, sameSet_all (h 3)]; rfl
  · simp only [State.hentVictim, lruOf, g, e, sameSet_all (h 4)]; rfl
/-- A tile fetch that has waited for 512 clk; the two lines of its rows are in the L2. -/
theorem witness_retry : let e : Eight := { form := 0, afmt := 2, bfmt := 2, a := [{ pa := 0x7000, n := 128 }], b := [{ pa := 0x9000, n := 128 }] }
    let o : Op := { kind := .eight e 3, fibre := key, site := 5, arr := 3 }
    let s := { under o with
      sites := [(5, { clk := 515 })]
      dirs := [(0xE0, { inL2 := true }), (0x120, { inL2 := true })] }
    s.Inv ∧ KV.find? 11 s.ops = some o ∧ o.stage = .pending ∧ o.arr + 512 ≤ (s.site o.site).clk.toNat ∧
      e.lines.all (fun n => (s.dir n).inL2) = true ∧
      (s.dirs.filter fun x => decide (x.2.pins ≠ [])).length + e.lines.length < 12 := by
  refine ⟨inv_of ?_, ?_, ?_, ?_, ?_, ?_⟩ <;> decide +kernel

/-- EngineAndBank: an operation whose results are known; the last beat but one of a copy. -/
theorem witness_EngineEvents : let o : Op := { kind := .value false 0, fibre := key, site := 5, flag := 11, dst := 95, stage := .performed, res := [{ v := 7 }] }
    let s := under o
    s.Inv ∧ KV.find? 11 s.ops = some o ∧ s.hasChild 11 = false ∧ s.landed 11 = true ∧
      (KV.find? key s.fibres).isSome = true := by
  refine ⟨inv_of ?_, ?_, ?_, ?_, ?_⟩ <;> decide +kernel
theorem witness_copy_beat : ∀ x ∈ [(0, 200, 0, 129), (130, 3, 128, 257)],
    let o : Op := { kind := .copy (.scr x.1) (.scr x.2.1) x.2.2.2 x.2.2.1 2 none, fibre := key, site := 5, flag := 11 }
    let c : Chan := { st := .running, copies := [11, 12], count := 2 ^ 56 - 128 }
    let s := { under o with gangs := [(3, { gang with chans := [(2, c)] })] }
    s.Inv ∧ KV.find? 11 s.ops = some o ∧ s.hasChild 11 = false ∧ KV.find? 2 (s.gang 3).chans = some c ∧
      s.issues 5 (s.gang 3) = true ∧
      s.engineMay 11 key [(true, (s.gang 3).scrKey (x.2.1 + x.2.2.1), 128)] = true ∧ x.2.2.1 + 128 < x.2.2.2 ∧
      (s.gang 3).scrKey (x.2.1 + x.2.2.1) + 128 ≤ scrTop := by
  intro x hx
  refine ⟨inv_of ?_, ?_, ?_, ?_, ?_, ?_, ?_, ?_⟩ <;> revert x <;> decide +kernel

/-- BagEvents: each request at its turn, on a bag with one share, so that the place is known; a record
at the head of a share. -/
def filled (o : Op) : State :=
  { under o with bags := [(3, { bag with scount := 1, f := [(0, 2)], h := [(0, 1)], count := 1, cf := [(0, 2)] })] }
def request (i : Nat) : Op :=
  { kind := [OpK.put (handleOf 3 6) false [{ fibre := key, lane := 5, flag := 3, key := 77, records := [{ bytes := [1, 2] }] }],
      .drain (handleOf 3 6) 4 none 0 none [], .bcount (handleOf 3 6), .bseal (handleOf 3 6), .bfree (handleOf 3 6)].getD i (.wread 0)
    fibre := key, site := 5, flag := 3, dst := 4 }
theorem witness_BagEvents : ∀ i : Fin 5, let s := filled (request i)
    let b := s.bag (bagKey (handleOf 3 6))
    s.Inv ∧ KV.find? 11 s.ops = some (request i) ∧ s.bagTurn 11 (request i) = true ∧
      s.staleBag (request i) (handleOf 3 6) = none ∧ b.isSealed = false ∧ b.fifo = [] ∧ b.mirror = [] ∧ s.countWaits b = false ∧
      11 < s.nextId ∧ (request i).flag < 16 ∧ s.ops.all (fun p => decide (p.1 = 11 ∨ p.2.stage ≠ .away)) = true ∧
      b.cntBank = false ∧ b.cnt % 8 = 0 ∧ DevFree s b.cnt 8 ∧ ∀ n, s.QuietLine n := by
  intro i
  refine ⟨inv_of ?_, ?_, ?_, ?_, ?_, ?_, ?_, ?_, ?_, ?_, ?_, ?_, ?_, devFree_of ?_ ?_, quietLine_of rfl⟩ <;> revert i <;> decide +kernel
theorem witness_place : ∀ ns ∈ [0, 1, 7], ((filled (request 0)).bag 3).place ns 77 = some 0 := by decide +kernel
/-- With the PUT that the record is of still to complete, and with none. -/
theorem witness_share_write : ∀ known : Bool,
    let b : Bag := { bag with fifo := [(3, [.write 2 { bytes := [9, 8, 7, 6] } 11 key 5])] }
    let o : Op := { request 0 with stage := .away }
    let s := { up with bags := [(3, b)], ops := if known then [(11, o)] else [] }
    let p := b.sfirst + 3
    let at_ := b.recKey 3 2
    s.Inv ∧ (s.bag 3).isOpen = true ∧ (s.bag 3).closing = false ∧ (s.bag 3).mirror = [] ∧ at_ + 4 ≤ 2 ^ 52 ∧ p < 384 ∧
      s.normalCmds p = [⟨.item 3 3, bankOf at_, 5⟩] ∧ s.computeCmds p = [] ∧ (s.pch p).owed = none ∧
      (s.pch p).busy.all (fun y => decide (y.1 ≠ bankOf at_)) = true ∧ s.isLost at_ = false ∧ o.flag < 16 ∧
      KV.find? 11 s.ops = (if known then some o else none) := by
  intro known
  refine ⟨inv_of ?_, ?_, ?_, ?_, ?_, ?_, ?_, ?_, ?_, ?_, ?_, ?_, ?_⟩ <;> revert known <;> decide +kernel

/-- A store at an idle bank of the last pseudo-channel that it names, and no command at another; a wave
when the one before it has ended. -/
def banked : Op :=
  { kind := .store [1, 2, 3, 4] [], fibre := key, site := 5, flag := 11, arr := 3, acc := { pa := 0x12_3454, n := 4, bank := true } }
theorem witness_BankEvents : let s := under banked
    let p := scullerOf 0x12_3454
    s.Inv ∧ p < 384 ∧ s.computeCmds p = [] ∧ s.normalCmds p = [⟨.op 11, bankOf 0x12_3454, 3⟩] ∧ s.via banked = .bank ∧
      (s.pch p).owed = none ∧ (s.pch p).busy.all (fun b => decide (b.1 ≠ bankOf 0x12_3454)) = true ∧
      s.computeCmds 383 = [] ∧ s.normalCmds 383 = [] := by
  refine ⟨inv_of ?_, ?_, ?_, ?_, ?_, ?_, ?_, ?_, ?_⟩ <;> decide +kernel
theorem witness_wave : let o : Op := { kind := .wave 2 0x100 0 128 0 0 (List.range 16) [] 3 [], fibre := key, site := 192, flag := 11 }
    let s := under o
    s.Inv ∧ KV.find? 11 s.ops = some o ∧ o.stage = .pending ∧
      (List.range 16).all (fun b => (List.range 16).contains b || !(s.pch (scullerOf 0x100)).busyWith b true) = true := by
  refine ⟨inv_of ?_, ?_, ?_, ?_⟩ <;> decide +kernel

/-! ### Events: the former, waits, launches, the scheduler -/

/-- FormerEvents: a fibre alone in a boathouse; four crews of a sculler of which one can go; a fibre
that ships either way; an arrival into a new and a known slot; a clk. -/
def house (f : Fibre) : State := { up with crews := [], fibres := [(key, f)] }
def home (site : Nat) : Fibre := { fib site [] with slot := none }
theorem witness_crewForm : ∀ site ∈ [5, 200], let s := house (home site)
    s.Inv ∧ (s.freeSlot site).isSome = true ∧ s.joinable site = [] ∧ s.boathouse site = [(key, home site)] ∧
      s.crewsOf site = [] ∧ key = fkey 3 5 ∧ (home site).walking = false := by
  intro site hs
  refine ⟨inv_of ?_, ?_, ?_, ?_, ?_, ?_, ?_⟩ <;> revert site <;> decide +kernel
def crowded : State :=
  let f (i a : Nat) : Nat × Fibre := (3072 + i,
    { home 200 with fid := i, slot := if i < 4 then some i else none, age := a, pc := 4096 + 64 * BitVec.ofNat 54 i })
  { house (home 200) with
    fibres := [f 0 900, f 1 3, f 2 900, f 3 900, f 4 500]
    crews := (List.range 4).map fun i => (ckey 200 i, { gang := 3, fids := [i] }) }
/-- The crew that can go: with nothing left to wait for, in a hint group, and with a flag that is BUSY. -/
theorem witness_crewEvict : ∀ i : Fin 3,
    let cr : Crew := { gang := 3, fids := [1], hints := if i.val = 1 then some hinted else none }
    let s := { crowded with
      crews := (crowded.crews.map fun (x : Nat × Crew) => if x.1 = ckey 200 1 then (x.1, cr) else x)
      fibres := KV.update 3073 (fun f => { f with flags := if i.val = 2 then [(3, { st := .busy })] else [] }) crowded.fibres }
    let f := s.fibre 3073
    let rn := (s.runnable 200).length
    s.Inv ∧ s.freeSlot 200 = none ∧ (s.boathouse 200).any (fun x => x.2.overdue rn) = true ∧
      (s.crewsOf 200).any (fun c => c.2.evict) = false ∧
      ((s.crewsOf 200).filter (fun c => !s.crewHeld c.2 && !c.2.fromJoin &&
        !(c.2.fids.map fun i => s.fibre (fkey c.2.gang i)).any fun y => y.overdue rn || y.walking)) = [(1, cr)] ∧
      f.slot = some 1 ∧ f.site = 200 ∧ KV.find? 3073 s.fibres = some f ∧ fkey cr.gang f.fid = 3073 ∧
      KV.find? (ckey 200 1) s.crews = some cr ∧
      (if i.val = 0 then f.flags = [] else cr.hints.isSome = true ∨ (List.range 16).any f.holds = true) := by
  intro i
  refine ⟨inv_of ?_, ?_, ?_, ?_, ?_, ?_, ?_, ?_, ?_, ?_, ?_⟩ <;> revert i <;> decide +kernel
theorem witness_siteShip : ∀ x ∈ [(5, 575), (200, 5)], let f := { home x.1 with ship := some ⟨x.2, none⟩ }
    let s := house f
    s.Inv ∧ KV.find? key s.fibres = some f ∧ s.settled key = true ∧ s.issues f.site (s.gang 3) = true ∧
      (isSculler x.2 = true → (s.site x.2).arrivals.length < 64) := by
  intro x hx
  refine ⟨inv_of ?_, ?_, ?_, ?_, ?_⟩ <;> revert x <;> decide +kernel
theorem witness_arrival : ∀ fresh : Bool, let f := { home 5 with ship := some ⟨575, some 3⟩ }
    let x : Site := { arrivals := [key, 9], lslots := if fresh then [(0, 7)] else [(0, 7), (1, 3)] }
    let s := { house f with sites := [(575, x)] }
    s.Inv ∧ (s.site 575).arrivals = [key, 9] ∧ x.localSlot 3 = some (1, fresh) ∧ (s.gang 3).window ≤ 2048 ∧
      s.fibres.all (fun y => decide (y.2.site ≠ 575)) = true := by
  intro fresh
  refine ⟨inv_of ?_, ?_, ?_, ?_, ?_⟩ <;> revert fresh <;> decide +kernel
theorem witness_clk : crowded.pkg.powered = true ∧ (crowded.die (dieOf 579)).failed = false ∧
    crowded.boathouse 5 = [] ∧ (crowded.crewsOf 200).any (fun c => c.2.evict) = false := by decide +kernel

/-- WalkBody: the first and the last word of a body. -/
def stepping (i : Nat) : Fibre :=
  { fib 5 [(4, 7), (5, 0xFFFF_FFFE), (12, 0x1000), (14, 9)] with
    preds := 1
    walk := { v0 := 0x10001, v1 := BitVec.ofNat 64 (2 ^ 63 + 2 ^ 45 + i * 2 ^ 32), dims := [2, 3], ptrs := [(12, 0x1000, [5, 100])],
              words := [(Instr.add 0 6 4 5).word, (Instr.or 0 6 4 5).word], next := 5000, flag := 3 } }
theorem witness_WalkBody : ∀ i : Fin 2, let f := stepping i
    Stands { demo f with cur := some (cur 5) } (cur 5) crew f 0 [src 4, src 5, dst 6] ∧ f.walking = true ∧
      f.walk.words[f.walk.pos]? = some ([Instr.add 0 6 4 5, .or 0 6 4 5].getD i (.endw 0)).word := by
  intro i
  refine ⟨stands_of ?_, ?_, ?_⟩ <;> revert i <;> decide +kernel

/-- WaitEvents: a region just timed out, and one that can be taken; a WAITV of a word; a SLEEP of 0. -/
theorem witness_regions : let g : Region := { line := 0x100, ret := 4200, reg := 9, held := true, born := 0, buf := [(4, 9)] }
    let s := { house { home 5 with region := some g } with
      sites := [(576, { clk := 4096 })], dirs := [(0x100, { held := some key })] }
    s.Inv ∧ g.ending = false ∧ s.regionOps key 0x100 = [] ∧ 4096 ≤ s.sliceClk g.line - g.born := by
  refine ⟨inv_of ?_, ?_, ?_, ?_⟩ <;> decide +kernel
theorem witness_regionHeld : let g : Region := { line := 0x100, ret := 4200, reg := 95 }
    let s := house { home 5 with region := some g }
    (g.ending = false ∧ g.dup = false) ∧ s.Inv ∧ s.canHold key 0x100 = true ∧ s.QuietLine 0x100 := by
  exact ⟨⟨rfl, rfl⟩, inv_of (by decide +kernel), by decide +kernel, quietLine_of rfl _⟩
def watching : State :=
  { house { home 200 with wait := some ⟨.waitv 0x8010 0 9 false true false 0, 4100⟩ } with
    mem := [(0x8010, 9)], sites := [(200, { tlb := pages })] }
theorem witness_waitvReload : watching.Inv ∧ (watching.site 200).preds = [] ∧ watching.issues 200 (watching.gang 3) = true ∧
    ∃ x, watching.check 200 1 0x8010 4 4 waitvNeed = .ok x ∧ x.bank = false ∧
      watching.via (waitvLoad key 200 0x8010 x false) = .dir ∧
      watching.mayTake watching.nextId (waitvLoad key 200 0x8010 x false) = true ∧
      watching.lineBusy (waitvLoad key 200 0x8010 x false) = false ∧ watching.earlier watching.nextId key = [] ∧
      watching.QuietLine (x.key / 128) ∧ x.key % 4 = 0 ∧ (watching.home x.key).p = false := by
  have h : ((okOf (watching.check 200 1 0x8010 4 4 waitvNeed)).any fun x => !x.bank &&
      decide (watching.via (waitvLoad key 200 0x8010 x false) = .dir) &&
      watching.mayTake watching.nextId (waitvLoad key 200 0x8010 x false) &&
      !watching.lineBusy (waitvLoad key 200 0x8010 x false) && decide (x.key % 4 = 0) && !(watching.home x.key).p) = true := by
    decide +kernel
  refine ⟨inv_of (by decide +kernel), by decide +kernel, by decide +kernel, ?_⟩
  generalize watching.check 200 1 0x8010 4 4 waitvNeed = r at h
  cases r with
  | error e => cases h
  | ok x =>
    simp only [okOf, Option.any_some, Bool.and_eq_true, Bool.not_eq_true', decide_eq_true_eq] at h
    exact ⟨x, rfl, h.1.1.1.1.1, h.1.1.1.1.2, h.1.1.1.2, h.1.1.2, rfl, quietLine_of rfl _, h.1.2, h.2⟩
theorem witness_sleepExpire : let f := { home 5 with wait := some ⟨.sleep 0, 5000⟩ }
    (house f).Inv ∧ KV.find? key (house f).fibres = some f :=
  ⟨inv_of (by decide +kernel), by decide +kernel⟩

/-- LaunchEvents: a record that is good, and one of too many fibres; a group of gangs that fits; the
last gang of a launch, and one before it. -/
def queued (fibres : Nat) : State :=
  { up with
    crews := [], fibres := []
    mem := poke 8 0x100000 (2 ^ 63 + 0x110000 * 2 ^ 10) (poke 8 0x110000 0xC000_0000_0000_00BE
      (words 0x8100 [0, 0, 0, 0, 0, 0x8000 + fibres + 4 * 2 ^ 18, 1024, 3, 0, 0, 0x4000] []))
    ctxs := [(1, { live := true, dies := 15, pgroot := 0x100000, pending := [10, 8] })]
    launches := [(8, { ctx := 1, prio := 1 }), (10, { ctx := 1, prio := 2 })]
    wqs := [(65535, { base := 0x8000, cfg := BitVec.ofNat 64 (2 ^ 63 + 4 * 2 ^ 52 + 2 ^ 32), tail := 20, head := 4 })] }
theorem take_of {t : Take} {n : Nat}
    (h : (match t with | .status _ => decide (n = 1025) | .ok _ => decide (n = 64) | _ => false) = true) :
    (n = 1025 → ∃ k, t = .status k) ∧ (n = 64 → ∃ l, t = .ok l) := by
  cases t with
  | status k => exact ⟨fun _ => ⟨k, rfl⟩, fun e => by subst e; simp at h⟩
  | ok l => exact ⟨fun e => by subst e; simp at h, fun _ => ⟨l, rfl⟩⟩
  | _ => cases h
theorem witness_wqTakeRecord : ∀ n ∈ [64, 1025], let s := queued n
    let w := s.wq 65535
    let p := ptrAdd 0 (w.base + BitVec.ofNat 64 (w.head.toNat % 2 ^ w.logn * 64)).toNat
    let take := ({ s with sites := [] } : State).takeRecord 0 w.ctx [] (s.ctx w.ctx).dies none p
    (s.Inv ∧ w.ready = true ∧ w.cfg.extractLsb' 56 4 = 0 ∧ (s.ctx w.ctx).live = true ∧ (s.ctx w.ctx).st = .running ∧
      s.turnQueue w.ctx = some 65535 ∧ (w.tail - w.head).toNat ≤ 2 ^ w.logn ∧
      s.ops.all (fun o => decide (o.2.kind ≠ .take 65535)) = true) ∧
    (n = 1025 → ∃ k, take = .status k) ∧ (n = 64 → ∃ l, take = .ok l) := by
  intro n hn
  refine ⟨⟨inv_of ?_, ?_, ?_, ?_, ?_, ?_, ?_, ?_⟩, take_of ?_⟩ <;> revert n <;> decide +kernel
def placing (gangs cw nfib : Nat) : State :=
  { up with
    crews := [], fibres := [], gangs := []
    ctxs := [(1, { live := true, dies := 15, pending := [9, 10] })]
    launches := [(9, { ctx := 1, gangs := gangs, cw := cw, nfib := nfib, window := 32, acc := 4, scr := 2000, dies := 15, consts := [1, 2], entry := 0x4000 })] }
theorem witness_gangPlace : ∀ x ∈ [(3, 2, 64), (1, 4, 1024)], let s := placing x.1 x.2.1 x.2.2
    let l := s.launch 9
    s.Inv ∧ (s.ctx 1).live = true ∧ (s.ctx 1).st = .running ∧ (s.ctx 1).pending = [9, 10] ∧
      KV.has 9 s.launches = true ∧ l.cor = false ∧ l.nfib ≤ 1024 ∧ ∃ cores, s.placeGroups l l.placed 1 = some [cores] := by
  intro x hx
  have h : ((placing x.1 x.2.1 x.2.2).placeGroups ((placing x.1 x.2.1 x.2.2).launch 9)
      ((placing x.1 x.2.1 x.2.2).launch 9).placed 1).any (fun l => decide (l.length = 1)) = true := by
    revert x; decide +kernel
  refine ⟨inv_of ?_, ?_, ?_, ?_, ?_, ?_, ?_, ?_⟩
  on_goal 8 =>
    generalize State.placeGroups _ _ _ 1 = r at h
    cases r with
    | none => cases h
    | some l => match l, h with | [y], _ => exact ⟨y, rfl⟩
  all_goals clear h; revert x; decide +kernel
def ending (gangs : Nat) (compl : Option (Nat × Bool)) : State :=
  { up with
    gangs := [(3, { launch := 9, group := 4, nfib := 1, exited := 1 })], fibres := [], groups := [(4, { gangs := [3] })]
    launches := [(9, { gangs := gangs, compl := compl })] }
theorem witness_gangEnd : ∀ x ∈ [(3, none), (1, none), (1, some (0x8040, false))], let s := ending x.1 x.2
    let g := s.gang 3
    s.Inv ∧ KV.find? 3 s.gangs = some g ∧ g.nfib ≤ g.exited ∧ s.gangFibres 3 = [] ∧
      s.ops.all (fun o => decide (o.2.fibre / 1024 ≠ 3)) = true ∧ (s.lastWord g).any s.cellHeld = false ∧
      (s.launch g.launch).gangs = x.1 ∧ InDram 0x8040 4 ∧ s.isLost 0x8040 = false ∧ s.pkg.vfNext = [] := by
  intro x hx
  refine ⟨inv_of ?_, ?_, ?_, ?_, ?_, ?_, ?_, inDram_of ?_, ?_, ?_⟩ <;> revert x <;> decide +kernel

/-- SchedulerEvents: a ring of four entries on dies 2 and 3, on none, on none that is runnable, and on dies 0
and 1, whose context has a launch to place; context 1 stands on `dies`. -/
def scheduled (dies : BitVec 4) (st : CtxSt := .running) (pending : List Nat := [4]) : State :=
  let ent (blk dies : Nat) : List Nat := [50 * 2 ^ 16, 0x8000_0014 + dies * 2 ^ 24, blk, 0]
  { up with
    crews := [], fibres := [], gangs := []
    mem := words 0x5000 (ent 0x6000 0 ++ ent 0x6041 3 ++ ent 0x6080 3) (words 0x6040 [0, 0, 0x200000] (words 0x6080 [0, 0, 0x200000, 0, 0x108000, 0, 0, 0, 1] []))
    pkg := { complete := true, stage := 5, ringbase := 0x5000, ringlen := 4, ringptr := 0 }
    ctxs := [(1, { live := true, dies := dies, slice := 3, st := st, blk := 0x6040 }), (2, { pending := pending })] }
theorem witness_schedStep : ∀ p ∈ [[4], []], let s := scheduled 12 .running p
    let order := (List.range s.ringSize).map fun k => (s.pkg.ringptr + k) % s.ringSize
    let found := order.find? fun i => s.entryReady i (s.ringEntry i)
    s.Inv ∧ s.pkg.reserved = none ∧ found = (if p = [] then none else some 2) ∧ s.inPlace 2 (s.ringEntry 2) = false ∧
      (entV (s.ringEntry 0) && s.ringBad (s.ringEntry 0)) = true ∧
      ({ s with ctxs := [(2, { live := true, dies := 3, blk := 0x6080, pending := p })] } : State).inPlace 2 (s.ringEntry 2) =
        true := by
  intro p hp
  refine ⟨inv_of ?_, ?_⟩ <;> revert p <;> decide +kernel
/-- Where the savers of context 1 save: outside its block. -/
def areasOk (s : State) : Bool :=
  let blk := (s.ctx 1).blk
  let area (n : Nat) : Nat := coreArea (s.block blk) n
  quietOk s && decide (blk % 64 = 0 ∧ blk + 8 ≤ 0xC0_0000_0000) &&
    (s.savers 1).all fun n => decide (blk + 8 ≤ area n ∧ area n + 2 ^ 21 ≤ 0xC0_0000_0000)
theorem areas_of {s : State} (h : areasOk s = true) : let blk := (s.ctx 1).blk
    let area (n : Nat) : Nat := coreArea (s.block blk) n
    DevFree s blk 8 ∧ blk % 64 = 0 ∧
    ∀ n ∈ s.savers 1, DevFree s (area n) (2 ^ 21) ∧ (blk + 8 ≤ area n ∨ area n + 2 ^ 21 ≤ blk) := by
  simp only [areasOk, Bool.and_eq_true, decide_eq_true_eq, List.all_eq_true] at h
  exact ⟨devFree_of h.1.1 h.1.2.2, h.1.2.1, fun n hn => ⟨devFree_of h.1.1 (h.2 n hn).2, .inl (h.2 n hn).1⟩⟩
/-- A slice that is renewed, and one that ends: of a context with no gang, or with one of one fibre, running or
quiesced. -/
def saving (dies : BitVec 4) (st : CtxSt) (one : Bool) : State :=
  { scheduled dies st with
    gangs := if one then [(3, gang)] else []
    fibres := if one then [(key, { home 5 with win := [(95, { v := 8 })] })] else [] }
theorem witness_sliceEnd : ∀ st ∈ [CtxSt.running, .quiesced], ∀ dies ∈ [(12 : BitVec 4), 7], ∀ one : Bool,
    let s := saving dies st one
    s.Inv ∧ KV.find? 1 s.ctxs = some (s.ctx 1) ∧ (s.ctx 1).live = true ∧ (s.ctx 1).slice ≠ 0 ∧
      s.wanted 1 = decide (dies = 7) ∧ s.midGroup 1 = false ∧ s.ctxOps 1 = [] ∧
      (s.ctxFibres 1).all (fun f => !f.2.away && f.2.region.isNone) = true ∧ areasOk s = true ∧
      (if one then s.ctxGangs 1 = [(3, gang)] ∧ (s.ctxFibres 1).map Prod.fst = [key] else s.ctxGangs 1 = []) := by
  intro st hs dies hd one
  refine ⟨inv_of ?_, ?_⟩ <;> revert st dies one <;> decide +kernel

/-- A reserved entry whose context has a block that is fresh; that says a save but has no area; and whose area
holds a gang of one fibre, as its record says. -/
def restoring (st seq : Nat) (areas : List (Nat × Saved)) : State :=
  let s := scheduled 12
  let s := { s with
    mem := poke 64 (6 * 2 ^ 21 + 0x14_2000) (0x8888 + 2 ^ 191 + 7 * 2 ^ 153)
      (words 0x6080 [seq, st * 2 ^ 30, 0x200000, 0, 0x108000, 0, 0, 0, 1] s.mem)
    saved := areas }
  { s with pkg := { s.pkg with reserved := some (2, s.ringEntry 2) } }
def savedOne : Saved := { ctx := 2, core := 5, gangs := [(3, gang)], fibres := [(key, home 5)] }
theorem witness_Restores : ∀ x ∈ [(0, 0, []), (2, 1, []), (2, 1, [(6, savedOne)])],
    let s := restoring x.1 x.2.1 x.2.2
    let m := s.ringEntry 2
    let b := s.block (entBlk m)
    let f := home 5
    (s.Inv ∧ DevFree s (entBlk m) 8) ∧ s.pkg.reserved = some (2, m) ∧ (s.ctx 2).live = false ∧ s.entryReady 2 m = true ∧
      s.diesFree 2 (entDies m) = true ∧ b.fresh = decide (x.1 = 0) ∧ b.st = x.1 ∧ b.seq = x.2.1 ∧ s.areas b = x.2.2 ∧
      (x.2.2 ≠ [] → let record := s.peekNat (6 * 2 ^ 21 + 0x14_2000) 64
        s.checks (6, savedOne) = true ∧ recordBad record = false ∧ record.testBit 191 = true ∧
          released f record = false ∧ winOff f + 4 * gang.window ≤ 2 ^ 18) := by
  intro x hx
  refine ⟨⟨inv_of ?_, devFree_of ?_ ?_⟩, ?_⟩ <;> revert x <;> decide +kernel
theorem witness_restore_area : InDram (6 * 2 ^ 21) (2 ^ 21) := fun i hi => isDram_of (by omega)
theorem witness_faultQueueAppend : ∀ head ∈ [5, 4], ∀ w : Bool,
    let e : CEnt := { ctx := 1, cls := .perm, reason := 1, page := 8, record := {}, fibres := [1], waited := w }
    let s := { up with dies := [(1, { fqbase := 0x7000, fqtail := 20, fqhead := BitVec.ofNat 32 head, ctab := [(4, e)] })] }
    let d := s.die 1
    let pa := d.fqbase.toNat + d.fqtail.toNat % d.fqSize * 64
    s.Inv ∧ d.failed = false ∧ d.nextReport = some (e, some 4) ∧
      (if head = 5 then (d.fqtail - d.fqhead).toNat < d.fqSize else d.fqSize ≤ (d.fqtail - d.fqhead).toNat) ∧
      DevFree s pa 64 ∧ pa % 4 = 0 := by
  intro head hh w
  refine ⟨inv_of ?_, ?_, ?_, ?_, devFree_of ?_ ?_, ?_⟩ <;> revert head w <;> decide +kernel

theorem okAny_of {ε α : Type} {e : Except ε α} {p : α → Bool} (h : (okOf e).any p = true) : ∃ x, e = .ok x ∧ p x = true := by
  cases e with
  | error _ => cases h
  | ok x => exact ⟨x, rfl, h⟩
theorem error2_of {α β γ : Type} {e : Except (α × β) γ} (h : (okOf e).isNone = true) : ∃ a b, e = .error (a, b) := by
  cases e with
  | error x => exact ⟨x.1, x.2, rfl⟩
  | ok _ => cases h

/-! ### The step, operands that trap, queues -/

/-- ByteStores: a byte at the last address, and an empty store. -/
theorem witness_ByteStores : Memory.canon (2 ^ 52) [(2 ^ 52 - 1, 7)] = true ∧ Memory.canon (2 ^ 52) [] = true := by
  decide +kernel
/-- EncodeDecode, the other direction: the words of the tests above. -/
theorem witness_EncodeDecode : (Instr.ld 11 4 2 4 1 0).isWord = true ∧ (Instr.ld 11 4 2 4 1 0).wf = true ∧
    decode 0x81610144 = .ok (.ld 11 4 2 4 1 0) := by decide +kernel

/-- StepRunsTheWord: the turn of the crew, at a word that is an instruction and at one that is none. -/
def turn (w : Nat) : State :=
  { demo { fib 5 [] with pc := 0x8000 } with mem := words 0x8000 [w] [], agenda := [.issue 5 7 true false], cur := none }
theorem witness_StepRunsTheWord : ∀ w ∈ [0x011F_3E7C, 0x3C00_000B, 0x5E00_0000], let s := turn w
    let f := s.fibre (fkey 3 5)
    s.agenda = [.issue 5 7 true false] ∧ KV.find? (ckey 5 7) s.crews = some crew ∧ crew.fids = [5] ∧ crew.idle = 0 ∧ crew.evict = false ∧
      (s.site 5).budget ≠ 0 ∧ f.walking = false ∧ s.fetchWord 5 1 f.pc = .ok (BitVec.ofNat 32 w) ∧
      ∃ x, s.xlate 5 1 f.pc 4 = .ok x ∧ x.leaf.getLsbD 3 = true ∧ x.leaf.getLsbD 4 = true ∧ InDram x.pa 4 ∧
        x.bank = false ∧ s.isLost x.pa = false ∧ s.QuietLine (x.key / 128) ∧ KV.range (32 * (x.key / 128)) 32 s.mpoison = [] ∧
        (s.home x.key).p = false ∧ x.key % 4 = 0 := by
  intro w hw
  have h : ((okOf ((turn w).xlate 5 1 0x8000 4)).any fun x => x.leaf.getLsbD 3 && x.leaf.getLsbD 4 &&
      (List.range 4).all (fun i => isDram (x.pa + i)) && !x.bank && !(turn w).isLost x.pa && !((turn w).home x.key).p &&
      decide (x.key % 4 = 0)) = true := by revert w; decide +kernel
  refine ⟨?_, ?_, ?_, ?_, ?_, ?_, ?_, ?_, ?_⟩
  on_goal 9 =>
    obtain ⟨x, hx, hp⟩ := okAny_of h
    simp only [Bool.and_eq_true, Bool.not_eq_true', decide_eq_true_eq] at hp
    exact ⟨x, hx, hp.1.1.1.1.1.1, hp.1.1.1.1.1.2, inDram_of hp.1.1.1.1.2, hp.1.1.1.2, hp.1.1.2, quietLine_of rfl _, rfl, hp.1.2, hp.2⟩
  all_goals clear h; revert w; decide +kernel

/-- RegisterOperands: each reason, in and out of handler mode; a poisoned source. -/
def poisoned (hm : Bool) : Fibre := { fib 5 [(4, 6)] with hm := hm, win := [(4, { v := 6 }), (5, { v := 9, p := true })] }
theorem witness_OperandTraps : ∀ h ∈ [none, some hinted], ∀ hm : Bool, let s := demo (poisoned hm) h
    let f := poisoned hm
    Solo s (cur 5) (crew h) f ∧ (∀ n, f.IdleFlag n) ∧ guardOk 0 (f.now ((crew h).group 4096)) = true ∧
      PlainHints ((crew h).group 4096) ∧ (isSuper 5 && f.hm) = false ∧
      usesErr (s.gang 3) 1 [src 4, src 127, dst 96] = some 2 ∧ usesErr (s.gang 3) 1 [src 4, src 112, dst 6] = some 3 ∧
      usesErr (s.gang 3) 1 [src 4, src 4, dst 96] = some 3 ∧ usesErr (s.gang 3) 1 [src 4, src 5, dst 95] = none ∧
      poisonReg [src 4, src 5, dst 95] (operands s (s.gang 3) (f.now ((crew h).group 4096)) [src 4, src 5, dst 95]) = some 5 := by
  intro h hh hm
  refine ⟨solo_of ?_, idle_of ?_, ?_, plain_of ?_, ?_, ?_, ?_, ?_, ?_, ?_⟩ <;> revert h hm <;> decide +kernel
/-- The first and last number of each range of register fields, over a window of 32. -/
theorem witness_RegisterFields : let q : Queue := { kind := 2, ew := 1 }
    let g := { gang with window := 32, queues := [(11, q)] }
    [(30, 2), (32, 1), (94, 2), (31, 2), (95, 1)].map (fun x => Use.err g 1 (src x.1 x.2)) =
      [none, some 2, some 2, some 2, some 2] ∧
    [(96, 1), (97, 2), (111, 1), (112, 1), (123, 1), (124, 4), (126, 1), (125, 2), (127, 1)].map
      (fun x => Use.err g 1 (src x.1 x.2)) =
      [none, some 3, none, some 3, some 3, none, none, some 3, some 2] ∧
    KV.find? (123 - 112) g.queues = some q ∧ KV.find? (112 - 112) g.queues = none := by decide +kernel

/-- QueueOperands: the head of a ring of either kind, and the tail of one with room for one. -/
def ringed (kind head tail : Nat) (h : Option Hints) : State :=
  { demo regs h with
    gangs := [(3, { gang with queues := [(2, { kind := kind, ew := 0, slm1 := 7, base := 0x40, head := head, tail := tail })] })] }
theorem witness_QueueOperands : ∀ h ∈ [none, some hinted], ∀ x ∈ [(1, 0, 1), (2, 1, 2), (1, 8, 10), (1, 2, 9)],
    let s := ringed x.1 x.2.1 x.2.2 h
    let q := (KV.find? 2 (s.gang 3).queues).getD { kind := 0, ew := 0 }
    let slot (i : Nat) : Nat := (s.gang 3).scrKey (q.base + i % q.slots * 4)
    Solo s (cur 5) (crew h) regs ∧ (∀ n, regs.IdleFlag n) ∧ guardOk 0 (regs.now ((crew h).group 4096)) = true ∧
      PlainHints ((crew h).group 4096) ∧ usesErr (s.gang 3) 1 [src 114, src 4, dst 6] = none ∧
      (readReg (s.gang 3) (regs.now ((crew h).group 4096)) 4).p = false ∧ q.head < q.tail ∧
      (s.scrWord (slot q.head)).p = false ∧
      (x.1 = 1 → usesErr (s.gang 3) 1 [src 4, src 5, dst 114] = none ∧ 0 < s.room 1 q) ∧ slot q.tail + 4 ≤ scrTop ∧
      s.accessPending key = false := by
  intro h hh x hx
  refine ⟨solo_of ?_, idle_of ?_, ?_, plain_of ?_, ?_, ?_, ?_, ?_, ?_, ?_, ?_⟩ <;> revert h x <;> decide +kernel

/-- AccessTraps: an address one short of a word; a pointer tag without bounds; a page that is not
mapped; a page without the permission, and one that is not for users. -/
def trapping (p lowBits : Nat) (tag : Nat := 0) : State :=
  let f := fib 5 [(4, BitVec.ofNat 32 p), (5, BitVec.ofNat 32 (tag * 2 ^ 22))]
  { demo f with
    ctxs := [(1, { live := true, dies := 15, bndtbl := 0x4001 })]
    sites := [(5, { budget := 4, tlb := [(2 ^ 42 + 8, 1, BitVec.ofNat 64 (0xC000_0000_0000_00A0 + 8 * 2 ^ 22 + lowBits))], bnd := [(1024 + 1, 0)] })] }
theorem witness_AccessTraps : ∀ x ∈ [(0x8003, 30, 0), (0x8000, 30, 1), (0xF000, 30, 0), (0x8010, 24, 0), (0x8010, 14, 0)],
    ∀ wr : Bool, let us := [src 4 2, if wr then src 8 else dst 8]
    let s := trapping x.1 x.2.1 x.2.2
    let P := (env s us).ptr 0
    Stands s (cur 5) crew (s.fibre key) 0 us ∧
      (x.1 = 0x8003 → (ptrVa P).toNat % 4 ≠ 0) ∧
      (x.1 ≠ 0x8003 → (ptrVa P).toNat % 4 = 0 ∧ s.boundsOk 5 1 P 4 (!wr) wr = decide (x.2.2 = 0)) ∧
      (x.1 = 0xF000 → ∃ r lv, s.xlate 5 1 (ptrVa P) 4 = .error (r, lv)) ∧
      (x.1 = 0x8010 → ∃ y, s.xlate 5 1 (ptrVa P) 4 = .ok y ∧
        (y.leaf.getLsbD (if wr then 2 else 1) == decide (x.2.1 = 14) && y.leaf.getLsbD 4 == decide (x.2.1 = 24)) = true) := by
  intro x hx wr
  refine ⟨stands_of ?_, ?_, ?_, fun h => error2_of ?_, fun h => okAny_of ?_⟩
  on_goal 4 => revert h
  on_goal 5 => revert h
  all_goals revert x wr; decide +kernel

end Sys2Proof.Tests
end

/-! ### Byte stores: what zeroing reads as, and that the canonical form is one per content -/

section
namespace Sys2Proof.KV
variable {α : Type} {m m' : List (Nat × α)} {lo n k : Nat} {v : α}

theorem mem_of_find? (h : find? k m = some v) : (k, v) ∈ m := by
  induction m with
  | nil => cases h
  | cons x t ih =>
    obtain ⟨j, w⟩ := x
    unfold find? at h
    split_ifs at h with heq
    · cases h
      exact heq ▸ List.mem_cons_self
    · exact List.mem_cons_of_mem _ (ih h)

/-- In a sorted store, being listed and being found are the same. -/
theorem find?_eq_some_iff (h : sorted m = true) : find? k m = some v ↔ (k, v) ∈ m :=
  ⟨mem_of_find?, find?_of_mem h⟩

theorem find?_filter_key (p : Nat → Bool) (h : sorted m = true) :
    find? k (m.filter fun e => p e.1) = if p k then find? k m else none := by
  ext v
  rw [find?_eq_some_iff (sorted_filter _ m h), List.mem_filter, ← find?_eq_some_iff h]
  cases p k <;> simp

theorem find?_delRange (h : sorted m = true) :
    find? k (delRange lo n m) = if lo ≤ k ∧ k < lo + n then none else find? k m := by
  have hp := find?_filter_key (k := k) (fun j => !(decide (lo ≤ j) && decide (j < lo + n))) h
  rw [delRange, hp]
  simp only [← Bool.decide_and, Bool.not_eq_true', decide_eq_false_iff_not, ite_not]

theorem sortedFrom_pairwise (h : sortedFrom lo m = true) :
    (∀ e ∈ m, lo ≤ e.1) ∧ m.Pairwise fun a b => a.1 < b.1 := by
  induction m generalizing lo with
  | nil => simp
  | cons x t ih =>
    simp only [sortedFrom, Bool.and_eq_true, decide_eq_true_eq] at h
    obtain ⟨hlo, ht⟩ := h
    obtain ⟨hge, hpw⟩ := ih ht
    refine ⟨List.forall_mem_cons.2 ⟨hlo, fun e he => ?_⟩, List.pairwise_cons.2 ⟨hge, hpw⟩⟩
    have := hge e he
    omega

/-- Sorted stores in which every key finds the same are equal: they are permutations of each other, and
keys that rise strictly leave one order. -/
theorem ext_of_find? (h : sorted m = true) (h' : sorted m' = true)
    (hf : ∀ k, find? k m' = find? k m) : m' = m := by
  have rising (l : List (Nat × α)) (hl : sorted l = true) : l.Pairwise fun a b => a.1 < b.1 :=
    (sortedFrom_pairwise hl).2
  have nodup (l : List (Nat × α)) (hl : sorted l = true) : l.Nodup :=
    (rising l hl).imp fun hlt heq => absurd (congrArg Prod.fst heq) hlt.ne
  have perm : m'.Perm m := (List.perm_ext_iff_of_nodup (nodup m' h') (nodup m h)).2 fun e => by
    rw [← find?_eq_some_iff h', ← find?_eq_some_iff h, hf]
  exact perm.eq_of_pairwise (fun a b _ _ hab hba => absurd hba hab.asymm) (rising m' h') (rising m h)

variable [DecidableEq α] {d : α}

theorem find?_ne_default (h : noDefault d m = true) : find? k m ≠ some d := by
  intro hk
  simpa using List.all_eq_true.1 h _ (mem_of_find? hk)

/-- Where no entry equals the default, what a key reads as says what is listed under it. -/
theorem find?_eq_ite_getD (h : noDefault d m = true) :
    find? k m = if getD k d m = d then none else some (getD k d m) := by
  unfold getD
  cases hk : find? k m with
  | none => simp
  | some w =>
    have hw : w ≠ d := fun e => find?_ne_default h (e ▸ hk)
    simp [hw]

end Sys2Proof.KV
end

section
namespace Sys2Proof.Machine
variable {top : Nat} {m m' : List Host.Cell}

theorem Memory.canon_noDefault (h : Memory.canon top m = true) : KV.noDefault 0 m = true := by
  simp only [Memory.canon, Bool.and_eq_true] at h
  exact h.1.2

theorem Memory.read_zero (h : Memory.canon top m = true) (lo n a : Nat) :
    Memory.read (Memory.zero lo n m) a = if lo ≤ a ∧ a < lo + n then 0 else Memory.read m a := by
  simp only [Memory.read, Memory.zero, KV.getD, KV.find?_delRange (Memory.canon_sorted h)]
  split <;> rfl

theorem Memory.ext_of_read (h : Memory.canon top m = true) (h' : Memory.canon top m' = true)
    (hr : ∀ a, Memory.read m' a = Memory.read m a) : m' = m :=
  KV.ext_of_find? (Memory.canon_sorted h) (Memory.canon_sorted h') fun a => by
    have ha : KV.getD a 0 m' = KV.getD a 0 m := hr a
    rw [KV.find?_eq_ite_getD (Memory.canon_noDefault h'), ha, ← KV.find?_eq_ite_getD (Memory.canon_noDefault h)]

/-- Settles O54: the laws of writing and of zeroing, and that reads determine a canonical store. -/
theorem byteStores : Obligations.ByteStores := by
  unfold Obligations.ByteStores
  intro top m h
  refine ⟨fun a b => ⟨?keeps, ?same, ?other⟩, fun lo n a => ⟨?zeroKeeps, ?zeroed⟩, ?ext⟩
  case keeps => exact Memory.canon_write h
  case same => exact fun ha => Memory.read_write_self h ha b
  case other => exact fun x hx => Memory.read_write_ne h hx b
  case zeroKeeps => exact Memory.canon_zero h
  case zeroed => exact Memory.read_zero h lo n a
  case ext => exact fun m' h' hr => Memory.ext_of_read h h' hr

end Sys2Proof.Machine
end

section
namespace Sys2Proof.Machine

/-- Every row answers the state of a run: an undefined word is a hint word or an instruction of its
group, and every other row is one run of its own. -/
theorem exec_run (i : Instr) (s : State) : ∃ r : Run s, exec i s = r.out := by
  cases i
  case undefinedEncoding w =>
    simp only [exec, execUndefinedEncoding]
    split <;> exact ⟨_, rfl⟩
  case plog g a b sc =>
    simp only [exec, execPlog]
    split <;> exact ⟨_, rfl⟩
  case func g d a f =>
    simp only [exec, execFunc]
    split <;> exact ⟨_, rfl⟩
  all_goals exact ⟨_, rfl⟩

/-- An outcome that goes on, in a state that keeps the invariant of `s`. -/
def KeepsForm (s : State) (o : Host.Outcome State Fault Refusal) : Prop :=
  ∃ t, o = .next t ∧ (s.Inv → t.Inv)

theorem Run.keepsForm {s0 : State} (r : Run s0) : KeepsForm s0 r.out := ⟨r.s, rfl, r.ok⟩

theorem KeepsForm.of_inv {s s' : State} {o} (h : KeepsForm s' o) (hs : s.Inv → s'.Inv) : KeepsForm s o := by
  obtain ⟨t, ho, ht⟩ := h
  exact ⟨t, ho, ht ∘ hs⟩

theorem exec_keepsForm (i : Instr) (s : State) : KeepsForm s (exec i s) := by
  obtain ⟨r, hr⟩ := exec_run i s
  exact hr ▸ r.keepsForm

theorem State.turn_inv (s : State) (h : s.Inv) : s.turn.2.Inv := by
  unfold State.turn
  split
  · exact ⟨h.mem, h.scr, h.fibres⟩
  · exact ((Run.start s).ticked.strike s.tick).ok h

/-- A crew whose turn comes too late either waits, as its word has it, or becomes ready. -/
theorem Run.later_keepsForm {s0 : State} (r : Run s0) (site slot : Nat) {o : Host.Outcome State Fault Refusal}
    (h : KeepsForm s0 o) : KeepsForm s0 (r.later site slot o) := by
  have ready : KeepsForm s0 (r.ready site slot).out := (r.ready site slot).keepsForm
  obtain ⟨t, rfl, ht⟩ := h
  simp only [Run.later]
  split
  · split_ifs
    · exact ready
    · exact ⟨t, rfl, ht⟩
  · exact ready

/-- The step in each of its cases: a fetch without a word, a word, a word whose turn comes too late, and
an event, which passes where it is a crew's. -/
theorem step_safe (s : State) : Safe s := by
  suffices h : KeepsForm s.turn.2 (step s) from h.of_inv s.turn_inv
  simp only [step]
  obtain ⟨turn, s1⟩ := s.turn
  cases turn with
  | issue site slot wait cold =>
    dsimp only
    obtain ⟨r, f⟩ := (Run.start s1).fetch site slot wait cold
    have word (i : Instr) : KeepsForm s1 (exec i r.s) := (exec_keepsForm i r.s).of_inv r.ok
    cases f with
    | none => exact r.keepsForm
    | instr i => exact word i
    | later i => exact r.later_keepsForm site slot (word i)
  | event i =>
    dsimp only
    split_ifs
    · exact ⟨s1, rfl, id⟩
    · exact exec_keepsForm i s1

/-- Settles O56: every outcome of the step is the state of a run, which carries the invariant. -/
theorem stepsKeepTheForm : Obligations.StepsKeepTheForm := by
  unfold Obligations.StepsKeepTheForm
  refine ⟨fun s t hs hst => ?_, fun s => ?_⟩
  · obtain ⟨t', ht', hinv⟩ := step_safe s
    obtain rfl : t' = t := by simpa [ht'] using hst
    exact hinv hs
  · obtain ⟨t, ht, -⟩ := step_safe s
    exact ⟨t, ht⟩

end Sys2Proof.Machine
end

/-! ### Words whose access traps: the law for a one-fibre crew, and the state in which it is not all that happens -/

section
namespace Sys2Proof
open Machine
variable {s0 s t : State} {c : Cur} {cr : Crew} {f : Fibre}

/-! ### What the checks of an access read -/

/-- `t` differs from `s` in fibres, in crews, and in what no check of an access reads of the sites. -/
structure SameChecks (s t : State) : Prop where
  rest : t = { s with fibres := t.fibres, crews := t.crews, sites := t.sites }
  tlb : ∀ k, (t.site k).tlb = (s.site k).tlb
  bnd : ∀ k, (t.site k).bnd = (s.site k).bnd

theorem SameChecks.peekNat (h : SameChecks s t) (pa n : Nat) : t.peekNat pa n = s.peekNat pa n := by
  rw [h.rest]; rfl
theorem SameChecks.ctx (h : SameChecks s t) (k : Nat) : t.ctx k = s.ctx k := by rw [h.rest]; rfl
theorem SameChecks.entryBad (h : SameChecks s t) (level : Nat) (e : DWord) (va : VAddr) :
    t.entryBad level e va = s.entryBad level e va := by rw [h.rest]; rfl
theorem SameChecks.isLost (h : SameChecks s t) (pa : Nat) : t.isLost pa = s.isLost pa := by rw [h.rest]; rfl

theorem SameChecks.bndEntry (h : SameChecks s t) (site ctx tag : Nat) :
    t.bndEntry site ctx tag = s.bndEntry site ctx tag := by
  simp only [State.bndEntry, h.bnd, h.ctx, h.peekNat]

theorem SameChecks.boundsOk (h : SameChecks s t) (site ctx : Nat) (p : DWord) (n : Nat) (rd wr : Bool) :
    t.boundsOk site ctx p n rd wr = s.boundsOk site ctx p n rd wr := by
  simp only [State.boundsOk, h.ctx, h.bndEntry]

theorem SameChecks.walk (h : SameChecks s t) (ctx : Nat) (va : VAddr) (level table : Nat) :
    t.walk ctx va level table = s.walk ctx va level table := by
  induction level generalizing table with
  | zero => rfl
  | succ level ih => simp only [State.walk, h.peekNat, h.entryBad, ih]

theorem SameChecks.leafOf (h : SameChecks s t) (site ctx : Nat) (va : VAddr) :
    t.leafOf site ctx va = s.leafOf site ctx va := by
  simp only [State.leafOf, h.tlb, h.ctx, h.walk]

theorem SameChecks.xlate (h : SameChecks s t) (site ctx : Nat) (va : VAddr) (n : Nat) :
    t.xlate site ctx va n = s.xlate site ctx va n := by
  simp only [State.xlate, h.leafOf]

theorem SameChecks.check (h : SameChecks s t) (site ctx : Nat) (p : DWord) (n al : Nat) (nd : Need) :
    t.check site ctx p n al nd = s.check site ctx p n al nd := by
  simp only [State.check, h.isLost, h.boundsOk, h.xlate]

theorem State.site_put (s : State) (k j : Nat) (x : Site) :
    ({ s with sites := KV.put k x s.sites } : State).site j = if j = k then x else s.site j := by
  by_cases hj : j = k
  · subst hj
    simp [State.site, KV.getD, KV.find?_put_self]
  · simp [State.site, KV.getD, KV.find?_put_ne hj, hj]

/-- Taking an issue slot changes nothing that a check reads. -/
theorem slotTaken_sameChecks (n : Nat) (h : KV.find? (ckey c.site c.slot) s.crews = some cr) :
    SameChecks s (slotTaken s c n).s := by
  have hsite (k : Nat) : (slotTaken s c n).s.site k =
      if k = c.site then (s.site c.site).spent c.site n else s.site k := by
    rw [slotTaken_rest s c n h]
    exact State.site_put s c.site k _
  refine ⟨?_, fun k => ?_, fun k => ?_⟩
  · rw [slotTaken_rest s c n h]
  · rw [hsite]
    split_ifs with hk
    · rw [hk]; rfl
    · rfl
  · rw [hsite]
    split_ifs with hk
    · rw [hk]; rfl
    · rfl

/-! ### A trap of a one-fibre crew -/

theorem Machine.Fibre.now_lane (f : Fibre) (h : Hints) : (f.now h).lane = f.lane := by
  simp only [Fibre.lane, Fibre.now, Fibre.settle_fid, Fibre.settle_site]

/-- The lane of a one-fibre crew whose guard holds is as the statements name it. -/
theorem Solo.lane_eq (S : Solo s c cr f lr) (d : Desc s) (he : d.eights = none)
    (hg : guardOk d.guard (f.now (cr.group f.pc)) = true) :
    soloLane s c cr d f = soloEnv s c cr f d.uses := by
  have hbody : c.body = false := S.ready.word
  have henv : mkEnv s c cr d f.fid =
      { soloEnv s c cr f d.uses with mask := 0, v := [] } := by
    have hnow : f.settle (f.count + 1 + (cr.hints.getD (noHints f.pc)).dist) = f.now (cr.group f.pc) := rfl
    simp only [mkEnv, S.fibre, S.member.full.look, hbody, Bool.false_eq_true, if_false, hnow, hg, Bool.or_true,
      Fibre.now_lane]
    rfl
  simp only [soloLane, laneOf, S.one, List.map_cons, List.map_nil, henv, he]
  rfl

theorem KV.del_put {α : Type} (k : Nat) (v : α) (m : List (Nat × α)) : KV.del k (KV.put k v m) = KV.del k m := by
  induction m with
  | nil => simp [KV.put, KV.del]
  | cons x t ih =>
    obtain ⟨j, w⟩ := x
    rcases Nat.lt_trichotomy j k with hjk | rfl | hkj
    · simp [KV.put, KV.del, hjk, ih]
    · simp [KV.put, KV.del]
    · simp [KV.put, KV.del, Nat.not_lt.2 hkj.le, hkj.ne']

@[simp] theorem Machine.State.fibre_issued (y : Fibre) (n : Nat) :
    (s.issued c cr y n).fibre (fkey cr.gang y.fid) = y := by
  simp [State.fibre, State.issued, KV.getD, KV.find?_put_self]

/-- The fibre of a one-fibre crew leaves it, and the crew ends. -/
theorem leaveCrew_issued (one : cr.fids = [f.fid]) {r : Run s0} {y : Fibre} (hr : r.s = s.issued c cr y 1)
    (hfid : y.fid = f.fid) (hsite : y.site = c.site) (hslot : y.slot = some c.slot) :
    (r.leaveCrew (fkey cr.gang f.fid)).s = s.vacated c cr f { y with slot := none, wbuf := [] } := by
  have hf : r.s.fibre (fkey cr.gang f.fid) = y := by rw [hr, ← hfid, State.fibre_issued]
  have hfind : KV.find? (fkey cr.gang f.fid) r.s.fibres = some y := by
    rw [hr, ← hfid]; exact KV.find?_put_self _ _ _
  have hcrew : KV.find? (ckey c.site c.slot) r.s.crews = some { cr with hints := none, stall := 0 } := by
    rw [hr]; exact KV.find?_put_self _ _ _
  simp only [Run.leaveCrew, hf, hslot, hsite, hcrew, one, hfid, ne_eq, not_true_eq_false, decide_false,
    List.filter_cons_of_neg, List.filter_nil, Bool.false_eq_true, not_false_eq_true, Run.updFibre, hfind]
  simp only [Run.mod, State.keep, Run.setFibre, if_true, hr, State.issued, State.vacated, hfid, KV.put_put, KV.del_put]

theorem updFibre_found {r : Run s0} {k : Nat} {y : Fibre} (h : KV.find? k r.s.fibres = some y) (F : Fibre → Fibre) :
    r.updFibre k F = r.setFibre k (F y) := by
  simp only [Run.updFibre, h]

/-- The fibre that has left its crew takes a change of its own. -/
theorem updFibre_vacated {r : Run s0} {y : Fibre} (hr : r.s = s.vacated c cr f y) (F : Fibre → Fibre) :
    (r.updFibre (fkey cr.gang f.fid) F).s = s.vacated c cr f (F y) := by
  rw [updFibre_found (by rw [hr]; exact KV.find?_put_self _ _ _)]
  simp only [Run.setFibre, hr, State.vacated, KV.put_put]

theorem fibre_vacated (y : Fibre) : (s.vacated c cr f y).fibre (fkey cr.gang f.fid) = y := by
  simp [State.fibre, State.vacated, KV.getD, KV.find?_put_self]

theorem abortRegion_none {r : Run s0} {k : Nat} (h : (r.s.fibre k).region = none) (reason : Nat) :
    r.abortRegion k reason = r := by
  simp only [Run.abortRegion, h]

theorem mkRecord_pc (g : Gang) (y : Fibre) (x low : Fail) (lanes : Word) : (mkRecord g y x low lanes).pc = x.pc := by
  simp only [mkRecord, TrapRec.pc]
  exact BitVec.extractLsb'_append_eq_right

/-- One failure is raised once, under its own class. -/
theorem raise_one (r : Run s0) (x : Fail) : r.raise [x] = r.raiseClass [x] := by
  have one (q : Run s0) (cls : Cls) :
      (q.each ((([x].filter fun y => decide (y.cls = cls)).map fun y => (y.eight, y.eng, y.pc)).eraseDups) fun q n =>
        q.raiseClass (([x].filter fun y => decide (y.cls = cls)).filter fun y =>
          decide ((y.eight, y.eng, y.pc) = n))) = if x.cls = cls then q.raiseClass [x] else q := by
    by_cases h : x.cls = cls <;> simp [h, Run.each, List.eraseDups_cons]
  simp only [Run.raise, one]
  cases hx : x.cls <;> simp [allCls, Run.each]

/-- A failure that no halt puts off leads to its trap, with the record of its own lane. -/
theorem raiseClass_one (r : Run s0) (x : Fail) (howed : x.owed = false) (hfpx : x.cls ≠ .fpx) :
    r.raiseClass [x] = r.takeTraps (r.s.gang (r.s.fibre x.key).gang)
      [(x, mkRecord (r.s.gang (r.s.fibre x.key).gang) (r.s.fibre x.key) x x (laneMask [x.lane]))] := by
  simp [Run.raiseClass, allFlags, hfpx, howed, Run.each]
  rfl

/-- A trap of one lane that its handler or its parked state takes. -/
theorem takeTraps_own {r : Run s0} {g : Gang} {x : Fail} {t : TrapRec}
    (h : disposition g (r.s.fibre x.key) x ≠ .supervisor) :
    r.takeTraps g [(x, t)] = r.enterTrap x t (disposition g (r.s.fibre x.key) x) := by
  simp [Run.takeTraps, h, Run.each]

/-- A trap of one lane that goes to the supervisor: its record attaches to the die's table. -/
theorem takeTraps_supervisor {r : Run s0} {g : Gang} {x : Fail} {t : TrapRec} {p : Park}
    (h : disposition g (r.s.fibre x.key) x = .supervisor) (hsup : isSuper (r.s.fibre x.key).site = false)
    (hp : ((r.enterTrap x t .supervisor).s.fibre x.key).park = some p) :
    r.takeTraps g [(x, t)] = (r.enterTrap x t .supervisor).updDie (dieOf (r.s.fibre x.key).site) fun d =>
      attach d { ctx := g.ctx, cls := x.cls, reason := p.record.reason, page := p.record.r2.toNat % 2 ^ 54 / 4096,
                 record := p.record, fibres := [x.key] } := by
  simp [Run.takeTraps, h, Run.each, hsup, hp]

/-- The fibre as a trap leaves it (R317): in its handler, or parked for its disposition `d`. -/
def trapFibre (g : Gang) (y : Fibre) (x : Fail) (t : TrapRec) : Disp → Fibre
  | .handler => { y with trec := t, hm := true, pc := g.trapvec, wait := none, fresh := false }
  | .park => { y with trec := t, pc := t.pc, park := some ⟨false, t, x.cls⟩, wait := none, stepping := false, toHalt := none }
  | .supervisor => { y with trec := if y.hm then y.trec else t, pc := t.pc, park := some ⟨true, t, x.cls⟩, wait := none,
                            stepping := false, toHalt := none }

/-- A fibre of a one-fibre crew, with no line region, enters a trap. -/
theorem enterTrap_issued (one : cr.fids = [f.fid]) {r : Run s0} {y : Fibre} (hr : r.s = s.issued c cr y 1)
    (hfid : y.fid = f.fid) (hsite : y.site = c.site) (hslot : y.slot = some c.slot) (hgang : y.gang = cr.gang)
    (hregion : y.region = none) (hsup : isSuper c.site = false) {x : Fail} (hkey : x.key = fkey cr.gang f.fid)
    (t : TrapRec) (d : Disp) :
    (r.enterTrap x t d).s =
      s.vacated c cr f (trapFibre (s.gang cr.gang) { y with slot := none, wbuf := [] } x t d) := by
  have hleft := leaveCrew_issued one hr hfid hsite hslot
  have hfib : (r.leaveCrew (fkey cr.gang f.fid)).s.fibre (fkey cr.gang f.fid) = { y with slot := none, wbuf := [] } := by
    rw [hleft, fibre_vacated]
  have habort : (r.leaveCrew (fkey cr.gang f.fid)).abortRegion (fkey cr.gang f.fid) 2 =
      r.leaveCrew (fkey cr.gang f.fid) := abortRegion_none (by rw [hfib]; exact hregion) 2
  have hnone : ((r.leaveCrew (fkey cr.gang f.fid)).s.fibre (fkey cr.gang f.fid)).region = none := by
    rw [hfib]; exact hregion
  have hvec : (r.leaveCrew (fkey cr.gang f.fid)).s.gang y.gang = s.gang cr.gang := by rw [hgang, hleft]; rfl
  simp only [Run.enterTrap, hkey, habort, hnone]
  cases d with
  | handler =>
    dsimp only
    rw [updFibre_vacated hleft]
    simp only [hvec]
    rfl
  | park =>
    dsimp only
    rw [updFibre_vacated hleft]
    rfl
  | supervisor =>
    have hs : isSuper ((r.leaveCrew (fkey cr.gang f.fid)).s.fibre (fkey cr.gang f.fid)).site = false := by
      rw [hfib, hsite]; exact hsup
    dsimp only
    rw [hs, if_neg Bool.false_ne_true, updFibre_vacated hleft]
    rfl

/-- The fibre of a one-fibre crew that fails its word: it stands in its crew at the group's first word, with
the issue count that it had there (R179, R182). -/
def Machine.Fibre.rewound (f : Fibre) (cr : Crew) : Fibre :=
  { f.failed cr with slot := f.slot, wbuf := f.wbuf, pc := (cr.group f.pc).start }

/-- R317: the fibre of a one-fibre crew raises a failure of its word: it leaves its crew for what the disposition
of the class says. -/
theorem Solo.raise (S : Solo s c cr f) {r : Run s0} {x : Fail} (hr : r.s = s.issued c cr (f.rewound cr) 1)
    (hkey : x.key = fkey cr.gang f.fid) (howed : x.owed = false) (hfpx : x.cls ≠ .fpx)
    (hsup : isSuper c.site = false) :
    (r.raise [x]).s = s.trapped c cr f (f.failed cr) x := by
  have M := S.member
  have hfib : r.s.fibre x.key = f.rewound cr := by rw [hkey, hr]; exact State.fibre_issued _ _
  have hgang : r.s.gang (f.rewound cr).gang = s.gang cr.gang := by
    rw [show (f.rewound cr).gang = cr.gang from M.gang, hr]; rfl
  have hrec : mkRecord (s.gang cr.gang) (f.rewound cr) x x (laneMask [x.lane]) =
    mkRecord (s.gang cr.gang) (f.failed cr) x x (laneMask [x.lane]) := rfl
  rw [raise_one, raiseClass_one r x howed hfpx, hfib, hgang, hrec]
  simp only [State.trapped]
  have hpc := mkRecord_pc (s.gang cr.gang) (f.failed cr) x x (laneMask [x.lane])
  generalize mkRecord (s.gang cr.gang) (f.failed cr) x x (laneMask [x.lane]) = t at hpc ⊢
  have henter (d : Disp) : (r.enterTrap x t d).s =
      s.vacated c cr f (trapFibre (s.gang cr.gang) { f.failed cr with pc := (cr.group f.pc).start } x t d) :=
    enterTrap_issued S.one hr rfl M.site M.slot M.gang (M.region rfl) hsup hkey t d
  have hdisp : disposition (s.gang cr.gang) (r.s.fibre x.key) x = disposition (s.gang cr.gang) (f.failed cr) x := by
    rw [hfib]; rfl
  cases hd : disposition (s.gang cr.gang) (f.failed cr) x with
  | handler =>
    rw [takeTraps_own (by rw [hdisp, hd]; decide), hdisp, hd, henter]
    rfl
  | park =>
    rw [takeTraps_own (by rw [hdisp, hd]; decide), hdisp, hd, henter]
    simp only [trapFibre, hpc]
  | supervisor =>
    have hsite : (r.s.fibre x.key).site = c.site := by rw [hfib]; exact M.site
    have hpark : ((r.enterTrap x t .supervisor).s.fibre x.key).park = some ⟨true, t, x.cls⟩ := by
      rw [henter, hkey, fibre_vacated]; rfl
    rw [takeTraps_supervisor (hdisp.trans hd) (by rw [hsite]; exact hsup) hpark, hsite, hkey]
    simp only [Run.updDie, Run.mod, State.keep, henter, trapFibre, hpc]
    rfl

/-! ### A word whose check fails -/

/-- An active lane comes as far as the checks of R25. -/
structure Machine.Desc.Arrives (d : Desc s0) (s : State) (e : Env) : Prop where
  legal : d.laneIlleg s e = none
  region : d.noRegion = false
  away : d.away s e = none
  plain : d.uses.all (fun u => !isQueue u.reg) = true
  eights : d.eights = none
  full : d.full = false
  clean : poisonReg d.uses e.v = none

/-- What a lane raises whose check has found `b`. -/
def Machine.Bad.fail (b : Bad) (e : Env) : Fail :=
  { key := e.key, lane := e.lane, cls := b.cls, addr := b.addr, reason := b.reason, level := b.level, pc := e.start }

theorem passLane_late {d : Desc s0} {p : Pass s0} {e : Env} (h : d.Arrives p.r.s e)
    (hv : e.v = operands p.r.s e.g e.f d.uses) (hw : (p.r.s.site e.site).preds = []) {b : Bad}
    (hb : d.check p.r.s e = some b) : passLane d p e = { p with late := p.late ++ [b.fail e] } := by
  have hvs : ((d.uses.filter fun u => !u.dst).map fun u =>
      readUse p.r.s e.g e.f (KV.getD u.reg 0 p.heads) u) = e.v := by
    rw [hv]
    refine List.map_congr_left fun u hu => readUse_plain ?_ _ _ _ _ _ _
    simpa using List.all_eq_true.1 h.plain u (List.mem_of_mem_filter hu)
  have hill : d.illegFail p.r.s none e = none := by simp only [Desc.illegFail, h.legal]
  have hown : poisonOwn d e = none := by simp only [poisonOwn, h.eights]
  unfold passLane
  simp only [h.eights, Option.isSome_none, Bool.false_eq_true, if_false, hvs]
  simp only [hill, h.region, Bool.false_eq_true, and_false, if_false, h.away, h.full, hown, h.clean,
    poisonElem_plain h.plain, minReason, ite_self, watch_none p.r e.site _ _ _ _ hw, hb]
  simp only [Env.eight, h.eights]
  rfl

/-- A crew of one fibre that was blocked starts the age of that fibre afresh when it takes its slot (R163). -/
theorem Solo.slotTaken_fibres (S : Solo s c cr f lr) (n : Nat) : (slotTaken s c n).s.fibres =
    if cr.blocked then KV.put (fkey cr.gang f.fid) { f with age := 0 } s.fibres else s.fibres := by
  have hcrew : KV.find? (ckey c.site c.slot) (Run.start s).s.crews = some cr := S.ready.crew
  have hidle (l : List Nat) : Crew.blocked { cr with fids := l, stall := 0 } = false := rfl
  have hspend (r : Run s) (leaf : Nat) :
      ((r.updCrew (ckey c.site c.slot) fun cr => { cr with stall := 0 }).spend c.site leaf n).s.fibres = r.s.fibres := rfl
  simp only [slotTaken, Run.stallCrew, hcrew, hidle, Bool.not_false, Bool.and_true, hspend, S.one]
  split_ifs with hb
  · have hfind : KV.find? (fkey cr.gang f.fid) (Run.start s).s.fibres = some f := S.here
    simp only [Run.each, List.foldl_cons, List.foldl_nil, updFibre_found hfind]
    rfl
  · rfl

/-- The fibre of a one-fibre crew that fails its word stands at the group's first word, the slot taken and the
hints spent. -/
theorem Solo.rewind (S : Solo s c cr f lr) {e : Env} (hkey : e.key = fkey cr.gang f.fid)
    (hpc : e.pc = f.pc) (hstart : e.start = (cr.group f.pc).start) :
    (((slotTaken s c 1).rewind e).dropHints c).s = s.issued c cr (f.rewound cr) 1 := by
  have hfind : KV.find? (fkey cr.gang f.fid) (slotTaken s c 1).s.fibres =
      some { f with age := if cr.blocked then 0 else f.age } := by
    rw [S.slotTaken_fibres]
    split_ifs
    · exact KV.find?_put_self _ _ _
    · exact S.here
  have hput (y : Fibre) : KV.put (fkey cr.gang f.fid) y (slotTaken s c 1).s.fibres =
      KV.put (fkey cr.gang f.fid) y s.fibres := by
    rw [S.slotTaken_fibres]
    split_ifs
    · exact KV.put_put _ _ _ _
    · rfl
  have hdrop (r : Run s) : (r.dropHints c).s =
      { r.s with crews := KV.update (ckey c.site c.slot) (fun cr => { cr with hints := none }) r.s.crews } := rfl
  rw [hdrop, Run.rewind, hkey, updFibre_found hfind]
  simp only [Run.setFibre, hput]
  rw [slotTaken_rest s c 1 S.ready.crew]
  simp only [KV.update, KV.find?_put_self, KV.put_put, Env.hintWords, hpc, hstart]
  rfl

theorem trapped_crews (y : Fibre) (x : Fail) :
    (s.trapped c cr f y x).crews = KV.del (ckey c.site c.slot) s.crews := by
  simp only [State.trapped]
  split <;> rfl

/-- A fibre that has trapped is under no STEP or halt that would end before its next word. -/
theorem trapped_fibres {y : Fibre} (hstep : y.stepping = false) (hhalt : y.toHalt = none) (x : Fail) :
    ∃ z : Fibre, (s.trapped c cr f y x).fibres = KV.put (fkey cr.gang f.fid) z s.fibres ∧
      z.stepping = false ∧ z.toHalt = none := by
  simp only [State.trapped]
  split
  · exact ⟨_, rfl, hstep, hhalt⟩
  · exact ⟨_, rfl, rfl, rfl⟩
  · exact ⟨_, rfl, rfl, rfl⟩

/-- Where no key of the table of crews is listed twice, nothing is left to do for a crew whose one fibre has
trapped. -/
theorem Solo.trapped_settled (S : Solo s c cr f) (hcrews : KV.sorted s.crews = true) {r : Run s} {x : Fail}
    (hr : r.s = s.trapped c cr f (f.failed cr) x) (fall : VAddr) : settleCrew c cr fall r = r := by
  obtain ⟨z, hz, hstep, hhalt⟩ := trapped_fibres (s := s) (c := c) (cr := cr) (f := f) (y := f.failed cr)
    S.member.steps S.member.halts x
  have hfib : r.s.fibre (fkey cr.gang f.fid) = z := by
    simp only [State.fibre, hr, hz, KV.getD, KV.find?_put_self, Option.getD_some]
  refine S.left r fall ?_ (hfib ▸ hstep) (hfib ▸ hhalt)
  rw [hr, trapped_crews]
  exact KV.find?_del_self _ _ hcrews

/-- R25, R317: a word of a one-fibre crew whose check finds `b` raises it, and performs nothing. -/
theorem Solo.checkTraps (S : Solo s c cr f) (hcrews : KV.sorted s.crews = true) (idle : ∀ n, f.IdleFlag n) (d : Desc s)
    (harr : ∀ t, d.Arrives t (soloLane s c cr d f)) (hsup : isSuper c.site = false)
    (ha : (soloLane s c cr d f).active = true) (hstart : (soloLane s c cr d f).start = (cr.group f.pc).start)
    (hs : staticErr d { cr.group f.pc with wait := (cr.group f.pc).wait ||| d.waits } (s.gang cr.gang) 1 = none)
    (hh : d.hold s (soloLane s c cr d f) = false) (hha : d.holdAll s [soloLane s c cr d f] = false)
    (hall : d.all = false) (hact : ∀ r, d.act r [] = r) {b : Bad} (hfpx : b.cls ≠ .fpx)
    (hb : d.check (slotTaken s c 1).s (soloLane s c cr d f) = some b) :
    runWord s d = .next (s.trapped c cr f (f.failed cr) (b.fail (soloLane s c cr d f))) := by
  have hplain := (harr s).plain
  have hpc : (soloLane s c cr d f).pc = f.pc := by
    change (s.fibre (fkey cr.gang f.fid)).pc = f.pc
    rw [S.fibre]
  have hpass : passLane d { r := slotTaken s c 1 } (soloLane s c cr d f) =
      { r := slotTaken s c 1, late := [b.fail (soloLane s c cr d f)] } := by
    refine passLane_late (harr _) ?_ ?_ hb
    · refine List.map_congr_left fun u hu => readUse_plain ?_ _ _ _ _ _ _
      simpa using List.all_eq_true.1 hplain u (List.mem_of_mem_filter hu)
    · change ((slotTaken s c 1).s.site c.site).preds = []
      rw [slotTaken_preds _ _ _ S.ready.crew]; exact S.ready.preds
  have hraise := S.raise (x := b.fail (soloLane s c cr d f)) (S.rewind (e := soloLane s c cr d f) rfl hpc hstart)
    rfl rfl hfpx hsup
  have hone : [soloLane s c cr d f].filter Env.active = [soloLane s c cr d f] := by simp [ha]
  have hnone : ([soloLane s c cr d f].filter fun e => !e.active) = [] := by simp [ha]
  have hg : (slotTaken s c 1).s.gang cr.gang = s.gang cr.gang := slotTaken_gang _ _ _ _ S.ready.crew
  unfold runWord
  rw [S.issueWord idle d hplain ha hs (harr s).away hh hha]
  unfold Run.issueLanes
  simp only [hone, hnone, List.length_singleton, hg, hs, List.foldl_cons, List.foldl_nil, hpass, List.any_nil,
    Bool.false_eq_true, if_false, hall, false_and, S.ready.word, Bool.not_false, List.filter_singleton]
  unfold Run.perform
  simp only [List.append_nil, each_nil, List.any_nil, Bool.false_eq_true, and_false, if_false, hact, List.foldl_nil,
    raise_nil, doHalts_nil, List.nil_append]
  refine congrArg Host.Outcome.next (Eq.trans ?_ hraise)
  exact congrArg Run.s (S.trapped_settled hcrews hraise _)

/-! ### Loads and stores of raw bytes -/

/-- A word that accesses memory and waits for nothing of its own: it takes IMM, ships nowhere, and its lanes that
fail do nothing. -/
structure Machine.Desc.Access (d : Desc s0) (g : BitVec 4) (us : List Use) : Prop where
  guard : d.guard = g
  uses : d.uses = us
  bad : d.bad = none
  wf : d.i.wf = true
  pace : d.paceOk = true
  sig : d.sigOk = true
  imm : d.immOk = true
  immErr : ∀ p, d.immErr p = false
  region : d.noRegion = false
  home : d.homeOnly = false
  sculler : d.scullerOnly = false
  ship : ∀ t e, d.toSculler t e = none
  illeg : ∀ t e, d.illeg t e = none
  hold : ∀ t e, d.hold t e = false
  holdAll : ∀ t es, d.holdAll t es = false
  eights : d.eights = none
  full : d.full = false
  all : d.all = false
  act : ∀ r, d.act r [] = r

/-- R25: the access of a one-fibre crew whose check finds `b` traps. -/
theorem Stands.accessTraps {g : BitVec 4} {us : List Use} (T : Stands s c cr f g us) (hcrews : KV.sorted s.crews = true)
    (hsup : isSuper c.site = false) {d : Desc s} (A : d.Access g us) {b : Bad} (hfpx : b.cls ≠ .fpx)
    (hb : d.check (slotTaken s c 1).s (soloEnv s c cr f us) = some b) :
    runWord s d = .next (s.trapped c cr f (f.failed cr) (b.fail (soloEnv s c cr f us))) := by
  have S := T.solo
  have hlane : soloLane s c cr d f = soloEnv s c cr f us := by
    rw [S.lane_eq d A.eights (by rw [A.guard]; exact T.guard), A.uses]
  have hplain : us.all (fun u => !isQueue u.reg) = true := T.fields.plain
  have hactive : s.active cr f.pc g = [f.now (cr.group f.pc)] := by
    simp only [State.active, State.members, S.one, List.map_cons, List.map_nil, S.fibre, List.filter_singleton, T.guard]
    rfl
  have harr (t : State) : d.Arrives t (soloLane s c cr d f) := by
    rw [hlane]
    refine ⟨?_, A.region, ?_, A.uses ▸ hplain, A.eights, A.full, ?_⟩
    · simp only [Desc.laneIlleg, A.illeg, show (soloEnv s c cr f us).site = c.site from rfl, hsup, Bool.false_and,
        Bool.false_eq_true, if_false, minReason]
    · simp only [Desc.away, A.home, A.uses, plain_any hplain, Bool.or_self, Bool.and_false, Bool.false_eq_true,
        if_false, A.ship, ite_self]
    · rw [A.uses]
      exact T.fields.clean _ (by rw [hactive]; exact List.mem_singleton_self _)
  have hlegal : usesErr (s.gang cr.gang) 1 us = none := by
    have h := T.fields.legal
    rwa [hactive] at h
  have hmods : FitMods (cr.group f.pc) d.rnd d.sat := by
    obtain ⟨hrnd, hsat, htol, hnoal, hwskip⟩ := T.mods
    exact ⟨.inr (hrnd.resolve_left (by decide)), .inr (hsat.resolve_left (by decide)), htol, hnoal, hwskip⟩
  have hhints (w : BitVec 12) : hintErrs d { cr.group f.pc with wait := w } (s.gang cr.gang) = [] :=
    hintErrs_none S.ready.hints ⟨hmods.rnd, hmods.sat, hmods.tol, hmods.noal, hmods.wskip⟩ A.pace (.inl A.sig)
      fun p _ => ⟨A.imm, A.immErr p⟩
  have h := S.checkTraps hcrews T.idle d harr hsup (by rw [hlane]; rfl) (by rw [hlane]; rfl)
    (by simp only [staticErr, hhints, A.bad, A.wf, A.uses, hlegal]; rfl) (A.hold _ _) (A.holdAll _ _) A.all A.act hfpx
    (by rw [hlane]; exact hb)
  rwa [hlane] at h

theorem loadDesc_access {i : Instr} (hwf : i.wf = true) (g : BitVec 4) (d a : BitVec 7) (p : BitVec 3) (o : BitVec 2)
    (n w : Nat) (form : LdForm) :
    (loadDesc (s0 := s0) i g d a p o n w form).Access g [src a 2, dst d w] where
  guard := rfl
  uses := rfl
  bad := rfl
  wf := hwf
  pace := rfl
  sig := rfl
  imm := rfl
  immErr _ := rfl
  region := rfl
  home := rfl
  sculler := rfl
  ship _ _ := rfl
  illeg _ _ := rfl
  hold _ _ := rfl
  holdAll _ _ := rfl
  eights := rfl
  full := rfl
  all := rfl
  act _ := rfl

theorem storeDesc_access {i : Instr} (hwf : i.wf = true) (g : BitVec 4) (d a : BitVec 7) (p : BitVec 3) (o : BitVec 2)
    (n w : Nat) :
    (storeDesc (s0 := s0) i g d a p o n w).Access g [src a 2, src d w] where
  guard := rfl
  uses := rfl
  bad := rfl
  wf := hwf
  pace := rfl
  sig := rfl
  imm := rfl
  immErr _ := rfl
  region := rfl
  home := rfl
  sculler := rfl
  ship _ _ := rfl
  illeg _ _ := rfl
  hold _ _ := rfl
  holdAll _ _ := rfl
  eights := rfl
  full := rfl
  all := rfl
  act _ := rfl

theorem exec_load {w : LoadWord} (hw : w ∈ loadWords) (g : BitVec 4) (d a : BitVec 7) (p : BitVec 3) (o : BitVec 2)
    (s : State) : exec (w.ctor g d a p o) s = runWord s (loadDesc (w.ctor g d a p o) g d a p o w.n w.regs w.form) := by
  simp only [loadWords, List.mem_cons, List.not_mem_nil, or_false] at hw
  obtain rfl | rfl | rfl | rfl | rfl | rfl := hw <;> rfl

theorem exec_store {w : StoreWord} (hw : w ∈ storeWords) (g : BitVec 4) (d a : BitVec 7) (p : BitVec 3) (o : BitVec 2)
    (s : State) : exec (w.ctor g d a p o) s = runWord s (storeDesc (w.ctor g d a p o) g d a p o w.n w.regs) := by
  simp only [storeWords, List.mem_cons, List.not_mem_nil, or_false] at hw
  obtain rfl | rfl | rfl | rfl | rfl := hw <;> rfl

/-- A load or store of raw bytes: its word, bytes, registers, and whether it writes. -/
def accessWords : List ((BitVec 4 → BitVec 7 → BitVec 7 → BitVec 3 → BitVec 2 → Instr) × Nat × Nat × Bool) :=
  (loadWords.map fun w => (w.ctor, w.n, w.regs, false)) ++ (storeWords.map fun w => (w.ctor, w.n, w.regs, true))

/-- What an access of `n` bytes asks of its page, under policy `p`. -/
def accessNeed (wr : Bool) (p : BitVec 3) : Need := { rd := !wr, wr := wr, pol := some p.toNat }

/-- A load or store of raw bytes raises what its check finds, and performs nothing. -/
theorem Stands.accessWord_traps {k} (hk : k ∈ accessWords) {g : BitVec 4} {d a : BitVec 7} {p : BitVec 3} {o : BitVec 2}
    (hwf : (k.1 g d a p o).wf = true) (hsup : isSuper c.site = false) (hcrews : KV.sorted s.crews = true)
    (T : Stands s c cr f g [src a 2, if k.2.2.2 then src d k.2.2.1 else dst d k.2.2.1]) {b : Bad} (hfpx : b.cls ≠ .fpx) :
    let e := soloEnv s c cr f [src a 2, if k.2.2.2 then src d k.2.2.1 else dst d k.2.2.1]
    s.check c.site (s.gang cr.gang).ctx (e.ptr 0) k.2.1 k.2.1 (accessNeed k.2.2.2 p) = .error b →
    exec (k.1 g d a p o) s = .next (s.trapped c cr f (f.failed cr) (b.fail e)) := by
  intro e hb
  have hslot : memCheck (slotTaken s c 1).s e (e.ptr 0) k.2.1 (accessNeed k.2.2.2 p) = .error b := by
    have h := (slotTaken_sameChecks 1 T.solo.ready.crew).check e.site e.ctx (e.ptr 0) k.2.1 k.2.1 (accessNeed k.2.2.2 p)
    simp only [memCheck, h.trans hb]
  rcases List.mem_append.1 hk with hk | hk
  · obtain ⟨w, hw, rfl⟩ := List.mem_map.1 hk
    rw [exec_load hw]
    exact T.accessTraps hcrews hsup (loadDesc_access hwf g d a p o w.n w.regs w.form) hfpx (congrArg errOf hslot)
  · obtain ⟨w, hw, rfl⟩ := List.mem_map.1 hk
    rw [exec_store hw]
    exact T.accessTraps hcrews hsup (storeDesc_access hwf g d a p o w.n w.regs) hfpx (congrArg errOf hslot)

/-! ### The order of the checks (R25) -/

section
variable {site ctx n al : Nat} {p : DWord} {nd : Need}

theorem check_align (h : (ptrVa p).toNat % al ≠ 0) :
    s.check site ctx p n al nd = .error { cls := .align, addr := (ptrVa p).zeroExtend 64 } := by
  simp only [State.check, if_pos h]

theorem check_bounds (hsup : isSuper site = false) (h : (ptrVa p).toNat % al = 0)
    (hb : s.boundsOk site ctx p n nd.rd nd.wr = false) :
    s.check site ctx p n al nd = .error { cls := .bounds, addr := p } := by
  simp [State.check, h, hsup, hb]

theorem check_xlat (hsup : isSuper site = false) (h : (ptrVa p).toNat % al = 0)
    (hb : s.boundsOk site ctx p n nd.rd nd.wr = true) {r lv : Nat} (hx : s.xlate site ctx (ptrVa p) n = .error (r, lv)) :
    s.check site ctx p n al nd =
      .error { cls := .xlat, addr := (ptrVa p).zeroExtend 64, reason := r, level := lv } := by
  simp [State.check, h, hsup, hb, hx]

theorem check_perm (hsup : isSuper site = false) (h : (ptrVa p).toNat % al = 0)
    (hb : s.boundsOk site ctx p n nd.rd nd.wr = true) {x : Xl} (hx : s.xlate site ctx (ptrVa p) n = .ok x) {r : Nat}
    (hp : permBad x nd = some r) :
    s.check site ctx p n al nd = .error { cls := .perm, addr := (ptrVa p).zeroExtend 64, reason := r } := by
  simp [State.check, h, hsup, hb, hx, hp]

end

/-- R24: what a load reads and a store writes is the permission that the page must give, before that for users. -/
theorem permBad_access (x : Xl) (wr : Bool) (p : BitVec 3) :
    (x.leaf.getLsbD (if wr then 2 else 1) = false → permBad x (accessNeed wr p) = some 0) ∧
    (x.leaf.getLsbD (if wr then 2 else 1) = true → x.leaf.getLsbD 4 = false → permBad x (accessNeed wr p) = some 1) := by
  cases wr <;> constructor <;> intros <;> simp_all [permBad, accessNeed]

/-- What `Obligations.AccessTraps` says of one word in one state. -/
def AccessTrapsAt (k : (BitVec 4 → BitVec 7 → BitVec 7 → BitVec 3 → BitVec 2 → Instr) × Nat × Nat × Bool)
    (s : State) (c : Cur) (cr : Crew) (f : Fibre) (g : BitVec 4) (d a : BitVec 7) (p : BitVec 3) (o : BitVec 2) : Prop :=
  let n := k.2.1
  let wr := k.2.2.2
  let P := (soloEnv s c cr f [src a 2, if wr then src d k.2.2.1 else dst d k.2.2.1]).ptr 0
  let va := ptrVa P
  let ctx := (s.gang cr.gang).ctx
  let traps (cl : Cls) (v : DWord) (r lv : Nat) : Prop :=
    exec (k.1 g d a p o) s = .next (s.trapped c cr f (f.failed cr)
      { key := fkey cr.gang f.fid, lane := f.lane, cls := cl, addr := v, reason := r, level := lv,
        pc := (cr.group f.pc).start })
  (va.toNat % n ≠ 0 → traps .align (va.zeroExtend 64) 0 0) ∧
  (va.toNat % n = 0 → s.boundsOk c.site ctx P n (!wr) wr = false → traps .bounds P 0 0) ∧
  (va.toNat % n = 0 → s.boundsOk c.site ctx P n (!wr) wr = true →
    (∀ r lv, s.xlate c.site ctx va n = .error (r, lv) → traps .xlat (va.zeroExtend 64) r lv) ∧
    ∀ x, s.xlate c.site ctx va n = .ok x →
      (x.leaf.getLsbD (if wr then 2 else 1) = false → traps .perm (va.zeroExtend 64) 0 0) ∧
      (x.leaf.getLsbD (if wr then 2 else 1) = true → x.leaf.getLsbD 4 = false → traps .perm (va.zeroExtend 64) 1 0))

theorem accessTraps_iff : Obligations.AccessTraps ↔ ∀ k ∈ accessWords, ∀ s c cr f g d a p o,
    (k.1 g d a p o).wf = true → isSuper c.site = false →
    Stands s c cr f g [src a 2, if k.2.2.2 then src d k.2.2.1 else dst d k.2.2.1] →
    AccessTrapsAt k s c cr f g d a p o := Iff.rfl

/-- The obligation holds of every state whose table of crews lists no slot twice. -/
theorem accessTrapsAt_of_sorted {k} (hk : k ∈ accessWords) {g : BitVec 4} {d a : BitVec 7} {p : BitVec 3} {o : BitVec 2}
    (hwf : (k.1 g d a p o).wf = true) (hsup : isSuper c.site = false) (hcrews : KV.sorted s.crews = true)
    (T : Stands s c cr f g [src a 2, if k.2.2.2 then src d k.2.2.1 else dst d k.2.2.1]) :
    AccessTrapsAt k s c cr f g d a p o := by
  have traps {b : Bad} (hfpx : b.cls ≠ .fpx) := T.accessWord_traps hk hwf hsup hcrews hfpx
  refine ⟨fun h => ?align, fun h hb => ?bounds, fun h hb => ⟨fun r lv hx => ?xlat, fun x hx => ⟨fun hp => ?perm, fun hp hu => ?user⟩⟩⟩
  case align => exact traps (by nofun) (check_align h)
  case bounds => exact traps (by nofun) (check_bounds hsup h hb)
  case xlat => exact traps (by nofun) (check_xlat hsup h hb hx)
  case perm => exact traps (by nofun) (check_perm hsup h hb hx ((permBad_access x k.2.2.2 p).1 hp))
  case user => exact traps (by nofun) (check_perm hsup h hb hx ((permBad_access x k.2.2.2 p).2 hp hu))

/-! ### A slot listed twice -/

/-- A fibre alone in its crew at a word: register pair 4 holds the address 1. -/
def misaligned : Fibre where
  slot := some 0
  pc := 4096
  win := [(4, { v := 1 })]

/-- A fibre of another gang, in the boathouse at address 0. -/
def bystander : Fibre where
  gang := 1
  fid := 2

/-- A state whose table of crews lists slot 0 of core 0 twice: behind the crew whose turn it is stands another,
with a member at the bystander's address. -/
def slotTwice : State where
  cur := some { site := 0, slot := 0 }
  crews := [(0, { fids := [0] }), (0, { gang := 1, fids := [1] })]
  gangs := [(0, { window := 96 })]
  ctxs := [(0, { st := .running })]
  fibres := [(0, misaligned), (fkey 1 2, bystander)]

/-- The slot that a fibre has after an outcome. -/
def slotAfter (k : Nat) : Host.Outcome State Fault Refusal → Option Nat
  | .next t => (t.fibre k).slot
  | _ => none

theorem slotTwice_stands : Stands slotTwice { site := 0, slot := 0 } { fids := [0] } misaligned 0 [src 4 2, dst 8] := by
  have idle (n : Nat) : misaligned.IdleFlag n := ⟨rfl, rfl⟩
  have member : Member { site := 0, slot := 0 } { fids := [0] } 4096 0 misaligned :=
    ⟨rfl, by decide, rfl, rfl, rfl, rfl, rfl, fun _ => rfl, rfl, rfl, idle 15, fun n _ => idle n, idle _⟩
  refine ⟨⟨⟨⟨by decide, by decide, by decide⟩, rfl, rfl, rfl, by decide, by decide, by decide, rfl, rfl, ?_⟩, rfl, rfl, by decide⟩,
    idle, by decide, ⟨by decide, by decide, ?_⟩, ⟨.inr rfl, .inr rfl, rfl, rfl, rfl⟩⟩
  · rintro fid hf
    obtain rfl : fid = 0 := by simpa using hf
    exact ⟨misaligned, rfl, member⟩
  · decide

/-- Refutes O60: in `slotTwice` the misaligned LD traps, but its crew's slot then names the other crew, which the
bystander joins, so that the state is not that of the trap alone. The premises do not say that the table of crews
lists a slot once; where it does, the statement holds (`accessTrapsAt_of_sorted`). -/
theorem not_accessTraps : ¬ Obligations.AccessTraps := by
  rw [accessTraps_iff]
  intro h
  obtain ⟨halign, -, -⟩ := h (fun g d a p o => .ld g d a p o 0, 4, 1, false) (by simp [accessWords, loadWords]) slotTwice
    { site := 0, slot := 0 } { fids := [0] } misaligned 0 8 4 0 0 (by decide) (by decide) slotTwice_stands
  have htrap := congrArg (slotAfter (fkey 1 2)) (halign (by decide))
  have hjoined : slotAfter (fkey 1 2) (exec (.ld 0 8 4 0 0 0) slotTwice) = some 0 := by decide +kernel
  exact absurd (hjoined.symm.trans htrap) (by decide +kernel)

end Sys2Proof
end

section
/-! What moves lines between the caches and the home copies leaves the rest of the machine alone. -/

namespace Sys2Proof.Machine
variable {s0 : State}

/-- A state without what its caches and directories hold: all that stays while lines move. -/
def State.unlined (s : State) : State := { s with
  mem := [], mpoison := [], l1 := [], fcache := [], sram := [], dpoison := [], fwd := [], hent := [], dirs := []
  tick := 0 }

theorem Run.each_inv_mem {α : Type} (P : Run s0 → Prop) {f : Run s0 → α → Run s0} {l : List α} {r : Run s0}
    (h : P r) (hf : ∀ q, ∀ x ∈ l, P q → P (f q x)) : P (r.each l f) := by
  unfold Run.each
  induction l generalizing r with
  | nil => exact h
  | cons x t ih => exact ih (hf r x (List.mem_cons_self ..) h) fun q y hy => hf q y (List.mem_cons_of_mem _ hy)

/-- What no step of a fold changes, the fold does not change. -/
theorem Run.each_const {α β : Type} (g : State → β) {f : Run s0 → α → Run s0} (hf : ∀ r x, g (f r x).s = g r.s)
    (r : Run s0) (l : List α) : g (r.each l f).s = g r.s :=
  each_inv (fun q => g q.s = g r.s) f l r rfl fun q x h => (hf q x).trans h

@[simp] theorem Run.updDir_unlined (r : Run s0) (line : Nat) (f : Dir → Dir) :
    (r.updDir line f).s.unlined = r.s.unlined := rfl
@[simp] theorem Run.setL1_unlined (r : Run s0) (core pa : Nat) (w : L1W) :
    (r.setL1 core pa w).s.unlined = r.s.unlined := rfl
@[simp] theorem Run.dropL1_unlined (r : Run s0) (core pa : Nat) : (r.dropL1 core pa).s.unlined = r.s.unlined := rfl
@[simp] theorem Run.dropForward_unlined (r : Run s0) (line : Nat) :
    (r.dropForward line).s.unlined = r.s.unlined := rfl
@[simp] theorem Run.setHomePoison_unlined (r : Run s0) (line : Nat) (p : BitVec 32) :
    (r.setHomePoison line p).s.unlined = r.s.unlined := rfl
@[simp] theorem Run.writeDram_unlined (r : Run s0) (line : Nat) (p : BitVec 32) :
    (r.writeDram line p).s.unlined = r.s.unlined := rfl
@[simp] theorem Run.ticked_unlined (r : Run s0) : r.ticked.s.unlined = r.s.unlined := rfl

@[simp] theorem Run.putHome_unlined (r : Run s0) (pa : Nat) (v : PW) (m : BitVec 4) :
    (r.putHome pa v m).s.unlined = r.s.unlined := by
  unfold Run.putHome
  split
  · rfl
  · exact Run.each_const State.unlined (fun q i => by split <;> rfl) r _

@[simp] theorem Run.recall_unlined (r : Run s0) (line c : Nat) (v : List Nat) :
    (r.recall line c v).s.unlined = r.s.unlined :=
  Run.each_const State.unlined (fun q w => by dsimp only; split <;> simp) r _

@[simp] theorem Run.recallAll_unlined (r : Run s0) (line : Nat) (v : List Nat) :
    (r.recallAll line v).s.unlined = r.s.unlined :=
  Run.each_const State.unlined (fun q c => q.recall_unlined line c v) r _

@[simp] theorem Run.invalSharers_unlined (r : Run s0) (line : Nat) (x : Option Nat) :
    (r.invalSharers line x).s.unlined = r.s.unlined :=
  Run.each_const State.unlined (fun q _ => Run.each_const State.unlined (fun q w => by split <;> rfl) q _) r _

@[simp] theorem Run.merge_unlined (r : Run s0) (line : Nat) : (r.merge line).s.unlined = r.s.unlined :=
  Run.each_const State.unlined
    (fun q _ => Run.each_const State.unlined (fun q w => by dsimp only; split <;> [skip; split] <;> simp) q _) r _

@[simp] theorem Run.viewBelow_unlined (r : Run s0) (line : Nat) : (r.viewBelow line).s.unlined = r.s.unlined := by
  unfold Run.viewBelow
  split
  · rfl
  · split <;> rfl

@[simp] theorem Run.evictSram_unlined (r : Run s0) (line : Nat) : (r.evictSram line).s.unlined = r.s.unlined := by
  unfold Run.evictSram
  split
  · rfl
  · dsimp only
    split <;> simp <;> rfl

@[simp] theorem Run.roomSram_unlined (r : Run s0) (line : Nat) : (r.roomSram line).s.unlined = r.s.unlined := by
  unfold Run.roomSram
  dsimp only
  split_ifs <;> simp

@[simp] theorem Run.fillSram_unlined (r : Run s0) (line : Nat) : (r.fillSram line).s.unlined = r.s.unlined := by
  unfold Run.fillSram
  split
  · rfl
  · exact r.roomSram_unlined line

@[simp] theorem Run.writeBack_unlined (r : Run s0) (line : Nat) : (r.writeBack line).s.unlined = r.s.unlined := by
  unfold Run.writeBack
  dsimp only
  split
  · rfl
  · exact Run.fillSram_unlined _ line

@[simp] theorem Run.evictL2_unlined (r : Run s0) (line : Nat) : (r.evictL2 line).s.unlined = r.s.unlined := by
  unfold Run.evictL2
  dsimp only
  split_ifs <;> simp

@[simp] theorem Run.roomL2_unlined (r : Run s0) (line : Nat) : (r.roomL2 line).s.unlined = r.s.unlined := by
  unfold Run.roomL2
  dsimp only
  split_ifs <;> simp

@[simp] theorem Run.fillL2_unlined (r : Run s0) (line : Nat) : (r.fillL2 line).s.unlined = r.s.unlined := by
  unfold Run.fillL2
  split <;> simp

@[simp] theorem Run.useEntries_unlined (r : Run s0) (line : Nat) (far : Bool) :
    (r.useEntries line far).s.unlined = r.s.unlined := by
  unfold Run.useEntries
  dsimp only
  split_ifs <;> rfl

@[simp] theorem Run.countReq_unlined (r : Run s0) (line site : Nat) :
    (r.countReq line site).s.unlined = r.s.unlined := r.useEntries_unlined line _

@[simp] theorem Run.dirClaim_unlined (r : Run s0) (line : Nat) (ws : List Nat) :
    (r.dirClaim line ws).s.unlined = r.s.unlined := by
  unfold Run.dirClaim
  dsimp only
  split <;> simp

@[simp] theorem Run.dropUntracked_unlined (r : Run s0) (core line : Nat) (ws : List Nat) :
    (r.dropUntracked core line ws).s.unlined = r.s.unlined := by
  unfold Run.dropUntracked
  split
  · exact Run.each_const State.unlined (fun q w => by split <;> [split; skip] <;> simp) r _
  · rfl

@[simp] theorem Run.writeHome_unlined (r : Run s0) (pa : Nat) (bytes masks : List Byte) (poi : Bool) :
    (r.writeHome pa bytes masks poi).s.unlined = r.s.unlined :=
  Run.each_const State.unlined (fun q w => by simp) r _

end Sys2Proof.Machine
end

section
/-! After a claim the home copies of the claimed words are current (R101): no core owns one, and none has
bytes that several cores wrote apart. -/

namespace Sys2Proof.Machine
variable {s0 : State}

/-- Word `w` of a line is in state H or T: no core holds bytes of it that the home copy lacks (R97). -/
structure Dir.Homed (d : Dir) (w : Nat) : Prop where
  unowned : ∀ x ∈ d.owners, x.2.getLsbD w = false
  common : ∀ x ∈ d.pmasks, x.2.extractLsb' (4 * w) 4 = 0

theorem Dir.wst_of_unowned {d : Dir} {w : Nat} (h : ∀ x ∈ d.owners, x.2.getLsbD w = false) :
    d.wst w = if d.pmasks.any fun x => decide (x.2.extractLsb' (4 * w) 4 ≠ 0) then .p
      else if d.t.getLsbD w then .t else .h := by
  have hf : d.owners.find? (fun x => x.2.getLsbD w) = none := List.find?_eq_none.2 fun x hx => by simp [h x hx]
  unfold Dir.wst
  rw [hf]

/-- The home copy of such a word is its current value. -/
theorem State.coh_of_homed {s : State} {pa : Nat} (h : (s.dir (pa / 128)).Homed (pa / 4 % 32)) :
    s.coh pa = s.home pa := by
  have hp : (s.dir (pa / 128)).pmasks.any (fun x => decide (x.2.extractLsb' (4 * (pa / 4 % 32)) 4 ≠ 0)) = false :=
    List.any_eq_false.2 fun x hx => by simp [h.common x hx]
  unfold State.coh
  dsimp only
  rw [Dir.wst_of_unowned h.unowned, hp]
  cases (s.dir (pa / 128)).t.getLsbD (pa / 4 % 32) <;> rfl

@[simp] theorem updDir_dir (r : Run s0) (line : Nat) (f : Dir → Dir) :
    (r.updDir line f).s.dir line = f (r.s.dir line) := by
  change (KV.find? line (KV.put line _ _)).getD _ = _
  rw [KV.find?_put_self]
  rfl

theorem updDir_dir_ne (r : Run s0) {line n : Nat} (f : Dir → Dir) (h : n ≠ line) :
    (r.updDir line f).s.dir n = r.s.dir n := by
  change (KV.find? n (KV.put line _ _)).getD _ = _
  rw [KV.find?_put_ne h]
  rfl

@[simp] theorem Run.putHome_dirs (r : Run s0) (pa : Nat) (v : PW) (m : BitVec 4) :
    (r.putHome pa v m).s.dirs = r.s.dirs := by
  unfold Run.putHome
  split
  · rfl
  · exact Run.each_const State.dirs (fun q i => by split <;> rfl) r _

theorem State.dir_congr {s t : State} (h : t.dirs = s.dirs) (n : Nat) : t.dir n = s.dir n := by
  unfold State.dir
  rw [h]

/-- Who owns words of a line, and which of its bytes cores hold apart (R103). -/
def State.takers (s : State) (line : Nat) : List (Nat × BitVec 32) × List (Nat × BitVec 128) :=
  ((s.dir line).owners, (s.dir line).pmasks)

theorem State.takers_congr {s t : State} (h : t.dirs = s.dirs) (n : Nat) : t.takers n = s.takers n := by
  unfold State.takers
  rw [State.dir_congr h]

theorem State.homed_congr {s t : State} {line w : Nat} (h : t.takers line = s.takers line)
    (hw : (s.dir line).Homed w) : (t.dir line).Homed w := by
  obtain ⟨ho, hp⟩ := Prod.mk.injEq .. ▸ h
  exact ⟨ho ▸ hw.unowned, hp ▸ hw.common⟩

@[simp] theorem markDirty_takers (r : Run s0) (line : Nat) (b : BitVec 128) :
    (r.updDir line fun d => { d with dirty := d.dirty ||| b }).s.takers line = r.s.takers line := by
  simp only [State.takers, updDir_dir]

@[simp] theorem putHome_takers (r : Run s0) (pa : Nat) (v : PW) (m : BitVec 4) (line : Nat) :
    (r.putHome pa v m).s.takers line = r.s.takers line := State.takers_congr (r.putHome_dirs pa v m) line

@[simp] theorem setL1_takers (r : Run s0) (core pa : Nat) (w : L1W) (line : Nat) :
    (r.setL1 core pa w).s.takers line = r.s.takers line := State.takers_congr rfl line

@[simp] theorem dropL1_takers (r : Run s0) (core pa line : Nat) :
    (r.dropL1 core pa).s.takers line = r.s.takers line := State.takers_congr rfl line

/-- The bits of the words `mine` cleared. -/
def cleared (mine : List Nat) (m : BitVec 32) : BitVec 32 := mine.foldl (fun m w => m &&& ~~~(1#32 <<< w)) m

theorem getLsbD_cleared (mine : List Nat) (m : BitVec 32) {w : Nat} (hw : w < 32) :
    (cleared mine m).getLsbD w = (m.getLsbD w && !mine.contains w) := by
  unfold cleared
  induction mine generalizing m with
  | nil => simp
  | cons x xs ih =>
    rw [List.foldl_cons, ih]
    have hx : (~~~(1#32 <<< x)).getLsbD w = !decide (w = x) := by
      by_cases h : w = x
      · subst h; simp [hw]
      · rcases Nat.lt_or_gt_of_ne h with h' | h' <;> simp [hw, h] <;> omega
    rw [BitVec.getLsbD_and, hx, Bool.and_assoc]
    by_cases h : w = x <;> simp [h]

/-- The owners `l` of a line after core `c` has given up the words `mine`. -/
def givenUp (l : List (Nat × BitVec 32)) (c : Nat) (mine : List Nat) : List (Nat × BitVec 32) :=
  (l.map fun x => if x.1 = c then (x.1, cleared mine x.2) else x).filter fun x => x.2 ≠ 0

/-- The owners of a line after core `c` has given up the words of `v` that it owns first. -/
def Dir.recalled (d : Dir) (c : Nat) (v : List Nat) : List (Nat × BitVec 32) :=
  givenUp d.owners c (v.filter fun w => decide (d.wst w = .o c))

theorem givenUp_takers {q : Run s0} {line : Nat} {d : Dir} (c : Nat) (mine : List Nat)
    (hq : q.s.takers line = (d.owners, d.pmasks)) :
    (q.updDir line fun d => { d with owners := givenUp d.owners c mine }).s.takers line =
      (givenUp d.owners c mine, d.pmasks) := by
  obtain ⟨ho, hp⟩ := Prod.mk.injEq .. ▸ hq
  simp only [State.takers, updDir_dir, ho, hp]

theorem recall_takers (r : Run s0) (line c : Nat) (v : List Nat) :
    (r.recall line c v).s.takers line = ((r.s.dir line).recalled c v, (r.s.dir line).pmasks) := by
  refine givenUp_takers c _ (Run.each_const (fun s => s.takers line) (fun q w => ?_) r _)
  dsimp only
  split <;> simp

/-- The cores that own word `w`, in the order of the entry. -/
def ownersOf (l : List (Nat × BitVec 32)) (w : Nat) : List Nat := (l.filter fun x => x.2.getLsbD w).map Prod.fst

theorem ownersOf_eq_nil {l : List (Nat × BitVec 32)} {w : Nat} :
    ownersOf l w = [] ↔ ∀ x ∈ l, x.2.getLsbD w = false := by
  simp [ownersOf]

theorem Dir.wst_owned_iff (d : Dir) (w c : Nat) : d.wst w = .o c ↔ (ownersOf d.owners w).head? = some c := by
  unfold Dir.wst ownersOf
  rw [List.head?_map, List.head?_filter]
  cases d.owners.find? fun x => x.2.getLsbD w with
  | some x => simp
  | none =>
    simp only [Option.map_none, reduceCtorEq, iff_false]
    split_ifs <;> simp

theorem ownersOf_givenUp (l : List (Nat × BitVec 32)) (c : Nat) (mine : List Nat) {w : Nat} (h32 : w < 32) :
    ownersOf (givenUp l c mine) w = if w ∈ mine then (ownersOf l w).filter (· ≠ c) else ownersOf l w := by
  have nz : ∀ b : BitVec 32, b.getLsbD w = true → b ≠ 0 := by rintro _ hb rfl; simp at hb
  have keeps (b : BitVec 32) : (decide (b ≠ 0) && b.getLsbD w) = b.getLsbD w := by
    cases hb : b.getLsbD w with
    | true => rw [decide_eq_true (nz b hb), Bool.true_and]
    | false => rw [Bool.and_false]
  have bit (x : Nat × BitVec 32) : (if x.1 = c then (x.1, cleared mine x.2) else x).2.getLsbD w =
      (x.2.getLsbD w && !(decide (x.1 = c) && decide (w ∈ mine))) := by
    split
    · rw [getLsbD_cleared _ _ h32]; simp [*]
    · simp [*]
  unfold ownersOf givenUp
  rw [List.filter_filter]
  simp only [Bool.and_comm _ (decide _), keeps]
  induction l with
  | nil => simp
  | cons x l ih =>
    rw [List.map_cons, List.filter_cons, bit x, List.filter_cons]
    cases hb : x.2.getLsbD w with
    | false => simpa [hb] using ih
    | true => by_cases hm : w ∈ mine <;> by_cases hc : x.1 = c <;> simp_all

/-- A word that core `c` owns first passes from it; of one that another core owns first nothing changes. -/
theorem ownersOf_recalled (d : Dir) (c : Nat) {v : List Nat} {w : Nat} (hw : w ∈ v) (h32 : w < 32) :
    ownersOf (d.recalled c v) w = if (ownersOf d.owners w).head? = some c
      then (ownersOf d.owners w).filter (· ≠ c) else ownersOf d.owners w := by
  unfold Dir.recalled
  rw [ownersOf_givenUp _ _ _ h32]
  simp only [List.mem_filter, hw, true_and, decide_eq_true_eq, Dir.wst_owned_iff]

/-- Of the owners still to give a word up, the recall of the next one leaves only later ones. -/
theorem ownersOf_recalled_sublist {d : Dir} {c : Nat} {cs v : List Nat} {w : Nat} (hw : w ∈ v) (h32 : w < 32)
    (h : (ownersOf d.owners w).Sublist (c :: cs)) : (ownersOf (d.recalled c v) w).Sublist cs := by
  rw [ownersOf_recalled d c hw h32]
  generalize ownersOf d.owners w = l at h
  cases h with
  | cons _ h => split <;> [exact List.filter_sublist.trans h; exact h]
  | cons_cons _ h => simpa using List.filter_sublist.trans h

/-- After the recall from every owner, no core owns a word of `v`. -/
theorem recallAll_unowned (r : Run s0) (line : Nat) {v : List Nat} {w : Nat} (hw : w ∈ v) (h32 : w < 32) :
    ∀ x ∈ ((r.recallAll line v).s.dir line).owners, x.2.getLsbD w = false := by
  have all : ∀ (cs : List Nat) (q : Run s0), (ownersOf (q.s.dir line).owners w).Sublist cs →
      ownersOf ((q.each cs fun r c => r.recall line c v).s.dir line).owners w = [] := by
    intro cs
    induction cs with
    | nil => exact fun q h => List.sublist_nil.1 h
    | cons c cs ih =>
      intro q h
      refine ih (q.recall line c v) ?_
      rw [show ((q.recall line c v).s.dir line).owners = _ from congrArg Prod.fst (recall_takers q line c v)]
      exact ownersOf_recalled_sublist hw h32 h
  exact ownersOf_eq_nil.1 (all _ r (List.filter_sublist.map _))

theorem merge_takers (r : Run s0) (line : Nat) : (r.merge line).s.takers line = ((r.s.dir line).owners, []) := by
  have last : ∀ q : Run s0, q.s.takers line = r.s.takers line →
      (q.updDir line fun d => { d with pmasks := [] }).s.takers line = ((r.s.dir line).owners, []) := by
    intro q hq
    simp only [State.takers, updDir_dir]
    rw [show (q.s.dir line).owners = _ from congrArg Prod.fst hq]
    rfl
  refine last _ (Run.each_const (fun s => s.takers line) (fun q x => ?_) r _)
  refine Run.each_const (fun s => s.takers line) (fun q w => ?_) q _
  dsimp only
  split <;> [skip; split] <;> simp

theorem invalSharers_takers (r : Run s0) (line : Nat) (x : Option Nat) :
    (r.invalSharers line x).s.takers line = r.s.takers line := by
  have last (q : Run s0) (k : BitVec 48) :
      (q.updDir line fun d => { d with sharers := k, t := 0 }).s.takers line = q.s.takers line := by
    simp only [State.takers, updDir_dir]
  refine (last _ _).trans (Run.each_const (fun s => s.takers line) (fun q c => ?_) r _)
  exact Run.each_const (fun s => s.takers line) (fun q w => by dsimp only; split <;> simp) q _

theorem dropUntracked_takers (r : Run s0) (core line : Nat) (ws : List Nat) (n : Nat) :
    (r.dropUntracked core line ws).s.takers n = r.s.takers n := by
  unfold Run.dropUntracked
  split
  · exact Run.each_const (fun s => s.takers n) (fun q w => by split <;> [split; skip] <;> simp) r _
  · rfl

theorem writeHome_takers (r : Run s0) (pa : Nat) (bytes masks : List Byte) (poi : Bool) :
    (r.writeHome pa bytes masks poi).s.takers (pa / 128) = r.s.takers (pa / 128) :=
  Run.each_const (fun s => s.takers (pa / 128)) (fun q w => by simp) r _

theorem Dir.homed_of_wst_ne_p {d : Dir} {w : Nat} (h : ∀ x ∈ d.owners, x.2.getLsbD w = false)
    (hp : d.wst w ≠ .p) : d.Homed w := by
  refine ⟨h, fun x hx => ?_⟩
  by_contra hne
  rw [Dir.wst_of_unowned h, if_pos (List.any_eq_true.2 ⟨x, hx, by simpa using hne⟩)] at hp
  exact hp rfl

/-- The words that a claim names are homed after it. -/
theorem dirClaim_homed (r : Run s0) (line : Nat) {ws : List Nat} {w : Nat} (hw : w ∈ ws) (h32 : w < 32) :
    ((r.dirClaim line ws).s.dir line).Homed w := by
  have free := recallAll_unowned (r.fillL2 line) line hw h32
  unfold Run.dirClaim
  dsimp only
  refine State.homed_congr (invalSharers_takers _ line none) ?_
  generalize (r.fillL2 line).recallAll line ws = q at free
  by_cases hp : ws.any fun w => decide ((q.s.dir line).wst w = .p)
  · rw [if_pos hp]
    have ho : ((q.merge line).s.dir line).owners = _ := congrArg Prod.fst (merge_takers q line)
    have hm : ((q.merge line).s.dir line).pmasks = _ := congrArg Prod.snd (merge_takers q line)
    exact ⟨ho ▸ free, by rw [hm]; simp⟩
  · rw [if_neg hp]
    exact Dir.homed_of_wst_ne_p free fun e => hp (List.any_eq_true.2 ⟨w, hw, decide_eq_true e⟩)

end Sys2Proof.Machine
end

section
/-! What a write of whole words to the home copies reads as. -/

namespace Sys2Proof.Machine
variable {s0 : State}

theorem Run.putByte_read (r : Run s0) (hI : s0.Inv) {a : Nat} (ha : a < 2 ^ 52) (b : Byte) (x : Nat) :
    Memory.read (r.putByte a b).s.mem x = if x = a then b else Memory.read r.s.mem x := by
  rw [Run.putByte_mem]
  split
  next h => rw [h]; exact Memory.read_write_self (r.ok hI).mem ha b
  next h => exact Memory.read_write_ne (r.ok hI).mem h b

theorem Run.putHome_read_other (r : Run s0) (hI : s0.Inv) (pa : Nat) (v : PW) (m : BitVec 4) {x : Nat}
    (hx : x / 4 ≠ pa / 4) : Memory.read (r.putHome pa v m).s.mem x = Memory.read r.s.mem x := by
  unfold Run.putHome
  split
  · rfl
  · refine Run.each_inv_mem (fun q => Memory.read q.s.mem x = Memory.read r.s.mem x) rfl fun q i hi hq => ?_
    have := List.mem_range.1 hi
    split
    · exact (Memory.read_write_ne (q.ok hI).mem (by omega) _).trans hq
    · exact hq

theorem Run.putHome_read (r : Run s0) (hI : s0.Inv) {pa : Nat} (hpa : pa < 2 ^ 52) (v : PW) {x : Nat}
    (hx : x / 4 = pa / 4) :
    Memory.read (r.putHome pa v 0xF).s.mem x = v.v.extractLsb' (8 * (x % 4)) 8 := by
  have hm : (r.putHome pa v 0xF).s.mem = ((((r.putByte (pa / 4 * 4) (v.v.extractLsb' 0 8)).putByte (pa / 4 * 4 + 1)
      (v.v.extractLsb' 8 8)).putByte (pa / 4 * 4 + 2) (v.v.extractLsb' 16 8)).putByte (pa / 4 * 4 + 3)
      (v.v.extractLsb' 24 8)).s.mem := rfl
  rw [hm, Run.putByte_read _ hI (by omega), Run.putByte_read _ hI (by omega), Run.putByte_read _ hI (by omega),
    Run.putByte_read _ hI (by omega)]
  obtain h | h | h | h : x % 4 = 0 ∨ x % 4 = 1 ∨ x % 4 = 2 ∨ x % 4 = 3 := by omega
  all_goals
    rw [h, show x = pa / 4 * 4 + x % 4 by omega, h]
    simp

theorem byteMask_extract : ∀ (m : BitVec 4), ∀ i < 4, ((List.range 4).foldl (fun (a : Word) i =>
    if m.getLsbD i then a ||| (0xFF#32 <<< (8 * i)) else a) 0).extractLsb' (8 * i) 8 =
      if m.getLsbD i then BitVec.allOnes 8 else 0#8 := by decide +kernel

/-- A byte of a merged word is the new one where the mask has it. -/
theorem mergeWord_byte (old new : Word) (m : BitVec 4) {i : Nat} (hi : i < 4) :
    (mergeWord old new m).extractLsb' (8 * i) 8 =
      if m.getLsbD i then new.extractLsb' (8 * i) 8 else old.extractLsb' (8 * i) 8 := by
  have hm := byteMask_extract m i hi
  unfold mergeWord
  dsimp only
  generalize (List.range 4).foldl (fun (a : Word) i =>
    if m.getLsbD i then a ||| (0xFF#32 <<< (8 * i)) else a) 0 = mask at hm
  have hn : (~~~mask).extractLsb' (8 * i) 8 = ~~~mask.extractLsb' (8 * i) 8 :=
    BitVec.eq_of_getLsbD_eq fun j hj => by simp [hj, show 8 * i + j < 32 by omega]
  rw [BitVec.extractLsb'_or, BitVec.extractLsb'_and, BitVec.extractLsb'_and, hn, hm]
  cases m.getLsbD i
  · simp only [Bool.false_eq_true, if_false, BitVec.not_zero, BitVec.and_zero, BitVec.or_zero, BitVec.and_allOnes]
  · simp only [if_true, BitVec.not_allOnes, BitVec.and_zero, BitVec.zero_or, BitVec.and_allOnes]

theorem wordsAt_word {pa : Nat} (h : pa % 4 = 0) : wordsAt pa 4 = [pa % 128 / 4] := by
  have all : ∀ k < 32, (List.range 32).filter
      (fun w => decide (4 * k / 4 ≤ w) && decide (4 * w < 4 * k + 4)) = [k] := by decide +kernel
  have hk := all (pa % 128 / 4) (by omega)
  rwa [show 4 * (pa % 128 / 4) = pa % 128 by omega] at hk

/-- Byte `i` of `bytes` put into a word and its mask. -/
def putWordByte (bytes : List Byte) (a : Word × BitVec 4) (i : Nat) : Word × BitVec 4 :=
  (mergeWord a.1 (((bytes.getD i 0).zeroExtend 32) <<< (8 * i)) (1#4 <<< i), a.2 ||| (1#4 <<< i))

theorem shifted_byte (b : Byte) {i : Nat} (hi : i < 4) : ((b.zeroExtend 32) <<< (8 * i)).extractLsb' (8 * i) 8 = b :=
  BitVec.eq_of_getLsbD_eq fun j hj => by simp [hj, show 8 * i + j < 32 by omega]

theorem putWordByte_all (bytes : List Byte) (old : Word) :
    ((List.range 4).foldl (putWordByte bytes) (old, 0)).2 = 0xF ∧ ∀ i < 4,
      ((List.range 4).foldl (putWordByte bytes) (old, 0)).1.extractLsb' (8 * i) 8 = bytes.getD i 0 := by
  refine ⟨by change (((0#4 ||| _) ||| _) ||| _) ||| _ = _; decide, fun i hi => ?_⟩
  change (putWordByte bytes (putWordByte bytes (putWordByte bytes (putWordByte bytes (old, 0) 0) 1) 2) 3).1.extractLsb'
    (8 * i) 8 = _
  simp only [putWordByte, mergeWord_byte _ _ _ hi]
  obtain rfl | rfl | rfl | rfl : i = 0 ∨ i = 1 ∨ i = 2 ∨ i = 3 := by omega
  all_goals simpa using shifted_byte (bytes.getD _ 0) hi

/-- The bytes of a store of a whole word. -/
theorem storeWord_word {pa : Nat} (h : pa % 4 = 0) {bytes : List Byte} (hb : bytes.length = 4) (old : Word) :
    (storeWord pa (pa % 128 / 4) bytes (List.replicate 4 0xFF) old).2 = 0xF ∧
    ∀ i < 4, (storeWord pa (pa % 128 / 4) bytes (List.replicate 4 0xFF) old).1.extractLsb' (8 * i) 8 =
      bytes.getD i 0 := by
  have step : ∀ (a : Word × BitVec 4), ∀ i ∈ List.range 4,
      (let b := 4 * (pa % 128 / 4) + i
       if pa % 128 ≤ b ∧ b < pa % 128 + bytes.length then
         let j := b - pa % 128
         let m := (List.replicate 4 (0xFF : Byte)).getD j 0xFF
         let o : Byte := old.extractLsb' (8 * i) 8
         let nb := (o &&& ~~~m) ||| (bytes.getD j 0 &&& m)
         if m = 0 then a
         else (mergeWord a.1 ((nb.zeroExtend 32) <<< (8 * i)) (1#4 <<< i), a.2 ||| (1#4 <<< i))
       else a) = putWordByte bytes a i := by
    intro a i hi
    have := List.mem_range.1 hi
    have hm : (List.replicate 4 (0xFF : Byte)).getD i 0xFF = BitVec.allOnes 8 := List.getD_replicate _ this
    dsimp only
    rw [if_pos (by omega), show 4 * (pa % 128 / 4) + i - pa % 128 = i by omega, hm, if_neg (by decide)]
    simp only [BitVec.not_allOnes, BitVec.and_zero, BitVec.zero_or, BitVec.and_allOnes, putWordByte]
  unfold storeWord
  rw [List.foldl_ext _ _ _ step]
  exact putWordByte_all bytes old

theorem Run.writeHome_read (r : Run s0) (hI : s0.Inv) {pa : Nat} (h : pa % 4 = 0) (hpa : pa < 2 ^ 52)
    {bytes : List Byte} (hb : bytes.length = 4) (poi : Bool) (x : Nat) :
    Memory.read (r.writeHome pa bytes (List.replicate 4 0xFF) poi).s.mem x =
      if x / 4 = pa / 4 then bytes.getD (x % 4) 0 else Memory.read r.s.mem x := by
  have hw : pa / 128 * 128 + 4 * (pa % 128 / 4) = pa := by omega
  obtain ⟨hm, hv⟩ := storeWord_word h hb (r.s.home pa).v
  unfold Run.writeHome
  dsimp only
  rw [hb, wordsAt_word h]
  simp only [Run.each, List.foldl_cons, List.foldl_nil, hw, hm]
  change Memory.read (Run.putHome _ _ _ _).s.mem x = _
  split
  next hx => rw [Run.putHome_read _ hI hpa _ hx]; exact hv _ (by omega)
  next hx => exact Run.putHome_read_other _ hI _ _ _ hx

end Sys2Proof.Machine
end

section
/-! A write of the device to words of DRAM in one block, where no line is held or lost (R253, R114). -/

namespace Sys2Proof.Machine
variable {s0 : State}

/-- The bytes of a number that the device writes at `pa`. -/
def devBytes (pa n v : Nat) : List NcByte :=
  (List.range n).map fun i => { key := pa + i, bank := false, v := BitVec.ofNat 8 (v >>> (8 * i)) }

theorem devNat_eq (r : Run s0) (core pa n v : Nat) : r.devNat core pa n v = r.ncWrite 0 core 0 (devBytes pa n v) := by
  have hl : (clean (bytesOf n v)).length = n := by simp [clean, bytesOf]
  have hb : (List.range n).map (fun i => let x := (clean (bytesOf n v)).getD i (0, false)
      ({ key := pa + i, bank := false, v := x.1, p := x.2 } : NcByte)) = devBytes pa n v := by
    refine List.map_congr_left fun i hi => ?_
    have := List.mem_range.1 hi
    simp [clean, bytesOf, this]
  unfold Run.devNat Run.devWrite
  rw [hl]
  exact congrArg (r.ncWrite 0 core 0) hb

theorem mem_devBytes {pa n v : Nat} {b : NcByte} (h : b ∈ devBytes pa n v) :
    pa ≤ b.key ∧ b.key < pa + n ∧ b.bank = false ∧ b.p = false := by
  obtain ⟨i, hi, rfl⟩ := List.mem_map.1 h
  have := List.mem_range.1 hi
  exact ⟨by simp, by simpa using this, rfl, rfl⟩

theorem devBytes_cons (pa m v : Nat) :
    ∃ l, devBytes pa (m + 1) v = { key := pa, bank := false, v := BitVec.ofNat 8 v } :: l := by
  unfold devBytes
  rw [List.range_succ_eq_map]
  exact ⟨_, rfl⟩

theorem foldl_min_le {a : Nat} {l : List Nat} (h : ∀ x ∈ l, a ≤ x) : l.foldl min a = a := by
  induction l with
  | nil => rfl
  | cons x l ih =>
    rw [List.foldl_cons, min_eq_left (h x (List.mem_cons_self ..))]
    exact ih fun y hy => h y (List.mem_cons_of_mem _ hy)

/-- The first byte of the block that is written. -/
theorem devBytes_first {pa n : Nat} (v : Nat) (hn : 0 < n) {a : Nat} (ha : pa ≤ a) :
    ((devBytes pa n v).map NcByte.key).foldl min a = pa := by
  obtain ⟨m, rfl⟩ := Nat.exists_eq_succ_of_ne_zero hn.ne'
  have hall : ∀ x ∈ (devBytes pa (m + 1) v).map NcByte.key, pa ≤ x := by
    intro x hx
    obtain ⟨b, hb, rfl⟩ := List.mem_map.1 hx
    exact (mem_devBytes hb).1
  obtain ⟨l, hl⟩ := devBytes_cons pa m v
  rw [hl] at hall ⊢
  rw [List.map_cons, List.foldl_cons, min_eq_right ha]
  exact foldl_min_le fun x hx => hall x (List.mem_cons_of_mem _ hx)

/-- The blocks of bytes that lie in one. -/
theorem blocks_of_one {blk : Nat} {l : List NcByte} (h : ∀ b ∈ l, b.key / 64 = blk) :
    l.foldl (fun a b => if a.contains (b.key / 64) then a else a ++ [b.key / 64]) [blk] = [blk] := by
  induction l with
  | nil => rfl
  | cons b l ih =>
    rw [List.foldl_cons, h b (List.mem_cons_self ..)]
    simpa using ih fun c hc => h c (List.mem_cons_of_mem _ hc)

theorem ncWrite_one_block (r : Run s0) (core pa n v : Nat) (hn : 0 < n) (hb : pa % 64 + n ≤ 64) :
    r.ncWrite 0 core 0 (devBytes pa n v) = r.ncBlock 0 core 0 (pa / 64) (devBytes pa n v) := by
  have all : ∀ b ∈ devBytes pa n v, b.key / 64 = pa / 64 := by
    intro b hb
    obtain ⟨h1, h2, -⟩ := mem_devBytes hb
    omega
  have hf : (devBytes pa n v).filter (fun b => decide (b.key / 64 = pa / 64)) = devBytes pa n v :=
    List.filter_eq_self.2 fun b hb => by simp [all b hb]
  obtain ⟨m, rfl⟩ := Nat.exists_eq_succ_of_ne_zero hn.ne'
  obtain ⟨l, hl⟩ := devBytes_cons pa m v
  unfold Run.ncWrite
  have hblk : (devBytes pa (m + 1) v).foldl
      (fun a b => if a.contains (b.key / 64) then a else a ++ [b.key / 64]) [] = [pa / 64] := by
    rw [hl] at all ⊢
    exact blocks_of_one fun b hb => all b (List.mem_cons_of_mem _ hb)
  dsimp only
  rw [hblk]
  simp only [Run.each, List.foldl_cons, List.foldl_nil, hf]

theorem place_of_isDram {pa : Nat} (h : isDram pa = true) : ∃ n, place pa = .dram n := by
  unfold isDram at h
  split at h
  next n hn => exact ⟨n, hn⟩
  next => cases h

theorem isDram_lt {pa : Nat} (h : isDram pa = true) : pa < 2 ^ 52 := by
  unfold isDram place at h
  split_ifs at h
  omega

/-- A write that nothing holds back goes to the directory of its line at once. -/
theorem devNat_dir (r : Run s0) (core v : Nat) {pa n : Nat} (F : DevFree r.s pa n) (hn : 0 < n)
    (hb : pa % 64 + n ≤ 64) :
    r.devNat core pa n v = Run.ncBlock.dir core (pa / 64) (devBytes pa n v) r := by
  have hbank : (devBytes pa n v).any NcByte.bank = false := List.any_eq_false.2 fun b hb => by simp [mem_devBytes hb]
  obtain ⟨k, hk⟩ := place_of_isDram (F.dram 0 hn)
  have hrem (t : State) : t.remote pa = false := by unfold State.remote; rw [show place pa = _ from hk]
  rw [devNat_eq, ncWrite_one_block r core pa n v hn hb]
  unfold Run.ncBlock
  simp only [devBytes_first v hn (show pa ≤ pa / 64 * 64 + 63 by omega), hbank, Bool.false_eq_true, if_false, hrem]
  rw [show place pa = _ from hk]
  dsimp only [Run.ncBlock.at_]
  rw [show r.s.isLost pa = false from F.lost 0 hn, show r.s.cellHeld (pa, false) = false from F.held 0 hn, F.idle]
  rfl

/-- What the device writes to one word. -/
theorem spread_devBytes {pa n a : Nat} (v : Nat) (hpa : pa % 4 = 0) (hn : n % 4 = 0) (ha : a % 4 = 0) (h : pa ≤ a)
    (h' : a < pa + n) : spread a 4 ((devBytes pa n v).filter fun b => decide (b.key / 4 = a / 4)) =
      (bytesOf 4 (v >>> (8 * (a - pa))), List.replicate 4 0xFF) := by
  have at_ : ∀ i < 4, ((devBytes pa n v).filter fun b => decide (b.key / 4 = a / 4)).find?
      (fun b => decide (b.key = a + i)) =
      some { key := a + i, bank := false, v := BitVec.ofNat 8 (v >>> (8 * (a - pa) + 8 * i)) } := by
    intro i hi
    rw [List.find?_filter]
    unfold devBytes
    rw [List.find?_map, (List.find?_range_eq_some (i := a - pa + i)).2 ⟨?_, List.mem_range.2 (by omega), ?_⟩]
    · simp [Nat.mul_add]
      omega
    · simp
      omega
    · simp
      omega
  have hmap (α : Type) (f g : Nat → α) (h : ∀ i < 4, f i = g i) : (List.range 4).map f = (List.range 4).map g :=
    List.map_congr_left fun i hi => h i (List.mem_range.1 hi)
  unfold spread bytesOf
  dsimp only
  rw [Prod.mk.injEq]
  refine ⟨hmap _ _ _ fun i hi => ?_, hmap _ _ (fun _ => 0xFF) fun i hi => ?_⟩
  · rw [at_ i hi, Nat.shiftRight_add]
  · exact if_pos (by rw [at_ i hi]; rfl)

/-- The word that four bytes of a number make. -/
theorem ofBytes_word (V : Nat) : BitVec.ofNat 32 (ofBytes (bytesOf 4 V)) = BitVec.ofNat 32 V := by
  apply BitVec.eq_of_toNat_eq
  simp only [bytesOf, ofBytes, List.range, List.range.loop, List.map_cons, List.map_nil, List.foldr_cons,
    List.foldr_nil, BitVec.toNat_ofNat, Nat.shiftRight_eq_div_pow]
  omega

theorem home_word {s : State} {a V : Nat}
    (h : ∀ x, x / 4 = a / 4 → Memory.read s.mem x = BitVec.ofNat 8 (V >>> (8 * (x % 4)))) :
    (s.home a).v = BitVec.ofNat 32 V := by
  rw [← ofBytes_word V]
  unfold State.home bytesOf
  dsimp only
  congr 2
  refine List.map_congr_left fun i hi => ?_
  have := List.mem_range.1 hi
  rw [h _ (by omega), show (a / 4 * 4 + i) % 4 = i by omega]

/-- A fold that establishes a fact for each element, and none of whose steps spoils it for another. -/
theorem each_all {α : Type} {P : α → Run s0 → Prop} {f : Run s0 → α → Run s0} {l : List α}
    (hset : ∀ r, ∀ x ∈ l, P x (f r x)) (hkeep : ∀ r, ∀ x ∈ l, ∀ y, P y r → P y (f r x)) (r : Run s0) :
    ∀ x ∈ l, P x (r.each l f) := by
  induction l generalizing r with
  | nil => intro x hx; cases hx
  | cons a l ih =>
    have rest := ih (fun r x hx => hset r x (List.mem_cons_of_mem _ hx))
      (fun r x hx => hkeep r x (List.mem_cons_of_mem _ hx)) (f r a)
    intro x hx
    rcases List.mem_cons.1 hx with rfl | hx
    · exact Run.each_inv_mem (P x) (r := f r x) (l := l) (hset r x (List.mem_cons_self ..)) fun q y hy =>
        hkeep q y (List.mem_cons_of_mem _ hy) x
    · exact rest x hx

/-- The words of a block that the device's bytes touch. -/
def devWords (pa n v : Nat) : List Nat :=
  (List.range 16).filter fun w => (devBytes pa n v).any fun b => decide (b.key / 4 = pa / 64 * 16 + w)

theorem mem_devWords {pa n v w : Nat} (h : w ∈ devWords pa n v) :
    w < 16 ∧ pa / 4 * 4 ≤ pa / 64 * 64 + 4 * w ∧ pa / 64 * 64 + 4 * w < pa + n := by
  obtain ⟨hw, hb⟩ := List.mem_filter.1 h
  obtain ⟨b, hb, hk⟩ := List.any_eq_true.1 hb
  obtain ⟨h1, h2, -⟩ := mem_devBytes hb
  have := List.mem_range.1 hw
  have := of_decide_eq_true hk
  omega

theorem devWords_mem {pa n v i : Nat} (hi : i < n) (hb : pa % 64 + n ≤ 64) :
    (pa + i) / 4 % 16 ∈ devWords pa n v := by
  refine List.mem_filter.2 ⟨List.mem_range.2 (by omega), List.any_eq_true.2
    ⟨_, List.mem_map.2 ⟨i, List.mem_range.2 hi, rfl⟩, ?_⟩⟩
  simp only [decide_eq_true_eq]
  omega

/-- One word of such a write. -/
def Run.devWord (pa n v : Nat) (r : Run s0) (w : Nat) : Run s0 :=
  let a := pa / 64 * 64 + 4 * w
  let mine := (devBytes pa n v).filter fun b => decide (b.key / 4 = a / 4)
  let x := spread a 4 mine
  r.writeHome a x.1 x.2 (mine.any NcByte.p)

/-- The claim that precedes it. -/
def Run.devClaim (core pa n v : Nat) (r : Run s0) : Run s0 :=
  let ws := (devWords pa n v).map fun w => pa / 64 % 2 * 16 + w
  ((r.countReq (pa / 64 / 2) core).dirClaim (pa / 64 / 2) ws).dropUntracked core (pa / 64 / 2) ws

theorem ncBlock_dir_eq (r : Run s0) (core pa n v : Nat) : Run.ncBlock.dir core (pa / 64) (devBytes pa n v) r =
    (r.devClaim core pa n v).each (devWords pa n v) (Run.devWord pa n v) := rfl

theorem devNat_unlined (r : Run s0) (core v : Nat) {pa n : Nat} (F : DevFree r.s pa n) (hn : 0 < n)
    (hb : pa % 64 + n ≤ 64) :
    (r.devNat core pa n v).s.unlined = r.s.unlined := by
  rw [devNat_dir r core v F hn hb, ncBlock_dir_eq]
  refine (Run.each_const State.unlined (fun q w => Run.writeHome_unlined q ..) _ _).trans ?_
  unfold Run.devClaim
  simp

theorem devNat_homed (r : Run s0) (core v : Nat) {pa n i : Nat} (F : DevFree r.s pa n) (hi : i < n)
    (hb : pa % 64 + n ≤ 64) :
    ((r.devNat core pa n v).s.dir ((pa + i) / 128)).Homed ((pa + i) / 4 % 32) := by
  rw [devNat_dir r core v F (by omega) hb, ncBlock_dir_eq, show (pa + i) / 128 = pa / 64 / 2 by omega]
  have claimed : ((r.devClaim core pa n v).s.dir (pa / 64 / 2)).Homed ((pa + i) / 4 % 32) := by
    refine State.homed_congr (dropUntracked_takers ..)
      (dirClaim_homed _ _ (List.mem_map.2 ⟨_, devWords_mem hi hb, ?_⟩) ?_) <;> omega
  refine State.homed_congr ?_ claimed
  refine Run.each_inv_mem (fun q => q.s.takers (pa / 64 / 2) = (r.devClaim core pa n v).s.takers (pa / 64 / 2)) rfl
    fun q w hw hq => Eq.trans ?_ hq
  have := (mem_devWords hw).1
  have ht := writeHome_takers q (pa / 64 * 64 + 4 * w)
  rw [show (pa / 64 * 64 + 4 * w) / 128 = pa / 64 / 2 by omega] at ht
  exact ht _ _ _

theorem devWord_read (r : Run s0) (hI : s0.Inv) {pa n v w : Nat} (hpa : pa % 4 = 0) (hn : n % 4 = 0)
    (htop : pa + n ≤ 2 ^ 52) (hw : w ∈ devWords pa n v) (x : Nat) : Memory.read (Run.devWord pa n v r w).s.mem x =
      if x / 4 = pa / 64 * 16 + w then BitVec.ofNat 8 (v >>> (8 * (x - pa))) else Memory.read r.s.mem x := by
  obtain ⟨h16, h1, h2⟩ := mem_devWords hw
  unfold Run.devWord
  dsimp only
  rw [spread_devBytes v hpa hn (by omega) (by omega) (by omega),
    Run.writeHome_read r hI (by omega) (by omega) (by simp [bytesOf]),
    show (pa / 64 * 64 + 4 * w) / 4 = pa / 64 * 16 + w by omega]
  split
  next hx => simp [bytesOf, show x % 4 < 4 by omega, ← Nat.shiftRight_add,
      show 8 * (pa / 64 * 64 + 4 * w - pa) + 8 * (x % 4) = 8 * (x - pa) by omega]
  next => rfl

/-- After a write of the device, each of its words is the current value. -/
theorem devNat_coh (r : Run s0) (hI : s0.Inv) (core v : Nat) {pa n i : Nat} (F : DevFree r.s pa n) (hpa : pa % 4 = 0)
    (hn : n % 4 = 0) (hi : i < n) (h4 : i % 4 = 0) (hb : pa % 64 + n ≤ 64) :
    ((r.devNat core pa n v).s.coh (pa + i)).v = BitVec.ofNat 32 (v >>> (8 * i)) := by
  have htop : pa + n ≤ 2 ^ 52 := by
    have := isDram_lt (F.dram (n - 1) (by omega))
    omega
  rw [State.coh_of_homed (devNat_homed r core v F hi hb)]
  refine home_word fun x hx => ?_
  rw [devNat_dir r core v F (by omega) hb, ncBlock_dir_eq]
  have all := each_all (P := fun w (q : Run s0) => ∀ x, x / 4 = pa / 64 * 16 + w →
      Memory.read q.s.mem x = BitVec.ofNat 8 (v >>> (8 * (x - pa)))) (l := devWords pa n v) (f := Run.devWord pa n v)
    (fun q w hw x hx => by rw [devWord_read q hI hpa hn htop hw, if_pos hx])
    (fun q w hw y hq x hx => by
      rw [devWord_read q hI hpa hn htop hw]
      split <;> [rfl; exact hq x hx])
    (r.devClaim core pa n v) _ (devWords_mem hi hb) x (by omega)
  rw [all, ← Nat.shiftRight_add, show 8 * (x - pa) = 8 * i + 8 * (x % 4) by omega]

end Sys2Proof.Machine
end

section
/-! The command rings: how a die takes a command, and how it completes (R373). -/

namespace Sys2Proof.Machine
variable {s0 : State} {s : State} {die : Nat} {c : Cmd}

/-- The state in which a die has started a command. -/
def State.begun (s : State) (die : Nat) (c : Cmd) : State := { s with dies := s.taken die c }

theorem startCommand_s (h : s.entryRead die = none) (c : Cmd) :
    ((Run.start s).startCommand die c).s = s.begun die c := by
  unfold Run.startCommand
  rw [show (Run.start s).s.entryRead die = none from h]
  rfl

/-- A die runs a command that it takes: what the command does, `g`, and then its status. -/
theorem onCommand_takes (T : Takes s die c) {mine : Cmd → Bool} (hm : mine c = true)
    {f : Run s → Cmd → Run s × Option Nat} {g : Run s → Run s} {st : Nat}
    (hf : ∀ r, r.s = s.begun die c → f r c = (g r, some st)) :
    ∃ r : Run s, r.s = s.begun die c ∧ (Run.start s).onCommand die mine f =
      (g r).updDie die fun d => { d with cmd := d.cmd.map fun c => { c with status := some st } } := by
  obtain ⟨m, hnext, hres, rfl⟩ := T.entry
  have hs := startCommand_s T.here (cmdOf m)
  refine ⟨_, hs, ?_⟩
  unfold Run.onCommand
  rw [show ((Run.start s).s.die die).cmd = none from T.idle, show (Run.start s).s.nextEntry die = some m from hnext]
  simp only [hres, T.known, hm, Bool.not_true, Bool.or_self, Bool.false_eq_true, if_false, hf _ hs]

theorem die_put (d : Die) (l : List (Nat × Die)) : KV.getD die ({} : Die) (KV.put die d l) = d := by
  unfold KV.getD
  rw [KV.find?_put_self]
  rfl

/-- A change of the command under way. -/
theorem updCmd_dies {r : Run s0} (h : r.s.dies = s.taken die c) (g : Cmd → Cmd) :
    (r.updDie die fun d => { d with cmd := d.cmd.map g }).s.dies = s.taken die (g c) := by
  rw [Run.updDie_dies]
  unfold State.die
  rw [h]
  unfold State.taken
  rw [die_put, KV.put_put]
  rfl

/-- What a die keeps when it starts a command. -/
theorem begun_die {α : Type} (g : Die → α) (hg : ∀ (d : Die) (h : BitVec 32) (o : Option Cmd),
    g { d with mchead := h, cmd := o } = g d) (s : State) (die : Nat) (c : Cmd) (k : Nat) :
    g ((s.begun die c).die k) = g (s.die k) := by
  by_cases hk : k = die
  · subst hk
    exact (congrArg g (die_put _ s.dies)).trans (hg ..)
  · unfold State.die KV.getD
    rw [show KV.find? k (s.begun die c).dies = _ from KV.find?_put_ne hk _ s.dies]

theorem begun_ready (s : State) (die : Nat) (c : Cmd) (k : Nat) : ((s.begun die c).die k).ready = (s.die k).ready :=
  begun_die Die.ready (fun _ _ _ => rfl) s die c k

end Sys2Proof.Machine
end

section
/-! ZEROPAGE (R31). -/

namespace Sys2Proof.Machine
variable {s0 : State} {s : State} {die : Nat} {c : Cmd}

theorem zeroable_begun (s : State) (die : Nat) (c : Cmd) (base n : Nat) :
    (s.begun die c).zeroable base n = s.zeroable base n := by
  unfold State.zeroable
  simp only [begun_ready]

theorem State.zeroable_aligned {base n : Nat} (h : s.zeroable base n = true) : base % 4096 = 0 ∧ n % 4096 = 0 := by
  unfold State.zeroable at h
  simp only [Bool.and_eq_true, decide_eq_true_eq] at h
  exact h.1

/-- A state without its directories and forwarding entries. -/
def State.undir (s : State) : State := { s with dirs := [], fwd := [] }

@[simp] theorem updDir_undir (r : Run s0) (line : Nat) (f : Dir → Dir) : (r.updDir line f).s.undir = r.s.undir := rfl
@[simp] theorem dropForward_undir (r : Run s0) (line : Nat) : (r.dropForward line).s.undir = r.s.undir := rfl

theorem discardLine_undir (r : Run s0) (line : Nat) : (r.discardLine line).s.undir = r.s.undir := by
  unfold Run.discardLine
  dsimp only
  split <;> simp

@[simp] theorem dropForward_dir (r : Run s0) (line n : Nat) : (r.dropForward line).s.dir n = r.s.dir n := rfl

theorem discardLine_quiet (r : Run s0) (line : Nat) : (r.discardLine line).s.QuietLine line := by
  unfold Run.discardLine State.QuietLine
  dsimp only
  split <;> simp

theorem discardLine_dir_ne (r : Run s0) {line n : Nat} (h : n ≠ line) : (r.discardLine line).s.dir n = r.s.dir n := by
  unfold Run.discardLine
  dsimp only
  split
  · exact updDir_dir_ne r _ h
  · rw [updDir_dir_ne _ _ h, dropForward_dir]
    exact updDir_dir_ne r _ h

/-- A line that is discarded, or was quiet, is quiet. -/
theorem discardLine_keeps_quiet (r : Run s0) (line : Nat) {n : Nat} (h : r.s.QuietLine n) :
    (r.discardLine line).s.QuietLine n := by
  by_cases hn : n = line
  · exact hn ▸ discardLine_quiet r line
  · unfold State.QuietLine
    rw [discardLine_dir_ne r hn]
    exact h

/-- A line without an entry has never been taken. -/
theorem quietLine_of_unlisted {n : Nat} (h : KV.find? n s.dirs = none) : s.QuietLine n := by
  unfold State.QuietLine State.dir KV.getD
  rw [h]
  exact ⟨rfl, rfl⟩

/-- Discarding the listed lines among `p` makes every line among `p` quiet. -/
theorem discard_quiet (r : Run s0) (p : Nat → Bool) {n : Nat} (hp : p n = true) :
    (r.each ((r.s.dirs.filter fun d => p d.1).map Prod.fst) fun r line => r.discardLine line).s.QuietLine n := by
  cases hn : KV.find? n r.s.dirs with
  | none =>
    exact each_inv (fun q => q.s.QuietLine n) _ _ r (quietLine_of_unlisted hn)
      fun q line => discardLine_keeps_quiet q line
  | some d =>
    refine each_all (P := fun n (q : Run s0) => q.s.QuietLine n) (fun q x _ => discardLine_quiet q x)
      (fun q x _ y => discardLine_keeps_quiet q x) r n
      (List.mem_map.2 ⟨(n, d), List.mem_filter.2 ⟨KV.mem_of_find? hn, hp⟩, rfl⟩)

/-- Whether an address lies among the `n` bytes at `base`. -/
def within (base n a : Nat) : Bool := decide (base ≤ a) && decide (a < base + n)

theorem not_within_of_mem_filter {α : Type} {base n : Nat} {f : α → Nat} {l : List α} {x : α}
    (h : x ∈ l.filter fun e => !within base n (f e)) : within base n (f x) = false := by
  simpa using (List.mem_filter.1 h).2

/-- The copies above the home copies of a range are gone. -/
def Run.dropCopies (r : Run s0) (base n : Nat) : Run s0 := r.mod fun s => { s with
  l1 := s.l1.filter fun e => !within base n (e.1 % 2 ^ 50 * 4)
  fcache := s.fcache.filter fun e => !within base n (e.1 % 2 ^ 50 * 4)
  sram := s.sram.filter fun e => !within base n (e.1 * 128)
  pkg := { s.pkg with lost := s.pkg.lost.filter fun x => !within base n (x.1 * 128) } }

/-- The lines of a range are discarded. -/
def Run.discardRange (r : Run s0) (base n : Nat) : Run s0 :=
  r.each ((r.s.dirs.filter fun d => within base n (d.1 * 128)).map Prod.fst) fun r line => r.discardLine line

theorem discardRange_undir (r : Run s0) (base n : Nat) : (r.discardRange base n).s.undir = r.s.undir :=
  Run.each_const State.undir discardLine_undir r _

theorem State.eq_of_undir {s t : State} (h : s.undir = t.undir) : s = { t with dirs := s.dirs, fwd := s.fwd } :=
  congrArg (fun u : State => { u with dirs := s.dirs, fwd := s.fwd }) h

/-- What zeroing a range comes to, but for the directories. -/
theorem zeroPages_s (r : Run s0) (base n : Nat) : ∃ dirs fwd, (r.zeroPages base n).s = { r.s with
    mem := Memory.zero base n r.s.mem
    mpoison := KV.delRange (base / 4) (n / 4) r.s.mpoison
    dpoison := KV.delRange (base / 64) (n / 64) r.s.dpoison
    l1 := r.s.l1.filter fun e => !within base n (e.1 % 2 ^ 50 * 4)
    fcache := r.s.fcache.filter fun e => !within base n (e.1 % 2 ^ 50 * 4)
    sram := r.s.sram.filter fun e => !within base n (e.1 * 128)
    pkg := { r.s.pkg with lost := r.s.pkg.lost.filter fun x => !within base n (x.1 * 128) }
    dirs := dirs, fwd := fwd } := by
  have h := State.eq_of_undir (discardRange_undir (r.dropCopies base n) base n)
  have hz := congrArg (fun s : State => { s with
    mem := Memory.zero base n s.mem
    mpoison := KV.delRange (base / 4) (n / 4) s.mpoison
    dpoison := KV.delRange (base / 64) (n / 64) s.dpoison }) h
  exact ⟨_, _, hz⟩

/-- Every line of the range is quiet afterwards. -/
theorem zeroPages_quiet (r : Run s0) {base n k : Nat} (h : within base n (k * 128) = true) :
    (r.zeroPages base n).s.QuietLine k :=
  discard_quiet (r.dropCopies base n) (fun k => within base n (k * 128)) h

/-- A mark of a piece of `k` bytes outside the range that is unmarked. -/
theorem not_within_of_mem_delRange {α : Type} {base n k : Nat} {l : List (Nat × α)} {x : Nat × α} (hk : 0 < k)
    (hb : k ∣ base) (hn : k ∣ n) (h : x ∈ KV.delRange (base / k) (n / k) l) : within base n (k * x.1) = false := by
  obtain ⟨b, rfl⟩ := hb
  obtain ⟨m, rfl⟩ := hn
  have hx := (List.mem_filter.1 h).2
  rw [Nat.mul_div_cancel_left _ hk, Nat.mul_div_cancel_left _ hk] at hx
  unfold within
  rw [← Nat.mul_add]
  simpa [Nat.mul_le_mul_left_iff hk, Nat.mul_lt_mul_left hk, imp_iff_not_or] using hx

/-- R31: a range that is zeroed reads as 0, and no copy or mark of it is left. -/
theorem zeropage_law (hI : s.Inv) (T : Takes s die c) (hcode : c.code = 1) (h2 : c.op2 = 0) (h3 : c.op3 = 0)
    (hz : s.zeroable c.op0.toNat c.op1.toNat = true) :
    let inside (a : Nat) : Bool := decide (c.op0.toNat ≤ a) && decide (a < c.op0.toNat + c.op1.toNat)
    ∃ t, exec (.zeropage die) s = .next t ∧ t.dies = s.taken die (c.with 0) ∧
      (∀ a, Memory.read t.mem a = if inside a then 0 else Memory.read s.mem a) ∧
      (∀ x ∈ t.mpoison, inside (4 * x.1) = false) ∧ (∀ x ∈ t.l1, inside (x.1 % 2 ^ 50 * 4) = false) ∧
      (∀ x ∈ t.fcache, inside (x.1 % 2 ^ 50 * 4) = false) ∧ (∀ x ∈ t.sram, inside (x.1 * 128) = false) ∧
      (∀ x ∈ t.dpoison, inside (64 * x.1) = false) ∧ (∀ n, inside (128 * n) = true → t.QuietLine n) ∧
      t.fibres = s.fibres ∧ t.gangs = s.gangs ∧ t.scr = s.scr ∧ t.acc = s.acc := by
  obtain ⟨ha, hn⟩ := State.zeroable_aligned hz
  generalize hbase : c.op0.toNat = base at *
  generalize hlen : c.op1.toNat = n at *
  have hcmd (r : Run s) (hs : r.s = s.begun die c) : r.cmdZeropage c = (r.zeroPages base n, some 0) := by
    unfold Run.cmdZeropage
    rw [if_neg (by simp [h2, h3]), hs, hbase, hlen, zeroable_begun, if_pos hz]
  obtain ⟨r, hs, hrun⟩ := onCommand_takes T (mine := fun c => decide (c.code = 1)) (by simp [hcode]) hcmd
  obtain ⟨dirs, fwd, hz⟩ := zeroPages_s r base n
  have quiet (k : Nat) (hk : within base n (128 * k) = true) : (r.zeroPages base n).s.QuietLine k :=
    zeroPages_quiet r (Nat.mul_comm 128 k ▸ hk)
  have hdies := updCmd_dies (r := r.zeroPages base n) (c := c) (die := die) (by rw [hz, hs]; rfl)
    fun c => { c with status := some 0 }
  rw [hs] at hz
  generalize r.zeroPages base n = q at *
  obtain ⟨q, hq⟩ := q
  subst hz
  exact ⟨_, congrArg Run.out hrun, hdies, fun a => by simpa [State.begun] using Memory.read_zero hI.mem base n a,
    fun x hx => not_within_of_mem_delRange (by decide) (by omega) (by omega) hx,
    fun x hx => not_within_of_mem_filter (f := fun e : Nat × L1W => e.1 % 2 ^ 50 * 4) hx,
    fun x hx => not_within_of_mem_filter (f := fun e : Nat × FetchW => e.1 % 2 ^ 50 * 4) hx,
    fun x hx => not_within_of_mem_filter (f := fun e : Nat × SLine => e.1 * 128) hx,
    fun x hx => not_within_of_mem_delRange (by decide) (by omega) (by omega) hx, quiet, rfl, rfl, rfl, rfl⟩

end Sys2Proof.Machine
end

section
/-! XINVAL (R26), BNDSYNC (R15), a code that is not known, and the completion of a command (R372, R373). -/

namespace Sys2Proof.Machine
variable {s0 : State} {s : State} {die : Nat} {c : Cmd}

/-- A command that a die takes bears no mark. -/
theorem takes_mark (T : Takes s die c) : c.mark = 0 := by
  obtain ⟨m, -, -, rfl⟩ := T.entry
  rfl

theorem pageSize_pos (n : Nat) : 0 < pageSize n := Nat.two_pow_pos _

theorem runLen_pos (e : DWord) : 0 < runLen e := by
  unfold runLen
  split <;> decide

/-- The leaves that XINVAL drops. -/
def Cmd.stale (c : Cmd) (ctx : Nat) (e : Nat × Nat × DWord) : Bool :=
  let size := pageSize e.2.1 * runLen e.2.2
  let lo := e.1 % 2 ^ 42 * 4096 / size * size
  decide (e.1 / 2 ^ 42 = ctx) && decide (c.op2 = 0 ∧ lo < 2 ^ 54 ∨
    lo < c.op1.toNat + c.op2.toNat ∧ c.op1.toNat < lo + size ∧ c.op2 ≠ 0)

/-- The leaves that `Run.dropLeaves` hits for an XINVAL, an empty range standing for every address. -/
theorem stale_eq (c : Cmd) (ctx : Nat) (e : Nat × Nat × DWord) :
    (let size := pageSize e.2.1 * runLen e.2.2
     let lo := e.1 % 2 ^ 42 * 4096 / size * size
     decide (e.1 / 2 ^ 42 = ctx) &&
       decide (lo < (if c.op2 = 0 then 0 else c.op1.toNat) + (if c.op2 = 0 then 2 ^ 54 else c.op2.toNat)) &&
       decide ((if c.op2 = 0 then 0 else c.op1.toNat) < lo + size)) = c.stale ctx e := by
  have hsize : 0 < pageSize e.2.1 * runLen e.2.2 := Nat.mul_pos (pageSize_pos _) (runLen_pos _)
  unfold Cmd.stale
  dsimp only
  by_cases h : c.op2 = 0
  · simp only [h, if_true, Nat.zero_add, true_and, ne_eq, not_true_eq_false, and_false, or_false]
    rw [decide_eq_true (show 0 < _ from Nat.lt_of_lt_of_le hsize (Nat.le_add_left ..)), Bool.and_true]
  · rw [if_neg h, if_neg h, Bool.and_assoc, ← Bool.decide_and]
    simp only [h, false_and, false_or, ne_eq, not_false_eq_true, and_true]

/-- XINVAL drops the stale leaves, and the command remembers which accesses are older (R26). -/
def Run.invalLeaves (r : Run s0) (die ctx m : Nat) (c : Cmd) : Run s0 :=
  (r.dropLeaves ctx (if c.op2 = 0 then 0 else c.op1.toNat) (if c.op2 = 0 then 2 ^ 54 else c.op2.toNat)).updDie die
    fun d => { d with cmd := d.cmd.map fun c => { c with mark := m } }

theorem invalLeaves_s {r : Run s0} (hs : r.s = s.begun die c) (ctx m : Nat) : (r.invalLeaves die ctx m c).s = { s with
    sites := s.sites.map fun x => (x.1, { x.2 with tlb := x.2.tlb.filter fun e => !c.stale ctx e })
    dies := s.taken die { c with mark := m } } := by
  have hsites : (r.invalLeaves die ctx m c).s.sites =
      s.sites.map fun x => (x.1, { x.2 with tlb := x.2.tlb.filter fun e => !c.stale ctx e }) := by
    simp only [← stale_eq]
    rw [show s.sites = r.s.sites by rw [hs]; rfl]
    rfl
  have hdies : (r.invalLeaves die ctx m c).s.dies = s.taken die { c with mark := m } :=
    updCmd_dies (r := r.dropLeaves ctx _ _) (congrArg State.dies hs) _
  rw [← hsites, ← hdies]
  exact congrArg (fun t : State => { t with
    sites := (r.invalLeaves die ctx m c).s.sites, dies := (r.invalLeaves die ctx m c).s.dies }) hs

/-- R26: the leaves that an XINVAL drops, where no older access of the context is under way. -/
theorem xinval_law (T : Takes s die c) {ctx : Nat} (hcode : c.code = 2) (h0 : c.op0.toNat < 256)
    (hctx : s.cmdCtx c.op0 = some ctx) (h3 : c.op3 = 0) (h54 : c.op1.toNat < 2 ^ 54) (h1a : c.op1.toNat % 4096 = 0)
    (h2a : c.op2.toNat % 4096 = 0) (hend : c.op2 = 0 ∨ c.op1.toNat + c.op2.toNat ≤ 2 ^ 54)
    (hold : s.oldAccess ctx s.nextId = false) :
    exec (.xinval die) s = .next { s with
      sites := s.sites.map fun x => (x.1, { x.2 with tlb := x.2.tlb.filter fun e => !c.stale ctx e })
      dies := s.taken die { c.with 0 with mark := s.nextId } } := by
  have hbad : ¬(256 ≤ c.op0.toNat ∨ 2 ^ 54 ≤ c.op1.toNat ∨ c.op1.toNat % 4096 ≠ 0 ∨ c.op2.toNat % 4096 ≠ 0 ∨
      c.op3 ≠ 0 ∨ (c.op2 ≠ 0 ∧ 2 ^ 54 < c.op1.toNat + (if c.op2 = 0 then 2 ^ 54 else c.op2.toNat))) := by
    by_cases h : c.op2 = 0
    · simp only [h, h3, ne_eq, not_true_eq_false, false_and, or_false, show (0 : DWord).toNat = 0 from rfl]
      omega
    · have := hend.resolve_left h
      rw [if_neg h]
      simp only [h3, ne_eq, not_true_eq_false, false_or]
      omega
  have hrun (r : Run s) (hs : r.s = s.begun die c) :
      r.cmdXinval die c = (r.invalLeaves die ctx s.nextId c, some 0) := by
    have hold' : (r.invalLeaves die ctx s.nextId c).s.oldAccess ctx
        (r.invalLeaves die ctx s.nextId c).s.nextId = false := by
      rw [invalLeaves_s hs]
      exact hold
    have hid : r.s.nextId = s.nextId := by
      rw [hs]
      rfl
    unfold Run.cmdXinval
    rw [show r.s.cmdCtx c.op0 = some ctx by rw [hs]; exact hctx]
    dsimp only
    rw [if_neg hbad, if_pos (takes_mark T), if_pos (takes_mark T), hid]
    exact congrArg (Prod.mk _) (if_neg (by rw [Bool.not_eq_true]; exact hold'))
  obtain ⟨r, hs, hr⟩ := onCommand_takes T (mine := fun c => decide (c.code = 2)) (by simp [hcode]) hrun
  have hx := invalLeaves_s hs ctx s.nextId
  have hdies := updCmd_dies (r := r.invalLeaves die ctx s.nextId c) (congrArg State.dies hx)
    fun c => { c with status := some 0 }
  generalize r.invalLeaves die ctx s.nextId c = q at hr hx hdies
  have hq (F : Die → Die) : (q.updDie die F).s = { q.s with dies := (q.updDie die F).s.dies } := rfl
  refine (congrArg Run.out hr).trans ?_
  rw [Run.out_eq, hq, hdies, hx]
  rfl

theorem getLsbD_maskBits (v : DWord) (lo n : Nat) {i : Nat} (hi : i < 64) :
    (maskBits v lo n).getLsbD i = (decide (lo ≤ i) && decide (i < lo + n) && v.getLsbD i) := by
  unfold maskBits maskBits.efld'
  rw [BitVec.getLsbD_ofNat, decide_eq_true hi, Bool.true_and, Nat.testBit_mul_two_pow, Nat.testBit_mod_two_pow,
    Nat.testBit_div_two_pow]
  by_cases h : lo ≤ i
  · simp [h, BitVec.getLsbD, Nat.sub_lt_iff_lt_add h, Nat.add_comm n]
  · simp [h]

/-- R15: the fields of BNDTBL. -/
theorem maskBits_bndtbl (v : DWord) : maskBits v 14 38 ||| maskBits v 0 1 = v &&& 0x000F_FFFF_FFFF_C001 := by
  have mask : ∀ i < 64, (0x000F_FFFF_FFFF_C001 : DWord).getLsbD i =
      (decide (14 ≤ i) && decide (i < 52) || decide (i < 1)) := by decide
  refine BitVec.eq_of_getLsbD_eq fun i hi => ?_
  rw [BitVec.getLsbD_or, BitVec.getLsbD_and, getLsbD_maskBits _ _ _ hi, getLsbD_maskBits _ _ _ hi, mask i hi]
  cases v.getLsbD i <;> simp

theorem ready_begun (s : State) (die : Nat) (c : Cmd) (pa : Nat) : (s.begun die c).ready pa = s.ready pa := by
  unfold State.ready
  simp only [begun_ready]

theorem ringEntry_begun (s : State) (die : Nat) (c : Cmd) (i : Nat) : (s.begun die c).ringEntry i = s.ringEntry i := by
  unfold State.ringEntry State.peekNat State.peekBytes
  simp only [ready_begun]
  rfl

theorem isLost_begun (s : State) (die : Nat) (c : Cmd) (pa : Nat) : (s.begun die c).isLost pa = s.isLost pa := by
  unfold State.isLost
  simp only [begun_die Die.failed fun _ _ _ => rfl]
  rfl

theorem devFree_begun {pa n : Nat} (F : DevFree s pa n) (die : Nat) (c : Cmd) : DevFree (s.begun die c) pa n :=
  ⟨F.dram, fun i hi => (isLost_begun s die c (pa + i)).trans (F.lost i hi), F.held, F.idle⟩

section
variable (r : Run s0) (core v : Nat) {pa n : Nat} (F : DevFree r.s pa n) (hn : 0 < n) (hb : pa % 64 + n ≤ 64)
include F hn hb

theorem devNat_dies : (r.devNat core pa n v).s.dies = r.s.dies :=
  show (r.devNat core pa n v).s.unlined.dies = r.s.unlined.dies by rw [devNat_unlined r core v F hn hb]
theorem devNat_ctxs : (r.devNat core pa n v).s.ctxs = r.s.ctxs :=
  show (r.devNat core pa n v).s.unlined.ctxs = r.s.unlined.ctxs by rw [devNat_unlined r core v F hn hb]
theorem devNat_sites : (r.devNat core pa n v).s.sites = r.s.sites :=
  show (r.devNat core pa n v).s.unlined.sites = r.s.unlined.sites by rw [devNat_unlined r core v F hn hb]
theorem devNat_pkg : (r.devNat core pa n v).s.pkg = r.s.pkg :=
  show (r.devNat core pa n v).s.unlined.pkg = r.s.unlined.pkg by rw [devNat_unlined r core v F hn hb]

end

@[simp] theorem updDie_coh (r : Run s0) (k : Nat) (f : Die → Die) (pa : Nat) :
    (r.updDie k f).s.coh pa = r.s.coh pa := rfl

/-- The context takes the bounds table `v`, and the sites drop what they hold of the old one. -/
def Run.setBounds (r : Run s0) (ctx : Nat) (v : DWord) : Run s0 :=
  (r.updCtx ctx fun x => { x with bndtbl := v }).mod fun s => { s with
    sites := s.sites.map fun x => (x.1, { x.2 with bnd := x.2.bnd.filter fun e => decide (e.1 / 1024 ≠ ctx) }) }

@[simp] theorem setBounds_coh (r : Run s0) (ctx : Nat) (v : DWord) (pa : Nat) :
    (r.setBounds ctx v).s.coh pa = r.s.coh pa := rfl
@[simp] theorem setBounds_dies (r : Run s0) (ctx : Nat) (v : DWord) : (r.setBounds ctx v).s.dies = r.s.dies := rfl
theorem setBounds_ctxs (r : Run s0) (ctx : Nat) (v : DWord) :
    (r.setBounds ctx v).s.ctxs = KV.update ctx (fun x => { x with bndtbl := v }) r.s.ctxs := rfl
theorem setBounds_sites (r : Run s0) (ctx : Nat) (v : DWord) : (r.setBounds ctx v).s.sites =
    r.s.sites.map fun x => (x.1, { x.2 with bnd := x.2.bnd.filter fun e => decide (e.1 / 1024 ≠ ctx) }) := rfl

/-- R15: the context, its block and the sites after a BNDSYNC. -/
theorem bndsync_law (hI : s.Inv) (T : Takes s die c) {ctx : Nat} (hcode : c.code = 9) (h0 : c.op0.toNat < 256)
    (hctx : s.cmdCtx c.op0 = some ctx) (h2 : c.op2 = 0) (h3 : c.op3 = 0) :
    let v := c.op1 &&& 0x000F_FFFF_FFFF_C001
    let pa := entBlk (s.ringEntry ctx) + 24
    DevFree s pa 8 →
    ∃ t, exec (.bndsync die) s = .next t ∧ t.dies = s.taken die (c.with 0) ∧
      t.ctxs = KV.update ctx (fun x => { x with bndtbl := v }) s.ctxs ∧
      t.sites = s.sites.map (fun x => (x.1, { x.2 with bnd := x.2.bnd.filter fun e => decide (e.1 / 1024 ≠ ctx) })) ∧
      (t.coh pa).v = v.extractLsb' 0 32 ∧ (t.coh (pa + 4)).v = v.extractLsb' 32 32 := by
  intro v pa F
  have hal : pa % 64 = 24 := by
    have : entBlk (s.ringEntry ctx) % 64 = 0 := Nat.mul_mod_left ..
    omega
  have hrun (r : Run s) (hs : r.s = s.begun die c) :
      r.cmdBndsync c = ((r.devNat 0 pa 8 v.toNat).setBounds ctx v, some 0) := by
    unfold Run.cmdBndsync
    rw [show r.s.cmdCtx c.op0 = some ctx by rw [hs]; exact hctx]
    dsimp only
    rw [if_neg (by simp only [h2, h3, ne_eq, not_true_eq_false, or_false]; omega), hs, ringEntry_begun, maskBits_bndtbl]
    rfl
  obtain ⟨r, hs, hr⟩ := onCommand_takes T (mine := fun c => decide (c.code = 9)) (by simp [hcode]) hrun
  have F' : DevFree r.s pa 8 := hs ▸ devFree_begun F die c
  have hdies : ((r.devNat 0 pa 8 v.toNat).setBounds ctx v).s.dies = s.taken die c := by
    rw [setBounds_dies, devNat_dies r 0 v.toNat F' (by decide) (by omega), hs]
    rfl
  refine ⟨_, congrArg Run.out hr, updCmd_dies hdies _, ?ctxs, ?sites, ?low, ?high⟩
  case ctxs =>
    rw [Run.updDie_ctxs, setBounds_ctxs, devNat_ctxs r 0 v.toNat F' (by decide) (by omega), hs]
    rfl
  case sites =>
    rw [Run.updDie_sites, setBounds_sites, devNat_sites r 0 v.toNat F' (by decide) (by omega), hs]
    rfl
  case low =>
    rw [updDie_coh, setBounds_coh]
    exact devNat_coh r hI 0 v.toNat F' (i := 0) (by omega) (by decide) (by decide) (by decide) (by omega)
  case high =>
    rw [updDie_coh, setBounds_coh]
    exact devNat_coh r hI 0 v.toNat F' (i := 4) (by omega) (by decide) (by decide) (by decide) (by omega)

/-- R372: a code that is not known, or a reserved bit, completes with status 1. -/
theorem unknown_law {m : Nat} (hnext : s.nextEntry die = some m) (hhere : s.entryRead die = none)
    (hbad : (cmdReserved m || (cmdOf m).unknown) = true) :
    exec (.unknownCommandCode die) s = .next { s with dies := s.taken die ((cmdOf m).with 1) } := by
  change (Run.start s |>.refuseCommand die).out = _
  unfold Run.refuseCommand
  rw [show (Run.start s).s.nextEntry die = some m from hnext]
  dsimp only
  rw [if_pos hbad, Run.out_eq]
  exact congrArg Host.Outcome.next (startCommand_s hhere ((cmdOf m).with 1))

theorem event_pkg_length (r : Run s0) (h : r.s.pkg.evaddr ≠ 0) :
    r.event.s.pkg.out.length = r.s.pkg.out.length + 1 := by
  unfold Run.event
  rw [if_neg h]
  exact List.length_append

theorem event_dies (r : Run s0) : r.event.s.dies = r.s.dies := by
  unfold Run.event
  split <;> rfl

theorem event_coh (r : Run s0) (pa : Nat) : r.event.s.coh pa = r.s.coh pa := by
  unfold Run.event
  split <;> rfl

/-- R372: the status is stored and the die is free for the next command. -/
def Run.retire (r : Run s0) (die : Nat) (c : Cmd) (st : Nat) : Run s0 :=
  (r.devNat (48 * die) c.caddr 4 st).updDie die fun d => { d with cmd := none }

theorem completeCommand_eq {st : Nat} (hcmd : (s.die die).cmd = some c) (hst : c.status = some st)
    (F : DevFree s c.caddr 4) : (Run.start s).completeCommand die =
      if c.ev then ((Run.start s).retire die c st).event else (Run.start s).retire die c st := by
  have free : s.devHeld c.caddr = false := by
    unfold State.devHeld
    rw [F.idle, show s.cellHeld (c.caddr, false) = false from F.held 0 (by decide)]
    rfl
  unfold Run.completeCommand
  rw [show ((Run.start s).s.die die).cmd = some c from hcmd]
  dsimp only
  rw [hst]
  dsimp only
  rw [if_neg (by rw [Bool.not_eq_true]; exact free)]
  rfl

/-- R373: the status is stored, the die is free again, and the event that the entry asks for is sent. -/
theorem complete_law (hI : s.Inv) {st : Nat} (hup : s.dieUp die = true) (hcmd : (s.die die).cmd = some c)
    (hst : c.status = some st) (ha : c.caddr % 4 = 0) (F : DevFree s c.caddr 4) :
    ∃ t, exec (.commandComplete die) s = .next t ∧ (t.coh c.caddr).v = BitVec.ofNat 32 st ∧
      t.dies = KV.put die { s.die die with cmd := none } s.dies ∧
      (c.ev = true → s.pkg.evaddr ≠ 0 → t.pkg.out.length = s.pkg.out.length + 1) ∧
      (c.ev = false → t.pkg = s.pkg) := by
  have F' : DevFree (Run.start s).s c.caddr 4 := F
  have hp : ((Run.start s).retire die c st).s.pkg = s.pkg := by
    unfold Run.retire
    rw [Run.updDie_pkg, devNat_pkg _ _ _ F' (by decide) (by omega)]
    rfl
  have hcoh : (((Run.start s).retire die c st).s.coh c.caddr).v = BitVec.ofNat 32 st := by
    unfold Run.retire
    rw [updDie_coh]
    exact devNat_coh (Run.start s) hI (48 * die) st F' (i := 0) ha (by decide) (by decide) (by decide) (by omega)
  have hdies : ((Run.start s).retire die c st).s.dies = KV.put die { s.die die with cmd := none } s.dies := by
    unfold Run.retire State.die
    rw [Run.updDie_dies]
    unfold State.die
    rw [devNat_dies _ _ _ F' (by decide) (by omega)]
    rfl
  have hout : exec (.commandComplete die) s = (if c.ev then ((Run.start s).retire die c st).event
      else (Run.start s).retire die c st).out := by
    rw [← completeCommand_eq hcmd hst F]
    exact congrArg Run.out (if_pos hup)
  generalize (Run.start s).retire die c st = q at hp hcoh hdies hout
  cases hev : c.ev with
  | false =>
    rw [hev, if_neg Bool.false_ne_true] at hout
    exact ⟨_, hout, hcoh, hdies, nofun, fun _ => hp⟩
  | true =>
    rw [hev, if_pos rfl] at hout
    exact ⟨_, hout, by rw [event_coh, hcoh], by rw [event_dies, hdies],
      fun _ hne => by rw [event_pkg_length q (hp ▸ hne), hp], nofun⟩

end Sys2Proof.Machine

namespace Sys2Proof
open Machine

/-- Settles O38: ZEROPAGE, XINVAL and BNDSYNC, a code that is not known, and the completion of a command. -/
theorem memoryCommands : Obligations.MemoryCommands := by
  unfold Obligations.MemoryCommands
  intro s die hI
  refine ⟨?zeropage, ?xinval, ?bndsync, ?unknown, ?complete⟩
  case zeropage => exact fun c T hcode h2 h3 hz => zeropage_law hI T hcode h2 h3 hz
  case xinval =>
    intro c ctx T hcode h0 hctx h3 h54 h1a h2a hend hold _ stale
    exact xinval_law T hcode h0 hctx h3 h54 h1a h2a hend hold
  case bndsync =>
    intro c ctx T hcode h0 hctx h2 h3 v pa
    exact bndsync_law hI T hcode h0 hctx h2 h3
  case unknown => exact fun m _ _ hnext hhere hbad => unknown_law hnext hhere hbad
  case complete => exact fun c st hup hcmd hst _ ha F => complete_law hI hup hcmd hst ha F

end Sys2Proof
end

section
/-! What the registers of the management space read as when power has just been applied. -/

namespace Sys2Proof
open Machine

/-- R67: CHSHARE at reset. -/
theorem stackReg_default : Stack.reg {} = 0x0000_0C80_6410_8000 := by decide

/-- R45: no unit is carved, or asked for, at reset. -/
theorem reset_mread_carve (d : Nat) : State.reset.mread (.carve d) = 0 :=
  show (0#12 ++ 0#4 ++ 0#12 ++ 0#4 ++ 0#12).zeroExtend 64 = 0#64 by decide

/-- Settles O55: every table of the reset state is empty, so that every register reads its default. -/
theorem resetState : Obligations.ResetState := by
  unfold Obligations.ResetState
  refine ⟨⟨rfl, rfl, rfl⟩, rfl, rfl, rfl, rfl, rfl, rfl, rfl, rfl, rfl, rfl, rfl, ?registers⟩
  refine ⟨rfl, rfl, rfl, rfl, fun n h => ⟨rfl, ?redwin⟩, fun d => ?die, fun k => stackReg_default, fun q => ?queue⟩
  case redwin => exact BitVec.extractLsb'_zero
  case die =>
    simp only [List.forall_mem_cons]
    exact ⟨reset_mread_carve d, rfl, rfl, rfl, rfl, rfl, rfl, nofun⟩
  case queue =>
    simp only [List.forall_mem_cons]
    exact ⟨rfl, rfl, rfl, rfl, rfl, nofun⟩

end Sys2Proof
end

section
/-! A write to CHSHARE that lowers the bank limit defers banks of the waves that run under it. -/

namespace Sys2Proof
open Machine

/-- A WAVE whose current wave has two banks, of which none has started. -/
def twoBankWave : Op where
  kind := .wave 0 0 0 0 0 0 [] [0, 1] 0 []

/-- The package is up, and that WAVE is under way in stack 0. -/
def waveRuns : State where
  pkg := { complete := true }
  ops := [(1, twoBankWave)]

/-- The operations in flight after an outcome. -/
def opsAfter : Host.Outcome State Fault Refusal → List (Nat × Op)
  | .next t => t.ops
  | _ => []

/-- Refutes O41: the write of ABMAX 1 to CHSHARE of stack 0 takes the second bank of the running wave out of it
(R68), so that an operation in flight changes, where the statement lets a write to CHSHARE change only the stack
and the pseudo-channels. -/
theorem not_registerWrites : ¬ Obligations.RegisterWrites := by
  unfold Obligations.RegisterWrites
  intro h
  obtain ⟨-, -, -, -, -, -, writes⟩ := h waveRuns 0x1_0000 rfl
  obtain ⟨-, -, -, -, -, -, -, -, -, chshare, -⟩ := writes
  obtain ⟨pchs, hwrite⟩ := chshare 0 (by decide)
  have hkept : opsAfter (exec (.mgmtRegisterWrite 0xF_0000_0020_0000 0x1_0000) waveRuns) = waveRuns.ops :=
    congrArg opsAfter hwrite
  have hdeferred : opsAfter (exec (.mgmtRegisterWrite 0xF_0000_0020_0000 0x1_0000) waveRuns) =
      [(1, { twoBankWave with kind := .wave 0 0 0 0 0 0 [1] [0] 0 [] })] := by decide +kernel
  exact absurd (hkept.symm.trans hdeferred) (by decide +kernel)

end Sys2Proof
end

section
/-! A word with an illegal register field, in the state in which its trap is not all that happens. -/

namespace Sys2Proof
open Machine

/-- Refutes O58: in `slotTwice` an ADD that names the reserved register 127 traps as the statement says, but its
crew's slot then names the other crew listed under it, which the bystander joins. As for O60, the premises do not
say that the table of crews lists a slot once. -/
theorem not_registerOperands : ¬ Obligations.RegisterOperands := by
  rintro ⟨-, h⟩
  unfold Part.OperandTraps at h
  have T := slotTwice_stands
  obtain ⟨hilleg, -⟩ := h (Instr.add, fun a b => BitVec.ofNat 32 (a.toNat + b.toNat)) (by simp [binaryWords]) slotTwice
    { site := 0, slot := 0 } { fids := [0] } misaligned 0 8 127 4 T.solo T.idle T.guard ⟨rfl, T.mods⟩ rfl
  have htrap := congrArg (slotAfter (fkey 1 2)) (hilleg 2 (by decide))
  have hjoined : slotAfter (fkey 1 2) (exec (.add 0 8 127 4) slotTwice) = some 0 := by decide +kernel
  exact absurd (hjoined.symm.trans htrap) (by decide +kernel)

end Sys2Proof
end

section
/-! The completion of an operation whose results are known (R181). -/

namespace Sys2Proof.Machine
variable {s0 : State} {r : Run s0} {id : Nat} {o : Op} {f : Fibre}

/-- No predicate watches a completion that offers no candidate (R352). -/
theorem watch_no_cands (r : Run s0) (site gk fid : Nat) (wskip : Bool) :
    r.watch site gk fid wskip [] = (r, none) := by
  simp [Run.watch]

theorem Fibre.stick_zero (f : Fibre) : f.stick 0 = f := by
  simp [Fibre.stick]

/-- The operation gives a value that was known at issue, raises nothing, and is performed. -/
structure Op.KnownValue (o : Op) : Prop where
  kind : o.kind = .value false 0
  stage : o.stage = .performed
  flag : o.flag < 16
  dst : o.dst < 96
  note : o.note = none
  joint : o.joint = []
  poll : o.acc.poll = false

/-- The results of such an operation reach its fibre, and its flag is DONE. -/
theorem finish_knownValue (K : o.KnownValue) (ho : KV.find? id r.s.ops = some o)
    (hf : KV.find? o.fibre r.s.fibres = some f) :
    let y := f.deliver id o.dst o.res
    (r.finish id).s = { r.s with
      ops := KV.del id r.s.ops
      fibres := KV.put o.fibre (y.setFlag o.flag { f.flag o.flag with st := .done, note := none, p7 := o.p7 })
        r.s.fibres } := by
  obtain ⟨hkind, hstage, hflag, hdst, hnote, hjoint, hpoll⟩ := K
  have hq : isQueue o.dst = false := by
    simp only [isQueue, Bool.and_eq_false_iff, decide_eq_false_iff_not]
    omega
  have hcands : o.cands = [] := by simp [Op.cands, hkind]
  have hfpx : (0 : BitVec 5) &&& o.ten = 0 := BitVec.zero_and
  have hfirst (q : Run s0) (hq : q.s.fibres = r.s.fibres) (F : Fibre → Fibre) :
      q.updFibre o.fibre F = q.setFibre o.fibre (F f) := updFibre_found (hq ▸ hf) F
  have hthen (q : Run s0) (y : Fibre) (F : Fibre → Fibre) :
      (q.setFibre o.fibre y).updFibre o.fibre F = (q.setFibre o.fibre y).setFibre o.fibre (F y) :=
    updFibre_found (KV.find?_put_self _ _ _) F
  simp only [Run.finish, ho, hstage, State.pushWaits, hq, hkind, hnote, hjoint, hpoll, hcands, watch_no_cands,
    hfirst (r.delOp id) rfl, hthen, each_nil, Fibre.stick_zero, Fibre.flagDone, hflag, if_true, ne_eq,
    not_true_eq_false, Bool.false_and, Bool.false_eq_true, or_self, if_false, false_and, hfpx]
  simp only [Run.setFibre, KV.put_put]
  rfl

theorem flagComplete_law {s : State} (K : o.KnownValue) (ho : KV.find? id s.ops = some o)
    (hchild : s.hasChild id = false) (hlanded : s.landed id = true) (hf : KV.find? o.fibre s.fibres = some f) :
    let y := f.deliver id o.dst o.res
    exec (.flagComplete id) s = .next { s with
      ops := KV.del id s.ops
      fibres := KV.put o.fibre (y.setFlag o.flag { f.flag o.flag with st := .done, note := none, p7 := o.p7 })
        s.fibres } := by
  have hcomplete : (Run.start s).complete id = (Run.start s).finish id := by
    simp [Run.complete, ho, Run.workOn, K.stage, hchild, hlanded]
  exact congrArg Host.Outcome.next ((congrArg Run.s hcomplete).trans (finish_knownValue K ho hf))

end Sys2Proof.Machine
end

section
/-! Writing scratchpad bytes, and a beat of a copy between two places of a gang's scratchpad (R48, R49). -/

namespace Sys2Proof.Machine
variable {s0 : State}

/-- A state without its scratchpads: all that stays while bytes are written there. -/
def State.unscratched (s : State) : State := { s with scr := [], spoison := [] }

@[simp] theorem putScr_unscratched (r : Run s0) (k : Nat) (b : Byte) :
    (r.putScr k b).s.unscratched = r.s.unscratched := rfl

@[simp] theorem scrBytes_unscratched (r : Run s0) (k : Nat) (bytes masks : List Byte) (poi : Bool) :
    (r.scrBytes k bytes masks poi).s.unscratched = r.s.unscratched :=
  Run.each_const State.unscratched (fun q _ => putScr_unscratched q _ _) r _

@[simp] theorem scrMarked_unscratched (r : Run s0) (k : Nat) (l : List (Byte × Bool)) :
    (r.scrMarked k l).s.unscratched = r.s.unscratched :=
  Run.each_const State.unscratched (fun q w => by dsimp only; split <;> simp) r _

theorem State.eq_of_unscratched {s t : State} (h : t.unscratched = s.unscratched) :
    t = { s with scr := t.scr, spoison := t.spoison } :=
  congrArg (fun u : State => { u with scr := t.scr, spoison := t.spoison }) h

theorem scrMarked_ops (r : Run s0) (k : Nat) (l : List (Byte × Bool)) : (r.scrMarked k l).s.ops = r.s.ops := by
  have h := congrArg State.ops (scrMarked_unscratched r k l)
  exact h

theorem scrMarked_gangs (r : Run s0) (k : Nat) (l : List (Byte × Bool)) : (r.scrMarked k l).s.gangs = r.s.gangs := by
  have h := congrArg State.gangs (scrMarked_unscratched r k l)
  exact h

/-! ### Bytes written in turn -/

theorem each_range_succ (r : Run s0) (n : Nat) (f : Run s0 → Nat → Run s0) :
    r.each (List.range (n + 1)) f = f (r.each (List.range n) f) n := by
  simp [Run.each, List.range_succ]

theorem putScr_read (r : Run s0) (hI : s0.Inv) {k : Nat} (hk : k < scrTop) (b : Byte) (x : Nat) :
    Memory.read (r.putScr k b).s.scr x = if x = k then b else Memory.read r.s.scr x := by
  rw [Run.putScr_scr]
  split
  next h => rw [h]; exact Memory.read_write_self (r.ok hI).scr hk b
  next h => exact Memory.read_write_ne (r.ok hI).scr h b

theorem masked_all (old new : Byte) : (old &&& ~~~(0xFF : Byte)) ||| (new &&& 0xFF) = new := by
  have h : (0xFF : Byte) = BitVec.allOnes 8 := rfl
  rw [h, BitVec.not_allOnes, BitVec.and_zero, BitVec.zero_or, BitVec.and_allOnes]

/-- Bytes that are written one by one from `k` on: what the cell `x` then reads as. -/
theorem read_written_in_turn (read : Run s0 → Byte) (write : Run s0 → Nat → Run s0) (r : Run s0) {k x n : Nat}
    {bytes : List Byte} (hwrite : ∀ q i, i < n → read (write q i) = if x = k + i then bytes.getD i 0 else read q) :
    read (r.each (List.range n) write) = if k ≤ x ∧ x < k + n then bytes.getD (x - k) 0 else read r := by
  induction n with
  | zero => rw [if_neg (by omega)]; rfl
  | succ n ih =>
    rw [each_range_succ, hwrite _ n (by omega), ih fun q i hi => hwrite q i (by omega)]
    by_cases hx : x = k + n
    · rw [if_pos hx, if_pos (by omega), hx, Nat.add_sub_cancel_left]
    · rw [if_neg hx]
      exact if_congr (by omega) rfl rfl

theorem scrBytes_read (r : Run s0) (hI : s0.Inv) {k : Nat} {bytes : List Byte} (hk : k + bytes.length ≤ scrTop)
    (poi : Bool) (x : Nat) :
    Memory.read (r.scrBytes k bytes [] poi).s.scr x =
      if k ≤ x ∧ x < k + bytes.length then bytes.getD (x - k) 0 else Memory.read r.s.scr x := by
  refine read_written_in_turn (fun q => Memory.read q.s.scr x) _ r fun q i hi => ?_
  dsimp only
  rw [List.getD_nil, masked_all]
  exact putScr_read q hI (by omega) _ x

/-- Marked bytes written word by word read as they are. -/
theorem scrMarked_read (r : Run s0) (hI : s0.Inv) {k : Nat} {l : List (Byte × Bool)} (hk : k + l.length ≤ scrTop)
    (x : Nat) : Memory.read (r.scrMarked k l).s.scr x =
      if k ≤ x ∧ x < k + l.length then (l.getD (x - k) (0, false)).1 else Memory.read r.s.scr x := by
  have part {lo hi : Nat} (hlo : k ≤ lo) (hhi : hi ≤ k + l.length) (hlt : lo < hi) :
      let bytes := ((l.drop (lo - k)).take (hi - lo)).map Prod.fst
      lo + bytes.length = hi ∧
        ∀ x, lo ≤ x → x < hi → bytes.getD (x - lo) 0 = (l.getD (x - k) (0, false)).1 := by
    intro bytes
    have hlen : bytes.length = hi - lo := by
      simp only [bytes, List.length_map, List.length_take, List.length_drop]
      omega
    refine ⟨by omega, fun x h1 h2 => ?_⟩
    rw [List.getD_eq_getElem _ _ (by omega), List.getD_eq_getElem _ _ (by omega)]
    simp only [bytes, List.getElem_map, List.getElem_take, List.getElem_drop, show lo - k + (x - lo) = x - k by omega]
  have upto (n : Nat) : Memory.read (r.each (List.range n) fun r w =>
      let lo := max k ((k / 4 + w) * 4)
      let hi := min (k + l.length) ((k / 4 + w) * 4 + 4)
      if hi ≤ lo then r
      else
        let part := (l.drop (lo - k)).take (hi - lo)
        r.scrBytes lo (part.map Prod.fst) [] (part.any Prod.snd)).s.scr x =
      if k ≤ x ∧ x < min (k + l.length) ((k / 4 + n) * 4) then (l.getD (x - k) (0, false)).1
      else Memory.read r.s.scr x := by
    induction n with
    | zero => rw [if_neg (by omega)]; rfl
    | succ n ih =>
      rw [each_range_succ]
      dsimp only
      split
      next hle => rw [ih]; exact if_congr (by omega) rfl rfl
      next hlt =>
        obtain ⟨hend, hbytes⟩ := part (lo := max k ((k / 4 + n) * 4))
          (hi := min (k + l.length) ((k / 4 + n) * 4 + 4)) (by omega) (by omega) (by omega)
        rw [scrBytes_read _ hI (by omega), hend, ih]
        split
        next hx => rw [hbytes x hx.1 hx.2, if_pos (by omega)]
        next hx => exact if_congr (by omega) rfl rfl
  rw [Run.scrMarked, upto]
  exact if_congr (by omega) rfl rfl

/-! ### A beat of a copy -/

/-- The bytes that a beat reads from a gang's scratchpad, with the poison of their words. -/
def State.scrMarks (s : State) (k n : Nat) : List (Byte × Bool) :=
  (List.range n).map fun i => (Memory.read s.scr (k + i), KV.has ((k + i) / 4) s.spoison)

section
variable {r : Run s0} {gk ch id : Nat} {o : Op} {g : Gang} {c : Chan} {rest : List Nat} {a b len done : Nat}
  (ho : KV.find? id r.s.ops = some o) (hk : o.kind = .copy (.scr a) (.scr b) len done ch none)
  (hstage : o.stage = .pending) (hg : KV.find? gk r.s.gangs = some g) (hc : KV.find? ch g.chans = some c)
  (hcopies : c.copies = id :: rest) (hmore : done + 128 < len)
include ho hk hstage hg hc hcopies hmore

/-- R49: the beat is not the copy's last: its pointer moves on, and the bytes are counted. -/
theorem beatDone_more : (r.beatDone gk ch id).s = { r.s with
    ops := KV.put id { o with kind := .copy (.scr a) (.scr b) len (done + 128) ch none, got := [] } r.s.ops
    gangs := KV.put gk
      { g with chans := KV.put ch { c with count := (c.count + 128) % 2 ^ 56 } g.chans } r.s.gangs } := by
  have hlen : beatLen (r.s.gang gk) (.scr b) len done = 128 := by
    simp only [beatLen]
    omega
  have hops (F : Op → Op) : KV.update id F r.s.ops = KV.put id (F o) r.s.ops := by simp only [KV.update, ho]
  have hgangs (F : Gang → Gang) : KV.update gk F r.s.gangs = KV.put gk (F g) r.s.gangs := by simp only [KV.update, hg]
  have hchans (F : Chan → Chan) : KV.update ch F g.chans = KV.put ch (F c) g.chans := by simp only [KV.update, hc]
  simp only [Run.beatDone, ho, hk, hlen, show ¬len ≤ done + 128 by omega, decide_false, Bool.false_eq_true, if_false,
    Run.updOp, Run.updGang, Run.mod, State.keep, hops, hgangs, hchans, hcopies, reduceCtorEq, ← hstage]

theorem beatDone_scrMarked (dst : Nat) (marks : List (Byte × Bool)) :
    ((r.scrMarked dst marks).beatDone gk ch id).s = { r.s with
      scr := (r.scrMarked dst marks).s.scr
      spoison := (r.scrMarked dst marks).s.spoison
      ops := KV.put id { o with kind := .copy (.scr a) (.scr b) len (done + 128) ch none, got := [] } r.s.ops
      gangs := KV.put gk
        { g with chans := KV.put ch { c with count := (c.count + 128) % 2 ^ 56 } g.chans } r.s.gangs } := by
  rw [beatDone_more (by rw [scrMarked_ops]; exact ho) hk hstage (by rw [scrMarked_gangs]; exact hg) hc hcopies hmore]
  have h := State.eq_of_unscratched (scrMarked_unscratched r dst marks)
  generalize (r.scrMarked dst marks).s = u at h ⊢
  rw [h]

theorem beatDone_scrMarked_scr (dst : Nat) (marks : List (Byte × Bool)) :
    ((r.scrMarked dst marks).beatDone gk ch id).s.scr = (r.scrMarked dst marks).s.scr := by
  rw [beatDone_scrMarked ho hk hstage hg hc hcopies hmore]

end

/-- A channel that may deliver its next beat within the gang's scratchpad writes the bytes that it reads there. -/
theorem copyBeat_scr {r : Run s0} {gk ch id : Nat} {o : Op} {g : Gang} {c : Chan} {rest : List Nat} {a b len done : Nat}
    (hg : KV.find? gk r.s.gangs = some g) (hc : KV.find? ch g.chans = some c) (hcopies : c.copies = id :: rest)
    (hrun : c.st = .running) (hheld : c.held = false) (ho : KV.find? id r.s.ops = some o)
    (hk : o.kind = .copy (.scr a) (.scr b) len done ch none) (hstage : o.stage = .pending)
    (hchild : r.s.hasChild id = false) (hissues : r.s.issues o.site g = true)
    (hmay : r.s.engineMay id o.fibre [(true, g.scrKey (b + done), 128)] = true) (hmore : done + 128 < len) :
    r.copyBeat gk ch =
      (r.scrMarked (g.scrKey (b + done)) (r.s.scrMarks (g.scrKey (a + done)) 128)).beatDone gk ch id := by
  have hgang : r.s.gang gk = g := by simp only [State.gang, KV.getD, hg, Option.getD_some]
  have hlen : beatLen g (.scr b) len done = 128 := by
    simp only [beatLen]
    omega
  have hbytes : (beatBytes r.s o.site g.ctx g o.got (.scr a) none done 128).map (fun x => x.getD (0, false)) =
      r.s.scrMarks (g.scrKey (a + done)) 128 := by
    simp only [beatBytes, State.scrMarks, List.map_map, Gang.scrKey]
    refine List.map_congr_left fun i _ => ?_
    simp only [Function.comp, Option.getD_some, Nat.add_assoc]
  have hafter : (r.scrMarked (g.scrKey (b + done)) (r.s.scrMarks (g.scrKey (a + done)) 128)).s.hasChild id = false := by
    rw [State.hasChild, scrMarked_ops]
    exact hchild
  have hdeliver (q : Run s0) (l : List (Option (Byte × Bool))) (hq : q = r) :
      q.deliverBeat gk id o g.ctx (.scr b) done l =
        r.scrMarked (g.scrKey (b + done)) (l.map fun x => x.getD (0, false)) := by
    simp only [Run.deliverBeat, hq, hgang]
  have htouch : r.ncTouch o.site [] = r := rfl
  simp only [Run.copyBeat, hgang, hc, hcopies, ho, hk, hlen, hrun, hheld, hstage, hchild, hissues, beatReads, beatFault,
    checkReads, List.flatMap_nil, List.map_nil, List.nil_append, List.append_nil, hmay, List.any_nil, State.unread,
    List.filter_nil, ne_eq, not_true_eq_false, Bool.false_eq_true, Bool.not_true, or_self, if_false]
  rw [hdeliver _ _ htouch, hbytes, hafter, if_neg Bool.false_ne_true]

end Sys2Proof.Machine
end

section
/-! What a write at the bank leaves, and a clk of a pseudo-channel's controller (R58, R65). -/

namespace Sys2Proof.Machine
variable {s0 : State}

/-- A state without its home copies: all that stays while bytes are written at a bank. -/
def State.unbanked (s : State) : State := { s with mem := [], mpoison := [], dpoison := [] }

@[simp] theorem bankWrite_unbanked (r : Run s0) (pa : Nat) (bytes masks : List Byte) (poi : Bool) :
    (r.bankWrite pa bytes masks poi).s.unbanked = r.s.unbanked := by
  have bytesOnly (n : Nat) (f : Run s0 → Nat → Run s0) (hf : ∀ q i, (f q i).s.unbanked = q.s.unbanked) :
      (r.each (List.range n) f).s.unbanked = r.s.unbanked := Run.each_const State.unbanked hf r _
  have marks (q : Run s0) (f g : State → List (Nat × Unit)) :
      (q.mod fun s => { s with mpoison := f s, dpoison := g s }).s.unbanked = q.s.unbanked := rfl
  refine (Run.each_const State.unbanked (fun q b => ?_) _ _).trans (bytesOnly _ _ fun _ _ => rfl)
  dsimp only
  split
  · exact marks q _ _
  · split
    · exact marks q _ _
    · rfl

theorem State.eq_of_unbanked {s t : State} (h : t.unbanked = s.unbanked) :
    t = { s with mem := t.mem, mpoison := t.mpoison, dpoison := t.dpoison } :=
  congrArg (fun u : State => { u with mem := t.mem, mpoison := t.mpoison, dpoison := t.dpoison }) h

theorem bankWrite_read (r : Run s0) (hI : s0.Inv) {pa : Nat} {bytes : List Byte} (hpa : pa + bytes.length ≤ 2 ^ 52)
    (poi : Bool) (x : Nat) :
    Memory.read (r.bankWrite pa bytes [] poi).s.mem x =
      if pa ≤ x ∧ x < pa + bytes.length then bytes.getD (x - pa) 0 else Memory.read r.s.mem x := by
  have poisons (q : Run s0) (l : List Nat) (f : Run s0 → Nat → Run s0) (hf : ∀ q b, (f q b).s.mem = q.s.mem) :
      (q.each l f).s.mem = q.s.mem := Run.each_const State.mem hf q l
  rw [Run.bankWrite, poisons]
  case hf =>
    intro q b
    dsimp only
    split
    · rfl
    · split <;> rfl
  refine read_written_in_turn (fun q => Memory.read q.s.mem x) _ r fun q i hi => ?_
  dsimp only
  rw [List.getD_nil, masked_all]
  exact Run.putByte_read q hI (by omega) _ x

/-! ### The controller's choice -/

/-- R65: a controller for which no command waits starts none. -/
theorem bankPick_idle {s : State} {p : Nat} (hn : s.normalCmds p = []) (hc : s.computeCmds p = []) (choice : Nat) :
    s.bankPick p choice = none := by
  simp only [State.bankPick, hn, hc, List.filter_nil, List.find?_nil, List.any_nil, List.getElem?_nil, Option.map_none,
    oldestCmd, List.foldl_nil, ite_self, Option.filter_none]

/-- R65: the one normal command that waits, at an idle bank, is what the controller starts. -/
theorem bankPick_normal {s : State} {p : Nat} {c : BankCmd} (hn : s.normalCmds p = [c]) (hc : s.computeCmds p = [])
    (howed : (s.pch p).owed = none) (hidle : (s.pch p).busyWith c.bank false = false) (choice : Nat) :
    s.bankPick p choice = some ⟨c, false, false⟩ := by
  have hnone : s.owedNow p = none := by simp only [State.owedNow, howed]
  simp [State.bankPick, hn, hc, hnone, hidle, oldestCmd]

/-- A bank that no started command names is idle. -/
theorem busyWith_of_all_ne {x : Pch} {bank : Nat} (h : x.busy.all (fun b => decide (b.1 ≠ bank)) = true)
    (compute : Bool) : x.busyWith bank compute = false := by
  rw [Pch.busyWith, List.any_eq_false]
  intro b hb
  have := of_decide_eq_true (List.all_eq_true.1 h b hb)
  simp [this]

theorem updPch_normalCmds (r : Run s0) (k : Nat) (f : Pch → Pch) (p : Nat) :
    (r.updPch k f).s.normalCmds p = r.s.normalCmds p := rfl

theorem updPch_computeCmds (r : Run s0) (k : Nat) (f : Pch → Pch) (p : Nat) :
    (r.updPch k f).s.computeCmds p = r.s.computeCmds p := rfl

theorem updPch_pch (r : Run s0) (p : Nat) (f : Pch → Pch) : (r.updPch p f).s.pch p = f (r.s.pch p) := by
  rw [State.pch, KV.getD, Run.updPch_pchs, KV.find?_put_self]
  rfl

theorem bankClk_idle {s : State} {p : Nat} (hp : p < 384) (hn : s.normalCmds p = []) (hc : s.computeCmds p = [])
    (choice : Nat) : ((Run.start s).bankClk p choice).s =
      { s with pchs := KV.put p { s.pch p with clk := (s.pch p).clk + 1 } s.pchs } := by
  have hpick : ((Run.start s).updPch p fun x => { x with clk := x.clk + 1 }).s.bankPick p choice = none :=
    bankPick_idle ((updPch_normalCmds ..).trans hn) ((updPch_computeCmds ..).trans hc) choice
  rw [Run.bankClk, if_neg (by omega)]
  simp only [hpick]
  rfl

theorem bankClk_normal {s : State} {p : Nat} {c : BankCmd} (hp : p < 384) (hn : s.normalCmds p = [c])
    (hc : s.computeCmds p = []) (howed : (s.pch p).owed = none)
    (hbusy : (s.pch p).busy.all (fun b => decide (b.1 ≠ c.bank)) = true) (choice : Nat) :
    (Run.start s).bankClk p choice =
      ((Run.start s).updPch p fun x => { x with clk := x.clk + 1 }).startCmd p c false := by
  have hidle : (((Run.start s).updPch p fun x => { x with clk := x.clk + 1 }).s.pch p).busyWith c.bank false =
      false := by
    rw [updPch_pch]
    refine busyWith_of_all_ne ?_ false
    exact hbusy
  have hpick : ((Run.start s).updPch p fun x => { x with clk := x.clk + 1 }).s.bankPick p choice =
      some ⟨c, false, false⟩ :=
    bankPick_normal ((updPch_normalCmds ..).trans hn) ((updPch_computeCmds ..).trans hc)
      ((congrArg Pch.owed (updPch_pch ..)).trans howed)
      hidle choice
  rw [Run.bankClk, if_neg (by omega)]
  simp only [hpick, Bool.false_eq_true, if_false]

/-! ### A store at its bank -/

/-- A store of at most 16 bytes at its bank is performed whole, and stays in flight to carry a flag. -/
theorem bankOp_store {r : Run s0} {id : Nat} {o : Op} {bytes : List Byte} (ho : KV.find? id r.s.ops = some o)
    (hk : o.kind = .store bytes []) (hlen : bytes.length ≤ 16) (hvia : r.s.via o = .bank) (hflag : o.flag < 16) :
    r.bankOp id o = ((if o.acc.scr then r else r.staleFetch o.site o.fibre o.acc.pa bytes.length).bankWrite
      o.acc.pa bytes [] false).updOp id fun o => { o with stage := .performed } := by
  have hops (q : Run s0) (hq : q.s.ops = r.s.ops) : (q.bankWrite o.acc.pa bytes [] false).s.ops = r.s.ops := by
    rw [State.eq_of_unbanked (bankWrite_unbanked q o.acc.pa bytes [] false)]
    exact hq
  have hwas (q : Run s0) (hq : q.s.ops = r.s.ops) :
      KV.find? id ((q.bankWrite o.acc.pa bytes [] false).updOp id fun o => { o with stage := .performed }).s.ops =
        some { o with stage := .performed } := by
    simp only [Run.updOp_ops, hops q hq, KV.update, ho, KV.find?_put_self]
  have hsettle (q : Run s0) (hq : q.s.ops = r.s.ops) :
      ((q.bankWrite o.acc.pa bytes [] false).updOp id fun o => { o with stage := .performed }).settleOp id =
        (q.bankWrite o.acc.pa bytes [] false).updOp id fun o => { o with stage := .performed } := by
    rw [Run.settleOp, hwas q hq]
    exact if_neg (by dsimp only; omega)
  simp only [Run.bankOp, hk, Run.takeAccess, Run.takeStore, hvia, Run.storeVia,
    show ¬4 * 4 < bytes.length by omega, false_and, if_false]
  exact hsettle _ (by split <;> rfl)

/-- R68: no bank of the current wave is busy any more, and the next wave begins. -/
theorem waveNextWave_law {s : State} {id : Nat} {o : Op} {code x y sx sy st : Nat} {v : Word} {left : List Nat}
    {parts : List (Nat × Int)} (ho : KV.find? id s.ops = some o) (hstage : o.stage = .pending)
    (hk : o.kind = .wave code x y sx sy v left [] st parts)
    (hdone : (List.range 16).all (fun b => left.contains b || !(s.pch (scullerOf x)).busyWith b true) = true) :
    let n := (s.stack (scullerOf x / 32)).abcur
    exec (.waveNextWave id) s = .next { s with ops := KV.put id { o with
      kind := .wave code x y sx sy v (left.drop n) (left.take n) 0 parts } s.ops } := by
  have hbusy : (List.range 16).any (fun b => !left.contains b && (s.pch (scullerOf x)).busyWith b true) = false := by
    simpa only [List.all_eq_not_any_not, Bool.not_or, Bool.not_not, Bool.not_eq_true'] using hdone
  intro n
  have hnext : (Run.start s).nextWave id = (Run.start s).updOp id fun o => { o with
      kind := .wave code x y sx sy v (left.drop n) (left.take n) 0 parts } := by
    simp only [Run.nextWave, Run.start, ho, hk, hstage, hbusy, ne_eq, not_true_eq_false, Bool.false_eq_true, or_self,
      if_false]
    rfl
  have hput (F : Op → Op) : KV.update id F s.ops = KV.put id (F o) s.ops := by simp only [KV.update, ho]
  exact congrArg Host.Outcome.next ((congrArg Run.s hnext).trans
    (congrArg (fun l => { s with ops := l }) (hput _)))

end Sys2Proof.Machine
end

section
/-! The events of the engines and of the banks: what the two parts of the obligation say of each. -/

namespace Sys2Proof.Machine
variable {s : State} {id : Nat} {o : Op}

/-- R49: a beat between two places of a gang's scratchpad that is not its copy's last. -/
theorem copyBeat_law {gk ch : Nat} {c : Chan} {rest : List Nat} {a b len done : Nat} (hI : s.Inv)
    (ho : KV.find? id s.ops = some o) (hchild : s.hasChild id = false) (hg : KV.find? gk s.gangs = some (s.gang gk))
    (hc : KV.find? ch (s.gang gk).chans = some c) (hcopies : c.copies = id :: rest) (hrun : c.st = .running)
    (hheld : c.held = false) (hk : o.kind = .copy (.scr a) (.scr b) len done ch none) (hstage : o.stage = .pending)
    (hissues : s.issues o.site (s.gang gk) = true)
    (hmay : s.engineMay id o.fibre [(true, (s.gang gk).scrKey (b + done), 128)] = true) (hmore : done + 128 < len)
    (htop : (s.gang gk).scrKey (b + done) + 128 ≤ scrTop) :
    ∃ t, exec (.copyBeat gk ch) s = .next t ∧ t.mem = s.mem ∧ t.fibres = s.fibres ∧
      t.ops = KV.put id { o with kind := .copy (.scr a) (.scr b) len (done + 128) ch none, got := [] } s.ops ∧
      t.gangs = KV.put gk { s.gang gk with
        chans := KV.put ch { c with count := (c.count + 128) % 2 ^ 56 } (s.gang gk).chans } s.gangs ∧
      (∀ i < 128, Memory.read t.scr ((s.gang gk).scrKey (b + done) + i) =
        Memory.read s.scr ((s.gang gk).scrKey (a + done + i))) ∧
      ∀ k, k < (s.gang gk).scrKey (b + done) ∨ (s.gang gk).scrKey (b + done) + 128 ≤ k →
        Memory.read t.scr k = Memory.read s.scr k := by
  have hlen : ((Run.start s).s.scrMarks ((s.gang gk).scrKey (a + done)) 128).length = 128 := by
    simp only [State.scrMarks, List.length_map, List.length_range]
  have hbeat := copyBeat_scr (r := Run.start s) hg hc hcopies hrun hheld ho hk hstage hchild hissues hmay hmore
  have hread := scrMarked_read (Run.start s) hI (by rw [hlen]; exact htop)
  have hscr := beatDone_scrMarked_scr (r := Run.start s) ho hk hstage hg hc hcopies hmore
    ((s.gang gk).scrKey (b + done)) ((Run.start s).s.scrMarks ((s.gang gk).scrKey (a + done)) 128)
  refine ⟨((Run.start s).copyBeat gk ch).s, rfl, ?mem, ?fibres, ?ops, ?gangs, fun i hi => ?inside,
    fun k hk => ?outside⟩
  case inside =>
    rw [hbeat, hscr, hread, if_pos (by omega), Nat.add_sub_cancel_left, List.getD_eq_getElem _ _ (by omega)]
    simp only [State.scrMarks, List.getElem_map, List.getElem_range, Gang.scrKey, Nat.add_assoc]
    rfl
  case outside =>
    rw [hbeat, hscr, hread, if_neg (by omega)]
    rfl
  all_goals
    rw [hbeat, beatDone_scrMarked ho hk hstage hg hc hcopies hmore]
    rfl

/-- R65: the one normal command that waits is a store of at most 16 bytes at an idle bank. -/
theorem bankStore_law {p choice arr : Nat} {bytes : List Byte} (hI : s.Inv) (hp : p < 384)
    (hc : s.computeCmds p = []) (ho : KV.find? id s.ops = some o)
    (hn : s.normalCmds p = [⟨.op id, bankOf o.acc.pa, arr⟩]) (hk : o.kind = .store bytes [])
    (hlen : bytes.length ≤ 16) (hvia : s.via o = .bank) (hflag : o.flag < 16) (howed : (s.pch p).owed = none)
    (hbusy : (s.pch p).busy.all (fun b => decide (b.1 ≠ bankOf o.acc.pa)) = true)
    (hpa : o.acc.pa + bytes.length ≤ 2 ^ 52) :
    ∃ t, exec (.bankCommandStart p choice) s = .next t ∧ t.Holds o.acc.pa bytes ∧
      SameOutside s t o.acc.pa bytes.length ∧ t.fibres = s.fibres ∧
      t.ops = KV.put id { o with stage := .performed } s.ops ∧
      (t.pch p).clk = (s.pch p).clk + 1 ∧ (bankOf o.acc.pa, (s.pch p).clk + 2, false) ∈ (t.pch p).busy := by
  let clocked := (Run.start s).updPch p fun x => { x with clk := x.clk + 1 }
  let begun := clocked.updPch p fun x => { x with
    busy := (x.busy.filter fun b => decide (x.clk < b.2.1)) ++ [(bankOf o.acc.pa, x.clk + 1, false)]
    owed := if x.owed = some (.op id) then none else x.owed }
  let seen := if o.acc.scr then begun else begun.staleFetch o.site o.fibre o.acc.pa bytes.length
  let stored := seen.bankWrite o.acc.pa bytes [] false
  have hclk : (Run.start s).bankClk p choice = clocked.startCmd p ⟨.op id, bankOf o.acc.pa, arr⟩ false :=
    bankClk_normal hp hn hc howed hbusy choice
  have hop : clocked.startCmd p ⟨.op id, bankOf o.acc.pa, arr⟩ false = begun.bankOp id o := by
    have hfound : KV.find? id begun.s.ops = some o := ho
    rw [Run.startCmd, Run.runCmd]
    change (match KV.find? id begun.s.ops with | none => begun | some o => _) = _
    rw [hfound]
    simp only [hk]
    rfl
  have hdone : (Run.start s).bankClk p choice = stored.updOp id fun o => { o with stage := .performed } :=
    hclk.trans (hop.trans (bankOp_store ho hk hlen hvia hflag))
  have hstored : stored.s = { seen.s with
      mem := stored.s.mem, mpoison := stored.s.mpoison, dpoison := stored.s.dpoison } :=
    State.eq_of_unbanked (bankWrite_unbanked seen o.acc.pa bytes [] false)
  have hseen {α : Type} (g : State → α) (hg : ∀ fc, g { begun.s with fcache := fc } = g begun.s) :
      g seen.s = g begun.s := by
    dsimp only [seen]
    split
    · rfl
    · exact hg _
  have hread (x : Nat) := bankWrite_read seen hI hpa false x
  have hpch : stored.s.pch p = begun.s.pch p :=
    (congrArg (·.pch p) hstored).trans (hseen (·.pch p) fun _ => rfl)
  have hpchs : begun.s.pch p = { s.pch p with
      clk := (s.pch p).clk + 1
      busy := ((s.pch p).busy.filter fun b => decide ((s.pch p).clk + 1 < b.2.1)) ++
        [(bankOf o.acc.pa, (s.pch p).clk + 1 + 1, false)]
      owed := if (s.pch p).owed = some (.op id) then none else (s.pch p).owed } := by
    rw [updPch_pch, updPch_pch]
    rfl
  refine ⟨((Run.start s).bankClk p choice).s, rfl, ?_⟩
  rw [hdone]
  refine ⟨fun i hi => ?_, fun a ha => ?_, ?_, ?_, ?_, ?_⟩
  · rw [Run.updOp_mem, hread, if_pos (by omega), Nat.add_sub_cancel_left]
  · rw [Run.updOp_mem, hread, if_neg (by omega)]
    exact congrArg (Memory.read · a) (hseen State.mem fun _ => rfl)
  · exact (congrArg State.fibres hstored).trans (hseen State.fibres fun _ => rfl)
  · have hops : stored.s.ops = s.ops := (congrArg State.ops hstored).trans (hseen State.ops fun _ => rfl)
    rw [Run.updOp_ops, hops, KV.update, ho]
  · exact congrArg Pch.clk (hpch.trans hpchs)
  · refine (congrArg Pch.busy (hpch.trans hpchs)).symm ▸ ?_
    exact List.mem_append_right _ (List.mem_singleton.2 rfl)

end Sys2Proof.Machine
end
section
/-! O46: operations that complete, copy beats, bank commands and waves. -/

namespace Sys2Proof
open Machine

theorem Part.engineEvents : Part.EngineEvents := by
  intro s id o hI ho hchild
  refine ⟨?complete, ?beat⟩
  case complete =>
    intro f hkind hstage hflag hdst hnote _ hjoint hpoll hlanded hf
    exact flagComplete_law ⟨hkind, hstage, hflag, hdst, hnote, hjoint, hpoll⟩ ho hchild hlanded hf
  case beat =>
    intro gk ch c rest a b len done
    exact fun hg hc hcopies hrun hheld hk hstage hissues hmay hmore htop =>
      copyBeat_law hI ho hchild hg hc hcopies hrun hheld hk hstage hissues hmay hmore htop

theorem Part.bankEvents : Part.BankEvents := by
  intro s hI
  refine ⟨fun p choice hp hc => ⟨fun hn => ?idle, ?store⟩, ?wave⟩
  case idle => exact congrArg Host.Outcome.next (bankClk_idle hp hn hc choice)
  case store =>
    exact fun id o bytes arr ho hn hk hlen hvia hflag howed hbusy hpa =>
      bankStore_law hI hp hc ho hn hk hlen hvia hflag howed hbusy hpa
  case wave =>
    exact fun id o code x y sx sy v left parts st ho hstage hk hdone => waveNextWave_law ho hstage hk hdone

/-- Settles O46, from one law for each of the events it speaks of. -/
theorem engineAndBank : Obligations.EngineAndBank := by
  unfold Obligations.EngineAndBank
  exact ⟨Part.engineEvents, Part.bankEvents⟩

end Sys2Proof
end

section
/-! What a change of the power mode's figures leaves: the limits, the tokens and the points of the islands change,
and the work that they concern (R377 to R381). -/

namespace Sys2Proof.Machine
variable {s0 : State}

/-- A state without what a new bank limit defers: the running waves, and the counts of the controllers. -/
def State.undeferred (s : State) : State := { s with ops := [], pchs := [] }

theorem State.eq_of_undeferred {s t : State} (h : t.undeferred = s.undeferred) :
    ∃ ops pchs, t = { s with ops := ops, pchs := pchs } :=
  ⟨t.ops, t.pchs, congrArg (fun u : State => { u with ops := t.ops, pchs := t.pchs }) h⟩

/-- A state without all that the figures of a mode change: tokens and limits, what these defer, the points that the
islands go to, and the gangs that start on them. -/
def State.unmoded (s : State) : State :=
  { s with dies := [], stks := [], ops := [], pchs := [], gangs := [], pkg := { s.pkg with vfNext := [] } }

theorem State.eq_of_unmoded {s t : State} (h : t.unmoded = s.unmoded) : ∃ dies stks ops pchs gangs vfNext,
    t = { s with dies := dies, stks := stks, ops := ops, pchs := pchs, gangs := gangs
                 pkg := { s.pkg with vfNext := vfNext } } :=
  ⟨t.dies, t.stks, t.ops, t.pchs, t.gangs, t.pkg.vfNext, congrArg (fun u : State => { u with
    dies := t.dies, stks := t.stks, ops := t.ops, pchs := t.pchs, gangs := t.gangs
    pkg := { u.pkg with vfNext := t.pkg.vfNext } }) h⟩

@[simp] theorem deferWave_undeferred (r : Run s0) (id : Nat) (o : Op) (n : Nat) :
    (r.deferWave id o n).s.undeferred = r.s.undeferred := by
  unfold Run.deferWave
  split
  next => extract_lets; split <;> rfl
  next => rfl

@[simp] theorem deferAll_undeferred (r : Run s0) : r.deferAll.s.undeferred = r.s.undeferred :=
  Run.each_const State.undeferred (fun q o => by split <;> simp) r _

theorem deferAll_unmoded (r : Run s0) : r.deferAll.s.unmoded = r.s.unmoded := by
  obtain ⟨ops, pchs, h⟩ := State.eq_of_undeferred (deferAll_undeferred r)
  rw [h]
  rfl

theorem retune_unmoded (r : Run s0) : r.retune.s.unmoded = r.s.unmoded := by
  refine Run.each_const State.unmoded (fun q i => ?_) r _
  extract_lets
  split
  · rfl
  · split <;> rfl

theorem eachDie_unmoded (r : Run s0) (l : List Nat) (f : Die → Die) :
    (r.each l fun r d => r.updDie d f).s.unmoded = r.s.unmoded := by
  have hdie (q : Run s0) (d : Nat) : (q.updDie d f).s.unmoded = q.s.unmoded := rfl
  exact Run.each_const State.unmoded hdie r l

theorem applyMode_unmoded (r : Run s0) : r.applyMode.s.unmoded = r.s.unmoded := by
  have hstks (q : Run s0) (f : State → List (Nat × Stack)) :
      (q.mod fun s => { s with stks := f s }).s.unmoded = q.s.unmoded := rfl
  exact (retune_unmoded _).trans ((deferAll_unmoded _).trans ((hstks _ _).trans (eachDie_unmoded r _ _)))

/-- A lower bank limit changes the stack's limit, and running waves. -/
theorem thermalLimit_changes (r : Run s0) {k n : Nat} (hk : k < 12) (hn : 0 < n) (hmode : n ≤ r.s.pkg.therm) :
    ∃ ops pchs, (r.thermalLimit k n).s = { r.s with
      stks := KV.put k { r.s.stack k with therm := n } r.s.stks, ops := ops, pchs := pchs } := by
  rw [Run.thermalLimit, if_neg (by omega)]
  exact State.eq_of_undeferred (deferAll_undeferred (r.mod fun s => { s with
    stks := KV.put k { s.stack k with therm := n } s.stks }))

/-! ### The steps of power control (R381) -/

/-- Within LIMIT the figures of the mode apply. -/
theorem powerStep_within (r : Run s0) :
    let t := (r.powerStep false).s
    t.pkg.cutTokens = 0 ∧ t.pkg.cutIslands = 0 ∧ t.pkg.cutTherm = 0 ∧ t.pkg.pwrctl = r.s.pkg.pwrctl ∧
      t.mem = r.s.mem ∧ t.fibres = r.s.fibres := by
  obtain ⟨dies, stks, ops, pchs, gangs, vfNext, h⟩ :=
    State.eq_of_unmoded (applyMode_unmoded
      (r.updPkg fun p => { p with cutTokens := 0, cutIslands := 0, cutTherm := 0 }))
  simp only [Run.powerStep, Bool.false_eq_true, if_false, h]
  exact ⟨rfl, rfl, rfl, rfl, rfl, rfl⟩

/-- Above it the next figure in the mode's order gives way. -/
theorem powerStep_above (r : Run s0) :
    let t := (r.powerStep true).s
    t.pkg.cutTokens = r.s.giveWay.cutTokens ∧ t.pkg.cutIslands = r.s.giveWay.cutIslands ∧
      t.pkg.cutTherm = r.s.giveWay.cutTherm ∧ t.pkg.pwrctl = r.s.giveWay.pwrctl ∧
      t.mem = r.s.mem ∧ t.fibres = r.s.fibres := by
  obtain ⟨dies, stks, ops, pchs, gangs, vfNext, h⟩ :=
    State.eq_of_unmoded (applyMode_unmoded (r.updPkg fun _ => r.s.giveWay))
  simp only [Run.powerStep, if_true, h]
  exact ⟨rfl, rfl, rfl, rfl, rfl, rfl⟩

/-- R381: what gives way: one figure, by one, where it can still fall; LIMIT stays. -/
theorem giveWay_cuts (s : State) :
    let p := s.pkg
    let cut (tokens islands therm : Nat) : Prop := s.giveWay.cutTokens = p.cutTokens + tokens ∧
      s.giveWay.cutIslands = p.cutIslands + islands ∧ s.giveWay.cutTherm = p.cutTherm + therm
    let slow := if s.slowest then 0 else 1
    s.giveWay.pwrctl = p.pwrctl ∧
    match p.mode with
    | 1 => if 1 < p.therm then cut 0 0 1 else cut 0 slow 0
    | 2 => if s.slowest then cut 0 0 (if 1 < p.therm then 1 else 0) else cut 0 1 0
    | _ => if 1 < p.tokens then cut 1 0 0 else cut 0 slow 0 := by
  intro p cut slow
  simp only [State.giveWay, cut, slow, p]
  have htherm : 1 < s.pkg.therm ∧ ¬s.pkg.therm ≤ 1 ∨ ¬1 < s.pkg.therm ∧ s.pkg.therm ≤ 1 := by omega
  generalize s.pkg.mode = m
  rcases m with _ | _ | _ | m
  case succ.zero =>
    obtain ⟨h, h'⟩ | ⟨h, h'⟩ := htherm <;> by_cases hs : s.slowest <;> simp [hs, h, h']
  case succ.succ.zero =>
    obtain ⟨h, h'⟩ | ⟨h, h'⟩ := htherm <;> by_cases hs : s.slowest <;> simp [hs, h, h']
  all_goals
    by_cases h : 1 < s.pkg.tokens <;> by_cases hs : s.slowest <;> simp [hs, h]

end Sys2Proof.Machine
end

section
/-! What the patrol finds, what a failed die leaves, and the start of the supervisor cores (R55, R114, R382). -/

namespace Sys2Proof.KV
variable {α : Type} {j k : Nat} {m : List (Nat × α)}

/-- A key of a table stays where a higher key leaves it, in order or not. -/
theorem has_del_higher (h : j < k) (hj : has j m = true) : has j (del k m) = true := by
  induction m with
  | nil => exact hj
  | cons x t ih =>
    obtain ⟨i, v⟩ := x
    simp only [has, find?] at hj ih ⊢
    rw [del]
    by_cases hij : i = j
    · rw [if_pos (by omega), find?, if_pos hij]
      rfl
    · rw [if_neg hij] at hj
      by_cases hlt : j < i
      · rw [if_pos hlt] at hj
        exact absurd hj Bool.false_ne_true
      · rw [if_neg hlt] at hj
        rw [if_pos (by omega), find?, if_neg hij, if_neg hlt]
        exact ih hj

theorem has_put_self (v : α) : has k (put k v m) = true := by
  rw [has, find?_put_self]
  rfl

theorem has_put_ne (h : j ≠ k) (v : α) : has j (put k v m) = has j m := by
  rw [has, has, find?_put_ne h]

end Sys2Proof.KV

namespace Sys2Proof.Machine
variable {s0 : State}

/-! ### Poison of the home copies of a line -/

/-- The words of a line that `p` names are marked, in whatever order the table stands. -/
theorem setHomePoison_marks (r : Run s0) (line : Nat) {p : BitVec 32} {w : Nat} (hw : w < 32)
    (hp : p.getLsbD w = true) : KV.has (line * 32 + w) (r.setHomePoison line p).s.mpoison = true := by
  have upto : ∀ n ≤ 32, w < n → KV.has (line * 32 + w) ((List.range n).foldl (fun m w =>
      if p.getLsbD w then KV.put (line * 32 + w) () m else KV.del (line * 32 + w) m) r.s.mpoison) = true := by
    intro n
    induction n with
    | zero => intro _ h; omega
    | succ n ih =>
      intro hn hwn
      rw [List.range_succ, List.foldl_append, List.foldl_cons, List.foldl_nil]
      by_cases heq : w = n
      · rw [← heq, if_pos hp]
        exact KV.has_put_self _
      · have hprev := ih (by omega) (by omega)
        split
        · rwa [KV.has_put_ne (by omega)]
        · exact KV.has_del_higher (by omega) hprev
  exact upto 32 le_rfl hw

/-- A marked block of 64 bytes gives the poison of its 16 words. -/
theorem dramPoison_block {s : State} {block i : Nat} (h : KV.has block s.dpoison = true) (hi : i < 16) :
    (s.dramPoison (block / 2)).getLsbD (block % 2 * 16 + i) = true := by
  obtain hlow | hhigh : block % 2 = 0 ∨ block % 2 = 1 := by omega
  · rw [State.dramPoison, show 2 * (block / 2) = block by omega, h, if_pos rfl, hlow, BitVec.getLsbD_or]
    have hones : ∀ i < 16, (0x0000_FFFF#32).getLsbD (0 * 16 + i) = true := by decide
    rw [hones i hi, Bool.true_or]
  · rw [State.dramPoison, show 2 * (block / 2) + 1 = block by omega, h, if_pos rfl, hhigh, BitVec.getLsbD_or]
    have hones : ∀ i < 16, (0xFFFF_0000#32).getLsbD (1 * 16 + i) = true := by decide
    rw [hones i hi, Bool.or_true]

theorem isDram_line {pa : Nat} (h : isDram pa = true) : isDram (pa / 128 * 128) = true := by
  unfold isDram place at h
  split_ifs at h
  rw [isDram, place, if_pos (by omega)]

theorem place_word_of_isDram {pa : Nat} (h : isDram pa = true) : place (4 * (pa / 4)) = .dram (pa / 2 ^ 36) := by
  unfold isDram place at h
  split_ifs at h
  rw [place, if_pos (by omega)]
  exact congrArg Place.dram (by omega)

/-- What the home copies of a line show of DRAM below changes no more than their poison. -/
theorem viewBelow_changes (r : Run s0) (line : Nat) :
    ∃ mpoison, (r.viewBelow line).s = { r.s with mpoison := mpoison } := by
  unfold Run.viewBelow
  split
  · exact ⟨r.s.mpoison, rfl⟩
  · split <;> exact ⟨_, rfl⟩

theorem viewBelow_inL2 {r : Run s0} {line : Nat} (h : (r.s.dir line).inL2 = true) : r.viewBelow line = r := by
  rw [Run.viewBelow, h, Bool.or_true, if_pos rfl]

theorem viewBelow_dram {r : Run s0} {line : Nat} (hd : isDram (line * 128) = true) (h : (r.s.dir line).inL2 = false)
    (hs : KV.find? line r.s.sram = none) : r.viewBelow line = r.setHomePoison line (r.s.dramPoison line) := by
  rw [Run.viewBelow, hd, h, Bool.not_true, Bool.or_false, if_neg Bool.false_ne_true, hs]

/-! ### Patrol scrubbing (R55) -/

theorem errorSite_dram {s : State} {pa : Nat} (h : isDram pa = true) :
    s.errorSite (.dram (pa / 4)) = some (0, pa / 2 ^ 36, 4 * (pa / 4), pa / 2 ^ 36 / 3) := by
  rw [State.errorSite, place_word_of_isDram h]

/-- One bad symbol is corrected, and logged. -/
theorem scrub_corrected (r : Run s0) {pa : Nat} (h : isDram pa = true) :
    r.scrub pa 1 = r.ticked.logErr (pa / 2 ^ 36 / 3) 0 0 (pa / 2 ^ 36) (4 * (pa / 4)) (Config.syndrome r.s.tick) := by
  simp only [Run.scrub, h, if_true, Run.foundError, errorSite_dram h, residue, Bool.false_eq_true, if_false,
    one_ne_zero, zero_ne_one]

/-- More than one poisons the block, and is logged. -/
theorem scrub_poisons (r : Run s0) {pa bad : Nat} (h : isDram pa = true) (hbad : 2 ≤ bad) :
    r.scrub pa bad = (r.ticked.spoilDram (pa / 4)).logErr (pa / 2 ^ 36 / 3) 1 0 (pa / 2 ^ 36) (4 * (pa / 4))
      (Config.syndrome r.s.tick) := by
  simp only [Run.scrub, h, if_true, Run.foundError, errorSite_dram h, residue, Bool.false_eq_true, if_false,
    zero_ne_one, show bad ≠ 0 by omega, show bad ≠ 1 by omega, Run.spoil]

/-! ### A die fails (R114) -/

theorem updDie_die (r : Run s0) (n : Nat) (f : Die → Die) : (r.updDie n f).s.die n = f (r.s.die n) := by
  rw [State.die, KV.getD, Run.updDie_dies, KV.find?_put_self]
  rfl

/-- What the declaration leaves of the die, of the L1s and of the directories. -/
theorem failDie_leaves (r : Run s0) {n : Nat} (hn : n < 4) (hup : (r.s.die n).failed = false) :
    let t := (r.failDie n).s
    (t.die n).failed = true ∧ (t.die n).cmd = none ∧ (∀ x ∈ t.l1, dieOf (x.1 / 2 ^ 50) ≠ n) ∧
      ∀ x ∈ t.dirs, inL2 x.1 = true → homeDie (x.1 * 128) ≠ n := by
  rw [Run.failDie, if_neg (by simp only [hup, Bool.false_eq_true, or_false]; omega)]
  extract_lets q ids q' left q'' q''' lines kept gone last t
  have hdie : t.die n = { last.s.die n with failed := true, cmd := none } := updDie_die last n _
  have hl1 : t.l1 = q'''.s.l1.filter fun e => decide (dieOf (e.1 / 2 ^ 50) ≠ n) && !gone (e.1 % 2 ^ 50 / 32) := rfl
  have hdirs : t.dirs = q'''.s.dirs.filter fun e => !gone e.1 := rfl
  rw [hdie, hl1, hdirs]
  refine ⟨rfl, rfl, fun x hx => ?_, fun x hx hL2 hhome => ?_⟩
  · obtain ⟨-, hx⟩ := List.mem_filter.1 hx
    exact of_decide_eq_true (Bool.and_eq_true_iff.1 hx).1
  · obtain ⟨hmem, hkept⟩ := List.mem_filter.1 hx
    have hlost : q'''.s.lostWith n x.1 = true := by
      rw [State.lostWith, hL2, decide_eq_true hhome]
      rfl
    have hgone : gone x.1 = true :=
      List.contains_iff_mem.2 (List.mem_filter.2 ⟨List.mem_map_of_mem hmem, hlost⟩)
    rw [hgone] at hkept
    exact Bool.false_ne_true hkept

/-! ### Tokens (R294) -/

/-- A token that is not one too many passes to the next waiting cluster, or stands free. -/
theorem passToken_kept {d : Die} {c n : Nat}
    (hn : n = (d.toks.filter fun x => decide (x.cluster ≠ c)).length + d.free.length + 1) :
    d.passToken c n = match d.nextWaiting c with
      | some w => { d with toks := (d.toks.filter fun x => decide (x.cluster ≠ c)) ++ [{ cluster := w }]
                           tokWait := d.tokWait.filter (· ≠ w) }
      | none => { d with toks := d.toks.filter fun x => decide (x.cluster ≠ c), free := d.free ++ [c] } := by
  rw [Die.passToken]
  dsimp only
  rw [if_neg (by omega)]
  rfl

/-! ### Bring-up (R382) -/

/-- A state without its fibres, gangs and serial numbers: all that stays when fibres are started. -/
def State.unstarted (s : State) : State := { s with fibres := [], gangs := [], nextId := 0 }

theorem State.eq_of_unstarted {s t : State} (h : t.unstarted = s.unstarted) :
    ∃ fibres gangs nextId, t = { s with fibres := fibres, gangs := gangs, nextId := nextId } :=
  ⟨t.fibres, t.gangs, t.nextId,
    congrArg (fun u : State => { u with fibres := t.fibres, gangs := t.gangs, nextId := t.nextId }) h⟩

theorem setFibre_unstarted (r : Run s0) (k : Nat) (f : Fibre) : (r.setFibre k f).s.unstarted = r.s.unstarted := rfl

theorem startSuper_unstarted (r : Run s0) (die : Nat) : (r.startSuper die).s.unstarted = r.s.unstarted :=
  Run.each_const State.unstarted (fun q _ => setFibre_unstarted q _ _) _ _

/-- Every fibre stands on a supervisor core. -/
def State.OnlySuper (s : State) : Prop := ∀ x ∈ s.fibres, isSuper x.2.site = true

theorem startSuper_onlySuper {r : Run s0} (h : r.s.OnlySuper) (die : Nat) : (r.startSuper die).s.OnlySuper := by
  refine each_inv (fun q => q.s.OnlySuper) _ _ _ h fun q _ hq x hx => ?_
  obtain rfl | hold := KV.mem_put hx
  · exact decide_eq_true (Nat.le_add_right 576 die)
  · exact hq x hold

/-- The supervisor cores of the dies that `l` lists are started. -/
theorem startSupers_changes {r : Run s0} (h : r.s.OnlySuper) (l : List Nat) :
    ∃ fibres gangs nextId, (r.each l fun r d => r.startSuper d).s =
      { r.s with fibres := fibres, gangs := gangs, nextId := nextId } ∧ ∀ x ∈ fibres, isSuper x.2.site = true := by
  have hall := each_inv (fun q => q.s.OnlySuper) (fun r d => r.startSuper d) l r h fun q d hq =>
    startSuper_onlySuper hq d
  obtain ⟨fibres, gangs, nextId, heq⟩ :=
    State.eq_of_unstarted (Run.each_const State.unstarted (f := fun r d => r.startSuper d) startSuper_unstarted r l)
  refine ⟨fibres, gangs, nextId, heq, ?_⟩
  rw [State.OnlySuper, heq] at hall
  exact hall

end Sys2Proof.Machine
end

section
/-! O43: bring-up and the removal of power, the steps of power control, the patrol scrub, the failure of a die. -/

namespace Sys2Proof
open Machine

theorem powerOnBringup_law {s : State} (trained : BitVec 36) (n : Nat)
    (hs : s.pkg.powered = false ∨ (s.pkg.complete = false ∧ s.pkg.bootReason = 0)) :
    ∃ t, exec (.powerOnBringup trained n) s = .next t ∧ t.mem = [] ∧ t.scr = [] ∧ t.acc = [] ∧
      t.ctxs = [] ∧ t.pkg.powered = true ∧
      if n = 1 ∨ n = 2 then t.pkg.stage = n ∧ t.pkg.complete = false ∧ t.pkg.bootReason ≠ 0 ∧ t.fibres = []
      else t.pkg.stage = 5 ∧ t.pkg.complete = true ∧ t.pkg.bootReason = 0 ∧ t.pkg.portsDown = ~~~trained ∧
        t.pkg.pwrctl = 0x0003_0000_0000_0898 ∧ ∀ x ∈ t.fibres, isSuper x.2.site = true := by
  have hdown : ¬((Run.start s).s.pkg.powered = true ∧
      ((Run.start s).s.pkg.complete = true ∨ (Run.start s).s.pkg.bootReason ≠ 0)) := by
    rintro ⟨hpow, hboot⟩
    obtain hoff | ⟨hnot, hzero⟩ := hs
    · exact Bool.false_ne_true (hoff.symm.trans hpow)
    · exact hboot.elim (fun h => Bool.false_ne_true (hnot.symm.trans h)) (absurd hzero)
  have hboot : exec (.powerOnBringup trained n) s = .next ((Run.start s).bringUp trained n).s := rfl
  rw [hboot, Run.bringUp, if_neg hdown]
  by_cases hn : n = 1 ∨ n = 2
  · simp only [if_pos hn]
    exact ⟨_, rfl, rfl, rfl, rfl, rfl, rfl, rfl, rfl, Nat.succ_ne_zero _, rfl⟩
  · simp only [if_neg hn]
    obtain ⟨dies, stks, ops, pchs, gangs, vfNext, hmode⟩ := State.eq_of_unmoded (applyMode_unmoded
      ((Run.start s).wipe { stage := 5, complete := true, report := true, portsDown := ~~~trained }))
    generalize ((Run.start s).wipe
      { stage := 5, complete := true, report := true, portsDown := ~~~trained }).applyMode = q at hmode
    have hnone : (q.mod fun s => { s with runs := s.runs + 1 }).s.OnlySuper := by
      intro x hx
      have hx : x ∈ q.s.fibres := hx
      rw [hmode] at hx
      exact absurd hx List.not_mem_nil
    obtain ⟨fibres, gangs, nextId, hstart, hsuper⟩ := startSupers_changes hnone (List.range 4)
    rw [hstart]
    refine ⟨_, rfl, ?_⟩
    simp only [Run.mod, State.keep, hmode]
    exact ⟨rfl, rfl, rfl, rfl, rfl, rfl, rfl, rfl, rfl, rfl, hsuper⟩

/-- R381: a step of power control, once the package has come up. -/
theorem powerLimitStep_eq {s : State} (hup : s.up = true) (b : Bool) :
    exec (.powerLimitStep b) s = .next ((Run.start s).powerStep b).s := by
  have h : exec (.powerLimitStep b) s = (if s.up then (Run.start s).powerStep b else Run.start s).out := rfl
  rw [h, if_pos hup]
  rfl

theorem patrolScrub_eq {s : State} (hup : s.up = true) (pa bad : Nat) :
    exec (.patrolScrub pa bad) s = .next ((Run.start s).scrub pa bad).s := by
  have h : exec (.patrolScrub pa bad) s = (if s.up then (Run.start s).scrub pa bad else Run.start s).out := rfl
  rw [h, if_pos hup]
  rfl

theorem logErr_logged {s : State} (r : Run s) (die kind unit loc addr : Nat) (synd : DWord) :
    (r.logErr die kind unit loc addr synd).s = r.s.logged die kind unit loc addr synd := rfl

/-- R55: a granule with one bad symbol is corrected and logged; with more, its block is poisoned. -/
theorem patrolScrub_law {s : State} (hup : s.up = true) {pa bad : Nat} (hd : isDram pa = true) :
    let k := pa / 2 ^ 36
    let line := pa / 128
    let logged (kind : Nat) : State :=
      { s.logged (k / 3) kind 0 k (pa / 4 * 4) (Config.syndrome s.tick) with tick := s.tick + 1 }
    (bad = 1 → exec (.patrolScrub pa bad) s = .next (logged 0)) ∧
    (2 ≤ bad → ∃ mpoison, exec (.patrolScrub pa bad) s =
        .next { logged 1 with dpoison := KV.put (pa / 64) () s.dpoison, mpoison := mpoison } ∧
      ((s.dir line).inL2 = true → mpoison = s.mpoison) ∧
      ((s.dir line).inL2 = false → KV.find? line s.sram = none →
        ∀ i < 16, KV.has (pa / 64 * 16 + i) mpoison = true)) := by
  intro k line logged
  refine ⟨fun hone => ?corrected, fun hmore => ?poisoned⟩
  case corrected =>
    rw [patrolScrub_eq hup, hone, scrub_corrected _ hd, Nat.mul_comm 4]
    rfl
  case poisoned =>
    let marked := (Run.start s).ticked.mod fun u => { u with dpoison := KV.put (pa / 4 / 16) () u.dpoison }
    have hblock : pa / 4 / 16 = pa / 64 := by omega
    have hline : pa / 4 / 32 = line := by omega
    obtain ⟨mpoison, hview⟩ := viewBelow_changes marked (pa / 4 / 32)
    rw [patrolScrub_eq hup, scrub_poisons _ hd hmore, Nat.mul_comm 4, Run.spoilDram]
    refine ⟨(marked.viewBelow (pa / 4 / 32)).s.mpoison, ?_, fun hin => ?_, fun hout hsram i hi => ?_⟩
    · generalize hq : marked.viewBelow (pa / 4 / 32) = q at hview ⊢
      rw [← hblock, logErr_logged, hview]
      rfl
    · rw [hline, viewBelow_inL2 hin]
      rfl
    · have hmark : KV.has (pa / 64) marked.s.dpoison = true := by
        rw [← hblock]
        exact KV.has_put_self _
      have hbit := dramPoison_block hmark hi
      rw [hline, viewBelow_dram (isDram_line hd) hout hsram]
      have hset := setHomePoison_marks marked line (p := marked.s.dramPoison line)
        (w := pa / 64 % 2 * 16 + i) (by omega) (by rwa [show line = pa / 64 / 2 by omega])
      rwa [show line * 32 + (pa / 64 % 2 * 16 + i) = pa / 64 * 16 + i by omega] at hset

/-- Settles O43, from one law for each of the events. -/
theorem powerEvents : Obligations.PowerEvents := by
  unfold Obligations.PowerEvents
  intro s
  refine ⟨fun trained n hs => powerOnBringup_law trained n hs, rfl, fun hup => ⟨?within, ?above, ?patrol, ?die⟩,
    ?stable, ?thermal, ?token⟩
  case within => exact ⟨_, powerLimitStep_eq hup false, powerStep_within (Run.start s)⟩
  case above =>
    obtain ⟨htokens, hislands, htherm, hpwrctl, hmem, hfibres⟩ := powerStep_above (Run.start s)
    obtain ⟨hkept, hcut⟩ := giveWay_cuts s
    refine ⟨_, powerLimitStep_eq hup true, hpwrctl.trans hkept, hmem, hfibres, ?_⟩
    rw [htokens, hislands, htherm]
    exact hcut
  case patrol => exact fun pa bad hd _ => patrolScrub_law hup hd
  case die =>
    intro n hn hdie
    have h : exec (.dieFailure n) s = (if s.up then (Run.start s).failDie n else Run.start s).out := rfl
    rw [h, if_pos hup]
    exact ⟨_, rfl, failDie_leaves (Run.start s) hn hdie⟩
  case stable =>
    intro i v hv
    have h : (Run.start s).vfStable i = ((Run.start s).updPkg fun p => { p with
        vf := KV.put i v p.vf, vfNext := KV.del i p.vfNext }).startIsland i := by
      simp only [Run.vfStable, Run.start, hv]
    exact congrArg (fun q : Run s => Host.Outcome.next q.s) h
  case thermal =>
    intro k n hk hn hmode
    obtain ⟨ops, pchs, h⟩ := thermalLimit_changes (Run.start s) hk hn hmode
    exact ⟨_, congrArg Host.Outcome.next h, rfl, rfl, rfl⟩
  case token =>
    intro n c d toks hdue htokens
    have h : exec (.powerTokenRelease n c) s = (if (s.die n).tokenDue c then
      (Run.start s).updDie n fun d => d.passToken c s.pkg.tokens else Run.start s).out := rfl
    rw [h, if_pos hdue]
    exact congrArg (fun d => Host.Outcome.next { s with dies := KV.put n d s.dies }) (passToken_kept htokens)

end Sys2Proof
end

section
/-! A load that makes its slice evict a line, in a state whose poison marks are out of order: the eviction shows a
mark of the loaded line that the table hid. -/

namespace Sys2Proof.Machine
variable {s0 : State} {r : Run s0} {a b : Nat}

/-- A line of the holder die 0 that is in a slice of its L2, and that no core has. -/
def idleDir (slice : Nat) : Dir := { inL2 := true, slice := slice }

/-! ### What the eviction of such a line leaves -/

theorem recallAll_no_owner {line : Nat} (h : (r.s.dir line).owners = []) (v : List Nat) : r.recallAll line v = r := by
  rw [Run.recallAll, h]
  rfl

theorem merge_unshared {line : Nat} (h : (r.s.dir line).pmasks = []) :
    r.merge line = r.updDir line fun d => { d with pmasks := [] } := by
  simp only [Run.merge, h]
  rfl

theorem invalSharers_unshared {line : Nat} (h : (r.s.dir line).sharers = 0) :
    r.invalSharers line none = r.updDir line fun d => { d with sharers := 0, t := 0 } := by
  simp only [Run.invalSharers, h]
  rfl

theorem lineFree_idle {s : State} {line slice : Nat} (h : s.dir line = idleDir slice) :
    s.lineFree line = true := by
  rw [State.lineFree, h]
  rfl

theorem dropForward_mpoison (line : Nat) : (r.dropForward line).s.mpoison = r.s.mpoison := rfl
theorem dropForward_sram (line : Nat) : (r.dropForward line).s.sram = r.s.sram := rfl
theorem dropForward_dpoison (line : Nat) : (r.dropForward line).s.dpoison = r.s.dpoison := rfl

/-- The eviction of an idle line shows the poison of the level below: here none. -/
theorem evictL2_idle {line slice : Nat} (hd : isDram (line * 128) = true) (h : r.s.dir line = idleDir slice)
    (hs : r.s.sram = []) (hp : r.s.dpoison = []) :
    ∃ (q : Run s0) (p : BitVec 32), r.evictL2 line = q.setHomePoison line p ∧ (∀ w, p.getLsbD w = false) ∧
      q.s.mpoison = r.s.mpoison ∧ q.s.sram = [] ∧ ∀ n, n ≠ line → q.s.dir n = r.s.dir n := by
  have hL2 : inL2 line = true := by
    obtain ⟨k, hk⟩ := place_of_isDram hd
    rw [inL2, hk]
  let merged := r.updDir line fun d => { d with pmasks := [] }
  let alone := merged.updDir line fun d => { d with sharers := 0, t := 0 }
  have hmerged : merged.s.dir line = idleDir slice := by
    rw [updDir_dir, h]
    rfl
  have halone : alone.s.dir line = idleDir slice := by
    rw [updDir_dir, hmerged]
    rfl
  have htaken : ((r.recallAll line allWords).merge line).invalSharers line none = alone := by
    rw [recallAll_no_owner (by rw [h]; rfl) allWords, merge_unshared (by rw [h]; rfl)]
    exact invalSharers_unshared (by rw [hmerged]; rfl)
  let gone := (alone.dropForward line).updDir line fun d => { d with
    slice := line % 24, run := 0, lastCluster := 0, due := none, inL2 := false }
  have hgone : (gone.s.dir line).inL2 = false := by rw [updDir_dir]
  have hsram : gone.s.sram = [] := by
    simp only [gone, alone, merged, Run.updDir_sram, dropForward_sram, hs]
  have hmarks : gone.s.mpoison = r.s.mpoison := by
    simp only [gone, alone, merged, Run.updDir_mpoison, dropForward_mpoison]
  have hbelow : gone.s.dramPoison line = 0 := by
    have : gone.s.dpoison = [] := by
      simp only [gone, alone, merged, Run.updDir_dpoison, dropForward_dpoison, hp]
    rw [State.dramPoison, this]
    exact BitVec.zero_or
  have hzero (w : Nat) : (gone.s.dramPoison line).getLsbD w = false := by
    rw [hbelow]
    exact BitVec.getLsbD_zero
  refine ⟨gone, gone.s.dramPoison line, ?_, hzero, hmarks, hsram, fun n hn => ?_⟩
  · rw [Run.evictL2, hL2, lineFree_idle h, Bool.not_true, Bool.or_self, if_neg Bool.false_ne_true]
    simp only [htaken, halone]
    rw [← viewBelow_dram hd hgone (by rw [hsram]; rfl)]
    exact congrArg (fun q : Run s0 => ((q.dropForward line).updDir line _).viewBelow line) (if_pos rfl)
  · calc gone.s.dir n
      _ = (alone.dropForward line).s.dir n := updDir_dir_ne (alone.dropForward line) _ hn
      _ = alone.s.dir n := dropForward_dir ..
      _ = merged.s.dir n := updDir_dir_ne merged _ hn
      _ = r.s.dir n := updDir_dir_ne r _ hn

/-! ### The state -/

/-- A line of `a`'s set fills all the 16 ways of it, and the table of poison marks lists a mark of the line before
the lower one of `a`, so that none is found for `a`. -/
structure State.Crowded (s : State) (a b : Nat) : Prop where
  dirs : s.dirs = (a, s.dir a) :: List.replicate 16 (b, idleDir (a % 24))
  holder : (s.dir a).holder = 0
  slice : (s.dir a).slice = a % 24
  out : (s.dir a).inL2 = false
  owners : (s.dir a).owners = []
  pmasks : (s.dir a).pmasks = []
  mpoison : s.mpoison = [(b * 32, ()), (a * 32, ())]
  sram : s.sram = []
  dpoison : s.dpoison = []

theorem State.Crowded.dir_victim {s : State} (hab : a < b) (C : s.Crowded a b) : s.dir b = idleDir (a % 24) := by
  rw [State.dir, KV.getD, C.dirs, KV.find?, if_neg (by omega), if_neg (by omega), List.replicate_succ,
    KV.find?, if_pos rfl]
  rfl

/-- The slice of `a` gives up `b`, of which it lists nothing but. -/
theorem roomL2_crowded (hab : a < b) (hset : Config.setOf 1 b % 2048 = Config.setOf 1 a % 2048)
    (C : r.s.Crowded a b) : r.roomL2 a = r.ticked.evictL2 b := by
  have hlines : r.s.sliceLines (r.s.dir a).holder (r.s.dir a).slice a = List.replicate 16 b := by
    rw [State.sliceLines, C.dirs, List.filter_cons_of_neg (by simp), List.filter_replicate_of_pos]
    · rw [List.map_replicate]
    · simp [C.holder, C.slice, idleDir, (Nat.ne_of_lt hab).symm]
  have hsame : sameSet 1 2048 a (List.replicate 16 b) = List.replicate 16 b := by
    rw [sameSet, List.filter_replicate_of_pos (by exact decide_eq_true hset)]
  have hfree : (List.replicate 16 b).filter r.s.lineFree = List.replicate 16 b :=
    List.filter_replicate_of_pos (lineFree_idle (C.dir_victim hab))
  have hpick : r.s.pick (List.replicate 16 b) = b := by
    rw [State.pick, List.length_replicate, List.getD_replicate _ (Nat.mod_lt _ (by decide))]
  have hne : List.replicate 16 b ≠ [] := List.cons_ne_nil b _
  simp only [Run.roomL2, hlines, hsame, hfree, hpick, hne, List.length_replicate, Nat.lt_irrefl, or_self,
    if_false]

/-! ### What the load finds -/

/-- The marks of the words of `b` go, and that of `a` is found. -/
theorem has_after_setHomePoison (hab : a < b) {p : BitVec 32} (hp : ∀ w, p.getLsbD w = false)
    (hm : r.s.mpoison = [(b * 32, ()), (a * 32, ())]) :
    KV.has (a * 32) (r.setHomePoison b p).s.mpoison = true := by
  have upto (n : Nat) (hn : 0 < n) : KV.has (a * 32) ((List.range n).foldl (fun m w =>
      if p.getLsbD w then KV.put (b * 32 + w) () m else KV.del (b * 32 + w) m) r.s.mpoison) = true := by
    induction n, hn using Nat.le_induction with
    | base => simp [hm, hp, KV.del, KV.has, KV.find?]
    | succ n _ ih =>
      rw [List.range_succ, List.foldl_append, List.foldl_cons, List.foldl_nil, hp, if_neg Bool.false_ne_true]
      exact KV.has_del_higher (by omega) ih
  exact upto 32 (by decide)

/-- No other line is in the memory-side cache: one that it takes in leaves the marks and the directory alone. -/
theorem fillSram_empty (h : r.s.sram = []) (line : Nat) :
    (r.fillSram line).s.mpoison = r.s.mpoison ∧ (r.fillSram line).s.dirs = r.s.dirs := by
  have hroom : r.roomSram line = r := by
    rw [Run.roomSram, h]
    rfl
  rw [Run.fillSram, hroom]
  split
  · exact ⟨rfl, rfl⟩
  · exact ⟨rfl, rfl⟩

/-- What a core's L1 does not hold stays when its untracked copies are dropped. -/
theorem dropUntracked_const {β : Type} (g : State → β) (hg : ∀ (s : State) l1, g { s with l1 := l1 } = g s)
    (core line : Nat) (ws : List Nat) : g (r.dropUntracked core line ws).s = g r.s := by
  unfold Run.dropUntracked
  split
  · refine Run.each_const g (fun q w => ?_) r ws
    split
    · split
      · exact hg q.s _
      · rfl
    · rfl
  · rfl

/-- A mark of the first word of `a` that the table shows, where no core has words of `a`. -/
structure State.Shown (s : State) (a : Nat) : Prop where
  marked : KV.has (a * 32) s.mpoison = true
  owners : (s.dir a).owners = []
  pmasks : (s.dir a).pmasks = []

theorem State.Shown.of_eq {s t : State} (h : s.Shown a) (hm : t.mpoison = s.mpoison) (hd : t.dirs = s.dirs) :
    t.Shown a := by
  obtain ⟨hmark, howners, hpmasks⟩ := h
  exact ⟨hm ▸ hmark, by rwa [State.dir_congr hd], by rwa [State.dir_congr hd]⟩

theorem State.Shown.coh {s : State} (h : s.Shown a) : (s.coh (a * 128)).p = true := by
  have hline : a * 128 / 128 = a := by omega
  rw [State.coh_of_homed (by rw [hline]; exact ⟨by simp [h.owners], by simp [h.pmasks]⟩)]
  show KV.has (a * 128 / 4) s.mpoison = true
  rw [show a * 128 / 4 = a * 32 by omega]
  exact h.marked

theorem fillL2_crowded (hab : a < b) (hb : b * 128 < 2 ^ 36)
    (hset : Config.setOf 1 b % 2048 = Config.setOf 1 a % 2048) (C : r.s.Crowded a b) : (r.fillL2 a).s.Shown a := by
  have hL2 : inL2 a = true := by
    rw [inL2, place, if_pos (by omega)]
  have hdram : isDram (b * 128) = true := by
    rw [isDram, place, if_pos (by omega)]
  have hvictim : r.ticked.s.dir b = idleDir (a % 24) :=
    (State.dir_congr (s := r.s) (t := r.ticked.s) rfl b).trans (C.dir_victim hab)
  obtain ⟨q, p, hevict, hp, hmarks, hsram, hothers⟩ :=
    evictL2_idle (r := r.ticked) hdram hvictim C.sram C.dpoison
  have hshown : (q.setHomePoison b p).s.Shown a := by
    have hdir : (q.setHomePoison b p).s.dir a = r.s.dir a :=
      (State.dir_congr rfl a).trans (hothers a (Nat.ne_of_lt hab))
    exact ⟨has_after_setHomePoison hab hp (hmarks.trans C.mpoison), by rw [hdir, C.owners], by rw [hdir, C.pmasks]⟩
  obtain ⟨hm, hdr⟩ := fillSram_empty (r := q.setHomePoison b p) hsram a
  obtain ⟨hmark, ho, hpm⟩ := hshown.of_eq hm hdr
  rw [Run.fillL2, hL2, C.out, Bool.not_true, Bool.or_self, if_neg Bool.false_ne_true, roomL2_crowded hab hset C,
    hevict]
  exact ⟨hmark, by rw [updDir_dir]; exact ho, by rw [updDir_dir]; exact hpm⟩

/-- The load allocates its line: it meets the mark that the eviction shows. -/
theorem dirLoad_crowded (hab : a < b) (hb : b * 128 < 2 ^ 36)
    (hset : Config.setOf 1 b % 2048 = Config.setOf 1 a % 2048) (C : (r.countReq a 0).s.Crowded a b) :
    (r.dirLoad 0 (a * 128) 4 5 false).s.Shown a ∧ (r.dirLoad 0 (a * 128) 4 5 false).s.unlined = r.s.unlined := by
  have hline : a * 128 / 128 = a := by omega
  have hpol (s : State) : s.effPol 0 (a * 128) 5 = 5 := by rw [State.effPol, ite_self]
  have hshown := fillL2_crowded hab hb hset C
  have hclean (ws : List Nat) :
      (ws.any fun w => decide ((((r.countReq a 0).fillL2 a).s.dir a).wst w = .p)) = false := by
    refine List.any_eq_false.2 fun w _ => ?_
    have hhomed := Dir.wst_of_unowned (d := ((r.countReq a 0).fillL2 a).s.dir a) (w := w) (by simp [hshown.owners])
    rw [hhomed, hshown.pmasks, List.any_nil, if_neg Bool.false_ne_true]
    split <;> simp
  have hload : r.dirLoad 0 (a * 128) 4 5 false =
      ((r.countReq a 0).fillL2 a).dropUntracked 0 a (wordsAt (a * 128) 4) := by
    simp only [Run.dirLoad, hline, Bool.false_and, Bool.false_eq_true, if_false, hpol, Run.allocate, if_true,
      hshown.owners, List.filter_nil, hclean, each_nil]
  rw [hload]
  exact ⟨hshown.of_eq (dropUntracked_const State.mpoison (fun _ _ => rfl) ..)
    (dropUntracked_const State.dirs (fun _ _ => rfl) ..), by simp⟩

/-! ### The load in that state -/

/-- A load of one word at the start of line `a`, with NC. -/
def loadAt (a : Nat) : Op where
  kind := .load .words
  flag := 0
  acc := { pa := a * 128 }

/-- That load is under way. Sixteen entries of the directory list the idle line `b`, and the table of poison marks
lists one of `b` before the lower one of `a`. -/
def hiddenMark (a b : Nat) : State where
  dirs := List.replicate 16 (b, idleDir (a % 24))
  mpoison := [(b * 32, ()), (a * 32, ())]
  ops := [(1, loadAt a)]

theorem loadAt_pa (a : Nat) : (loadAt a).acc.pa = a * 128 := rfl

theorem loadAt_next (a : Nat) {k : Nat} (hk : 0 < k) : (loadAt a).next k = loadAt a := by
  have hn : min (4 * k) 4 = 4 := by omega
  simp [Op.next, loadAt, hn]

/-- With no fibre that holds a region, the directory performs the load. -/
theorem via_loadAt {s : State} (hf : s.fibres = []) (ha : a * 128 < 2 ^ 36) : s.via (loadAt a) = .dir := by
  have hplace : place (loadAt a).acc.pa = .dram 0 := by
    rw [loadAt_pa, place, if_pos (by omega), Nat.div_eq_of_lt ha]
  have hfibre : (s.fibre 0).region = none := by
    rw [State.fibre, KV.getD, hf]
    rfl
  have hbuf : s.buffered (loadAt a) = false := by
    simp only [State.buffered, loadAt, hfibre, Bool.and_false]
  have hmerged : s.merged (loadAt a) = false := by
    simp only [State.merged, loadAt, Bool.and_false]
  have hhit : s.loadHit (loadAt a).site (loadAt a).acc.pa (loadAt a).acc.n (loadAt a).acc.pol = false := by
    simp [State.loadHit, loadAt]
  simp only [State.via, hplace, hbuf, hmerged, hhit, Bool.and_false, Bool.false_eq_true, if_false]
  rfl

/-- The only operation has no earlier one. -/
theorem earlier_loadAt {s : State} (hops : s.ops = [(1, loadAt a)]) (k : Nat) : s.earlier 1 k = [] := by
  simp [State.earlier, hops]

theorem mayTake_loadAt {s : State} (hops : s.ops = [(1, loadAt a)]) : s.mayTake 1 (loadAt a) = true := by
  simp [State.mayTake, Op.fibres, loadAt, earlier_loadAt hops]

/-- A word that the directory marks as poisoned poisons the load. -/
theorem loaded_shown (hops : r.s.ops = [(1, loadAt a)]) (hs : r.s.Shown a) :
    r.loaded 1 (loadAt a) .words (r.s.accWords (loadAt a) .dir) = r.updOp 1 Op.poisoned := by
  have hpa : a * 128 / 4 * 4 = a * 128 := by omega
  have hwords : r.s.accWords (loadAt a) .dir = [r.s.coh (a * 128)] := by
    simp [State.accWords, loadAt, List.range_succ, hpa]
  have hown (wa : Nat) (h : PW) : r.s.ownWord 1 (loadAt a) wa h = h := by
    simp only [State.ownWord, earlier_loadAt hops, List.foldl_nil]
    simp
  have hwhole : ¬4 * 1 < a * 128 % 4 + 4 := by omega
  have hread : (loadAt a).got = [] ∧ (loadAt a).acc.n = 4 ∧ (loadAt a).acc.acq = false := ⟨rfl, rfl, rfl⟩
  rw [hwords, Run.loaded]
  simp [hown, hread, loadAt_pa, hs.coh, List.range_succ, hwhole]

theorem useEntries_keeps (line : Nat) (far : Bool) :
    (r.useEntries line far).s.dirs = r.s.dirs ∧ (r.useEntries line far).s.mpoison = r.s.mpoison ∧
      (r.useEntries line far).s.sram = r.s.sram ∧ (r.useEntries line far).s.dpoison = r.s.dpoison := by
  unfold Run.useEntries
  dsimp only
  split_ifs <;> exact ⟨rfl, rfl, rfl, rfl⟩

/-- A line of the first stack is homed by die 0. -/
theorem fresh_holder (ha : a * 128 < 2 ^ 36) : (Dir.fresh a).holder = 0 := by
  rw [Dir.fresh, homeDie, place, if_pos (by omega)]
  show a * 128 / 2 ^ 36 / 3 = 0
  omega

/-- The request is counted in an entry of its own, below those of `b`. -/
theorem countReq_crowded (hab : a < b) (ha : a * 128 < 2 ^ 36) (hdirs : r.s.dirs = (hiddenMark a b).dirs)
    (hm : r.s.mpoison = (hiddenMark a b).mpoison) (hs : r.s.sram = []) (hp : r.s.dpoison = []) :
    (r.countReq a 0).s.Crowded a b := by
  obtain ⟨hdirs', hm', hs', hp'⟩ := useEntries_keeps (r := r) a (decide (dieOf 0 ≠ (r.s.dir a).holder))
  rw [Run.countReq]
  generalize r.useEntries a (decide (dieOf 0 ≠ (r.s.dir a).holder)) = q at hdirs' hm' hs' hp' ⊢
  have hlist : q.s.dirs = List.replicate 16 (b, idleDir (a % 24)) := hdirs'.trans hdirs
  have hfresh : q.s.dir a = Dir.fresh a := by
    rw [State.dir, KV.getD, hlist, List.replicate_succ, KV.find?, if_neg (by omega), if_pos hab]
    rfl
  have hput (d : Dir) : KV.put a d q.s.dirs = (a, d) :: List.replicate 16 (b, idleDir (a % 24)) := by
    rw [hlist, List.replicate_succ, KV.put, if_neg (by omega), if_neg (by omega)]
  constructor
  case dirs => rw [updDir_dir]; exact hput _
  case holder => rw [updDir_dir, hfresh]; exact fresh_holder ha
  case slice => rw [updDir_dir, hfresh]; rfl
  case out => rw [updDir_dir, hfresh]; rfl
  case owners => rw [updDir_dir, hfresh]; rfl
  case pmasks => rw [updDir_dir, hfresh]; rfl
  case mpoison => exact hm'.trans hm
  case sram => exact hs'.trans hs
  case dpoison => exact hp'.trans hp

end Sys2Proof.Machine
end

section
/-! O44 does not say that the tables of the state are in order. -/

namespace Sys2Proof
open Machine
variable {a b : Nat}

theorem takeAccess_hiddenMark (hab : a < b) (hb : b * 128 < 2 ^ 36)
    (hset : Config.setOf 1 b % 2048 = Config.setOf 1 a % 2048) {k : Nat} (hk : 0 < k) :
    ((Run.start (hiddenMark a b)).ticked.takeAccess 1 (loadAt a) k).s.ops = [(1, (loadAt a).poisoned)] := by
  have ha : a * 128 < 2 ^ 36 := by omega
  let r := (Run.start (hiddenMark a b)).ticked
  have C : (r.countReq a 0).s.Crowded a b := countReq_crowded hab ha rfl rfl rfl rfl
  obtain ⟨hshown, hsame⟩ := dirLoad_crowded hab hb hset C
  have hops : (r.dirLoad 0 (a * 128) 4 5 false).s.ops = [(1, loadAt a)] := congrArg State.ops hsame
  have htake : r.takeAccess 1 (loadAt a) k = (r.dirLoad 0 (a * 128) 4 5 false).updOp 1 Op.poisoned := by
    have hvia : r.s.via (loadAt a) = .dir := via_loadAt rfl ha
    have hload : r.takeAccess 1 (loadAt a) k = r.takeLoad 1 (loadAt a) .words k := rfl
    rw [hload, Run.takeLoad, loadAt_next a hk]
    simp only [hvia]
    exact loaded_shown hops hshown
  rw [htake, Run.updOp_ops, hops]
  rfl

theorem hiddenMark_dir_loaded (hab : a < b) : (hiddenMark a b).dir a = Dir.fresh a := by
  rw [State.dir, KV.getD, hiddenMark, List.replicate_succ, KV.find?, if_neg (by omega), if_pos hab]
  rfl

theorem hiddenMark_dir_victim : (hiddenMark a b).dir b = idleDir (a % 24) := by
  rw [State.dir, KV.getD, hiddenMark, List.replicate_succ, KV.find?, if_pos rfl]
  rfl

/-- No word of the load is marked, as the table shows its marks before the load. -/
theorem anyPoison_hiddenMark (hab : a < b) : (hiddenMark a b).anyPoison (loadAt a).acc.pa 4 = false := by
  have hpa : a * 128 / 4 * 4 = a * 128 := by omega
  have hwords : (a * 128 % 4 + 4 + 3) / 4 = 1 := by omega
  have hline : a * 128 / 128 = a := by omega
  have hhomed : ((hiddenMark a b).dir (a * 128 / 128)).Homed (a * 128 / 4 % 32) := by
    rw [hline, hiddenMark_dir_loaded hab]
    exact ⟨fun _ h => absurd h List.not_mem_nil, fun _ h => absurd h List.not_mem_nil⟩
  have hcoh : ((hiddenMark a b).coh (a * 128)).p = false := by
    rw [State.coh_of_homed hhomed]
    show KV.has (a * 128 / 4) [(b * 32, ()), (a * 32, ())] = false
    rw [KV.has, KV.find?, if_neg (by omega), if_pos (by omega)]
    rfl
  rw [State.anyPoison, loadAt_pa, hwords]
  simp [List.range_succ, hpa, hcoh]

/-- The slice can make room for the line: the ways of its set are idle. -/
theorem lineBusy_hiddenMark (hab : a < b) (ha : a * 128 < 2 ^ 36)
    (hset : Config.setOf 1 b % 2048 = Config.setOf 1 a % 2048) : (hiddenMark a b).lineBusy (loadAt a) = false := by
  have hline : (loadAt a).acc.pa / 128 = a := by rw [loadAt_pa]; omega
  have hlines : (hiddenMark a b).sliceLines 0 (a % 24) a = List.replicate 16 b := by
    rw [State.sliceLines, hiddenMark, List.filter_replicate_of_pos]
    · rw [List.map_replicate]
    · simp [idleDir, (Nat.ne_of_lt hab).symm]
  have hsame : sameSet 1 2048 a (List.replicate 16 b) = List.replicate 16 b := by
    rw [sameSet, List.filter_replicate_of_pos (by exact decide_eq_true hset)]
  have hfree : (List.replicate 16 b).any (hiddenMark a b).lineFree = true :=
    List.any_eq_true.2 ⟨b, List.mem_replicate.2 ⟨by decide, rfl⟩, lineFree_idle hiddenMark_dir_victim⟩
  have hroom : (hiddenMark a b).roomAt (Dir.fresh a).holder (Dir.fresh a).slice a = true := by
    rw [fresh_holder ha, State.roomAt]
    have hslice : (Dir.fresh a).slice = a % 24 := rfl
    simp only [hslice, hlines, hsame, hfree, Bool.or_true]
  have hfull : (hiddenMark a b).l2Full a = false := by
    rw [State.l2Full, hiddenMark_dir_loaded hab, hroom, Bool.not_true, Bool.and_false]
  rw [State.lineBusy, hline, hfull, hiddenMark_dir_loaded hab, Bool.and_false, Bool.false_and]
  rfl

/-- The load is performed, and takes the poison that its eviction shows. -/
theorem dirLoadRequest_hiddenMark (hab : a < b) (hb : b * 128 < 2 ^ 36)
    (hset : Config.setOf 1 b % 2048 = Config.setOf 1 a % 2048) :
    opsAfter (exec (.dirLoadRequest 1 a) (hiddenMark a b)) = [(1, (loadAt a).poisoned)] := by
  have ha : a * 128 < 2 ^ 36 := by omega
  have hline : (loadAt a).acc.pa / 128 = a := by rw [loadAt_pa]; omega
  let k := Config.wordsNow (hiddenMark a b).tick % 4 + 1
  have hops := takeAccess_hiddenMark hab hb hset (k := k) (Nat.succ_pos _)
  have hroom : (Run.start (hiddenMark a b)).makeRoom a a = Run.start (hiddenMark a b) := by
    rw [Run.makeRoom]
    exact if_pos (.inl rfl)
  have htake : (Run.start (hiddenMark a b)).takeAt 1 a OpK.isLd =
      ((Run.start (hiddenMark a b)).ticked.takeAccess 1 (loadAt a) k).settleOp 1 := by
    have hfound : KV.find? 1 (Run.start (hiddenMark a b)).s.ops = some (loadAt a) := rfl
    have hvia : (Run.start (hiddenMark a b)).s.via (loadAt a) = .dir := via_loadAt rfl ha
    have hmay : (Run.start (hiddenMark a b)).s.mayTake 1 (loadAt a) = true := mayTake_loadAt rfl
    have hbusy : (Run.start (hiddenMark a b)).s.lineBusy (loadAt a) = false := lineBusy_hiddenMark hab ha hset
    have hkind : (decide ((loadAt a).stage = .pending) && OpK.isLd (loadAt a).kind) = true := rfl
    simp only [Run.takeAt, hfound, hvia, hmay, hbusy, hkind, hline, hroom, Via.slice]
    rfl
  have hsettle (q : Run (hiddenMark a b)) (h : q.s.ops = [(1, (loadAt a).poisoned)]) :
      (q.settleOp 1).takePkt 1 = q := by
    have hfound : KV.find? 1 q.s.ops = some (loadAt a).poisoned := by rw [h]; rfl
    have hdone : q.settleOp 1 = q := by
      simp only [Run.settleOp, hfound]
      rfl
    rw [hdone]
    simp only [Run.takePkt, hfound]
    rfl
  have hexec : exec (.dirLoadRequest 1 a) (hiddenMark a b) =
      .next (((Run.start (hiddenMark a b)).takeAt 1 a OpK.isLd).takePkt 1).s := rfl
  rw [hexec, htake, hsettle _ hops]
  exact hops

/-- Of more lines than an L2 slice has sets, two fall into the same set. -/
theorem exists_same_set : ∃ a b, a < b ∧ b < 2049 ∧ Config.setOf 1 b % 2048 = Config.setOf 1 a % 2048 := by
  obtain ⟨x, hx, y, hy, hne, heq⟩ := Finset.exists_ne_map_eq_of_card_lt_of_maps_to
    (s := Finset.range 2049) (t := Finset.range 2048) (f := fun n => Config.setOf 1 n % 2048) (by simp)
    (fun n _ => by simp [Nat.mod_lt])
  simp only [Finset.mem_range] at hx hy
  obtain hlt | hlt := Nat.lt_or_gt_of_ne hne
  · exact ⟨x, y, hlt, hy, heq.symm⟩
  · exact ⟨y, x, hlt, hx, heq⟩

/-- Refutes O44: in `hiddenMark` the loaded line has no word that the table of poison marks shows as poisoned, but
the eviction that makes room for it takes the higher marks out of the table, and with them what hid the mark of the
line's first word. The premises do not say that the table is in order. -/
theorem not_directoryAndLines : ¬ Obligations.DirectoryAndLines := by
  rintro ⟨h, -⟩
  unfold Part.DirectoryEvents at h
  obtain ⟨a, b, hab, hb, hset⟩ := exists_same_set
  have ha : a * 128 < 2 ^ 36 := by omega
  have hline : (loadAt a).acc.pa / 128 = a := by rw [loadAt_pa]; omega
  have hquiet : (hiddenMark a b).QuietLine a := by
    rw [State.QuietLine, hiddenMark_dir_loaded hab]
    exact ⟨rfl, rfl⟩
  have hfit : (loadAt a).acc.pa % 128 + 4 ≤ 128 := by rw [loadAt_pa]; omega
  obtain ⟨hload, -⟩ := h (hiddenMark a b) 1 (loadAt a) 4 ⟨rfl, rfl, rfl⟩ rfl rfl (show 0 < 16 by decide)
    (via_loadAt rfl ha)
    (mayTake_loadAt rfl) (lineBusy_hiddenMark hab ha hset) (by decide) rfl hfit (.inr (by rw [loadAt_pa]; omega)) rfl
    (by rw [hline]; exact hquiet)
  obtain ⟨t, hexec, -, -, -, hops⟩ := hload .words rfl
    (fun j hj => by rw [loadAt_next a hj]; exact via_loadAt rfl ha) rfl (earlier_loadAt rfl _)
    (anyPoison_hiddenMark hab) (fun _ => rfl)
  rw [hline] at hexec
  have hpoisoned := dirLoadRequest_hiddenMark hab (by omega) hset
  rw [hexec] at hpoisoned
  have hall : min (4 * (Config.wordsNow (hiddenMark a b).tick % 4 + 1)) 4 = 4 := by omega
  rw [if_pos hall] at hops
  have hnote := congrArg (fun l => (KV.find? 1 l).map Op.note) (hops.symm.trans hpoisoned)
  exact absurd hnote (by simp [hiddenMark, KV.put, KV.find?, loadAt, Op.poisoned])

end Sys2Proof
end

section
/-! The place of one entry in a table, whatever order the rest of it stands in, and tables whose values are
changed one for one. -/

namespace Sys2Proof.KV
variable {α : Type} {k : Nat} {v : α} {m : List (Nat × α)}

/-- What is found under a key stands behind lower keys only. -/
theorem exists_split_of_find? (h : find? k m = some v) : ∃ a b, m = a ++ (k, v) :: b ∧ ∀ e ∈ a, e.1 < k := by
  induction m with
  | nil => cases h
  | cons x t ih =>
    obtain ⟨j, w⟩ := x
    unfold find? at h
    split_ifs at h with heq hlt
    · cases h
      exact ⟨[], t, by rw [heq]; rfl, by simp⟩
    · obtain ⟨a, b, rfl, ha⟩ := ih h
      exact ⟨(j, w) :: a, b, rfl, List.forall_mem_cons.2 ⟨by dsimp only; omega, ha⟩⟩

theorem put_split {a b : List (Nat × α)} (ha : ∀ e ∈ a, e.1 < k) (w : α) :
    put k w (a ++ (k, v) :: b) = a ++ (k, w) :: b := by
  induction a with
  | nil => simp [put]
  | cons x t ih =>
    obtain ⟨hx, ht⟩ := List.forall_mem_cons.1 ha
    simp [put, hx, ih ht]

theorem put_of_find? (h : find? k m = some v) : put k v m = m := by
  obtain ⟨a, b, rfl, ha⟩ := exists_split_of_find? h
  exact put_split ha v

theorem find?_map (g : α → α) : find? k (m.map (Prod.map id g)) = (find? k m).map g := by
  induction m with
  | nil => rfl
  | cons x t ih =>
    simp only [List.map_cons, Prod.map, id, find?, ih]
    split_ifs <;> rfl

theorem map_put (g : α → α) : (put k v m).map (Prod.map id g) = put k (g v) (m.map (Prod.map id g)) := by
  induction m with
  | nil => rfl
  | cons x t ih =>
    simp only [List.map_cons, Prod.map, id, put]
    split_ifs <;> simp [ih, Prod.map]

end Sys2Proof.KV
end

section
/-! Folds of a run, and a fibre without a flag to observe. -/

namespace Sys2Proof.Machine
variable {s0 : State}

theorem fibre_of_find? {s : State} {k : Nat} {f : Fibre} (h : KV.find? k s.fibres = some f) : s.fibre k = f := by
  rw [State.fibre, KV.getD, h]
  rfl

theorem setFibre_found {r : Run s0} {k : Nat} {f : Fibre} (h : KV.find? k r.s.fibres = some f) :
    r.setFibre k f = r :=
  Run.ext_s (congrArg (fun l => ({ r.s with fibres := l } : State)) (KV.put_of_find? h))

theorem each_append {α : Type} (r : Run s0) (a b : List α) (f : Run s0 → α → Run s0) :
    r.each (a ++ b) f = (r.each a f).each b f := List.foldl_append

/-- A fold of which every step leaves the run as it is. -/
theorem each_still {α : Type} {r : Run s0} {l : List α} {f : Run s0 → α → Run s0} (h : ∀ x ∈ l, f r x = r) :
    r.each l f = r :=
  Run.each_inv_mem (fun q => q = r) rfl fun _ x hx hq => hq ▸ h x hx

theorem observe_nothing {r : Run s0} {k : Nat} {f : Fibre} (h : KV.find? k r.s.fibres = some f)
    (hflags : f.flags = []) : r.observeAll k = r := by
  simp only [Run.observeAll, fibre_of_find? h, updFibre_found h, hflags, List.any_nil, Bool.false_eq_true, if_false,
    List.map_nil, List.foldl_nil, setFibre_found h]

theorem noted_of_no_flags {f : Fibre} (h : f.flags = []) : f.noted = none := by
  rw [Fibre.noted, h]
  rfl

theorem holds_of_no_flags {f : Fibre} (h : f.flags = []) (n : Nat) : f.holds n = false := by
  rw [Fibre.holds, Fibre.flag, h]
  rfl

end Sys2Proof.Machine
end

section
/-! Forming a crew of the one fibre of a boathouse (R151, R153). -/

namespace Sys2Proof.Machine
variable {s0 s : State} {site k n : Nat} {f : Fibre}

theorem mem_boathouse {x : Nat × Fibre} (hjoin : s.joinable site = []) (h : x ∈ s.boathouse site) :
    x.2.site = site ∧ x.2.formable = true := by
  rw [State.boathouse, List.mem_filter, hjoin] at h
  simp only [List.flatten_nil, List.contains_nil, Bool.or_false, Bool.and_eq_true, decide_eq_true_eq] at h
  exact ⟨h.2.1.1.1, h.2.1.1.2⟩

theorem formable_iff : f.formable = true ↔
    f.slot = none ∧ f.halt = none ∧ f.park = none ∧ f.wait = none ∧ f.ship = none := by
  simp only [Fibre.formable, Bool.and_eq_true, decide_eq_true_eq, and_assoc]

theorem lanesOf_pos (site : Nat) : 0 < lanesOf site := by
  unfold lanesOf
  split <;> decide

theorem fkey_mod (gang : Nat) {fid : Nat} (h : fid < 1024) : fkey gang fid % 1024 = fid := by
  unfold fkey
  omega

/-- Where one number alone gives anything, the numbers together give what that one does. -/
theorem flatMap_range_of_one {β : Type} {g : Nat → List β} {a : Nat} (hg : ∀ i ≠ a, g i = []) :
    ∀ {n}, a < n → (List.range n).flatMap g = g a
  | n + 1, h => by
    rw [List.range_succ, List.flatMap_append, List.flatMap_singleton]
    obtain rfl | hne := eq_or_ne n a
    · rw [List.flatMap_eq_nil_iff.2 fun i hi => hg i (List.mem_range.1 hi).ne, List.nil_append]
    · rw [flatMap_range_of_one hg (by omega), hg n hne, List.append_nil]

theorem laneOrder_one (site fid : Nat) : laneOrder site [fid] = [fid] := by
  rw [laneOrder, flatMap_range_of_one (a := fid % lanesOf site) ?others (Nat.mod_lt _ (lanesOf_pos site))]
  · simp
  case others => exact fun i hi => by simp [hi.symm]

theorem filterMap_lane_one (site : Nat) (x : Nat × Fibre) :
    ((List.range (lanesOf site)).filterMap fun i =>
      (oldest ([x].filter fun y => decide (y.2.fid % lanesOf site = i))).map fun y => y.2.fid) = [x.2.fid] := by
  rw [List.filterMap_eq_flatMap_toList,
    flatMap_range_of_one (a := x.2.fid % lanesOf site) ?others (Nat.mod_lt _ (lanesOf_pos site))]
  · simp [oldest]
  case others => exact fun i hi => by simp [hi.symm, oldest]

/-- A fold that keeps what it has or takes the next of the list ends with one of the list. -/
theorem mem_of_foldl_pick {β : Type} {g : Option β → β → Option β} (hg : ∀ b x, g b x = some x ∨ g b x = b)
    {l : List β} {y : β} (h : l.foldl g none = some y) : y ∈ l := by
  induction l using List.reverseRecOn with
  | nil => cases h
  | append_singleton l x ih =>
    rw [List.foldl_append, List.foldl_cons, List.foldl_nil] at h
    rw [List.mem_append, List.mem_singleton]
    obtain hx | hb := hg (l.foldl g none) x
    · exact .inr (Option.some.inj (h.symm.trans hx))
    · exact .inl (ih (hb.symm.trans h))

/-- What forms of an entry of one fibre: the canonical crew of that fibre alone, or one lane of another. -/
theorem formOf_one (s : State) (site gang : Nat) (hfid : f.fid < 1024) :
    (s.formOf site gang [(fkey gang f.fid, f)]).1 = [f.fid] := by
  unfold State.formOf
  extract_lets lanes keys whole cs oldestIn best
  have hwhole (c : Nat) (h : whole c = true) : f.fid / lanes = c := by
    simp only [whole, keys, Bool.and_eq_true, Bool.not_eq_true', List.isEmpty_eq_false_iff_exists_mem,
      List.all_eq_true, List.map_cons, List.map_nil, List.contains_iff_mem, List.mem_singleton] at h
    obtain ⟨⟨k, hk⟩, hall⟩ := h
    have hkey := hall k hk
    rw [State.canonical, List.mem_filter, decide_eq_true_eq, hkey, fkey_mod gang hfid] at hk
    exact hk.2
  cases hc : best with
  | some c =>
    dsimp only
    have hmem : c ∈ cs := mem_of_foldl_pick (fun b x => by split <;> [exact .inl rfl; split] <;> simp) hc
    have hc := hwhole c (List.mem_filter.1 hmem).2
    simp only [List.filter_singleton, hc, decide_true, cond_true, List.map_cons, List.map_nil, laneOrder_one]
  | none => exact filterMap_lane_one site (fkey gang f.fid, f)

/-- Nothing keeps the one fibre of a boathouse from forming where its site has no crew. -/
theorem mayForm_one (hcrews : s.crewsOf site = []) (rn : Nat) (x : Nat × Fibre) (full : Bool) :
    s.mayForm site rn [x] full = true := by
  simp [State.mayForm, hcrews, oldest]

theorem not_demotedLast_one (rn : Nat) (x : Nat × Fibre) : demotedLast rn [[x]] [x] = false := by
  cases hdem : x.2.dem <;> simp [demotedLast, hdem]

theorem entries_one (hjoin : s.joinable site = []) (hboat : s.boathouse site = [(k, f)]) (hwait : f.wait = none) :
    s.entries site = [[(k, f)]] := by
  simp [State.entries, hjoin, hboat, hwait]

/-- A crew of one fibre that is in no walk takes a slot. -/
theorem seat_one {r : Run s0} {c : Crew} {fid : Nat} (hfids : c.fids = [fid])
    (hf : KV.find? (fkey c.gang fid) r.s.fibres = some f) (hwalk : f.walking = false) : r.seat site n c =
      ((r.mod fun s => { s with crews := KV.put (ckey site n) c s.crews }).setFibre (fkey c.gang fid)
        { f with slot := some n }).waited site (fkey c.gang fid) := by
  have hwalk' : Fibre.walking { f with slot := some n } = false := hwalk
  simp only [Run.seat, hfids, Run.each, List.foldl_cons, List.foldl_nil]
  rw [updFibre_found (r := r.mod fun s => { s with crews := KV.put (ckey site n) c s.crews }) hf]
  simp only [hwalk', Bool.false_eq_true, if_false]

theorem updSite_updSite (r : Run s0) (k : Nat) (f g : Site → Site) :
    (r.updSite k f).updSite k g = r.updSite k fun x => g (f x) := by
  refine Run.ext_s ?_
  simp only [Run.updSite, Run.mod, State.keep, State.site_put, if_true, KV.put_put]

/-- CREW_FORM of the one fibre of a boathouse. -/
theorem crewForm_law (hslot : s.freeSlot site = some n) (hjoin : s.joinable site = [])
    (hboat : s.boathouse site = [(k, f)]) (hcrews : s.crewsOf site = []) (hk : k = fkey f.gang f.fid)
    (hfid : f.fid < 1024) (hf : KV.find? k s.fibres = some f) (hwalk : f.walking = false) :
    exec (.crewForm site) s = .next (if 2 ≤ (s.site site).formed then s else { s with
      crews := KV.put (ckey site n) { gang := f.gang, fids := [f.fid], alone := f.stepping } s.crews
      sites := (KV.put site { s.site site with
        formed := (s.site site).formed + 1, waits := KV.del k (s.site site).waits } s.sites)
      fibres := KV.put k { f with slot := some n } s.fibres }) := by
  subst hk
  obtain ⟨-, hform⟩ := mem_boathouse hjoin (hboat ▸ List.mem_singleton_self _)
  obtain ⟨-, -, -, hwait, -⟩ := formable_iff.1 hform
  dsimp only at hwait
  refine congrArg Host.Outcome.next (?_ : ((Run.start s).formCrew site).s = _)
  unfold Run.formCrew
  rw [Run.start_s]
  split_ifs with hroom hfull hfull
  · omega
  · have hseat := seat_one (site := site) (n := n) (r := Run.start s)
      (c := { gang := f.gang, fids := [f.fid], alone := f.stepping }) rfl hf hwalk
    have hjoined : f.wait.isSome = false := by rw [hwait]; rfl
    simp only [hslot, entries_one hjoin hboat hwait, mayForm_one hcrews, not_demotedLast_one,
      formOf_one s site f.gang hfid, List.filter_cons, Bool.not_false, Bool.and_self, if_true, List.filter_nil,
      List.flatMap_cons, List.flatMap_nil, List.map_cons, List.map_nil, List.append_nil, List.foldl_cons,
      List.foldl_nil, hjoined, Bool.and_true, Bool.false_eq_true, if_false]
    rw [hseat, Run.waited, updSite_updSite]
    rfl
  · rfl
  · omega

end Sys2Proof.Machine
end

section
/-! The eviction of a crew of one fibre (R155, R179). -/

namespace Sys2Proof.Machine
variable {s0 s : State} {site n : Nat} {cr : Crew} {f : Fibre}

/-- The crews of a site are those that the table lists under its slots. -/
theorem mem_crewsOf {x : Nat × Crew} :
    x ∈ s.crewsOf site ↔ x.1 < 256 ∧ (ckey site x.1, x.2) ∈ s.crews := by
  simp only [State.crewsOf, KV.range, List.mem_map, List.mem_filter, Bool.and_eq_true, decide_eq_true_eq]
  unfold ckey
  constructor
  · rintro ⟨e, ⟨he, hlo, hhi⟩, rfl⟩
    refine ⟨by dsimp only; omega, ?_⟩
    rwa [show site * 256 + (e.1 - (site * 256 + 0)) = e.1 by omega]
  · rintro ⟨hlt, hx⟩
    exact ⟨_, ⟨hx, by dsimp only; omega, by dsimp only; omega⟩, Prod.ext (by dsimp only; omega) rfl⟩

/-- No crew of the site has been chosen to go. -/
def State.NoEvict (s : State) (site : Nat) : Prop := ∀ x ∈ s.crewsOf site, x.2.evict = false

theorem noEvict_iff : s.NoEvict site ↔ (s.crewsOf site).any (fun c => c.2.evict) = false := by
  simp [State.NoEvict]

/-- What becomes of one crew of a site when those that have been chosen go. -/
def Run.goChosen (r : Run s0) (c : Nat × Crew) : Run s0 :=
  let ks := c.2.fids.map (fkey c.2.gang)
  if !c.2.evict || c.2.hints.isSome || ks.any (fun k => (List.range 16).any (r.s.fibre k).holds) then r
  else r.each ks fun r k => match (r.s.fibre k).noted with
    | some (n, x) => r.notedFault k n x
    | none => (r.observeAll k).leaveCrew k

theorem finishEvict_eq (r : Run s0) (site : Nat) : r.finishEvict site = r.each (r.s.crewsOf site) Run.goChosen := rfl

theorem goChosen_unchosen (r : Run s0) {x : Nat × Crew} (h : x.2.evict = false) : r.goChosen x = r := by
  simp only [Run.goChosen, h, Bool.not_false, Bool.true_or, if_true]

/-- A chosen crew completes its hint group first. -/
theorem goChosen_hints (r : Run s0) {x : Nat × Crew} (h : x.2.hints.isSome = true) : r.goChosen x = r := by
  simp only [Run.goChosen, h, Bool.or_true, Bool.true_or, if_true]

/-- A chosen crew waits for the flags of its members. -/
theorem goChosen_flags {r : Run s0} {x : Nat × Crew} {i : Nat} (hi : i ∈ x.2.fids)
    (h : (List.range 16).any (r.s.fibre (fkey x.2.gang i)).holds = true) : r.goChosen x = r := by
  have hany : (x.2.fids.map (fkey x.2.gang)).any (fun k => (List.range 16).any (r.s.fibre k).holds) = true :=
    List.any_eq_true.2 ⟨_, List.mem_map_of_mem hi, h⟩
  simp only [Run.goChosen, hany, Bool.or_true, if_true]

theorem finishEvict_none {r : Run s0} (h : r.s.NoEvict site) : r.finishEvict site = r :=
  each_still fun x hx => goChosen_unchosen r (h x hx)

/-- The one fibre of a crew that is in no hint group leaves it, and the crew ends. -/
theorem leaveCrew_one {r : Run s0} {k : Nat} (hf : KV.find? k r.s.fibres = some f) (hsite : f.site = site)
    (hslot : f.slot = some n) (hcr : KV.find? (ckey site n) r.s.crews = some cr) (hfids : cr.fids = [f.fid])
    (hhints : cr.hints = none) : (r.leaveCrew k).s = { r.s with
      crews := KV.del (ckey site n) r.s.crews
      fibres := KV.put k { f with slot := none, wbuf := [] } r.s.fibres
      ops := r.s.ops.filter fun o => !(decide (o.2.fibre = k) && decide (o.2.kind = .wread 0)) } := by
  simp only [Run.leaveCrew, fibre_of_find? hf, hslot, hsite, hcr, hfids, hhints, updFibre_found hf, ne_eq,
    not_true_eq_false, decide_false, List.filter_cons_of_neg, List.filter_nil, Bool.false_eq_true, not_false_eq_true,
    if_true]
  rfl

/-- The site's crews before and after the one in slot `n`. -/
theorem exists_crewsOf_split (hcr : KV.find? (ckey site n) s.crews = some cr) (hn : n < 256) :
    ∃ a b, s.crewsOf site = a ++ (n, cr) :: b ∧
      ∀ c, { s with crews := KV.put (ckey site n) c s.crews }.crewsOf site = a ++ (n, c) :: b := by
  obtain ⟨l, l', hl, hlow⟩ := KV.exists_split_of_find? hcr
  have hpick (c : Crew) : { s with crews := l ++ (ckey site n, c) :: l' }.crewsOf site =
      { s with crews := l }.crewsOf site ++ (n, c) :: { s with crews := l' }.crewsOf site := by
    have hin : (decide (ckey site 0 ≤ ckey site n) && decide (ckey site n < ckey site 0 + 256)) = true := by
      simp only [Bool.and_eq_true, decide_eq_true_eq]
      unfold ckey
      omega
    simp only [State.crewsOf, KV.range, List.filter_append, List.filter_cons, hin, if_true, List.map_append,
      List.map_cons, show ckey site n - ckey site 0 = n by simp only [ckey]; omega]
  refine ⟨{ s with crews := l }.crewsOf site, { s with crews := l' }.crewsOf site, ?_, fun c => ?_⟩
  · rw [← hpick, ← hl]
  · rw [← hpick, hl, KV.put_split hlow]

theorem updCrew_found {r : Run s0} {c : Nat} (hcr : KV.find? c r.s.crews = some cr) (g : Crew → Crew) :
    (r.updCrew c g).s = { r.s with crews := KV.put c (g cr) r.s.crews } := by
  simp only [Run.updCrew, Run.mod, State.keep, KV.update, hcr]

/-- A chosen crew of one fibre, in no hint group and with no flag outstanding, goes. -/
theorem goChosen_one {r : Run s0} (hevict : cr.evict = true) (hhints : cr.hints = none) (hfids : cr.fids = [f.fid])
    (hf : KV.find? (fkey cr.gang f.fid) r.s.fibres = some f) (hflags : f.flags = []) :
    r.goChosen (n, cr) = r.leaveCrew (fkey cr.gang f.fid) := by
  have hidle : (List.range 16).any f.holds = false := List.any_eq_false.2 fun i _ => by simp [holds_of_no_flags hflags]
  simp only [Run.goChosen, hevict, hhints, hfids, List.map_cons, List.map_nil, List.any_cons, List.any_nil,
    fibre_of_find? hf, hidle, Bool.not_true, Option.isSome_none, Bool.or_self, Bool.false_eq_true, if_false, Run.each,
    List.foldl_cons, List.foldl_nil, noted_of_no_flags hflags, observe_nothing hf hflags]

/-- Where one crew of the site is chosen, what becomes of it becomes of all. -/
theorem finishEvict_one {r : Run s0} {a b : List (Nat × Crew)} (hcrews : r.s.crewsOf site = a ++ (n, cr) :: b)
    (hothers : ∀ x ∈ a ++ b, x.2.evict = false) : r.finishEvict site = r.goChosen (n, cr) := by
  rw [List.forall_mem_append] at hothers
  rw [finishEvict_eq, hcrews, each_append, each_still fun x hx => goChosen_unchosen r (hothers.1 x hx)]
  exact each_still (r := r.goChosen (n, cr)) fun x hx => goChosen_unchosen _ (hothers.2 x hx)

/-- A crew of a site may be chosen to go: nothing holds it, it did not form at a CREWJOIN, and no member is overdue or
in a walk. -/
def State.mayGo (s : State) (site : Nat) (c : Nat × Crew) : Bool :=
  !s.crewHeld c.2 && !c.2.fromJoin && !(c.2.fids.map fun i => s.fibre (fkey c.2.gang i)).any fun y =>
    y.overdue (s.runnable site).length || y.walking

/-- A flag of the fibre is outstanding. -/
def Fibre.awaits (f : Fibre) : Bool := (List.range 16).any f.holds

/-- A crew of one fibre that has been chosen to go. -/
def Crew.chosen (f : Fibre) (c : Crew) : Crew := { c with evict := true, stall := if f.awaits then 6 else 0 }

/-- An overdue fibre waits at a site without a free slot, where one crew alone, of the fibre `f`, may go. -/
structure State.Evicts (s : State) (site n : Nat) (cr : Crew) (f : Fibre) : Prop where
  full : s.freeSlot site = none
  due : s.overdueWaits site = true
  unchosen : s.NoEvict site
  can : (s.crewsOf site).filter (s.mayGo site) = [(n, cr)]
  fids : cr.fids = [f.fid]
  listed : KV.find? (fkey cr.gang f.fid) s.fibres = some f
  stands : f.site = site
  seated : f.slot = some n
  crew : KV.find? (ckey site n) s.crews = some cr

/-- The one crew that may go is chosen. -/
theorem evictCrew_chosen {r : Run s0} (E : r.s.Evicts site n cr f) :
    r.evictCrew site = (r.updCrew (ckey site n) (Crew.chosen f)).finishEvict site := by
  have hcan := E.can
  unfold State.mayGo at hcan
  unfold Run.evictCrew
  rw [if_neg (by simp [E.full, E.due, noEvict_iff.1 E.unchosen])]
  simp only [hcan, List.foldl_cons, List.foldl_nil, E.fids, List.map_cons, List.map_nil, fibre_of_find? E.listed,
    List.any_cons, List.any_nil, Bool.or_false]
  rfl

/-- CREW_EVICT chooses the one crew that may go, and what becomes of it then becomes of all. -/
theorem State.Evicts.chosen (E : s.Evicts site n cr f) : ∃ q : Run s,
    q.s = { s with crews := KV.put (ckey site n) (cr.chosen f) s.crews } ∧
    q.finishEvict site = q.goChosen (n, cr.chosen f) ∧
    exec (.crewEvict site) s = .next ((q.finishEvict site).finishEvict site).s := by
  have hn : n < 256 := (mem_crewsOf.1 (List.mem_of_mem_filter (E.can ▸ List.mem_singleton_self (n, cr)))).1
  obtain ⟨a, b, hsplit, hput⟩ := exists_crewsOf_split E.crew hn
  have hothers : ∀ x ∈ a ++ b, x.2.evict = false := fun x hx => E.unchosen x (by
    rw [hsplit]
    simp only [List.mem_append, List.mem_cons] at hx ⊢
    tauto)
  have hupd := updCrew_found (r := Run.start s) E.crew (Crew.chosen f)
  refine ⟨_, hupd, finishEvict_one ?_ hothers, ?_⟩
  · rw [hupd]
    exact hput _
  · rw [← evictCrew_chosen (r := Run.start s) E]
    rfl

/-- It goes at once where it is in no hint group and its fibre has no flag. -/
theorem State.Evicts.goes (E : s.Evicts site n cr f) (hhints : cr.hints = none) (hflags : f.flags = []) :
    exec (.crewEvict site) s = .next { s with
      crews := KV.del (ckey site n) s.crews
      fibres := KV.put (fkey cr.gang f.fid) { f with slot := none, wbuf := [] } s.fibres
      ops := s.ops.filter fun o =>
        !(decide (o.2.fibre = fkey cr.gang f.fid) && decide (o.2.kind = .wread 0)) } := by
  obtain ⟨q, hq, hgo, hexec⟩ := E.chosen
  have hf : KV.find? (fkey cr.gang f.fid) q.s.fibres = some f := by rw [hq]; exact E.listed
  have hcr : KV.find? (ckey site n) q.s.crews = some (cr.chosen f) := by rw [hq]; exact KV.find?_put_self _ _ _
  have hleaves : q.finishEvict site = q.leaveCrew (fkey cr.gang f.fid) :=
    hgo.trans (goChosen_one (cr := cr.chosen f) rfl hhints E.fids hf hflags)
  have hleft := leaveCrew_one hf E.stands E.seated hcr E.fids hhints
  rw [← hleaves, hq] at hleft
  simp only [KV.del_put] at hleft
  have hrest : (q.finishEvict site).s.NoEvict site := fun x hx => by
    rw [hleft] at hx
    obtain ⟨hlt, hmem⟩ := mem_crewsOf.1 hx
    exact E.unchosen x (mem_crewsOf.2 ⟨hlt, KV.mem_del hmem⟩)
  rw [hexec, finishEvict_none hrest, hleft]

/-- It waits, chosen, where it is within a hint group or its fibre has a flag outstanding. -/
theorem State.Evicts.waits (E : s.Evicts site n cr f) (h : cr.hints.isSome = true ∨ f.awaits = true) :
    exec (.crewEvict site) s = .next { s with crews := KV.put (ckey site n) (cr.chosen f) s.crews } := by
  obtain ⟨q, hq, hgo, hexec⟩ := E.chosen
  have hstays : q.goChosen (n, cr.chosen f) = q := by
    obtain hhints | hflags := h
    · exact goChosen_hints q hhints
    · have hf : q.s.fibre (fkey cr.gang f.fid) = f := by rw [hq]; exact fibre_of_find? E.listed
      refine goChosen_flags (i := f.fid) (E.fids ▸ List.mem_singleton_self _) ?_
      rw [show fkey (n, cr.chosen f).2.gang f.fid = fkey cr.gang f.fid from rfl, hf]
      exact hflags
  rw [hexec, hgo, hstays, hgo, hstays, hq]

end Sys2Proof.Machine
end

section
/-! Shipping to a sculler and back to the home core, and arriving at a sculler (R63, R64). -/

namespace Sys2Proof.Machine
variable {s0 s : State} {k dest : Nat} {f : Fibre}

/-- A fibre whose operations are done, with no flag to observe, that is still to leave for `dest`. -/
structure State.ShipsNow (s : State) (k : Nat) (f : Fibre) (dest : Nat) : Prop where
  listed : KV.find? k s.fibres = some f
  ships : f.ship = some ⟨dest, none⟩
  settled : s.settled k = true
  halt : f.halt = none
  park : f.park = none
  flags : f.flags = []
  issues : s.issues f.site (s.gang f.gang) = true

theorem acquire_fibres (r : Run s0) (site : Nat) : (r.acquire site).s.fibres = r.s.fibres := by
  unfold Run.acquire
  split <;> rfl

theorem acquire_sites (r : Run s0) (site : Nat) : (r.acquire site).s.sites = r.s.sites := by
  unfold Run.acquire
  split <;> rfl

theorem acquire_nextId (r : Run s0) (site : Nat) : (r.acquire site).s.nextId = r.s.nextId := by
  unfold Run.acquire
  split <;> rfl

/-- SITE_SHIP to a sculler whose queue has room. -/
theorem siteShip_out (S : s.ShipsNow k f dest) (hdest : isSculler dest = true)
    (hroom : (s.site dest).arrivals.length < 64) :
    exec (.siteShip k) s = .next { ((Run.start s).acquire f.site).s with
      nextId := s.nextId + 1
      sites := KV.put dest { s.site dest with arrivals := (s.site dest).arrivals ++ [k] } s.sites
      fibres := (KV.put k { f with
        ship := some ⟨dest, some s.nextId⟩
        snap := some ⟨f.win, f.pc, f.preds, f.age, f.fpf, f.count, f.pend⟩ } s.fibres) } := by
  refine congrArg Host.Outcome.next (?_ : ((Run.start s).ship k).s = _)
  have hf : KV.find? k ((((Run.start s).acquire f.site).bump.updSite dest fun x => { x with
      arrivals := x.arrivals ++ [k] }).s.fibres) = some f :=
    (congrArg (KV.find? k) (acquire_fibres (Run.start s) f.site)).trans S.listed
  simp only [Run.ship, Run.start_s, fibre_of_find? S.listed, S.ships, S.settled, S.halt, S.park, S.issues,
    noted_of_no_flags S.flags, hdest, observe_nothing (r := Run.start s) S.listed S.flags, Bool.not_true,
    Bool.false_eq_true, Option.isSome_none, or_self, if_false, if_true, Nat.not_le.2 hroom, updFibre_found hf,
    acquire_nextId]
  simp only [Run.setFibre, Run.updSite, Run.bump, Run.mod, State.keep, State.site, acquire_fibres, acquire_sites,
    acquire_nextId, Run.start_s]

/-- The stay of a fibre on a sculler ends, and nothing else (R61, R70, R268). -/
theorem endStay_found {r : Run s0} (hf : KV.find? k r.s.fibres = some f) : ∃ sites, (r.endStay k).s = { r.s with
    sites := sites
    fibres := KV.put k { f with iter := if isSculler f.site then none else f.iter } r.s.fibres } := by
  simp only [Run.endStay, fibre_of_find? hf]
  cases isSculler f.site
  · exact ⟨r.s.sites, (congrArg Run.s (setFibre_found hf)).symm⟩
  · rw [updFibre_found hf]
    exact ⟨_, rfl⟩

/-- SITE_SHIP back to the home core. -/
theorem siteShip_home (S : s.ShipsNow k f dest) (hdest : isSculler dest = false) :
    ∃ sites, exec (.siteShip k) s = .next { ((Run.start s).acquire dest).s with
      sites := sites
      fibres := (KV.put k { f with
        site := dest, ship := none, snap := none
        iter := if isSculler f.site then none else f.iter } s.fibres) } := by
  obtain ⟨sites, hstay⟩ := endStay_found (r := Run.start s) S.listed
  have hf : KV.find? k ((Run.start s).endStay k).s.fibres =
      some { f with iter := if isSculler f.site then none else f.iter } := by
    rw [hstay]
    exact KV.find?_put_self _ _ _
  refine ⟨sites, congrArg Host.Outcome.next (?_ : ((Run.start s).ship k).s = _)⟩
  simp only [Run.ship, Run.start_s, fibre_of_find? S.listed, S.ships, S.settled, S.halt, S.park, S.issues,
    noted_of_no_flags S.flags, hdest, observe_nothing (r := Run.start s) S.listed S.flags, Bool.not_true,
    Bool.false_eq_true, Option.isSome_none, or_self, if_false, updFibre_found hf]
  unfold Run.acquire
  split_ifs <;> simp only [Run.mod, State.keep, Run.setFibre, hstay, Run.start_s, KV.put_put]

theorem room_of_empty {site lane window : Nat} (hwindow : window ≤ 2048)
    (hempty : s.fibres.all (fun y => decide (y.2.site ≠ site)) = true) : s.laneRoom site lane window = true := by
  have hnone : (s.fibres.filter fun y => decide (y.2.site = site)) = [] :=
    List.filter_eq_nil_iff.2 fun y hy => by simpa using List.all_eq_true.1 hempty y hy
  simp [State.laneRoom, hnone, hwindow]

/-- SCULLER_ARRIVAL at a sculler where no fibre stands. -/
theorem arrival_law {n : Nat} {rest : List Nat} {slot : Nat} {fresh : Bool} (hI : s.Inv) (hn : n < 384)
    (hqueue : (s.site (192 + n)).arrivals = k :: rest) (hf : KV.find? k s.fibres = some f)
    (hslot : (s.site (192 + n)).localSlot f.gang = some (slot, fresh)) (hhalt : f.halt = none)
    (hwindow : (s.gang f.gang).window ≤ 2048)
    (hempty : s.fibres.all (fun y => decide (y.2.site ≠ 192 + n)) = true) :
    ∃ t, exec (.scullerArrival n) s = .next t ∧ t.mem = s.mem ∧
      t.fibres = KV.put k { f with site := 192 + n, ship := none } s.fibres ∧
      t.sites = KV.put (192 + n) { s.site (192 + n) with
        arrivals := rest
        lslots := if fresh then (s.site (192 + n)).lslots ++ [(slot, f.gang)]
          else (s.site (192 + n)).lslots } s.sites ∧
      (fresh = true → ∀ i < 16384, Memory.read t.scr ((192 + n) * 2 ^ 20 + slot * 16384 + i) = 0) ∧
      (fresh = false → t.scr = s.scr) := by
  have hexec : exec (.scullerArrival n) s = .next ((Run.start s).arrive (192 + n)).s := by
    rw [← Run.out_eq]
    exact congrArg Run.out (if_pos hn)
  have hruns : f.halt.isSome = false := by rw [hhalt]; rfl
  refine ⟨_, hexec, ?_⟩
  simp only [Run.arrive, Run.start_s, hqueue, fibre_of_find? hf, hslot, room_of_empty hwindow hempty, hruns,
    Bool.not_true, Bool.false_eq_true, or_self, if_false]
  cases fresh with
  | true =>
    simp only [if_true]
    rw [updFibre_found (y := f) hf]
    refine ⟨rfl, rfl, rfl, fun _ i hi => ?_, fun h => absurd h (by decide)⟩
    refine (Memory.read_zero hI.scr _ _ _).trans (if_pos ⟨Nat.le_add_right _ _, by omega⟩)
  | false =>
    simp only [Bool.false_eq_true, if_false]
    rw [updFibre_found (y := f) hf]
    exact ⟨rfl, rfl, rfl, fun h => absurd h (by decide), fun _ => rfl⟩

end Sys2Proof.Machine
end

section
/-! What the former leaves alone: memory, the agenda, and the clk and issue slots of every site; and the scratchpads,
where no fibre has a line region to abort. -/

namespace Sys2Proof.Machine
variable {s0 s t u : State}

/-- What the former never changes: memory, the turns to come, and of every site its clk and its issue slots. -/
def State.clocked (s : State) : List Host.Cell × List Turn × (Nat → DWord × Nat) :=
  (s.mem, s.agenda, fun n => ((s.site n).clk, (s.site n).budget))

/-- No fibre is in a line region. -/
def State.NoRegion (s : State) : Prop := ∀ x ∈ s.fibres, x.2.region = none

/-- What the former leaves alone, where it makes `t` of `s`. -/
structure State.FormerKeeps (s t : State) : Prop where
  clocked : t.clocked = s.clocked
  noRegion : s.NoRegion → t.NoRegion
  scr : s.NoRegion → t.scr = s.scr

theorem State.FormerKeeps.refl (s : State) : s.FormerKeeps s := ⟨rfl, id, fun _ => rfl⟩

theorem State.FormerKeeps.trans (h : s.FormerKeeps t) (h' : t.FormerKeeps u) : s.FormerKeeps u :=
  ⟨h'.clocked.trans h.clocked, fun hs => h'.noRegion (h.noRegion hs), fun hs =>
    (h'.scr (h.noRegion hs)).trans (h.scr hs)⟩

theorem State.FormerKeeps.mem (h : s.FormerKeeps t) : t.mem = s.mem := congrArg Prod.fst h.clocked

theorem State.FormerKeeps.agenda (h : s.FormerKeeps t) : t.agenda = s.agenda := congrArg (fun x => x.2.1) h.clocked

theorem State.FormerKeeps.clk (h : s.FormerKeeps t) (n : Nat) : (t.site n).clk = (s.site n).clk :=
  congrArg (fun x => (x.2.2 n).1) h.clocked

theorem State.FormerKeeps.budget (h : s.FormerKeeps t) (n : Nat) : (t.site n).budget = (s.site n).budget :=
  congrArg (fun x => (x.2.2 n).2) h.clocked

/-- Fibres and scratchpads stay as they are. -/
theorem State.FormerKeeps.of_eq (hc : t.clocked = s.clocked) (hf : t.fibres = s.fibres) (hscr : t.scr = s.scr) :
    s.FormerKeeps t :=
  ⟨hc, fun h => by rwa [State.NoRegion, hf], fun _ => hscr⟩

theorem each_formerKeeps {α : Type} {f : Run s0 → α → Run s0} (hf : ∀ (q : Run s0) x, q.s.FormerKeeps (f q x).s)
    (r : Run s0) (l : List α) : r.s.FormerKeeps (r.each l f).s :=
  each_inv (fun q => r.s.FormerKeeps q.s) f l r (.refl _) fun q x h => h.trans (hf q x)

/-! ### Fibres, sites and dies -/

theorem mod_formerKeeps (r : Run s0) {f : State → State} (hagenda : (f r.s).agenda = r.s.agenda)
    (hsites : (f r.s).sites = r.s.sites) : r.s.FormerKeeps (r.mod f).s :=
  .of_eq (by simp only [State.clocked, State.site, Run.mod_mem, Run.mod_agenda, Run.mod_sites, hagenda, hsites]) rfl rfl

theorem updFibre_clocked (r : Run s0) (k : Nat) (f : Fibre → Fibre) : (r.updFibre k f).s.clocked = r.s.clocked := by
  simp [State.clocked, State.site]

theorem updFibre_formerKeeps (r : Run s0) (k : Nat) {f : Fibre → Fibre}
    (hf : ∀ y, y.region = none → (f y).region = none) : r.s.FormerKeeps (r.updFibre k f).s := by
  refine ⟨updFibre_clocked r k f, fun h x hx => ?_, fun _ => Run.updFibre_scr r k f⟩
  cases hk : KV.find? k r.s.fibres with
  | none => exact h x (by rwa [Run.updFibre, hk] at hx)
  | some y =>
    rw [Run.updFibre_fibres r k f hk] at hx
    obtain rfl | hx := KV.mem_put hx
    · exact hf y (h _ (KV.mem_of_find? hk))
    · exact h x hx

theorem updSite_formerKeeps (r : Run s0) (k : Nat) {f : Site → Site} (hclk : ∀ x, (f x).clk = x.clk)
    (hbudget : ∀ x, (f x).budget = x.budget) : r.s.FormerKeeps (r.updSite k f).s := by
  refine .of_eq ?_ rfl rfl
  have hsite (n : Nat) : (((r.updSite k f).s.site n).clk, ((r.updSite k f).s.site n).budget) =
      ((r.s.site n).clk, (r.s.site n).budget) := by
    rw [show (r.updSite k f).s.site n = if n = k then f (r.s.site k) else r.s.site n from State.site_put r.s k n _]
    split_ifs with h
    · rw [hclk, hbudget, h]
    · rfl
  exact congrArg (fun g => (r.s.mem, r.s.agenda, g)) (funext hsite)

theorem updCrew_formerKeeps (r : Run s0) (k : Nat) (f : Crew → Crew) : r.s.FormerKeeps (r.updCrew k f).s :=
  .of_eq rfl rfl rfl

theorem updDie_formerKeeps (r : Run s0) (k : Nat) (f : Die → Die) : r.s.FormerKeeps (r.updDie k f).s :=
  .of_eq rfl rfl rfl

theorem acquire_formerKeeps (r : Run s0) (site : Nat) : r.s.FormerKeeps (r.acquire site).s := by
  unfold Run.acquire
  split
  · exact .of_eq rfl rfl rfl
  · exact .refl _

theorem event_formerKeeps (r : Run s0) : r.s.FormerKeeps r.event.s := by
  unfold Run.event
  split_ifs
  · exact .refl _
  · exact .of_eq rfl rfl rfl

/-! ### Leaving a crew, and the abort of a line region -/

theorem leaveCrew_formerKeeps (r : Run s0) (k : Nat) : r.s.FormerKeeps (r.leaveCrew k).s := by
  unfold Run.leaveCrew
  dsimp only
  split
  · exact .refl _
  · split
    · exact updFibre_formerKeeps r k fun _ h => h
    · refine .trans ?_ (mod_formerKeeps _ rfl rfl)
      exact updFibre_formerKeeps r k fun _ h => h

theorem putScrWord_clocked (r : Run s0) (k : Nat) (w : PW) : (r.putScrWord k w).s.clocked = r.s.clocked := by
  refine (mod_formerKeeps _ rfl rfl).clocked.trans (Run.each_const State.clocked ?_ r _)
  exact fun _ _ => rfl

theorem push_clocked (r : Run s0) (gang q : Nat) (e : List PW) : (r.push gang q e).s.clocked = r.s.clocked := by
  unfold Run.push
  dsimp only
  split
  · rfl
  · split
    · rfl
    · exact Run.each_const State.clocked (fun q i => putScrWord_clocked q _ _) r _

theorem pushRoom_clocked (r : Run s0) (gang reg : Nat) (w : PW) : (r.pushRoom gang reg w).s.clocked = r.s.clocked := by
  unfold Run.pushRoom
  split
  · exact push_clocked r _ _ _
  · rfl

theorem unreserve_clocked (r : Run s0) (gang reg : Nat) : (r.unreserve gang reg).s.clocked = r.s.clocked := by
  unfold Run.unreserve
  split <;> rfl

theorem freeLine_clocked (r : Run s0) (line : Nat) : (r.freeLine line).s.clocked = r.s.clocked := rfl

theorem abortRegion_clocked (r : Run s0) (k reason : Nat) : (r.abortRegion k reason).s.clocked = r.s.clocked := by
  unfold Run.abortRegion
  split
  next => rfl
  next g hg =>
    by_cases hend : g.ending = true
    · rw [if_pos hend]
    · rw [if_neg hend]
      extract_lets dead gone flags r1 r2 r3 r4
      have h1 : r1.s.clocked = r.s.clocked := Run.each_const State.clocked (fun q o => unreserve_clocked q _ _) r gone
      have h2 : r2.s.clocked = r1.s.clocked := by
        simp only [r2]
        split
        · rfl
        · exact unreserve_clocked r1 _ _
      have h3 : r3.s.clocked = r2.s.clocked := pushRoom_clocked r2 _ _ _
      have h4 : r4.s.clocked = r3.s.clocked := rfl
      exact (updFibre_clocked r4 k _).trans (h4.trans (h3.trans (h2.trans h1)))

/-- A fibre that has no line region has none to abort. -/
theorem abortRegion_formerKeeps (r : Run s0) (k reason : Nat) : r.s.FormerKeeps (r.abortRegion k reason).s := by
  have hnone (h : r.s.NoRegion) : r.abortRegion k reason = r := by
    refine abortRegion_none ?_ reason
    unfold State.fibre KV.getD
    cases hk : KV.find? k r.s.fibres with
    | none => rfl
    | some y => exact h _ (KV.mem_of_find? hk)
  exact ⟨abortRegion_clocked r k reason, fun h => by rwa [hnone h], fun h => by rw [hnone h]⟩

/-! ### Taking a trap -/

theorem enterTrap_formerKeeps (r : Run s0) (x : Fail) (t : TrapRec) (d : Disp) :
    r.s.FormerKeeps (r.enterTrap x t d).s := by
  have haborted : r.s.FormerKeeps ((r.leaveCrew x.key).abortRegion x.key 2).s :=
    (leaveCrew_formerKeeps r x.key).trans (abortRegion_formerKeeps _ x.key 2)
  unfold Run.enterTrap
  refine .trans haborted ?_
  cases d with
  | handler => exact updFibre_formerKeeps _ x.key fun _ h => h
  | park => exact updFibre_formerKeeps _ x.key fun _ h => h
  | supervisor =>
    dsimp only
    split
    · exact .refl _
    · exact updFibre_formerKeeps _ x.key fun _ h => h

theorem logErr_formerKeeps (r : Run s0) (die kind unit loc addr : Nat) (synd : DWord) :
    r.s.FormerKeeps (r.logErr die kind unit loc addr synd).s := updDie_formerKeeps r die _

theorem takeTraps_formerKeeps (r : Run s0) (g : Gang) (fs : List (Fail × TrapRec)) :
    r.s.FormerKeeps (r.takeTraps g fs).s := by
  unfold Run.takeTraps
  extract_lets disp r1
  have h1 : r.s.FormerKeeps r1.s := each_formerKeeps (fun q x => enterTrap_formerKeeps q x.1 x.2 _) r fs
  split
  · exact h1
  · extract_lets site kept
    split
    · refine .trans (.trans ?_ (logErr_formerKeeps _ _ _ _ _ _ _)) (event_formerKeeps _)
      exact h1.trans (updDie_formerKeeps r1 _ _)
    · exact h1.trans (updDie_formerKeeps r1 _ _)

theorem raiseClass_formerKeeps (r : Run s0) (fs : List Fail) : r.s.FormerKeeps (r.raiseClass fs).s := by
  unfold Run.raiseClass
  split
  · exact .refl _
  · refine .trans (each_formerKeeps (fun q x => ?_) r _) (takeTraps_formerKeeps _ _ _)
    exact updFibre_formerKeeps q x.key fun _ h => h

theorem raise_formerKeeps (r : Run s0) (fs : List Fail) : r.s.FormerKeeps (r.raise fs).s := by
  unfold Run.raise
  refine each_formerKeeps (fun q c => ?_) r allCls
  exact each_formerKeeps (fun q' _ => raiseClass_formerKeeps q' _) q _

theorem Fibre.observe_region (f : Fibre) (n : Nat) : (f.observe n).region = f.region := by
  unfold Fibre.observe Fibre.setPred Fibre.mature
  dsimp only
  split <;> [split_ifs; skip] <;> rfl

theorem notedFault_formerKeeps (r : Run s0) (k n : Nat) (x : Note) : r.s.FormerKeeps (r.notedFault k n x).s := by
  refine .trans (updFibre_formerKeeps r k fun f hf => ?_) (raise_formerKeeps _ _)
  split_ifs
  · exact hf
  · rw [Fibre.observe_region, hf]

/-! ### Crews that go, and crews that form -/

theorem observeAll_formerKeeps (r : Run s0) (k : Nat) : r.s.FormerKeeps (r.observeAll k).s := by
  have hupd := updFibre_formerKeeps r k
    (f := fun f => (f.flags.map Prod.fst).foldl (fun f n => f.observe n) f) fun f hf => List.foldlRecOn
      (motive := fun y : Fibre => y.region = none) _ _ hf fun y hy n _ => by rw [Fibre.observe_region, hy]
  unfold Run.observeAll
  dsimp only
  split
  · exact hupd.trans (acquire_formerKeeps _ _)
  · exact hupd

theorem goChosen_formerKeeps (r : Run s0) (c : Nat × Crew) : r.s.FormerKeeps (r.goChosen c).s := by
  unfold Run.goChosen
  dsimp only
  split
  · exact .refl _
  · refine each_formerKeeps (fun q k => ?_) r _
    split
    · exact notedFault_formerKeeps q _ _ _
    · exact (observeAll_formerKeeps q k).trans (leaveCrew_formerKeeps _ k)

theorem finishEvict_formerKeeps (r : Run s0) (site : Nat) : r.s.FormerKeeps (r.finishEvict site).s :=
  each_formerKeeps goChosen_formerKeeps r _

theorem evictCrew_formerKeeps (r : Run s0) (site : Nat) : r.s.FormerKeeps (r.evictCrew site).s := by
  unfold Run.evictCrew
  dsimp only
  split
  · exact .refl _
  · split
    · exact .refl _
    · exact (updCrew_formerKeeps r _ _).trans (finishEvict_formerKeeps _ site)

theorem Fibre.placePairs_region (f : Fibre) : f.placePairs.region = f.region :=
  List.foldlRecOn (motive := fun y : Fibre => y.region = f.region) _ _ rfl fun y hy p _ => by
    simp only [Fibre.writeNow_region, hy]

theorem seat_formerKeeps (r : Run s0) (site slot : Nat) (c : Crew) : r.s.FormerKeeps (r.seat site slot c).s := by
  refine .trans (mod_formerKeeps r (f := fun s => { s with crews := KV.put (ckey site slot) c s.crews }) rfl rfl)
    (each_formerKeeps (fun q fid => ?_) _ _)
  refine .trans (updFibre_formerKeeps q _ fun f hf => ?_) (updSite_formerKeeps _ site (fun _ => rfl) fun _ => rfl)
  dsimp only
  split
  · rw [Fibre.placePairs_region, hf]
  · exact hf

theorem haltFibre_formerKeeps (r : Run s0) (k : Nat) (h : Halt) : r.s.FormerKeeps (r.haltFibre k h).s :=
  ((leaveCrew_formerKeeps r k).trans (abortRegion_formerKeeps _ k 2)).trans (updFibre_formerKeeps _ k fun _ h => h)

theorem lookFull_formerKeeps (r : Run s0) (k : Nat) : r.s.FormerKeeps (r.lookFull k).s := by
  have hupd := updFibre_formerKeeps r k (f := fun f => f.observe 15) fun f hf => by rw [Fibre.observe_region, hf]
  unfold Run.lookFull
  dsimp only
  split
  · exact hupd.trans (acquire_formerKeeps _ _)
  · exact hupd

theorem stopStep_formerKeeps (r : Run s0) (k : Nat) : r.s.FormerKeeps (r.stopStep k).s := by
  unfold Run.stopStep
  dsimp only
  split
  · split
    · exact .refl _
    · exact haltFibre_formerKeeps r k _
  · split
    · exact (lookFull_formerKeeps r k).trans (haltFibre_formerKeeps _ k _)
    · exact .refl _

theorem endJoin_formerKeeps (r : Run s0) (k : Nat) : r.s.FormerKeeps (r.endJoin k).s :=
  updFibre_formerKeeps r k fun _ h => h

theorem formCrew_formerKeeps (r : Run s0) (site : Nat) : r.s.FormerKeeps (r.formCrew site).s := by
  unfold Run.formCrew
  split
  · exact .refl _
  · extract_lets rn entries can rank best
    rcases best with _ | ⟨_, _ | ⟨x, xs⟩⟩
    case some.cons =>
      dsimp -zeta only
      extract_lets fids join keys c r1
      have h1 : r.s.FormerKeeps r1.s := by
        refine .trans (.trans ?_ (seat_formerKeeps _ site _ c)) (updSite_formerKeeps _ site (fun _ => rfl) fun _ => rfl)
        split
        · exact each_formerKeeps endJoin_formerKeeps r keys
        · exact .refl _
      split
      · exact h1.trans (each_formerKeeps stopStep_formerKeeps r1 keys)
      · exact h1
    all_goals exact .refl _

theorem former_formerKeeps (r : Run s0) (site : Nat) : r.s.FormerKeeps (r.former site).s := by
  unfold Run.former
  dsimp only
  have hgone := finishEvict_formerKeeps r site
  split
  · have hformed := (hgone.trans (formCrew_formerKeeps _ site)).trans (formCrew_formerKeeps _ site)
    exact hformed.trans (evictCrew_formerKeeps _ site)
  · exact hgone

end Sys2Proof.Machine
end

section
/-! A clk of a site as ages, sleeps and tokens go: no fibre comes to the boathouse or leaves it (R153, R163, R207,
R294). -/

namespace Sys2Proof.Machine
variable {s0 s t u : State} {site : Nat}

/-- A wait, whatever a sleep has left. -/
def Wait.still (w : Wait) : Wait := match w.kind with
  | .sleep _ => { w with kind := .sleep 0 }
  | _ => w

/-- A fibre, whatever its age and what a sleep of it has left. -/
def Fibre.still (f : Fibre) : Fibre := { f with age := 0, wait := f.wait.map Wait.still }

/-- The fibres, whatever their ages and what their sleeps have left. -/
def State.stills (s : State) : List (Nat × Fibre) := s.fibres.map (Prod.map id Fibre.still)

/-- From `s` to `t` fibres age, sleeps run down and tokens pass, and no more changes of what the former looks at. -/
structure State.OnlyAges (s t : State) : Prop where
  stills : t.stills = s.stills
  crews : t.crews = s.crews
  ops : t.ops = s.ops
  gangs : t.gangs = s.gangs
  issues : t.issues = s.issues

theorem State.OnlyAges.refl (s : State) : s.OnlyAges s := ⟨rfl, rfl, rfl, rfl, rfl⟩

theorem State.OnlyAges.trans (h : s.OnlyAges t) (h' : t.OnlyAges u) : s.OnlyAges u :=
  ⟨h'.stills.trans h.stills, h'.crews.trans h.crews, h'.ops.trans h.ops, h'.gangs.trans h.gangs,
    h'.issues.trans h.issues⟩

/-! ### The boathouse -/

theorem find?_stills (s : State) (k : Nat) : KV.find? k s.stills = (KV.find? k s.fibres).map Fibre.still :=
  KV.find?_map Fibre.still

theorem State.OnlyAges.fibre (h : s.OnlyAges t) (k : Nat) : (t.fibre k).still = (s.fibre k).still := by
  have hfind := (find?_stills t k).symm.trans (h.stills ▸ find?_stills s k)
  unfold State.fibre KV.getD
  cases hs : KV.find? k s.fibres <;> cases ht : KV.find? k t.fibres <;> simp_all

theorem State.OnlyAges.gang (h : s.OnlyAges t) (k : Nat) : t.gang k = s.gang k := by
  rw [State.gang, State.gang, h.gangs]

theorem State.OnlyAges.keys (h : s.OnlyAges t) : t.fibres.map Prod.fst = s.fibres.map Prod.fst := by
  simpa [State.stills, Function.comp_def] using congrArg (List.map Prod.fst) h.stills

theorem gangFibres_keys (s : State) (gk : Nat) : s.gangFibres gk = (s.fibres.map Prod.fst).filter fun k =>
    decide (gk * 1024 ≤ k) && decide (k < gk * 1024 + 1024) := by
  rw [State.gangFibres, KV.range, List.filter_map]
  rfl

theorem State.OnlyAges.canonical (h : s.OnlyAges t) (gk l c : Nat) : t.canonical gk l c = s.canonical gk l c := by
  rw [State.canonical, State.canonical, gangFibres_keys, gangFibres_keys, h.keys]

/-- Where a fibre of a site waits for a CREWJOIN. -/
def Fibre.joinAt (f : Fibre) (site : Nat) : Option VAddr :=
  if f.site = site ∧ f.halt = none ∧ f.park = none then
    match f.wait with
    | some ⟨.join pc, _⟩ => some pc
    | _ => none
  else none

theorem joinAt_still (f : Fibre) (site : Nat) : f.still.joinAt site = f.joinAt site := by
  unfold Fibre.joinAt Fibre.still
  rcases f.wait with _ | ⟨kind, next⟩
  · rfl
  · cases kind <;> rfl

theorem formable_still (f : Fibre) : f.still.formable = f.formable := by
  unfold Fibre.formable Fibre.still
  cases f.wait <;> rfl

/-- The CREWJOINs at which a fibre of a site waits: its gang, its canonical crew, and the word. -/
def State.joinsFound (s : State) (site : Nat) : List (Nat × Nat × VAddr) :=
  s.fibres.filterMap fun f => ((s.fibre f.1).joinAt site).map fun pc => (f.2.gang, f.2.fid / lanesOf site, pc)

theorem joinable_eq (s : State) (site : Nat) : s.joinable site =
    ((s.joinsFound site).foldl (fun a x => if a.contains x then a else a ++ [x]) []).filterMap fun x =>
      if s.issues site (s.gang x.1) && (s.canonical x.1 (lanesOf site) x.2.1).all fun k =>
        decide ((s.fibre k).joinAt site = some x.2.2) then some (s.canonical x.1 (lanesOf site) x.2.1) else none := rfl

theorem State.OnlyAges.joinAt (h : s.OnlyAges t) (site k : Nat) :
    (t.fibre k).joinAt site = (s.fibre k).joinAt site := by
  rw [← joinAt_still, h.fibre, joinAt_still]

theorem State.OnlyAges.joinsFound (h : s.OnlyAges t) (site : Nat) : t.joinsFound site = s.joinsFound site := by
  have hstills (u : State) : u.joinsFound site = u.stills.filterMap fun f =>
      ((u.fibre f.1).joinAt site).map fun pc => (f.2.gang, f.2.fid / lanesOf site, pc) := by
    rw [State.stills, List.filterMap_map]
    rfl
  rw [hstills, hstills, h.stills]
  simp only [h.joinAt]

theorem State.OnlyAges.joinable (h : s.OnlyAges t) (site : Nat) : t.joinable site = s.joinable site := by
  simp only [joinable_eq, h.joinsFound, h.issues, h.gang, h.canonical, h.joinAt]

/-- Ageing leaves the same fibres in the boathouse. -/
theorem State.OnlyAges.boathouse (h : s.OnlyAges t) (site : Nat) :
    (t.boathouse site).map (Prod.map id Fibre.still) = (s.boathouse site).map (Prod.map id Fibre.still) := by
  have hstills (u : State) : (u.boathouse site).map (Prod.map id Fibre.still) = u.stills.filter fun f =>
      decide (f.2.site = site) && (f.2.formable || (u.joinable site).flatten.contains f.1) &&
        (u.gang f.2.gang).started && u.issues site (u.gang f.2.gang) := by
    rw [State.boathouse, State.stills, List.filter_map]
    simp only [Function.comp_def, Prod.map, id, formable_still]
    rfl
  rw [hstills, hstills, h.stills]
  simp only [h.joinable, h.gang, h.issues]

theorem State.OnlyAges.boathouse_empty (h : s.OnlyAges t) (hs : s.boathouse site = []) : t.boathouse site = [] := by
  have hmap := h.boathouse site
  rw [hs, List.map_nil] at hmap
  exact List.map_eq_nil_iff.1 hmap

theorem State.OnlyAges.crewsOf (h : s.OnlyAges t) (site : Nat) : t.crewsOf site = s.crewsOf site := by
  rw [State.crewsOf, State.crewsOf, h.crews]

/-! ### What ages -/

theorem updFibre_onlyAges {r : Run s0} {k : Nat} {f : Fibre → Fibre}
    (hf : ∀ y, KV.find? k r.s.fibres = some y → (f y).still = y.still) : r.s.OnlyAges (r.updFibre k f).s := by
  cases hk : KV.find? k r.s.fibres with
  | none =>
    rw [Run.updFibre, hk]
    exact .refl _
  | some y =>
    rw [updFibre_found hk]
    refine ⟨?_, rfl, rfl, rfl, rfl⟩
    rw [State.stills, Run.setFibre_fibres, KV.map_put, hf y hk]
    exact KV.put_of_find? ((find?_stills r.s k).trans (congrArg (Option.map Fibre.still) hk))

theorem updSite_onlyAges (r : Run s0) (k : Nat) (f : Site → Site) : r.s.OnlyAges (r.updSite k f).s :=
  ⟨rfl, rfl, rfl, rfl, rfl⟩

theorem updDie_onlyAges (r : Run s0) (k : Nat) {f : Die → Die} (hfailed : (f (r.s.die k)).failed = (r.s.die k).failed)
    (hsup : (f (r.s.die k)).supStopped = (r.s.die k).supStopped) : r.s.OnlyAges (r.updDie k f).s := by
  refine ⟨rfl, rfl, rfl, rfl, funext fun site => funext fun g => ?_⟩
  have hdie : ((r.updDie k f).s.die (dieOf site)).failed = (r.s.die (dieOf site)).failed ∧
      ((r.updDie k f).s.die (dieOf site)).supStopped = (r.s.die (dieOf site)).supStopped := by
    by_cases hk : dieOf site = k
    · rw [hk, updDie_die]
      exact ⟨hfailed, hsup⟩
    · rw [State.die, KV.getD, Run.updDie_dies, KV.find?_put_ne hk]
      exact ⟨rfl, rfl⟩
  rw [State.issues, State.issues, hdie.1, hdie.2]
  rfl

theorem ageTokens_onlyAges (r : Run s0) (site : Nat) : r.s.OnlyAges (r.ageTokens site).s := by
  have hpass (d : Die) (c n : Nat) :
      (d.passToken c n).failed = d.failed ∧ (d.passToken c n).supStopped = d.supStopped := by
    unfold Die.passToken
    dsimp only
    split <;> [skip; split] <;> exact ⟨rfl, rfl⟩
  unfold Run.ageTokens
  split
  · exact .refl _
  · refine updDie_onlyAges r _ ?_ ?_ <;> dsimp only <;> split <;> simp only [hpass]

theorem each_onlyAges {α : Type} {f : Run s0 → α → Run s0} (hf : ∀ (q : Run s0) x, q.s.OnlyAges (f q x).s)
    (r : Run s0) (l : List α) : r.s.OnlyAges (r.each l f).s :=
  each_inv (fun q => r.s.OnlyAges q.s) f l r (.refl _) fun q x h => h.trans (hf q x)

/-- A clk of a fibre that sleeps (R207). -/
def Run.sleepOn (r : Run s0) (x : Nat × Fibre) : Run s0 := match x.2.wait with
  | some ⟨.sleep left, next⟩ => r.updFibre x.1 fun f => { f with wait := some ⟨.sleep (left - 1), next⟩ }
  | _ => r

theorem sleepOn_onlyAges {r : Run s0} {x : Nat × Fibre} (hx : KV.find? x.1 r.s.stills = some x.2.still) :
    r.s.OnlyAges (r.sleepOn x).s := by
  unfold Run.sleepOn
  split
  next left next hwait =>
    refine updFibre_onlyAges fun y hy => ?_
    rw [find?_stills, hy] at hx
    have hstill : y.still = x.2.still := Option.some.inj hx
    have hslept : y.wait.map Wait.still = some ⟨.sleep 0, next⟩ := by
      rw [show y.wait.map Wait.still = x.2.wait.map Wait.still from congrArg Fibre.wait hstill, hwait]
      rfl
    simp only [Fibre.still, hslept]
    rfl
  next => exact .refl _

theorem ageSite_onlyAges (hI : s0.Inv) (r : Run s0) (site : Nat) : r.s.OnlyAges (r.ageSite site).s := by
  unfold Run.ageSite
  extract_lets n r1 asleep r2 keys
  have h1 : r.s.OnlyAges r1.s := by
    refine each_onlyAges (fun q k => ?_) r _
    exact updFibre_onlyAges fun _ _ => rfl
  have h2 : r1.s.OnlyAges r2.s := by
    refine Run.each_inv_mem (f := Run.sleepOn) (fun q => r1.s.OnlyAges q.s) (.refl _) fun q x hx hq => ?_
    refine hq.trans (sleepOn_onlyAges ?_)
    have hfind := KV.find?_of_mem (r1.ok hI).fibres (List.mem_of_mem_filter hx)
    rw [hq.stills, find?_stills, hfind]
    rfl
  exact (h1.trans h2).trans (updSite_onlyAges r2 site _)

theorem ageSite_formerKeeps (r : Run s0) (site : Nat) : r.s.FormerKeeps (r.ageSite site).s := by
  unfold Run.ageSite
  extract_lets n r1 asleep r2 keys
  have h1 : r.s.FormerKeeps r1.s := by
    refine each_formerKeeps (fun q k => ?_) r _
    exact updFibre_formerKeeps q k fun _ h => h
  have h2 : r1.s.FormerKeeps r2.s := by
    refine each_formerKeeps (f := Run.sleepOn) (fun q x => ?_) r1 asleep
    unfold Run.sleepOn
    split
    · exact updFibre_formerKeeps q _ fun _ h => h
    · exact .refl _
  exact (h1.trans h2).trans (updSite_formerKeeps r2 site (fun _ => rfl) fun _ => rfl)

theorem ageTokens_formerKeeps (r : Run s0) (site : Nat) : r.s.FormerKeeps (r.ageTokens site).s := by
  unfold Run.ageTokens
  split
  · exact .refl _
  · exact updDie_formerKeeps r _ _

/-- The former has nothing to do where the boathouse is empty and no crew has been chosen to go. -/
theorem former_idle {r : Run s0} (hboat : r.s.boathouse site = []) (hnone : r.s.NoEvict site) : r.former site = r := by
  rw [Run.former, finishEvict_none hnone]
  simp only [State.overdueWaits, hboat, List.any_nil, Bool.false_eq_true, if_false]

end Sys2Proof.Machine
end

section
/-! CORE_CLK_ISSUE_SLOTS: a clk of a site, and the turns of its crews (R164). -/

namespace Sys2Proof.Machine
variable {s0 s : State} {site : Nat}

theorem mem_insertBy {key : Nat → Nat} {x y : Nat} {l : List Nat} : y ∈ insertBy key x l ↔ y = x ∨ y ∈ l := by
  induction l with
  | nil => simp [insertBy]
  | cons z t ih =>
    unfold insertBy
    split_ifs
    · exact List.mem_cons
    · rw [List.mem_cons, ih, List.mem_cons]
      tauto

theorem mem_sortBy {key : Nat → Nat} {x : Nat} {l : List Nat} : x ∈ sortBy key l ↔ x ∈ l := by
  induction l using List.reverseRecOn with
  | nil => rfl
  | append_singleton l y ih =>
    have hlast : sortBy key (l ++ [y]) = insertBy key y (sortBy key l) := by
      rw [sortBy, List.foldl_append]
      rfl
    rw [hlast, mem_insertBy, ih, List.mem_append, List.mem_singleton, or_comm]

/-- The clk counts, and the site's issue slots are free again. -/
def Run.tickSite (r : Run s0) (site : Nat) : Run s0 := (r.chargeIdle site).updSite site fun x => { x with
  clk := x.clk + 1, budget := issueOf site, formed := 0 }

theorem tickSite_site (r : Run s0) (site : Nat) : ((r.tickSite site).s.site site).clk = (r.s.site site).clk + 1 ∧
    ((r.tickSite site).s.site site).budget = issueOf site := by
  rw [Run.tickSite, Run.chargeIdle]
  extract_lets leaf
  rw [updSite_updSite, State.site, KV.getD, Run.updSite_sites, KV.find?_put_self]
  exact ⟨rfl, rfl⟩

theorem tickSite_onlyAges (r : Run s0) (site : Nat) : r.s.OnlyAges (r.tickSite site).s := ⟨rfl, rfl, rfl, rfl, rfl⟩

/-- The turns that a clk of the site `site` gives to the crews in `slots`, from choice `t` on. -/
def turnsOf (site t : Nat) (slots : List Nat) : List Turn := (List.range slots.length).map fun i =>
  Turn.issue site (slots.getD i 0) (Config.issueChoice (t + i)).1 (Config.issueChoice (t + i)).2

theorem turnsOf_issue {site t : Nat} {slots : List Nat} {x : Turn} (hx : x ∈ turnsOf site t slots) :
    ∃ n wait cold, x = .issue site n wait cold := by
  obtain ⟨i, -, rfl⟩ := List.mem_map.1 hx
  exact ⟨_, _, _, rfl⟩

theorem exists_turn {site t n : Nat} {slots : List Nat} (hn : n ∈ slots) :
    ∃ wait cold, Turn.issue site n wait cold ∈ turnsOf site t slots := by
  obtain ⟨i, hi, rfl⟩ := List.mem_iff_getElem.1 hn
  refine ⟨(Config.issueChoice (t + i)).1, (Config.issueChoice (t + i)).2,
    List.mem_map.2 ⟨i, List.mem_range.2 hi, ?_⟩⟩
  rw [List.getD_eq_getElem _ _ hi]

/-- The slots of a site's crews that may issue, in their order of precedence. -/
def State.issueOrder (s : State) (site : Nat) : List Nat :=
  sortBy (fun n => s.precedence (s.runnable site).length (KV.getD (ckey site n) {} s.crews))
    (((s.crewsOf site).filter fun c => s.issues site (s.gang c.2.gang)).map Prod.fst)

theorem mem_issueOrder {x : Nat × Crew} (hx : x ∈ s.crewsOf site)
    (hissues : s.issues site (s.gang x.2.gang) = true) : x.1 ∈ s.issueOrder site :=
  mem_sortBy.2 (List.mem_map_of_mem (List.mem_filter.2 ⟨hx, hissues⟩))

/-- What a clk of a site does before it hands out the turns. -/
def Run.ageAndForm (r : Run s0) (site : Nat) : Run s0 := (((r.tickSite site).ageSite site).ageTokens site).former site

/-- Every crew of the site that may issue has its turn next. -/
def Run.handTurns (r : Run s0) (site : Nat) : Run s0 := r.mod fun s => { s with
  tick := r.s.tick + (r.s.issueOrder site).length
  agenda := turnsOf site r.s.tick (r.s.issueOrder site) ++ s.agenda }

/-- A clk of a site with power: ages, sleeps and tokens, the former, and the turns of the crews. -/
theorem siteClk_eq (r : Run s0) (hsite : site < 580) (hpow : r.s.pkg.powered = true)
    (hup : (r.s.die (dieOf site)).failed = false) : r.siteClk site = (r.ageAndForm site).handTurns site := by
  have hruns : ¬(580 ≤ site ∨ (!r.s.pkg.powered) = true ∨ (r.s.die (dieOf site)).failed = true) := by
    simp only [hpow, hup, Bool.not_true, Bool.false_eq_true, or_false]
    omega
  unfold Run.siteClk
  rw [if_neg hruns]
  rfl

theorem ageAndForm_formerKeeps (r : Run s0) (site : Nat) : (r.tickSite site).s.FormerKeeps (r.ageAndForm site).s :=
  ((ageSite_formerKeeps _ site).trans (ageTokens_formerKeeps _ site)).trans (former_formerKeeps _ site)

theorem ageAndForm_idle (hI : s0.Inv) {r : Run s0} (hboat : r.s.boathouse site = []) (hnone : r.s.NoEvict site) :
    r.s.OnlyAges (r.ageAndForm site).s := by
  have hages : r.s.OnlyAges (((r.tickSite site).ageSite site).ageTokens site).s :=
    ((tickSite_onlyAges r site).trans (ageSite_onlyAges hI _ site)).trans (ageTokens_onlyAges _ site)
  have hidle := former_idle (hages.boathouse_empty hboat) (by rwa [State.NoEvict, hages.crewsOf])
  rwa [Run.ageAndForm, hidle]

theorem siteClk_law (hI : s.Inv) (hsite : site < 580) (hpow : s.pkg.powered = true)
    (hup : (s.die (dieOf site)).failed = false) :
    ∃ t turns, exec (.coreClkIssueSlots site) s = .next t ∧ (t.site site).clk = (s.site site).clk + 1 ∧
      (t.site site).budget = issueOf site ∧ t.mem = s.mem ∧
      ((∀ x ∈ s.fibres, x.2.region = none) → t.scr = s.scr) ∧ t.agenda = turns ++ s.agenda ∧
      (∀ x ∈ turns, ∃ n wait cold, x = .issue site n wait cold) ∧
      (∀ c ∈ t.crewsOf site, t.issues site (t.gang c.2.gang) = true →
        ∃ wait cold, Turn.issue site c.1 wait cold ∈ turns) ∧
      (s.boathouse site = [] → (s.crewsOf site).any (fun c => c.2.evict) = false →
        t.crews = s.crews ∧ t.ops = s.ops ∧ t.gangs = s.gangs) := by
  have K := ageAndForm_formerKeeps (Run.start s) site
  have hexec : exec (.coreClkIssueSlots site) s = .next (((Run.start s).ageAndForm site).handTurns site).s :=
    congrArg Run.out (siteClk_eq (Run.start s) hsite hpow hup)
  obtain ⟨hclk, hbudget⟩ := tickSite_site (Run.start s) site
  have hidle (hboat : s.boathouse site = []) (hnone : (s.crewsOf site).any (fun c => c.2.evict) = false) :=
    ageAndForm_idle (r := Run.start s) hI hboat (noEvict_iff.2 hnone)
  generalize (Run.start s).ageAndForm site = q at K hexec hidle
  refine ⟨_, turnsOf site q.s.tick (q.s.issueOrder site), hexec, (K.clk site).trans hclk,
    (K.budget site).trans hbudget, K.mem, K.scr, congrArg _ K.agenda, fun x => turnsOf_issue, ?turns, ?idle⟩
  case turns => exact fun c hc hissues => exists_turn (mem_issueOrder (s := q.s) hc hissues)
  case idle =>
    intro hboat hnone
    have hages := hidle hboat hnone
    exact ⟨hages.crews, hages.ops, hages.gangs⟩

end Sys2Proof.Machine
end

section
/-! O47: crews that form and crews that are evicted, fibres that ship and arrive, and a clk of a site. -/

namespace Sys2Proof
open Machine

/-- Settles O47, from one law for each of the events it speaks of. -/
theorem formerEvents : Obligations.FormerEvents := by
  unfold Obligations.FormerEvents
  intro s hI
  refine ⟨?form, ?evict, ?ship, ?arrive, ?clk⟩
  case form =>
    exact fun site k f n hslot hjoin hboat hcrews hk hfid hf hwalk =>
      crewForm_law hslot hjoin hboat hcrews hk hfid hf hwalk
  case evict =>
    intro site n cr f rn k hfull hdue hnone hcan hfids hf hsite hslot hcr
    have E : s.Evicts site n cr f := ⟨hfull, hdue, noEvict_iff.2 hnone, hcan, hfids, hf, hsite, hslot, hcr⟩
    exact ⟨E.goes, E.waits⟩
  case ship =>
    intro k f dest hf hship hsettled hhalt hpark hflags hissues
    have S : s.ShipsNow k f dest := ⟨hf, hship, hsettled, hhalt, hpark, hflags, hissues⟩
    exact ⟨siteShip_out S, siteShip_home S⟩
  case arrive =>
    intro n k rest f slot fresh
    exact fun hn hqueue hf hslot hhalt hwindow hempty =>
      arrival_law hI hn hqueue hf hslot hhalt hwindow hempty
  case clk => exact fun site hsite hpow hup => siteClk_law hI hsite hpow hup

end Sys2Proof
end

section
/-! A PUT of one record at its placer (R82, R264). -/

namespace Sys2Proof.KV

theorem mem_put_self {α : Type} (k : Nat) (v : α) (m : List (Nat × α)) : (k, v) ∈ put k v m := by
  induction m with
  | nil => exact List.mem_singleton_self _
  | cons x t ih =>
    obtain ⟨j, w⟩ := x
    unfold put
    split_ifs
    · exact List.mem_cons_of_mem _ ih
    · exact List.mem_cons_self ..
    · exact List.mem_cons_self ..

end Sys2Proof.KV

namespace Sys2Proof.Machine
variable {s0 s : State}

/-- The bag after its placer has sent a record of operation `id` to share `i`, at clk `clk` of its controller. -/
def Bag.placed (b : Bag) (i : Nat) (r : Record) (id fibre clk : Nat) : Bag :=
  ({ b with f := KV.put i (next48 (b.fill i)) b.f, count := b.count + 1 } : Bag).send i
    (.write (b.fill i) r id fibre clk)

/-- The bag when that was its operation's last record: the count is to be mirrored (R80). -/
def Bag.taken (b : Bag) (i : Nat) (r : Record) (id fibre clk : Nat) : Bag :=
  { b.placed i r id fibre clk with mirror := b.mirror ++ [(b.count + 1, id)] }

theorem Bag.placeLane_one {b : Bag} {ns i : Nat} {key : Word} (h : b.place ns key = some i) (clk : Nat → Nat)
    (id fibre : Nat) (r : Record) :
    b.placeLane clk ns id fibre key [r] = (b.placed i r id fibre (clk i), 1, true) := by
  simp only [Bag.placeLane, h]
  rfl

theorem Bag.taken_owes (b : Bag) (i : Nat) (r : Record) (id fibre clk : Nat) :
    (b.taken i r id fibre clk).owes id = true :=
  List.any_eq_true.2 ⟨_, KV.mem_put_self .., List.any_eq_true.2 ⟨_, List.mem_append_right _ (List.mem_singleton_self _),
    decide_eq_true rfl⟩⟩

/-- An operation has not landed while a bag still owes it an item. -/
theorem State.landed_of_owes {k id : Nat} {b : Bag} (h : (k, b) ∈ s.bags) (hb : b.owes id = true) :
    s.landed id = false :=
  List.all_eq_false.2 ⟨_, h, by simp [hb]⟩

theorem Run.refuse_nil (r : Run s0) (id : Nat) (o : Op) : r.refuse id o [] = r := raise_nil r

/-- An operation that is not performed is not completed. -/
theorem Run.settleOp_open (r : Run s0) {id : Nat} {o : Op} (ho : KV.find? id r.s.ops = some o)
    (hs : o.stage ≠ .performed) : r.settleOp id = r := by
  simp only [Run.settleOp, ho, hs, and_false, if_false]

/-- A request whose records are not all written stays away. -/
theorem Run.putLanded_owed (r : Run s0) {id : Nat} (h : r.s.landed id = false) : r.putLanded id = r := by
  simp only [Run.putLanded, h, Bool.false_eq_true, and_false, if_false]
  split <;> [rfl; split <;> rfl]

/-- R82: the placer takes a PUT of one record on a bag that is open to it. -/
theorem Run.placePut_one (r : Run s0) {id h i : Nat} {o : Op} {l : PutLane} {rc : Record} {b : Bag}
    (ho : KV.find? id r.s.ops = some o) (hk : o.kind = .put h false [l]) (hr : l.records = [rc]) (hj : o.joint = [])
    (hturn : r.s.bagTurn id o = true) (hput : r.s.putBad (r.s.gang o.gang).ctx h = none)
    (hb : r.s.bag (bagKey h) = b) (hp : ∀ ns, b.place ns l.key = some i) (seen : Nat) :
    r.placePut id seen = (r.updBag (bagKey h) fun _ => b.taken i rc id l.fibre (r.s.shareClk b i)).updOp id fun o =>
      { o with stage := .away, joint := [] } := by
  generalize hq : ((r.updBag (bagKey h) fun _ => b.taken i rc id l.fibre (r.s.shareClk b i)).updOp id fun o =>
    { o with stage := .away, joint := [] }) = q
  have hfind : KV.find? id q.s.ops = some { o with stage := .away, joint := [] } := by
    subst hq
    change KV.find? id (KV.update id _ r.s.ops) = _
    rw [KV.update, ho]
    exact KV.find?_put_self ..
  have howed : q.s.landed id = false := by
    subst hq
    exact State.landed_of_owes (KV.mem_put_self ..) (Bag.taken_owes b i rc id l.fibre _)
  have hdone : (q.putLanded id).settleOp id = q := by
    rw [q.putLanded_owed howed]
    exact q.settleOp_open hfind nofun
  refine Eq.trans ?_ hdone
  have hcount (c : Nat) : ¬(b.placed i rc id l.fibre c).count = b.count := Nat.succ_ne_self b.count
  have hone (ns : Nat) := Bag.placeLane_one (hp ns) (r.s.shareClk b) id l.fibre rc
  subst hq
  unfold Run.placePut
  simp only [ho, hk, hturn, hput, hr, hb, Bool.not_true, Bool.false_eq_true, if_false, List.foldl_cons,
    List.foldl_nil, hone, if_true, List.map_nil, Run.refuse_nil, List.contains_nil, Bool.not_false, hcount]
  congr 2
  apply Run.ext_s
  simp only [Run.updOp, Run.updBag, Run.mod, State.keep, KV.update, ho]
  simp only [hj, List.filter_nil]
  rfl

end Sys2Proof.Machine
end

section
/-! O45 does not say of the fibre's fence what the placer's step leaves of it. -/

namespace Sys2Proof
open Machine

/-- An open bag of one share with room for one record, under handle 0. -/
def oneBag : Bag where
  isOpen := true
  affine := true
  blocks := [0x20_0000]

/-- An affine bag places a record without regard to Ns (R82). -/
theorem oneBag_place (ns : Nat) (key : Word) : oneBag.place ns key = oneBag.place 0 key := by
  have haffine : oneBag.affine = true := rfl
  simp only [Bag.place, haffine, if_true]

/-- Lane 0, which puts one record. -/
def oneLane : PutLane where
  fibre := 0
  lane := 0
  flag := 16
  key := 0
  records := [{ bytes := List.replicate 16 7 }]

/-- Its request, on its way to that bag. -/
def onePut : Op where
  kind := .put 0 false [oneLane]

/-- The fibre waits, as after every PUT (R386), until the placer has taken that request. -/
def putWaits : State where
  bags := [(0, oneBag)]
  ops := [(1, onePut)]
  fibres := [(0, { fence := [1] })]

/-- The fence of fibre 0 after an outcome. -/
def fenceAfter : Host.Outcome State Fault Refusal → List Nat
  | .next t => (t.fibre 0).fence
  | _ => []

/-- Refutes O45: the placer takes the PUT of `putWaits` and leaves the fibres as they are (`Run.placePut_one`), so
that the fence still lists the request, where the statement takes it out. -/
theorem not_bagEvents : ¬ Obligations.BagEvents := by
  unfold Obligations.BagEvents
  intro h
  have hinv : putWaits.Inv := ⟨by decide, by decide, by decide⟩
  have hplace (ns : Nat) : oneBag.place ns oneLane.key = some 0 := (oneBag_place ns _).trans (by decide +kernel)
  obtain ⟨hrequests, -⟩ := h putWaits hinv
  obtain ⟨hput, -⟩ := hrequests 1 onePut 0 rfl (by decide) (by decide)
  have hcleared : fenceAfter (exec (.placerPut 1 0) putWaits) = [] :=
    congrArg fenceAfter (hput oneLane _ 0 0 rfl rfl rfl rfl hplace)
  have htaken := (Run.start putWaits).placePut_one (l := oneLane) (b := oneBag) (i := 0) (h := 0) (id := 1)
    (o := onePut) rfl rfl rfl rfl (by decide) (by decide +kernel) rfl hplace 0
  have hkept : fenceAfter (exec (.placerPut 1 0) putWaits) = [1] := by
    change (((Run.start putWaits).placePut 1 0).s.fibre 0).fence = [1]
    rw [htaken]
    rfl
  exact absurd (hkept.symm.trans hcleared) (by decide)

end Sys2Proof
end

section
/-! A group that names flag 16, which the statements take for none named (R180, R183). -/

namespace Sys2Proof
open Machine

/-- A fibre alone in its crew, at a word. -/
def sealer : Fibre where
  slot := some 0
  pc := 4096

/-- Its crew, with an open hint group that names flag 16: the number that a word of a walk bears (`Env.sig`). -/
def walkSigned : Crew where
  fids := [0]
  hints := some { start := 4096, sig := 16 }

/-- Their turn, with an open bag under handle 0. -/
def sealing : State where
  cur := some { site := 0, slot := 0, wait := true }
  crews := [(0, walkSigned)]
  gangs := [(0, { window := 96 })]
  ctxs := [(0, { st := .running })]
  fibres := [(0, sealer)]
  bags := [(0, { isOpen := true })]

theorem sealing_starts : Starts sealing { site := 0, slot := 0, wait := true } walkSigned sealer 0 [src 124] := by
  have idle (n : Nat) : sealer.IdleFlag n := ⟨rfl, rfl⟩
  have member : Member { site := 0, slot := 0, wait := true } walkSigned 4096 0 sealer :=
    ⟨rfl, by decide, rfl, rfl, rfl, rfl, rfl, fun _ => rfl, rfl, rfl, idle 15, fun n _ => idle n, idle _⟩
  refine ⟨⟨⟨⟨by decide, by decide, by decide⟩, rfl, rfl, rfl, by decide, by decide, by decide, rfl, rfl, ?_⟩, rfl,
    by decide +kernel, by decide⟩, idle, by decide, ⟨by decide, by decide, ?_⟩, ⟨.inr rfl, .inr rfl, rfl, rfl, rfl⟩, rfl⟩
  · intro fid hf
    obtain rfl : fid = 0 := by simpa [walkSigned] using hf
    exact ⟨sealer, by decide +kernel, member⟩
  · decide

/-- The flags that the operations in flight signal, after an outcome. -/
def flagsAfter (x : Host.Outcome State Fault Refusal) : List Nat := (opsAfter x).map fun o => o.2.flag

/-- Refutes O18: the BSEAL of `sealing` starts a request that signals no flag (16), where the statement has it signal
the full-completion wait (15), since 16 is none of the flags that a group can name. The premises do not say so of the
group. -/
theorem not_bagInstructions : ¬ Obligations.BagInstructions := by
  rintro ⟨-, hrequests, -⟩
  unfold Part.BagRequests at hrequests
  obtain ⟨-, -, hseal, -⟩ := hrequests sealing { site := 0, slot := 0, wait := true } walkSigned sealer 0 0 124 0 rfl
  obtain ⟨t, ht, tlb, bnd, rows, rfl⟩ := hseal (Instr.bseal, OpK.bseal) (by simp) sealing_starts (by decide)
  have hfull : flagsAfter (exec (.bseal 0 124) sealing) = [15] := by rw [ht]; rfl
  have hnone : flagsAfter (exec (.bseal 0 124) sealing) = [16] := by decide +kernel
  exact absurd (hnone.symm.trans hfull) (by decide)

end Sys2Proof
end

section
/-! A SPAWN whose group names flag 16 (R180, R183, R211). -/

namespace Sys2Proof
open Machine

/-- Page 0 as a user's page of bits to read and write, in the translations that a site has cached. -/
def pageZero : List (Nat × Nat × DWord) := [(0, 1, 0xC000_0000_0200_00BE)]

/-- The turn of the fibre `sealer` in the crew `walkSigned`, whose open group names flag 16, on a core that has page 0
mapped. No memory has been written: the record at address 0 has every field 0. -/
def spawnZero : State where
  cur := some { site := 0, slot := 0, wait := true }
  crews := [(0, walkSigned)]
  gangs := [(0, { window := 96 })]
  ctxs := [(0, { st := .running })]
  fibres := [(0, sealer)]
  sites := [(0, { tlb := pageZero })]

theorem spawnZero_starts :
    Starts spawnZero { site := 0, slot := 0, wait := true } walkSigned sealer 0 [src 124 2, dst 8] := by
  have idle (n : Nat) : sealer.IdleFlag n := ⟨rfl, rfl⟩
  have member : Member { site := 0, slot := 0, wait := true } walkSigned 4096 0 sealer :=
    ⟨rfl, by decide, rfl, rfl, rfl, rfl, rfl, fun _ => rfl, rfl, rfl, idle 15, fun n _ => idle n, idle _⟩
  refine ⟨⟨⟨⟨by decide, by decide, by decide⟩, rfl, rfl, rfl, by decide, by decide, by decide, rfl, rfl, ?_⟩, rfl,
    by decide +kernel, by decide⟩, idle, by decide, ⟨by decide, by decide, ?_⟩, ⟨.inr rfl, .inr rfl, rfl, rfl, rfl⟩, rfl⟩
  · intro fid hf
    obtain rfl : fid = 0 := by simpa [walkSigned] using hf
    exact ⟨sealer, by decide +kernel, member⟩
  · decide

/-- The status by which a record is turned down (R211). -/
def Machine.Take.status? : Take → Option Nat
  | .status n => some n
  | _ => none

theorem Machine.Take.eq_status {x : Take} {n : Nat} (h : x.status? = some n) : x = .status n := by
  cases x with
  | status m => rw [Option.some.inj h]
  | need l => cases h
  | bad b => cases h
  | ok l => cases h

/-- Refutes O24: the SPAWN of `spawnZero`, whose record is turned down with status 1, starts an operation that signals
no flag (16), where the statement has it signal the full-completion wait (15), since 16 is none of the flags that a
group can name. The premises do not say so of the group. -/
theorem not_spawnWord : ¬ Obligations.SpawnWord := by
  unfold Obligations.SpawnWord
  intro h
  have hrefused : spawnTake spawnZero
      (soloEnv spawnZero { site := 0, slot := 0, wait := true } walkSigned sealer [src 124 2, dst 8]) = .status 1 :=
    Take.eq_status (by decide +kernel)
  obtain ⟨hstatus, -⟩ := h spawnZero { site := 0, slot := 0, wait := true } walkSigned sealer 0 8 124 rfl (by decide)
    spawnZero_starts (by decide +kernel)
  obtain ⟨u, ⟨⟨_, _, _, _, _, _, _, _, _, _, rfl⟩, -⟩, t, ht, _, _, _, rfl⟩ := hstatus 1 hrefused
  have hfull : flagsAfter (exec (.spawn 0 8 124) spawnZero) = [15] := by rw [ht]; rfl
  have hnone : flagsAfter (exec (.spawn 0 8 124) spawnZero) = [16] := by decide +kernel
  exact absurd (hnone.symm.trans hfull) (by decide)

end Sys2Proof
end

section
/-! A fibre whose table of flags lists the full-completion wait twice (R181, R183). -/

namespace Sys2Proof
open Machine

/-- A fibre alone in its crew that waits for operation 1. Its table of flags lists flag 15 as DONE, and behind that
as BUSY. -/
def flaggedTwice : Fibre where
  slot := some 0
  flags := [(15, { st := .done }), (15, { st := .busy })]
  fence := [1]

/-- Its turn, while operation 1, a load, has not taken its instant. -/
def flagTwice : State where
  cur := some { site := 0, slot := 0 }
  crews := [(0, { fids := [0] })]
  fibres := [(0, flaggedTwice)]
  ops := [(1, { kind := .load .words })]

theorem flagTwice_turns : Turns flagTwice { site := 0, slot := 0 } { fids := [0] } :=
  ⟨rfl, rfl, rfl, by decide, by decide⟩

/-- What held the word of a slot's crew at its last turn, after an outcome. -/
def stallAfter (k : Nat) : Host.Outcome State Fault Refusal → Option Nat
  | .next t => (KV.find? k t.crews).map Crew.stall
  | _ => none

/-- Refutes O30: the next word of the crew of `flagTwice` first observes flag 15, which is DONE, and then finds it
BUSY: it is held for that (leaf 9), where the statement has it held for the fence (leaf 25). The premises do not say
that the tables of the crew's fibres list a flag once. -/
theorem not_fencesAndWaits : ¬ Obligations.FencesAndWaits := by
  rintro ⟨-, -, h⟩
  unfold Part.HeldWords at h
  have hno : ∀ fid ∈ [0], (flagTwice.fibre (fkey 0 fid)).holds 15 = false := by decide
  obtain ⟨-, hafter⟩ := h flagTwice { site := 0, slot := 0 } { fids := [0] } 0 0 0 0 (.fenceRel 0) (by simp [anyWords])
    flagTwice_turns
  obtain ⟨hfence, -⟩ := hafter hno
  have hfenced := congrArg (stallAfter 0) (hfence 0 (List.mem_singleton_self _) (by decide))
  have hfull : stallAfter 0 (exec (.fenceRel 0) flagTwice) = some 9 := by decide +kernel
  exact absurd (hfull.symm.trans hfenced) (by decide +kernel)

end Sys2Proof
end

section
/-! A gang that ends while a write of the device waits at a held line (R128, R168, R253). -/

namespace Sys2Proof
open Machine

/-- A gang whose one fibre has exited. -/
def exitedGang : Gang where
  launch := 1
  nfib := 1
  exited := 1

/-- Its launch, of that gang alone, with its completion word at 0x8000. -/
def lastLaunch : Launch where
  gangs := 1
  compl := some (0x8000, false)

/-- The write of another completion word, which waits for its line. -/
def waitingWrite : Op where
  kind := .bwrite 0 [1, 0, 0, 0] [] false
  acc := { pa := 0x9000, n := 4 }

/-- The gang is about to end, while a fibre of a second gang holds the line of that write for a line region. -/
def endsBehind : State where
  gangs := [(1, exitedGang), (2, {})]
  launches := [(1, lastLaunch)]
  ops := [(5, waitingWrite)]
  dirs := [(0x9000 / 128, { Dir.fresh (0x9000 / 128) with held := some (fkey 2 0) })]
  nextId := 6

/-- The current value of a word, after an outcome. -/
def wordAfter (pa : Nat) : Host.Outcome State Fault Refusal → Word
  | .next t => (t.coh pa).v
  | _ => 0

/-- Refutes O50: the completion word of the gang of `endsBehind` waits behind an earlier write of the device
(`State.devBusy`), so that it has not been written when the gang has ended, where the statement has it read 1 at
once. -/
theorem not_launchEvents : ¬ Obligations.LaunchEvents := by
  unfold Obligations.LaunchEvents
  intro h
  obtain ⟨-, -, hend⟩ := h endsBehind ⟨by decide, by decide, by decide⟩
  obtain ⟨t, hexec, -, -, -, -, -, hlast⟩ := hend 1 exitedGang rfl (by decide) (by decide) (by decide) (by decide +kernel)
  obtain ⟨-, -, hword⟩ := hlast (by decide)
  have hone : wordAfter 0x8000 (exec (.gangEnd 1) endsBehind) = 1 := by
    rw [hexec]
    exact hword 0x8000 rfl (by decide) (by unfold InDram; decide) (by decide)
  have hwaits : wordAfter 0x8000 (exec (.gangEnd 1) endsBehind) = 0 := by decide +kernel
  exact absurd (hwaits.symm.trans hone) (by decide)

end Sys2Proof
end

section
/-! A word of a one-fibre crew that names queues: the law that it goes through (R178, R259), for a word of fixed
latency. -/

namespace Sys2Proof
open Machine
variable {s0 s : State} {c : Cur} {cr : Crew} {f : Fibre}

/-- A word of fixed latency: its lanes have no check or wait of their own, raise no events, and go on at the next
word. It may name queues. -/
structure Machine.Desc.Fixed (d : Desc s0) : Prop where
  bad : d.bad = none
  wf : d.i.wf = true
  pace : d.paceOk = true
  sig : d.sigOk = true
  branch : d.branch = false
  target : d.target = none
  region : d.noRegion = false
  pops : d.ownPops = false
  sculler : ∀ t e, d.toSculler t e = none
  illeg : ∀ t e, d.illeg t e = none
  drain : d.drain = 0
  drainIf : ∀ t e, d.drainIf t e = false
  waits : d.waits = 0
  hold : ∀ t e, d.hold t e = false
  holdAll : ∀ t es, d.holdAll t es = false
  check : ∀ t e, d.check t e = none
  eights : d.eights = none
  full : d.full = false
  all : d.all = false
  exc : ∀ e, d.exc e = 0

theorem binDesc_fixed {i : Instr} (hwf : i.wf = true) (g : BitVec 4) (d a b : BitVec 7) (fn : Word → Word → Word) :
    (binDesc (s0 := s0) i g d a b fn).Fixed where
  bad := rfl
  wf := hwf
  pace := rfl
  sig := rfl
  branch := rfl
  target := rfl
  region := rfl
  pops := rfl
  sculler _ _ := rfl
  illeg _ _ := rfl
  drain := rfl
  drainIf _ _ := rfl
  waits := rfl
  hold _ _ := rfl
  holdAll _ _ := rfl
  check _ _ := rfl
  eights := rfl
  full := rfl
  all := rfl
  exc _ := rfl

/-! ### Operands -/

/-- What an operand reads as depends on the scratchpads alone. -/
theorem readUse_of_scr {t : State} (hscr : t.scr = s.scr) (hpoison : t.spoison = s.spoison) (g : Gang) (f : Fibre)
    (n : Nat) (u : Use) : readUse t g f n u = readUse s g f n u := by
  simp only [readUse, peek, State.scrWord, hscr, hpoison]

/-- Operands without poison raise none. -/
theorem poison_none {us : List Use} {vs : List (List PW)} (h : ∀ ws ∈ vs, ws.any PW.p = false) (g : Gang)
    (heads : List (Nat × Nat)) : poisonReg us vs = none ∧ poisonElem g heads us vs = none := by
  constructor
  · refine List.findSome?_eq_none_iff.2 fun x hx => ?_
    have hws := h x.2 (List.of_mem_zip hx).2
    split
    · rfl
    · rw [Option.map_eq_none_iff, List.find?_eq_none]
      intro i hi
      have hlt := List.mem_range.1 hi
      rw [List.getD_eq_getElem _ _ hlt]
      exact List.any_eq_false.1 hws _ (List.getElem_mem hlt)
  · refine List.findSome?_eq_none_iff.2 fun x hx => ?_
    rw [h x.2 (List.of_mem_zip hx).2, Bool.and_false, if_neg Bool.false_ne_true]

theorem readUse_clean {g : Gang} {f : Fibre} {a : BitVec 7} (hq : isQueue a.toNat = false)
    (h : (readReg g f a.toNat).p = false) (s : State) (n : Nat) : (readUse s g f n (src a)).any PW.p = false := by
  unfold readUse src
  simp only [hq, Bool.false_eq_true, if_false]
  split
  · rfl
  · simp [h]

/-- A ring of words shows its head as one word. -/
theorem readUse_ring {g : Gang} {a : BitVec 7} {n : Nat} {q : Queue} (ha : a.toNat = 112 + n) (hn : n < 12)
    (hq : KV.find? n g.queues = some q) (hkind : q.kind ≠ 3) (hew : q.ew = 0) (s : State) (f : Fibre) :
    readUse s g f 0 (src a) = [s.scrWord (g.scrKey (q.base + q.head % q.slots * 4))] := by
  have hqueue : isQueue a.toNat = true := by
    simp only [isQueue, ha, Bool.and_eq_true, decide_eq_true_eq]
    omega
  have hnum : a.toNat - 112 = n := by omega
  simp [readUse, src, hqueue, hnum, hq, peek, hkind, Queue.regs, hew]

/-! ### The word -/

theorem Solo.core_kinds (h : isCore c.site = true) : isSculler c.site = false ∧ isSuper c.site = false := by
  simp only [isCore, decide_eq_true_eq] at h
  simp only [isSculler, isSuper, Bool.and_eq_false_iff, decide_eq_false_iff_not]
  omega

/-- The queues that a word names serve the one lane of its crew, and no access of the lane holds its push back. -/
structure Solo.Served (s : State) (c : Cur) (cr : Crew) (f : Fibre) (d : Desc s) : Prop where
  solo : Solo s c cr f
  idle : ∀ n, f.IdleFlag n
  fixed : d.Fixed
  guard : guardOk d.guard (f.now (cr.group f.pc)) = true
  hints : PlainHints (cr.group f.pc)
  core : isCore c.site = true
  legal : usesErr (s.gang cr.gang) 1 d.uses = none
  clean : ∀ ws ∈ operands s (s.gang cr.gang) (f.now (cr.group f.pc)) d.uses, ws.any PW.p = false
  serve : s.queuesServe (s.gang cr.gang) 1 d.uses = true
  push : pushHold s d (soloEnv s c cr f d.uses) = false

variable {d : Desc s}

theorem Solo.Served.static (V : Solo.Served s c cr f d) : staticErr d (cr.group f.pc) (s.gang cr.gang) 1 = none := by
  obtain ⟨himm, hmods⟩ := V.hints
  have hfit : FitMods (cr.group f.pc) d.rnd d.sat := by
    obtain ⟨hrnd, hsat, htol, hnoal, hwskip⟩ := hmods
    exact ⟨.inr (hrnd.resolve_left (by decide)), .inr (hsat.resolve_left (by decide)), htol, hnoal, hwskip⟩
  have hhints := hintErrs_none (d := d) (g := s.gang cr.gang) V.solo.ready.hints hfit V.fixed.pace (.inl V.fixed.sig)
    fun p hp => by rw [himm] at hp; cases hp
  simp only [staticErr, hhints, V.fixed.bad, V.fixed.wf, V.legal, if_true, minReason]

theorem Solo.Served.lane (V : Solo.Served s c cr f d) : soloLane s c cr d f = soloEnv s c cr f d.uses :=
  V.solo.lane_eq d V.fixed.eights V.guard

theorem Solo.Served.away (V : Solo.Served s c cr f d) (t : State) : d.away t (soloEnv s c cr f d.uses) = none := by
  obtain ⟨hsculler, hsuper⟩ := Solo.core_kinds V.core
  have hsite : (soloEnv s c cr f d.uses).site = c.site := rfl
  simp only [Desc.away, hsite, hsculler, hsuper, V.fixed.sculler, Bool.false_and, Bool.false_eq_true, if_false]

theorem Solo.Served.lane_idle (V : Solo.Served s c cr f d) (n : Nat) : (soloEnv s c cr f d.uses).f.IdleFlag n :=
  (V.idle n).settle _

theorem Solo.Served.illegal (V : Solo.Served s c cr f d) (t : State) :
    d.illegFail t none (soloEnv s c cr f d.uses) = none := by
  have hsite : (soloEnv s c cr f d.uses).site = c.site := rfl
  simp only [Desc.illegFail, Desc.laneIlleg, V.fixed.illeg, hsite, (Solo.core_kinds V.core).2, Bool.false_and,
    Bool.false_eq_true, if_false, minReason]

theorem Solo.Served.reads (V : Solo.Served s c cr f d) (e : Env) : d.reads e = true := by
  simp [Desc.reads, V.fixed.eights, V.fixed.branch]

/-- The word takes its slot at once. -/
theorem Solo.Served.issueWord (V : Solo.Served s c cr f d) :
    (Run.start s).issueWord d =
      (slotTaken s c 1).issueLanes c cr d (cr.group f.pc) [soloEnv s c cr f d.uses] := by
  have R := V.solo.ready
  have F := V.fixed
  have hcur : (Run.start s).s.cur = some c := R.cur
  have hcrew : KV.find? (ckey c.site c.slot) (Run.start s).s.crews = some cr := R.crew
  have henvs : crewEnvs (Run.start s).s c cr d = [soloEnv s c cr f d.uses] := by
    rw [← V.lane]; exact V.solo.envs V.idle d
  have hgroup : groupOf c cr d [soloEnv s c cr f d.uses] = cr.group f.pc := by
    simp [groupOf, R.word, F.waits, soloEnv, Crew.group]
  have hissues : (Run.start s).s.issues c.site ((Run.start s).s.gang cr.gang) = true := R.runs
  have hserve : (Run.start s).s.queuesServe ((Run.start s).s.gang cr.gang) 1 d.uses = true := V.serve
  have hpush : pushHold (Run.start s).s d (soloEnv s c cr f d.uses) = false := V.push
  have hstatic : staticErr d (cr.group f.pc) ((Run.start s).s.gang cr.gang) 1 = none := V.static
  have hactive : (soloEnv s c cr f d.uses).active = true := rfl
  have hfenced : ((Run.start s).s.fenced (soloEnv s c cr f d.uses).f ||
      (Run.start s).s.watchWait (soloEnv s c cr f d.uses).site (soloEnv s c cr f d.uses).gk
        (soloEnv s c cr f d.uses).f.fid (soloEnv s c cr f d.uses).key) = false := by
    have hfence : (soloEnv s c cr f d.uses).f.fence = [] := by
      change (f.now (cr.group f.pc)).fence = []
      rw [Fibre.now, Fibre.settle_fence]; exact V.solo.member.fence
    have hpreds : ((Run.start s).s.site (soloEnv s c cr f d.uses).site).preds = [] := R.preds
    simp only [State.fenced, hfence, State.watchWait, hpreds, List.any_nil, Bool.and_false, Bool.false_and, Bool.or_self]
  have hflag (n : Nat) : ((slotTaken s c 1).s.fibre (soloEnv s c cr f d.uses).key).flag n = {} := by
    rw [slotTaken_flag s c 1 _ n R.crew]
    change (s.fibre (fkey cr.gang f.fid)).flag n = {}
    rw [V.solo.fibre]; exact (V.idle n).get
  have hholds (n : Nat) : (soloEnv s c cr f d.uses).f.holds n = false := (V.lane_idle n).holds
  have hget (n : Nat) : (soloEnv s c cr f d.uses).f.flag n = {} := (V.lane_idle n).get
  have hobserve (l : List Nat) : l.foldl (fun f n => f.observe n) (soloEnv s c cr f d.uses).f =
      (soloEnv s c cr f d.uses).f := fold_observe l fun n _ => V.lane_idle n
  have hlane : { soloEnv s c cr f d.uses with
    active := true, mask := laneMask [(soloEnv s c cr f d.uses).lane] } = soloEnv s c cr f d.uses := rfl
  have hcrew' : { cr with fids := [(soloEnv s c cr f d.uses).f.fid] } = cr := by
    rw [show (soloEnv s c cr f d.uses).f.fid = f.fid from Fibre.settle_fid _ _, ← V.solo.one]
  have hslot : ((Run.start s).stallCrew c 0).spend c.site (if 24 ≤ 1 then 1 else 2) 1 = slotTaken s c 1 := rfl
  have hnotes (l : List Nat) : l.find? (fun _ => false) = none := List.find?_eq_none.2 fun _ _ => Bool.false_ne_true
  have hbusy (l : List Nat) : l.any (fun _ => false) = false := List.any_eq_false.2 fun _ _ => Bool.false_ne_true
  have hill := V.illegal (Run.start s).s
  have hreads := V.reads
  have haway := V.away (Run.start s).s
  have hhold := F.hold (Run.start s).s (soloEnv s c cr f d.uses)
  unfold Run.issueWord
  simp only [hcur, hcrew, henvs, hgroup]
  generalize soloEnv s c cr f d.uses = e at *
  simp only [List.any_cons, List.any_nil, hfenced, hholds, List.filter_cons, List.filter_nil, hactive, hissues, hget,
    hill, Option.isSome_none, Bool.and_false, Bool.or_false, Bool.false_eq_true, if_false, ne_eq, not_true_eq_false,
    decide_false, hnotes, hbusy, decide_true, if_true, List.length_singleton, hstatic, haway, hreads, hserve,
    Bool.not_true, hpush, hhold, F.holdAll, List.filterMap_cons, List.filterMap_nil, Option.bind_none, each_nil,
    List.map_nil, raise_nil, List.map_cons, hslot, hflag, List.isEmpty_cons, Bool.not_false, reduceCtorEq, hobserve]
  exact congrArg₂ (fun x y => (slotTaken s c 1).issueLanes c x d (cr.group f.pc) [y]) hcrew' hlane

/-- The heads of the queues after one lane has taken its elements. -/
def takenHeads (us : List Use) : List (Nat × Nat) := (queueSrcs us).foldl (fun m n => KV.put n (KV.getD n 0 m + 1) m) []

/-- The lane passes every check. -/
theorem Solo.Served.passLane (V : Solo.Served s c cr f d) :
    Machine.passLane d { r := slotTaken s c 1 } (soloEnv s c cr f d.uses) =
      { r := slotTaken s c 1, ok := [soloEnv s c cr f d.uses], heads := takenHeads d.uses } := by
  have F := V.fixed
  have hrest := slotTaken_rest s c 1 V.solo.ready.crew
  have hv : ((d.uses.filter fun u => !u.dst).map fun u => readUse (slotTaken s c 1).s (soloEnv s c cr f d.uses).g
      (soloEnv s c cr f d.uses).f (KV.getD u.reg 0 []) u) = (soloEnv s c cr f d.uses).v :=
    List.map_congr_left fun u _ => readUse_of_scr (by rw [hrest]) (by rw [hrest]) _ _ _ u
  obtain ⟨hreg, helem⟩ := poison_none V.clean (soloEnv s c cr f d.uses).g []
  have hreg' : poisonReg d.uses (soloEnv s c cr f d.uses).v = none := hreg
  have helem' : poisonElem (soloEnv s c cr f d.uses).g [] d.uses (soloEnv s c cr f d.uses).v = none := helem
  have hown : poisonOwn d (soloEnv s c cr f d.uses) = none := by simp only [poisonOwn, F.eights]
  have hpreds : ((slotTaken s c 1).s.site (soloEnv s c cr f d.uses).site).preds = [] := by
    rw [show (soloEnv s c cr f d.uses).site = c.site from rfl, slotTaken_preds _ _ _ V.solo.ready.crew]
    exact V.solo.ready.preds
  have hill := V.illegal (slotTaken s c 1).s
  have haway := V.away (slotTaken s c 1).s
  have hreads := V.reads (soloEnv s c cr f d.uses)
  unfold Machine.passLane
  simp only [F.eights, Option.isSome_none, Bool.false_eq_true, if_false, hv, hill, F.region, and_false, haway, F.full,
    hreg', hown, helem', minReason, ite_self, watch_none _ _ _ _ _ _ hpreds, F.check, hreads, if_true, List.nil_append]
  rfl

/-- What a fixed-latency word of a one-fibre crew finds: its lane has passed it, and has taken its elements. -/
def Machine.Run.fed (r : Run s0) (c : Cur) (d : Desc s0) (e : Env) : Run s0 :=
  if queueSrcs d.uses = [] then r else (r.takeElems d.uses e).acquire c.site

/-- R178: a fixed-latency word of a one-fibre crew that names queues takes its lane's elements, an acquire, and has
its effect. -/
theorem Solo.Served.run (V : Solo.Served s c cr f d)
    (hpreds : ((d.act (Run.fed (soloStep s c cr d f) c d (soloEnv s c cr f d.uses)) [soloEnv s c cr f d.uses]).s.site
      c.site).preds = []) :
    runWord s d = .next (settleCrew c cr (f.pc + 4)
      (d.act (Run.fed (soloStep s c cr d f) c d (soloEnv s c cr f d.uses)) [soloEnv s c cr f d.uses])).s := by
  have F := V.fixed
  have hg : (slotTaken s c 1).s.gang cr.gang = s.gang cr.gang := slotTaken_gang _ _ _ _ V.solo.ready.crew
  have hlane := V.lane
  have hadvance (r : Run s) : r.advance d (soloEnv s c cr f d.uses) = r.setFibre (fkey cr.gang f.fid)
      (f.gone (cr.group f.pc) true ((soloEnv s c cr f d.uses).next d)) := by
    have h := V.solo.advance d r (by rw [hlane]; rfl)
    rwa [hlane] at h
  have hstep : ((slotTaken s c 1).dropHints c).each [soloEnv s c cr f d.uses] (fun r e => r.advance d e) =
      soloStep s c cr d f := by
    rw [soloStep, hlane]
    exact hadvance _
  have hfed (r : Run s) : (if queueSrcs d.uses ≠ [] ∧ [soloEnv s c cr f d.uses].any d.reads = true then
      (r.each [soloEnv s c cr f d.uses] fun r e => r.takeElems d.uses e).acquire c.site
      else r.each [soloEnv s c cr f d.uses] fun r e => r.takeElems d.uses e) = Run.fed r c d (soloEnv s c cr f d.uses) := by
    by_cases hq : queueSrcs d.uses = []
    · simp only [Run.fed, hq, ne_eq, not_true_eq_false, false_and, if_false, if_true, Run.each, List.foldl_cons,
        List.foldl_nil, Run.takeElems]
    · simp only [Run.fed, hq, ne_eq, not_false_eq_true, List.any_cons, V.reads, Bool.true_or, and_self, if_true, if_false]
      rfl
  have hactive : (soloEnv s c cr f d.uses).active = true := rfl
  have hpc : (soloEnv s c cr f d.uses).pc = f.pc := rfl
  have hafter := after_all d (slotTaken s c 1).s [soloEnv s c cr f d.uses] _ c.site
    (fun e he => by rw [List.mem_singleton.1 he]; rfl) hpreds (fun e _ => by rw [F.exc]; exact BitVec.zero_and) [] []
  have hstuck (r : Run s) : stuck d [soloEnv s c cr f d.uses] r = r := by
    simp only [stuck, F.exc, if_true, each_id]
  rw [hstuck] at hafter
  unfold runWord
  rw [V.issueWord]
  unfold Run.issueLanes
  simp only [List.filter_cons, List.filter_nil, hactive, if_true, Bool.not_true, Bool.false_eq_true, if_false, hg,
    List.length_singleton, V.static, List.foldl_cons, List.foldl_nil, V.passLane, List.any_nil, F.all, false_and,
    List.any_cons, decide_true, Bool.true_or, each_nil, V.solo.ready.word, List.head?_cons, Option.map_some,
    Option.getD_some, hpc]
  unfold Run.perform
  simp only [List.append_nil, hstep, F.pops, V.reads, F.full, Bool.not_false, Bool.true_or, Bool.and_self, if_true]
  rw [hfed, hafter]
  simp only [each_nil, raise_nil, doHalts_nil]
  rfl

/-! ### Before and after the effect -/

@[simp] theorem Machine.Fibre.passed_fid (f : Fibre) (h : Hints) (active : Bool) : (f.passed h active).fid = f.fid := by
  simp only [Fibre.passed, Fibre.now]
  split <;> exact Fibre.settle_fid _ _

theorem acquire_crews (r : Run s0) (site : Nat) : (r.acquire site).s.crews = r.s.crews := by
  unfold Run.acquire
  split <;> rfl

/-- An acquire and a change of a fibre change different parts of the state. -/
theorem acquire_updFibre {r : Run s0} {k : Nat} {y : Fibre} (h : KV.find? k r.s.fibres = some y) (site : Nat)
    (F : Fibre → Fibre) : ((r.acquire site).updFibre k F).s =
      ((Run.start { r.s with fibres := KV.put k (F y) r.s.fibres }).acquire site).s := by
  rw [updFibre_found (by rw [acquire_fibres]; exact h)]
  unfold Run.acquire
  split <;> rfl

/-- The lane of a one-fibre crew has passed a word that goes on at the next. -/
theorem Solo.soloStep_after (S : Solo s c cr f) (ht : d.target = none) : (soloStep s c cr d f).s = s.after c cr f := by
  have hnext : (soloLane s c cr d f).next d = f.pc + 4 := by
    have hpc : (soloLane s c cr d f).pc = f.pc := by
      change (s.fibre (fkey cr.gang f.fid)).pc = f.pc
      rw [S.fibre]
    simp only [Env.next, ht, hpc]
  have hput (y : Fibre) : KV.put (fkey cr.gang f.fid) y (slotTaken s c 1).s.fibres =
      KV.put (fkey cr.gang f.fid) y s.fibres := by
    rw [S.slotTaken_fibres]
    split_ifs
    · exact KV.put_put _ _ _ _
    · rfl
  have hdrop (r : Run s) : (r.dropHints c).s =
      { r.s with crews := KV.update (ckey c.site c.slot) (fun cr => { cr with hints := none }) r.s.crews } := rfl
  have hgone : f.gone (cr.group f.pc) true (f.pc + 4) = f.passed (cr.group f.pc) true := rfl
  rw [soloStep, hnext, hgone]
  simp only [Run.setFibre, hdrop, hput]
  rw [slotTaken_rest s c 1 S.ready.crew]
  simp only [KV.update, KV.find?_put_self, KV.put_put, State.after, State.issued, Fibre.passed_fid]

theorem Machine.State.after_fibres : (s.after c cr f).fibres =
    KV.put (fkey cr.gang f.fid) (f.passed (cr.group f.pc) true) s.fibres := by
  simp only [State.after, State.issued, Fibre.passed_fid]

theorem Solo.after_preds (S : Solo s c cr f) : ((s.after c cr f).site c.site).preds = [] := by
  simp only [State.site, KV.getD, State.after, State.issued, KV.find?_put_self, Option.getD_some]
  exact S.ready.preds

/-- Nothing is left to do for a crew whose fibre stays in it. -/
theorem Solo.stays (S : Solo s c cr f) {r : Run s} {y : Fibre}
    (hcrews : r.s.crews = (s.after c cr f).crews) (hfibres : r.s.fibres = KV.put (fkey cr.gang f.fid) y s.fibres)
    (hslot : y.slot = f.slot) (hstep : y.stepping = f.stepping) (hhalt : y.toHalt = f.toHalt) (fall : VAddr) :
    settleCrew c cr fall r = r := by
  have M := S.member
  refine S.settled r fall y ?_ ?_ (hstep.trans M.steps) (hhalt.trans M.halts) ?_
  · rw [hcrews]; exact KV.find?_put_self _ _ _
  · rw [hfibres]; exact KV.find?_put_self _ _ _
  · rw [hfibres, List.all_eq_true]
    intro x hx
    rcases KV.mem_put hx with rfl | hx
    · simp [Fibre.formable, hslot, M.slot]
    · exact List.all_eq_true.1 S.others x hx

/-! ### Rings -/

/-- The gangs with queue `n` of one of them become `q`. -/
def Machine.State.requeued (s : State) (gk n : Nat) (q : Queue) : List (Nat × Gang) :=
  KV.update gk (fun G => { G with queues := KV.put n q G.queues }) s.gangs

theorem Run.pop_ring {r : Run s0} {gk n : Nat} {q : Queue} (hq : KV.find? n (r.s.gang gk).queues = some q)
    (hkind : q.kind ≠ 3) : (r.pop gk n).s = { r.s with gangs := r.s.requeued gk n { q with head := q.head + 1 } } := by
  simp only [Run.pop, hq, if_neg hkind]
  rfl

theorem putScrWord_unscratched (r : Run s0) (k : Nat) (w : PW) :
    (r.putScrWord k w).s.unscratched = r.s.unscratched :=
  Run.each_const State.unscratched (f := fun q i => q.putScr (k + i) (w.v.extractLsb' (8 * i) 8))
    (fun q _ => putScr_unscratched q _ _) r _

theorem putScrWord_scr (r : Run s0) (k : Nat) (w : PW) : (r.putScrWord k w).s.scr =
    (r.each (List.range 4) fun q i => q.putScr (k + i) (w.v.extractLsb' (8 * i) 8)).s.scr := by
  rw [Run.putScrWord, Run.mod]
  rfl

/-- The bytes of a scratchpad word that has been written, and those beside it. -/
theorem putScrWord_read (r : Run s0) (hI : s0.Inv) {k : Nat} (hk : k + 4 ≤ scrTop) (w : PW) (x : Nat) :
    Memory.read (r.putScrWord k w).s.scr x =
      if k ≤ x ∧ x < k + 4 then (bytesOf 4 w.v.toNat).getD (x - k) 0 else Memory.read r.s.scr x := by
  rw [putScrWord_scr]
  refine read_written_in_turn (fun q => Memory.read q.s.scr x) (fun q i => q.putScr (k + i) (w.v.extractLsb' (8 * i) 8)) r
    fun q i hi => ?_
  rw [putScr_read q hI (by omega)]
  refine if_congr Iff.rfl ?_ rfl
  simp [bytesOf, hi, BitVec.extractLsb']

/-- A scratchpad word that has been written. -/
theorem putScrWord_scrWord (r : Run s0) (hI : s0.Inv) {k : Nat} (hk : k + 4 ≤ scrTop) (w : PW) {t : State}
    (ht : t.scr = (r.putScrWord k w).s.scr) : (t.scrWord k).v = w.v := by
  have hbytes : ((List.range 4).map fun i => Memory.read (r.putScrWord k w).s.scr (k + i)) = bytesOf 4 w.v.toNat := by
    refine List.map_congr_left fun i hi => ?_
    have hlt := List.mem_range.1 hi
    rw [putScrWord_read r hI hk, if_pos ⟨by omega, by omega⟩, Nat.add_sub_cancel_left]
    simp [bytesOf, hlt]
  rw [State.scrWord, ht, hbytes, ofBytes_word, BitVec.ofNat_toNat, BitVec.setWidth_eq]

/-- The scratchpad word at a place of a ring of a gang. -/
def ringSlot (G : Gang) (q : Queue) (at_ : Nat) : Nat := G.scrKey (q.base + at_ % q.slots * 4)

/-- A ring of words takes a word at its tail. -/
theorem Run.push_ring {r : Run s0} {gk n : Nat} {q : Queue} (hq : KV.find? n (r.s.gang gk).queues = some q)
    (hkind : q.kind ≠ 3) (hew : q.ew = 0) (w : PW) :
    let written := r.putScrWord (ringSlot (r.s.gang gk) q q.tail) w
    (r.push gk n [w]).s = { r.s with
      gangs := r.s.requeued gk n { q with tail := q.tail + 1 }
      scr := written.s.scr
      spoison := written.s.spoison } := by
  intro written
  have hpush : r.push gk n [w] = written.updGang gk fun g =>
      { g with queues := KV.put n { q with tail := q.tail + 1 } g.queues } := by
    have hregs : q.regs = 1 := by rw [Queue.regs, hew]; rfl
    unfold Run.push
    simp only [hq, if_neg hkind, hregs, Run.each, List.range_one, List.foldl_cons, List.foldl_nil, Nat.mul_zero,
      Nat.add_zero, Nat.mul_one, List.getD_cons_zero]
    rfl
  have hkept : written.s = { r.s with scr := written.s.scr, spoison := written.s.spoison } :=
    State.eq_of_unscratched (putScrWord_unscratched r _ w)
  have hgangs : written.s.gangs = r.s.gangs := by rw [hkept]
  rw [hpush, State.requeued, ← hgangs]
  exact congrArg (fun t : State => { t with gangs := written.s.requeued gk n { q with tail := q.tail + 1 } }) hkept

theorem result32_queue (r : Run s0) (e : Env) {d : BitVec 7} (h : isQueue d.toNat = true) (v : Word) :
    r.result32 e d v = r.push e.gk (d.toNat - 112) [{ v := v }] := by
  simp only [Run.result32, Run.result, h, if_true]

/-! ### A word of two sources on a ring -/

/-- The word of fields `a`, `b` and `e` under guard `g` is the next of a one-fibre crew of a core that waits for
nothing; its second source is a clean register, and queue `n` of the gang is a ring of words, `q`. -/
structure OnRing (s : State) (c : Cur) (cr : Crew) (f : Fibre) (g : BitVec 4) (a b e : BitVec 7) (n : Nat)
    (q : Queue) : Prop where
  solo : Solo s c cr f
  idle : ∀ n, f.IdleFlag n
  guard : guardOk g (f.now (cr.group f.pc)) = true
  hints : PlainHints (cr.group f.pc)
  core : isCore c.site = true
  ring : KV.find? n (s.gang cr.gang).queues = some q
  small : n < 12
  words : q.ew = 0
  kind : q.kind = 1 ∨ q.kind = 2
  legal : usesErr (s.gang cr.gang) 1 [src a, src b, dst e] = none
  plain : isQueue b.toNat = false
  clean : (readReg (s.gang cr.gang) (f.now (cr.group f.pc)) b.toNat).p = false

section
variable {g : BitVec 4} {a b e : BitVec 7} {i : Instr} {fn : Word → Word → Word} {n : Nat} {q : Queue}

theorem OnRing.mail (O : OnRing s c cr f g a b e n q) : q.kind ≠ 3 := by
  have := O.kind
  omega

theorem isQueue_ring {d : BitVec 7} (hd : d.toNat = 112 + n) (hn : n < 12) : isQueue d.toNat = true := by
  simp only [isQueue, hd, Bool.and_eq_true, decide_eq_true_eq]
  omega

theorem OnRing.second (O : OnRing s c cr f g a b e n q) (l : List PW)
    (hops : operands s (s.gang cr.gang) (f.now (cr.group f.pc)) [src a, src b, dst e] =
      [l, readUse s (s.gang cr.gang) (f.now (cr.group f.pc)) 0 (src b)]) :
    (soloEnv s c cr f [src a, src b, dst e]).w 0 = w0 l ∧
      (soloEnv s c cr f [src a, src b, dst e]).w 1 = val (s.gang cr.gang) (f.now (cr.group f.pc)) b := by
  rw [← w_src s _ _ b O.plain]
  simp only [Env.w, Env.op, soloEnv, hops]
  exact ⟨rfl, rfl⟩

/-! #### A pop -/

theorem OnRing.pop_srcs (O : OnRing s c cr f g a b e n q) (ha : a.toNat = 112 + n) :
    queueSrcs [src a, src b, dst e] = [a.toNat] := by
  simp [queueSrcs, src, dst, isQueue_ring ha O.small, O.plain]

theorem OnRing.pop_operands (O : OnRing s c cr f g a b e n q) (ha : a.toNat = 112 + n) :
    operands s (s.gang cr.gang) (f.now (cr.group f.pc)) [src a, src b, dst e] =
      [[s.scrWord (ringSlot (s.gang cr.gang) q q.head)],
       readUse s (s.gang cr.gang) (f.now (cr.group f.pc)) 0 (src b)] := by
  rw [ringSlot, ← readUse_ring ha O.small O.ring O.mail O.words]
  rfl

theorem OnRing.pop_served (O : OnRing s c cr f g a b e n q) (hwf : i.wf = true) (ha : a.toNat = 112 + n)
    (he : isQueue e.toNat = false) (hsome : q.head < q.tail)
    (hclean : (s.scrWord (ringSlot (s.gang cr.gang) q q.head)).p = false) :
    Solo.Served s c cr f (binDesc i g e a b fn) := by
  have hdsts : queueDsts [src a, src b, dst e] = [] := by simp [queueDsts, src, dst, he]
  have hnum : a.toNat - 112 = n := by omega
  refine ⟨O.solo, O.idle, binDesc_fixed hwf g e a b fn, O.guard, O.hints, O.core, O.legal, ?_, ?_, ?_⟩
  · change ∀ ws ∈ operands s (s.gang cr.gang) (f.now (cr.group f.pc)) [src a, src b, dst e], _
    rw [O.pop_operands ha]
    intro ws hws
    rcases List.mem_pair.1 hws with rfl | rfl
    · simp [hclean]
    · exact readUse_clean O.plain O.clean s 0
  · change s.queuesServe (s.gang cr.gang) 1 [src a, src b, dst e] = true
    simp only [State.queuesServe, O.pop_srcs ha, hdsts, List.all_cons, List.all_nil, hnum, O.ring, Queue.count,
      if_neg O.mail, Bool.and_true, decide_eq_true_eq]
    omega
  · simp [pushHold, binDesc, hdsts]

/-- The element is taken, an acquire. -/
theorem OnRing.pop_fed (O : OnRing s c cr f g a b e n q) (ha : a.toNat = 112 + n) (r : Run s) :
    r.fed c (binDesc i g e a b fn) (soloEnv s c cr f (binDesc (s0 := s) i g e a b fn).uses) = (r.pop cr.gang n).acquire c.site := by
  have hsrcs := O.pop_srcs ha
  have hnum : a.toNat - 112 = n := by omega
  have htake : r.takeElems [src a, src b, dst e] (soloEnv s c cr f [src a, src b, dst e]) = r.pop cr.gang n := by
    simp only [Run.takeElems, hsrcs, Run.each, List.foldl_cons, List.foldl_nil, hnum]
    rfl
  simp only [Run.fed, binDesc, hsrcs, htake, reduceCtorEq, if_false]

/-- The state after the word, which has its result from the ring's head. -/
theorem OnRing.pop_effect (O : OnRing s c cr f g a b e n q) (ha : a.toNat = 112 + n) (he : isQueue e.toNat = false) :
    let lane := soloEnv s c cr f (binDesc (s0 := s) i g e a b fn).uses
    ((binDesc i g e a b fn).act ((soloStep s c cr (binDesc i g e a b fn) f).fed c (binDesc i g e a b fn) lane) [lane]).s =
      ((Run.start { s.after c cr f with
        gangs := s.requeued cr.gang n { q with head := q.head + 1 }
        fibres := KV.put (fkey cr.gang f.fid) ((f.passed (cr.group f.pc) true).gets e
          (fn (s.scrWord (ringSlot (s.gang cr.gang) q q.head)).v (val (s.gang cr.gang) (f.now (cr.group f.pc)) b)))
            (s.after c cr f).fibres }).acquire c.site).s := by
  intro lane
  obtain ⟨hv0, hv1⟩ : lane.w 0 = (s.scrWord (ringSlot (s.gang cr.gang) q q.head)).v ∧
      lane.w 1 = val (s.gang cr.gang) (f.now (cr.group f.pc)) b := O.second _ (O.pop_operands ha)
  have hstep := O.solo.soloStep_after (d := binDesc i g e a b fn) rfl
  have hpop := Run.pop_ring (r := soloStep s c cr (binDesc i g e a b fn) f) (by rw [hstep]; exact O.ring) O.mail
  rw [hstep] at hpop
  have hfind : KV.find? (fkey cr.gang f.fid) ((soloStep s c cr (binDesc i g e a b fn) f).pop cr.gang n).s.fibres =
      some (f.passed (cr.group f.pc) true) := by
    rw [hpop]
    change KV.find? _ (s.after c cr f).fibres = _
    rw [State.after_fibres, KV.find?_put_self]
  rw [O.pop_fed ha]
  change (Run.result32 _ lane e _).s = _
  rw [result32_plain _ _ _ _ he, hv0, hv1]
  refine (acquire_updFibre hfind c.site _).trans ?_
  rw [hpop]
  rfl

/-- R122, R178, R259: a word of two sources takes the first from the head of a ring, an acquire. -/
theorem OnRing.pops (O : OnRing s c cr f g a b e n q) (hwf : i.wf = true) (ha : a.toNat = 112 + n)
    (he : isQueue e.toNat = false) (hsome : q.head < q.tail)
    (hclean : (s.scrWord (ringSlot (s.gang cr.gang) q q.head)).p = false) :
    runWord s (binDesc i g e a b fn) = .next ((Run.start { s.after c cr f with
      gangs := s.requeued cr.gang n { q with head := q.head + 1 }
      fibres := KV.put (fkey cr.gang f.fid) ((f.passed (cr.group f.pc) true).gets e
        (fn (s.scrWord (ringSlot (s.gang cr.gang) q q.head)).v (val (s.gang cr.gang) (f.now (cr.group f.pc)) b)))
          (s.after c cr f).fibres }).acquire c.site).s := by
  have heffect := O.pop_effect (i := i) (fn := fn) ha he
  have hkeep : Keeps fun x : Fibre => x.writeAt (f.passed (cr.group f.pc) true).count e.toNat
      { v := fn (s.scrWord (ringSlot (s.gang cr.gang) q q.head)).v (val (s.gang cr.gang) (f.now (cr.group f.pc)) b) } :=
    keeps_writeAt _ _ _
  obtain ⟨-, hslot, hstep, hhalt⟩ := passed_keeps f (cr.group f.pc) true
  rw [(O.pop_served hwf ha he hsome hclean).run
    (by rw [heffect, State.site, acquire_sites]; exact O.solo.after_preds)]
  refine congrArg Host.Outcome.next (Eq.trans (congrArg Run.s ?_) heffect)
  refine O.solo.stays ?_ ?_ ((hkeep.slot _).trans hslot) ((hkeep.stepping _).trans hstep)
    ((hkeep.toHalt _).trans hhalt) _
  · rw [heffect, acquire_crews]
    rfl
  · rw [heffect, acquire_fibres]
    change KV.put _ _ (s.after c cr f).fibres = _
    rw [State.after_fibres, KV.put_put]
    rfl

/-! #### A push -/

/-- What holds a push back (R122) is a pending access. -/
theorem pushHold_idle {d : Desc s0} {x : Env} (h : s.accessPending x.key = false) : pushHold s d x = false := by
  have hnone : (s.ops.any fun o => o.2.hasFibre x.key && o.2.isOpen && o.2.isMem) = false := by
    rw [List.any_eq_false]
    intro o ho
    have hop := List.any_eq_false.1 h o ho
    revert hop
    cases hk : o.2.kind <;> simp [Op.isMem, OpK.isAccess, hk]
  rw [pushHold, hnone, Bool.and_false]

theorem OnRing.push_srcs (O : OnRing s c cr f g a b e n q) (ha : isQueue a.toNat = false) :
    queueSrcs [src a, src b, dst e] = [] := by
  simp [queueSrcs, src, dst, ha, O.plain]

theorem OnRing.push_served (O : OnRing s c cr f g a b e n q) (hwf : i.wf = true) (he : e.toNat = 112 + n)
    (ha : isQueue a.toNat = false) (hap : (readReg (s.gang cr.gang) (f.now (cr.group f.pc)) a.toNat).p = false)
    (hroom : 0 < s.room (s.gang cr.gang).ctx q) (hdone : s.accessPending (fkey cr.gang f.fid) = false) :
    Solo.Served s c cr f (binDesc i g e a b fn) := by
  have hdsts : queueDsts [src a, src b, dst e] = [e.toNat] := by
    simp [queueDsts, src, dst, isQueue_ring he O.small]
  have hnum : e.toNat - 112 = n := by omega
  refine ⟨O.solo, O.idle, binDesc_fixed hwf g e a b fn, O.guard, O.hints, O.core, O.legal, ?_, ?_, pushHold_idle hdone⟩
  · change ∀ ws ∈ [readUse s (s.gang cr.gang) (f.now (cr.group f.pc)) 0 (src a),
      readUse s (s.gang cr.gang) (f.now (cr.group f.pc)) 0 (src b)], _
    intro ws hws
    rcases List.mem_pair.1 hws with rfl | rfl
    · exact readUse_clean ha hap s 0
    · exact readUse_clean O.plain O.clean s 0
  · change s.queuesServe (s.gang cr.gang) 1 [src a, src b, dst e] = true
    simp only [State.queuesServe, O.push_srcs ha, hdsts, List.all_cons, List.all_nil, hnum, O.ring, Bool.and_true,
      Bool.true_and, decide_eq_true_eq]
    omega

/-- The state after the word, which leaves its result at the ring's tail. -/
theorem OnRing.push_effect (O : OnRing s c cr f g a b e n q) (he : e.toNat = 112 + n) (ha : isQueue a.toNat = false) :
    let lane := soloEnv s c cr f (binDesc (s0 := s) i g e a b fn).uses
    let step := soloStep s c cr (binDesc i g e a b fn) f
    let written := step.putScrWord (ringSlot (s.gang cr.gang) q q.tail)
      { v := fn (val (s.gang cr.gang) (f.now (cr.group f.pc)) a) (val (s.gang cr.gang) (f.now (cr.group f.pc)) b) }
    ((binDesc i g e a b fn).act (step.fed c (binDesc i g e a b fn) lane) [lane]).s = { s.after c cr f with
      gangs := s.requeued cr.gang n { q with tail := q.tail + 1 }
      scr := written.s.scr
      spoison := written.s.spoison } := by
  intro lane step written
  obtain ⟨hv0, hv1⟩ : lane.w 0 = w0 (readUse s (s.gang cr.gang) (f.now (cr.group f.pc)) 0 (src a)) ∧
      lane.w 1 = val (s.gang cr.gang) (f.now (cr.group f.pc)) b := O.second _ rfl
  have hnum : e.toNat - 112 = n := by omega
  have hstep : step.s = s.after c cr f := O.solo.soloStep_after rfl
  have hfed : step.fed c (binDesc i g e a b fn) lane = step := by
    simp only [Run.fed, binDesc, O.push_srcs ha, if_true]
  have hgang : step.s.gang cr.gang = s.gang cr.gang := by rw [hstep]; rfl
  have hpush := Run.push_ring (r := step) (gk := cr.gang) (n := n) (q := q) (by rw [hgang]; exact O.ring) O.mail O.words
    { v := fn (val (s.gang cr.gang) (f.now (cr.group f.pc)) a) (val (s.gang cr.gang) (f.now (cr.group f.pc)) b) }
  rw [hfed]
  change (Run.result32 step lane e (fn (lane.w 0) (lane.w 1))).s = _
  rw [result32_queue _ _ (isQueue_ring he O.small), hnum, hv0, hv1, w_src s _ _ a ha]
  refine hpush.trans ?_
  rw [hgang, hstep]
  rfl

/-- R178, R259: a word of two sources, the fibre's accesses done, puts its result at the tail of a ring. -/
theorem OnRing.pushes (O : OnRing s c cr f g a b e n q) (hwf : i.wf = true) (he : e.toNat = 112 + n)
    (ha : isQueue a.toNat = false) (hap : (readReg (s.gang cr.gang) (f.now (cr.group f.pc)) a.toNat).p = false)
    (hroom : 0 < s.room (s.gang cr.gang).ctx q) (hdone : s.accessPending (fkey cr.gang f.fid) = false) :
    let written := (soloStep s c cr (binDesc i g e a b fn) f).putScrWord (ringSlot (s.gang cr.gang) q q.tail)
      { v := fn (val (s.gang cr.gang) (f.now (cr.group f.pc)) a) (val (s.gang cr.gang) (f.now (cr.group f.pc)) b) }
    runWord s (binDesc i g e a b fn) = .next { s.after c cr f with
      gangs := s.requeued cr.gang n { q with tail := q.tail + 1 }
      scr := written.s.scr
      spoison := written.s.spoison } := by
  intro written
  have heffect := O.push_effect (i := i) (fn := fn) he ha
  obtain ⟨-, hslot, hstep, hhalt⟩ := passed_keeps f (cr.group f.pc) true
  rw [(O.push_served hwf he ha hap hroom hdone).run (by rw [State.site, heffect]; exact O.solo.after_preds)]
  refine congrArg Host.Outcome.next (Eq.trans (congrArg Run.s ?_) heffect)
  refine O.solo.stays ?_ ?_ hslot hstep hhalt _
  · rw [heffect]
  · rw [heffect]
    exact State.after_fibres (c := c)

end

/-- Settles O59, from the laws of a pop and of a push of a word of two sources. -/
theorem queueOperands : Obligations.QueueOperands := by
  unfold Obligations.QueueOperands
  intro s c cr f g d a b n q S idle guard hints core G F us u slot binds ring small words legal plain clean
  have onRing (kind : q.kind = 1 ∨ q.kind = 2) : OnRing s c cr f g a b d n q :=
    ⟨S, idle, guard, hints, core, ring, small, words, kind, legal, plain, clean⟩
  refine ⟨fun ha hd kind hsome hp => (onRing kind).pops rfl ha hd hsome hp,
    fun hd ha hap kind hroom hdone htop => ⟨_, (onRing (.inl kind)).pushes rfl hd ha hap hroom hdone, rfl, ?_, ?_⟩⟩
  · exact putScrWord_scrWord (soloStep s c cr (binDesc (.add g d a b) g d a b (· + ·)) f) S.ready.inv htop
      { v := val G F a + val G F b } rfl
  · intro k hk
    have hread := putScrWord_read (soloStep s c cr (binDesc (.add g d a b) g d a b (· + ·)) f) S.ready.inv htop
      { v := val G F a + val G F b } k
    rw [if_neg (by omega), S.soloStep_after rfl] at hread
    exact hread

end Sys2Proof
end

section
/-! Words by which the fibre of a one-fibre crew leaves it: YIELD, CREWJOIN and SLEEP. -/

namespace Sys2Proof
open Machine
variable {s0 s : State} {c : Cur} {cr : Crew} {f : Fibre} {g : BitVec 4} {us : List Use}

/-- A word by which its lanes may leave their crew: it has no check of its own, takes no IMM, ships nowhere and names
no address. -/
structure Machine.Desc.Parting (d : Desc s0) (g : BitVec 4) (us : List Use) : Prop where
  guard : d.guard = g := by rfl
  uses : d.uses = us := by rfl
  bad : d.bad = none := by rfl
  wf : d.i.wf = true := by rfl
  pace : d.paceOk = true := by rfl
  sig : d.sigOk = true := by rfl
  target : d.target = none := by rfl
  home : d.homeOnly = false := by rfl
  sculler : d.scullerOnly = false := by rfl
  ship (t : State) (e : Env) : d.toSculler t e = none := by intros; rfl
  illeg (t : State) (e : Env) : d.illeg t e = none := by intros; rfl
  waits : d.waits = 0 := by rfl
  hold (t : State) (e : Env) : d.hold t e = false := by intros; rfl
  holdAll (t : State) (es : List Env) : d.holdAll t es = false := by intros; rfl
  check (t : State) (e : Env) : d.check t e = none := by intros; rfl
  eights : d.eights = none := by rfl
  full : d.full = false := by rfl
  exc (e : Env) : d.exc e = 0 := by intros; rfl

/-- Where the table of crews lists the crew's slot once, a word that takes the fibre `y` out of its crew does nothing
else. -/
theorem Stands.parts (T : Stands s c cr f g us) (hcrews : KV.sorted s.crews = true) (himm : (cr.group f.pc).imm = none)
    {d : Desc s} (D : d.Parting g us) {y : Fibre} (hstep : y.stepping = false) (hhalt : y.toHalt = none)
    (hact : ∀ r : Run s, r.s = s.after c cr f → (d.act r [soloEnv s c cr f us]).s = s.vacated c cr f y) :
    runWord s d = .next (s.vacated c cr f y) := by
  have S := T.solo
  have hplain : us.all (fun u => !isQueue u.reg) = true := T.fields.plain
  have hlane : soloLane s c cr d f = soloEnv s c cr f us := by
    rw [S.lane_eq d D.eights (by rw [D.guard]; exact T.guard), D.uses]
  have hactive : s.active cr f.pc g = [f.now (cr.group f.pc)] := by
    simp only [State.active, State.members, S.one, List.map_cons, List.map_nil, S.fibre, List.filter_singleton, T.guard]
    rfl
  have haway (t : State) : d.away t (soloEnv s c cr f us) = none := by
    simp only [Desc.away, D.home, D.uses, plain_any hplain, Bool.or_self, Bool.and_false, Bool.false_eq_true, if_false,
      D.ship, ite_self]
  have hpasses : d.Passes (slotTaken s c 1).s (soloEnv s c cr f us) := by
    refine ⟨?_, .inl ?_, haway _, fun h => absurd (D.full.symm.trans h) (by decide), ?_, ?_, D.check _ _⟩
    · simp only [Desc.laneIlleg, D.illeg, D.home, D.sculler, D.uses, plain_any hplain, Bool.or_self, Bool.and_false,
        Bool.false_eq_true, if_false, minReason]
    · exact (Fibre.settle_region _ _).trans (S.member.region rfl)
    · rw [D.uses]
      exact T.fields.clean _ (by rw [hactive]; exact List.mem_singleton_self _)
    · simp only [poisonOwn, D.eights]
  have hstatic : staticErr d { cr.group f.pc with wait := (cr.group f.pc).wait ||| d.waits } (s.gang cr.gang) 1 = none := by
    have hlegal : usesErr (s.gang cr.gang) 1 us = none := by
      have h := T.fields.legal
      rwa [hactive] at h
    obtain ⟨hrnd, hsat, htol, hnoal, hwskip⟩ := T.mods
    have hhints (w : BitVec 12) : hintErrs d { cr.group f.pc with wait := w } (s.gang cr.gang) = [] :=
      hintErrs_none S.ready.hints ⟨.inr (hrnd.resolve_left (by decide)), .inr (hsat.resolve_left (by decide)), htol,
        hnoal, hwskip⟩ D.pace (.inl D.sig) fun p hp => by cases himm.symm.trans hp
    simp only [staticErr, hhints, D.bad, D.wf, D.uses, hlegal]
    rfl
  have hleft := hact (soloStep s c cr d f) (S.soloStep_after D.target)
  have hstuck (r : Run s) : stuck d [soloEnv s c cr f us] r = r := by simp only [stuck, D.exc, if_true, each_id]
  have hrun := S.run T.idle d (by rw [D.uses]; exact hplain) (by rw [hlane]; rfl) hstatic (by rw [hlane]; exact haway s)
    (D.hold _ _) (D.holdAll _ _) (by rw [hlane]; exact hpasses) (by rw [D.exc]; exact BitVec.zero_and) (by
      rw [hlane, hleft, State.site]
      simp only [State.vacated, KV.getD, KV.find?_put_self, Option.getD_some]
      exact S.ready.preds)
  rw [hrun, hlane, hstuck, S.left _ _ ?gone ?still ?unhalted, hleft]
  case gone => rw [hleft]; exact KV.find?_del_self _ _ hcrews
  case still => rw [hleft, fibre_vacated]; exact hstep
  case unhalted => rw [hleft, fibre_vacated]; exact hhalt

/-- The fibre of a one-fibre crew that has passed its word leaves the crew. -/
theorem Solo.leaveCrew_after (S : Solo s c cr f) {r : Run s0} (hr : r.s = s.after c cr f) :
    (r.leaveCrew (fkey cr.gang f.fid)).s = s.vacated c cr f { f.passed (cr.group f.pc) true with slot := none } := by
  have hsite : (f.passed (cr.group f.pc) true).site = f.site := by
    simp only [Fibre.passed, Fibre.now]
    split <;> exact Fibre.settle_site _ _
  obtain ⟨-, hslot, -, -⟩ := passed_keeps f (cr.group f.pc) true
  exact leaveCrew_issued S.one hr (Fibre.passed_fid ..) (hsite.trans S.member.site) (hslot.trans S.member.slot)

/-- It waits in the boathouse, at the first word of its group. -/
theorem Solo.waitIn_after (S : Solo s c cr f) {r : Run s0} (hr : r.s = s.after c cr f) (us : List Use) (w : WaitK) :
    (r.waitIn (soloEnv s c cr f us) w).s = s.vacated c cr f (f.waiting (cr.group f.pc) w) :=
  updFibre_vacated (S.leaveCrew_after hr) _

/-- What `Part.LeavingWords` says of one state. -/
def LeavingWordsAt (s : State) (c : Cur) (cr : Crew) (f : Fibre) (g : BitVec 4) : Prop :=
  let h := cr.group f.pc
  (Stands s c cr f g [] →
    exec (.yield g) s = .next (s.vacated c cr f { f.passed h true with slot := none }) ∧
    exec (.crewjoin g) s = .next (s.vacated c cr f (f.waiting h (.join f.pc)))) ∧
  (∀ a, Stands s c cr f g [src a] →
    let n := val (s.gang cr.gang) (f.now h) a
    exec (.sleep g a) s = .next (s.vacated c cr f
      (if n = 0 then { f.passed h true with slot := none } else f.waiting h (.sleep (16 * n.toNat)))))

theorem leavingWords_iff : Part.LeavingWords ↔ ∀ s c cr f g, (cr.group f.pc).imm = none → LeavingWordsAt s c cr f g :=
  Iff.rfl

/-- The members of the issuing crew are the one fibre. -/
theorem Solo.curCrew_after (S : Solo s c cr f) : (s.after c cr f).curCrew = [fkey cr.gang f.fid] := by
  have hcur : (s.after c cr f).cur = some c := S.ready.cur
  have hcrew : KV.find? (ckey c.site c.slot) (s.after c cr f).crews = some { cr with hints := none, stall := 0 } :=
    KV.find?_put_self _ _ _
  simp only [State.curCrew, hcur, hcrew, S.one, List.map_cons, List.map_nil]

/-- YIELD, CREWJOIN and SLEEP do what the manual has them do in every state whose table of crews lists no slot
twice. -/
theorem leavingWordsAt_of_sorted (hcrews : KV.sorted s.crews = true) (himm : (cr.group f.pc).imm = none) :
    LeavingWordsAt s c cr f g := by
  obtain ⟨-, -, hstep, hhalt⟩ := passed_keeps f (cr.group f.pc) true
  refine ⟨fun T => ⟨?yield, ?crewjoin⟩, fun a T => ?sleep⟩
  all_goals
    have S := T.solo
    have still := hstep.trans S.member.steps
    have unhalted := hhalt.trans S.member.halts
  case yield =>
    refine T.parts hcrews himm {} still unhalted fun r hr => ?_
    simp only [reduceCtorEq, if_false, hr, S.curCrew_after]
    exact S.leaveCrew_after hr
  case crewjoin => exact T.parts hcrews himm {} still unhalted fun r hr => S.waitIn_after hr [] _
  case sleep =>
    have hplain : isQueue a.toNat = false := by simpa [src] using T.fields.plain
    have hw : (soloEnv s c cr f [src a]).w 0 = val (s.gang cr.gang) (f.now (cr.group f.pc)) a := w_src s _ _ a hplain
    refine T.parts hcrews himm {} ?_ ?_ fun r hr => ?_
    · split_ifs
      · exact still
      · exact still
    · split_ifs
      · exact unhalted
      · exact unhalted
    · simp only [perLane, Run.each, List.foldl_cons, List.foldl_nil, hw]
      split_ifs
      · exact S.leaveCrew_after hr
      · exact S.waitIn_after hr [src a] _

/-! ### A slot listed twice -/

/-- The fibre of `slotTwice` at a word without register fields. -/
theorem slotTwice_stands_plain : Stands slotTwice { site := 0, slot := 0 } { fids := [0] } misaligned 0 [] :=
  { slotTwice_stands with fields := ⟨by decide, rfl, by decide⟩ }

/-- Refutes O28: in `slotTwice` the fibre that YIELDs leaves its crew, but the crew's slot then names the other crew,
which the bystander joins, so that the state is not that of the leaving alone. The premises do not say that the table
of crews lists a slot once; where it does, the clause on YIELD holds, as do those on CREWJOIN and SLEEP
(`leavingWordsAt_of_sorted`). -/
theorem not_leavingCrews : ¬ Obligations.LeavingCrews := by
  unfold Obligations.LeavingCrews
  rw [leavingWords_iff]
  rintro ⟨hwords, -⟩
  obtain ⟨hplain, -⟩ := hwords slotTwice { site := 0, slot := 0 } { fids := [0] } misaligned 0 rfl
  obtain ⟨hyield, -⟩ := hplain slotTwice_stands_plain
  have hleft := congrArg (slotAfter (fkey 1 2)) hyield
  have hjoined : slotAfter (fkey 1 2) (exec (.yield 0) slotTwice) = some 0 := by decide +kernel
  exact absurd (hjoined.symm.trans hleft) (by decide +kernel)

end Sys2Proof
end

section
/-! A crew that a branch splits, in a state where two fibres bear one number. -/

namespace Sys2Proof
open Machine

/-- Member `fid` of a crew at a branch, with the predicates `preds`. -/
def forkMember (fid : Nat) (preds : BitVec 8) : Fibre where
  fid := fid
  slot := some 0
  pc := 4096
  preds := preds

/-- A fibre in the boathouse at the word behind the branch, which bears the number 1. -/
def namesake : Fibre where
  fid := 1
  pc := 4100

/-- The turn of a crew of the fibres 0 and 1, of which the guard p1 holds for fibre 1 alone. The table of fibres lists
a third of their gang, under key 2, which bears the number 1 too. -/
def numberTwice : State where
  cur := some { site := 0, slot := 0 }
  crews := [(0, { fids := [0, 1] })]
  gangs := [(0, { window := 96 })]
  ctxs := [(0, { st := .running })]
  fibres := [(0, forkMember 0 1), (1, forkMember 1 3), (2, namesake)]

theorem forkMember_idle (fid n : Nat) (preds : BitVec 8) : (forkMember fid preds).IdleFlag n := ⟨rfl, rfl⟩

theorem numberTwice_ready : Ready numberTwice { site := 0, slot := 0 } { fids := [0, 1] } 4096 := by
  have member (fid : Nat) (preds : BitVec 8) (h : fid < 1024) :
      Member { site := 0, slot := 0 } { fids := [0, 1] } 4096 fid (forkMember fid preds) :=
    have idle (n : Nat) := forkMember_idle fid n preds
    ⟨rfl, h, rfl, rfl, rfl, rfl, rfl, fun _ => rfl, rfl, rfl, idle 15, fun n _ => idle n, idle _⟩
  refine ⟨⟨by decide, by decide, by decide⟩, rfl, rfl, rfl, by decide, by decide, by decide, rfl, rfl, ?_⟩
  intro fid hf
  obtain rfl | rfl : fid = 0 ∨ fid = 1 := by simpa using hf
  · exact ⟨_, rfl, member 0 1 (by decide)⟩
  · exact ⟨_, rfl, member 1 3 (by decide)⟩

theorem numberTwice_idle : ∀ fid ∈ [0, 1], ∀ n, (numberTwice.fibre (fkey 0 fid)).IdleFlag n := by
  intro fid hf n
  obtain rfl | rfl : fid = 0 ∨ fid = 1 := by simpa using hf
  · exact forkMember_idle 0 n 1
  · exact forkMember_idle 1 n 3

/-- The numbers in the crew of slot 0 of core 0 after an outcome. -/
def fidsAfter : Host.Outcome State Fault Refusal → Option (List Nat)
  | .next t => (KV.find? 0 t.crews).map Crew.fids
  | _ => none

/-- Refutes O27: in `numberTwice` fibre 1 takes the branch and leaves its crew, and the third fibre, which stands at
the word behind, joins the crew in its place, under the number 1, which the statement says is gone. The premises do
not say that a fibre bears the number under which the table lists it. -/
theorem not_branchWords : ¬ Obligations.BranchWords := by
  unfold Obligations.BranchWords Part.SplitBranches
  rintro ⟨-, hsplits⟩
  obtain ⟨hbra, -⟩ := hsplits numberTwice { site := 0, slot := 0 } { fids := [0, 1] } 4096 1 numberTwice_ready
    ⟨.inr rfl, .inr rfl, rfl, rfl, rfl⟩ rfl numberTwice_idle
  obtain ⟨t, ht, hsplit⟩ := hbra 4
  obtain ⟨cr', hcr', -, -, hstay⟩ := hsplit.crew
  have hjoined : fidsAfter (exec (.bra 1 4) numberTwice) = some [0, 1] := by decide +kernel
  have hfids : cr'.fids = [0, 1] := by
    rw [show exec (.bra 1 4) numberTwice = .next t from ht] at hjoined
    have hcrew : KV.find? 0 t.crews = some cr' := hcr'
    simpa only [fidsAfter, hcrew, Option.map_some, Option.some.injEq] using hjoined
  have hgone := (hstay (forkMember 1 3) (by decide)).1 (hfids ▸ by decide)
  exact absurd hgone (by decide +kernel)

end Sys2Proof
end

section
/-! How a magnitude is rounded to a count of units (R217, R233). -/

namespace Sys2Proof
open Machine

/-- Which way a mode rounds a magnitude: to the nearest, toward zero, or away from it. -/
inductive Dir where
  | near
  | down
  | up

/-- Whether a magnitude too large for a format becomes an infinity that way. -/
def Dir.outward : Dir → Bool
  | .down => false
  | _ => true

theorem Dir.eq_down {d : Dir} (h : d.outward = false) : d = .down := by
  cases d with
  | down => rfl
  | near | up => exact absurd h (by decide)

/-- R217: the way of a mode, for a value of sign `s`. -/
def dirOf (rm : BitVec 2) (s : Bool) : Dir :=
  match rm.toNat with
  | 0 => .near
  | 1 => .down
  | 2 => if s then .down else .up
  | _ => if s then .up else .down

/-- `r` units are `x` units rounded, a tie to an even count. -/
def Dir.Counts (d : Dir) (x : ℚ) (r : ℕ) : Prop :=
  match d with
  | .near => |(r : ℚ) - x| ≤ 1 / 2 ∧ (|(r : ℚ) - x| = 1 / 2 → r % 2 = 0)
  | .down => (r : ℚ) ≤ x ∧ x < r + 1
  | .up => x ≤ r ∧ (r : ℚ) < x + 1

theorem Dir.counts_self (d : Dir) (r : ℕ) : d.Counts r r := by
  cases d <;> simp [Dir.Counts]

/-- A rounded count is less than one unit away. -/
theorem Dir.Counts.close {d : Dir} {x : ℚ} {r : ℕ} (h : d.Counts x r) : x - 1 < r ∧ (r : ℚ) < x + 1 := by
  cases d with
  | near =>
    have := abs_le.1 h.1
    constructor <;> linarith
  | down => exact ⟨by linarith [h.2], by linarith [h.1]⟩
  | up => exact ⟨by linarith [h.1], h.2⟩

theorem two_bit_cases (rm : BitVec 2) : rm.toNat = 0 ∨ rm.toNat = 1 ∨ rm.toNat = 2 ∨ rm.toNat = 3 := by
  have := rm.isLt
  omega

/-- Whether the rest above the units kept is rounded up. -/
theorem roundsUp_iff (rm : BitVec 2) (s : Bool) (keep rem shift : ℕ) (sticky : Bool) :
    roundsUp rm s keep rem shift sticky = true ↔ match dirOf rm s with
      | .near => 2 ^ (shift - 1) < rem ∨ (rem = 2 ^ (shift - 1) ∧ (sticky = true ∨ keep % 2 = 1))
      | .down => False
      | .up => rem ≠ 0 ∨ sticky = true := by
  unfold roundsUp dirOf
  rcases two_bit_cases rm with h | h | h | h <;> cases s <;> simp [h]

/-- A rest of `t` units above `keep` units is rounded up. -/
def Dir.Lifts (d : Dir) (t : ℚ) (keep : ℕ) : Prop :=
  match d with
  | .near => 1 / 2 < t ∨ (t = 1 / 2 ∧ keep % 2 = 1)
  | .down => False
  | .up => t ≠ 0

theorem Dir.Lifts.inexact {d : Dir} {t : ℚ} {keep : ℕ} (h : d.Lifts t keep) : t ≠ 0 := by
  rintro rfl
  cases d <;> norm_num [Dir.Lifts] at h

theorem Dir.counts_rest (d : Dir) {keep : ℕ} {t : ℚ} (h0 : 0 ≤ t) (h1 : t < 1) {up : Bool}
    (hup : up = true ↔ d.Lifts t keep) :
    d.Counts (keep + t) (if up then keep + 1 else keep) := by
  cases up with
  | true =>
    have h := hup.1 rfl
    simp only [if_true]
    cases d with
    | near =>
      have habs : |((keep + 1 : ℕ) : ℚ) - (keep + t)| = 1 - t := by
        push_cast
        rw [abs_of_nonneg] <;> linarith
      refine ⟨?_, fun heq => ?_⟩
      · rw [habs]
        rcases h with h | h <;> linarith
      · rw [habs] at heq
        rcases h with h | h
        · linarith
        · omega
    | down => exact h.elim
    | up =>
      have hpos : 0 < t := lt_of_le_of_ne h0 (Ne.symm h)
      constructor <;> push_cast <;> linarith
  | false =>
    have h : ¬ d.Lifts t keep := fun x => Bool.false_ne_true (hup.2 x)
    simp only [Bool.false_eq_true, if_false]
    cases d with
    | near =>
      obtain ⟨hle, hodd⟩ := not_or.1 h
      have habs : |(keep : ℚ) - (keep + t)| = t := by
        rw [abs_sub_comm, add_sub_cancel_left, abs_of_nonneg h0]
      refine ⟨by rw [habs]; exact not_lt.1 hle, fun heq => ?_⟩
      exact Nat.mod_two_ne_one.1 fun odd => hodd ⟨habs.symm.trans heq, odd⟩
    | down => exact ⟨by linarith, by linarith⟩
    | up =>
      have : t = 0 := not_not.1 h
      subst this
      constructor <;> linarith

/-! #### The rest above the units kept: `rem` of 2^(n + 1) parts of a unit, and `θ` of a part -/

section
variable {rem n : ℕ} {θ : ℚ}

theorem rest_lt_one (hrem : rem < 2 ^ (n + 1)) (h1 : θ < 1) : ((rem : ℚ) + θ) / 2 ^ (n + 1) < 1 := by
  have h : (rem : ℚ) + 1 ≤ 2 ^ (n + 1) := by exact_mod_cast hrem
  rw [div_lt_one (by positivity)]
  linarith

theorem half_lt_rest_iff (h0 : 0 ≤ θ) (h1 : θ < 1) :
    1 / 2 < ((rem : ℚ) + θ) / 2 ^ (n + 1) ↔ 2 ^ n < rem ∨ (rem = 2 ^ n ∧ θ ≠ 0) := by
  rw [lt_div_iff₀ (by positivity), pow_succ' (2 : ℚ)]
  rcases Nat.lt_trichotomy rem (2 ^ n) with h | h | h
  · have hq : (rem : ℚ) + 1 ≤ 2 ^ n := by exact_mod_cast h
    simp only [h.ne, h.le.not_gt, false_and, or_self, iff_false, not_lt]
    linarith
  · have hq : (rem : ℚ) = 2 ^ n := by exact_mod_cast h
    have hne : θ ≠ 0 ↔ 0 < θ := ⟨fun h => lt_of_le_of_ne h0 (Ne.symm h), fun h => h.ne'⟩
    rw [hq]
    simp only [h, lt_irrefl, true_and, false_or, hne]
    constructor <;> intro h <;> linarith
  · have hq : (2 : ℚ) ^ n + 1 ≤ rem := by exact_mod_cast h
    simp only [h, true_or, iff_true]
    linarith

theorem rest_eq_half_iff (h0 : 0 ≤ θ) (h1 : θ < 1) :
    ((rem : ℚ) + θ) / 2 ^ (n + 1) = 1 / 2 ↔ rem = 2 ^ n ∧ θ = 0 := by
  rw [div_eq_iff (by positivity), pow_succ' (2 : ℚ)]
  constructor
  · intro h
    have hlo : ((2 ^ n : ℕ) : ℚ) < (rem + 1 : ℕ) := by push_cast; linarith
    have hhi : (rem : ℚ) ≤ (2 ^ n : ℕ) := by push_cast; linarith
    have hr : rem = 2 ^ n := Nat.le_antisymm (by exact_mod_cast hhi) (Nat.lt_succ_iff.1 (by exact_mod_cast hlo))
    have hq : (rem : ℚ) = 2 ^ n := by exact_mod_cast hr
    exact ⟨hr, by linarith⟩
  · rintro ⟨rfl, rfl⟩
    push_cast
    ring

theorem rest_eq_zero_iff (h0 : 0 ≤ θ) : ((rem : ℚ) + θ) / 2 ^ (n + 1) = 0 ↔ rem = 0 ∧ θ = 0 := by
  rw [div_eq_zero_iff, or_iff_left (by positivity), add_eq_zero_iff_of_nonneg (Nat.cast_nonneg rem) h0, Nat.cast_eq_zero]

end

theorem roundsUp_rest_iff (rm : BitVec 2) (s : Bool) (keep rem n : ℕ) {sticky : Bool} {θ : ℚ} (h0 : 0 ≤ θ) (h1 : θ < 1)
    (hs : sticky = true ↔ θ ≠ 0) :
    roundsUp rm s keep rem (n + 1) sticky = true ↔ (dirOf rm s).Lifts (((rem : ℚ) + θ) / 2 ^ (n + 1)) keep := by
  rw [roundsUp_iff, Nat.add_sub_cancel]
  cases dirOf rm s with
  | near =>
    simp only [Dir.Lifts, half_lt_rest_iff h0 h1, rest_eq_half_iff h0 h1, hs]
    tauto
  | down => rfl
  | up =>
    simp only [Dir.Lifts, ne_eq, rest_eq_zero_iff h0, hs]
    tauto

/-- A magnitude of `m` and a rest of `θ` below one, in units of 2^e, is rounded to units of 2^q, and is inexact just
where the count is another. -/
theorem roundQ_counts (rm : BitVec 2) (s : Bool) (m : ℕ) (e q : ℤ) (sticky : Bool) {θ : ℚ} (h0 : 0 ≤ θ) (h1 : θ < 1)
    (hs : sticky = true ↔ θ ≠ 0) (hq : sticky = true → e < q) :
    (dirOf rm s).Counts ((m + θ) * 2 ^ (e - q)) (roundQ rm s m e q sticky).1 ∧
      ((roundQ rm s m e q sticky).2 = true ↔ ((roundQ rm s m e q sticky).1 : ℚ) ≠ (m + θ) * 2 ^ (e - q)) := by
  by_cases hqe : q ≤ e
  · have hst : sticky = false := Bool.eq_false_iff.2 fun h => by have := hq h; omega
    have hθ : θ = 0 := by_contra fun h => by simp [hs.2 h] at hst
    have hx : ((m : ℚ) + θ) * 2 ^ (e - q) = ((m * 2 ^ (e - q).toNat : ℕ) : ℚ) := by
      push_cast
      rw [hθ, add_zero, ← zpow_natCast, Int.toNat_of_nonneg (by omega)]
    unfold roundQ
    rw [if_pos hqe, hx]
    exact ⟨Dir.counts_self _ _, by simp [hst]⟩
  · obtain ⟨n, hn⟩ : ∃ n : ℕ, (q - e).toNat = n + 1 := ⟨(q - e).toNat - 1, by omega⟩
    have hrem : m % 2 ^ (n + 1) < 2 ^ (n + 1) := Nat.mod_lt _ (by positivity)
    have hm : (m : ℚ) = 2 ^ (n + 1) * (m / 2 ^ (n + 1) : ℕ) + (m % 2 ^ (n + 1) : ℕ) := by
      exact_mod_cast (Nat.div_add_mod m (2 ^ (n + 1))).symm
    have hx : ((m : ℚ) + θ) * 2 ^ (e - q) =
        (m / 2 ^ (n + 1) : ℕ) + ((m % 2 ^ (n + 1) : ℕ) + θ) / 2 ^ (n + 1) := by
      rw [show e - q = -((n + 1 : ℕ) : ℤ) by omega, zpow_neg, zpow_natCast, ← div_eq_mul_inv, div_eq_iff (by positivity),
        add_mul, div_mul_cancel₀ _ (by positivity)]
      linarith
    have hup := roundsUp_rest_iff rm s (m / 2 ^ (n + 1)) (m % 2 ^ (n + 1)) n h0 h1 hs
    have hinexact : (decide (m % 2 ^ (n + 1) ≠ 0) || sticky) = true ↔
        ((m % 2 ^ (n + 1) : ℕ) + θ) / 2 ^ (n + 1) ≠ 0 := by
      rw [Bool.or_eq_true, decide_eq_true_eq, hs, ne_eq (_ / _), rest_eq_zero_iff h0]
      tauto
    have ht0 : 0 ≤ (((m % 2 ^ (n + 1) : ℕ) : ℚ) + θ) / 2 ^ (n + 1) := by positivity
    have ht1 := rest_lt_one hrem h1
    unfold roundQ
    simp only [if_neg hqe, hn]
    rw [hx, hinexact]
    generalize m / 2 ^ (n + 1) = keep at *
    generalize ((m % 2 ^ (n + 1) : ℕ) + θ) / 2 ^ (n + 1) = t at *
    have C := Dir.counts_rest (dirOf rm s) ht0 ht1 hup
    generalize roundsUp rm s keep (m % 2 ^ (n + 1)) (n + 1) sticky = up at *
    refine ⟨C, ?_⟩
    cases up with
    | true =>
      refine iff_of_true (hup.1 rfl).inexact fun h => ?_
      simp only [if_true, Nat.cast_add, Nat.cast_one] at h
      linarith
    | false => simp

end Sys2Proof
end

section
/-! The finite codes of a format as an ordered grid of magnitudes (R214), and what rounding to it is (R217). -/

namespace Sys2Proof
open Machine

/-- The magnitude that a code without sign stands for. -/
def Machine.Fmt.magRat (F : Fmt) (k : ℕ) : ℚ :=
  if k / 2 ^ F.m = 0 then (2 : ℚ) ^ (1 - F.bias) * ((k % 2 ^ F.m : ℕ) / 2 ^ F.m)
  else (2 : ℚ) ^ (((k / 2 ^ F.m : ℕ) : ℤ) - F.bias) * (1 + (k % 2 ^ F.m : ℕ) / 2 ^ F.m)

/-- R214: the sign of a value. -/
def sgn (s : Bool) : ℚ := if s then -1 else 1

variable {F : Fmt}

theorem Machine.Fmt.rat_eq (F : Fmt) (c : ℕ) : F.rat c = sgn (F.neg c) * F.magRat (F.mag c) := rfl

/-- `r` units of an exponent, where `r` has the leading bit or the exponent is the least, have the code of that
exponent and `r`. -/
theorem magRat_place {a r : ℕ} (hr : r ≤ 2 ^ (F.m + 1)) (hn : a = 0 ∨ 2 ^ F.m ≤ r) :
    F.magRat (a * 2 ^ F.m + r) = r * 2 ^ (F.qmin + a) := by
  have hpos : 0 < 2 ^ F.m := by positivity
  have hsucc : 2 ^ (F.m + 1) = 2 * 2 ^ F.m := pow_succ' _ _
  have hq : (2 : ℚ) ^ F.qmin = 2 ^ (1 - F.bias) / 2 ^ F.m := by
    rw [Fmt.qmin, zpow_sub₀ two_ne_zero, zpow_natCast]
  rcases Nat.lt_or_ge r (2 ^ F.m) with h | h
  · obtain rfl : a = 0 := hn.resolve_right (by omega)
    have hdiv : (0 * 2 ^ F.m + r) / 2 ^ F.m = 0 := by rw [zero_mul, zero_add, Nat.div_eq_of_lt h]
    have hmod : (0 * 2 ^ F.m + r) % 2 ^ F.m = r := by rw [zero_mul, zero_add, Nat.mod_eq_of_lt h]
    rw [Fmt.magRat, if_pos hdiv, hmod, Nat.cast_zero, add_zero, hq]
    ring
  · obtain ⟨b, d, hd, rfl⟩ : ∃ b d, d < 2 ^ F.m ∧ r = b * 2 ^ F.m + d :=
      ⟨r / 2 ^ F.m, r % 2 ^ F.m, Nat.mod_lt _ hpos, by rw [mul_comm]; exact (Nat.div_add_mod _ _).symm⟩
    have hk : a * 2 ^ F.m + (b * 2 ^ F.m + d) = 2 ^ F.m * (a + b) + d := by ring
    have hdiv : (2 ^ F.m * (a + b) + d) / 2 ^ F.m = a + b := by
      rw [Nat.mul_add_div hpos, Nat.div_eq_of_lt hd, add_zero]
    have hmod : (2 ^ F.m * (a + b) + d) % 2 ^ F.m = d := by rw [Nat.mul_add_mod, Nat.mod_eq_of_lt hd]
    have hb : b = 1 ∨ (b = 2 ∧ d = 0) := by
      have h1 : 1 ≤ b := by
        by_contra h0
        obtain rfl : b = 0 := by omega
        omega
      have h2 : b ≤ 2 := by
        by_contra h3
        have := Nat.mul_le_mul_right (2 ^ F.m) (show 3 ≤ b by omega)
        omega
      rcases (by omega : b = 1 ∨ b = 2) with rfl | rfl
      · exact .inl rfl
      · exact .inr ⟨rfl, by omega⟩
    rw [hk, Fmt.magRat, hdiv, hmod, if_neg (by omega), zpow_add₀ two_ne_zero, hq, zpow_sub₀ two_ne_zero,
      zpow_sub₀ two_ne_zero, zpow_natCast, zpow_natCast, zpow_one, pow_add]
    rcases hb with rfl | ⟨rfl, rfl⟩
    · push_cast
      field_simp
    · push_cast
      field_simp
      ring

/-- Every code without sign is such a place. -/
theorem exists_place (F : Fmt) (k : ℕ) : ∃ a r, k = a * 2 ^ F.m + r ∧ r < 2 ^ (F.m + 1) ∧ (a = 0 ∨ 2 ^ F.m ≤ r) := by
  have hlt := Nat.mod_lt k (show 0 < 2 ^ F.m by positivity)
  have hk := Nat.div_add_mod k (2 ^ F.m)
  have hsucc : 2 ^ (F.m + 1) = 2 * 2 ^ F.m := pow_succ' _ _
  rcases hd : k / 2 ^ F.m with _ | a
  · exact ⟨0, k, by ring, by rw [hd, mul_zero] at hk; omega, .inl rfl⟩
  · refine ⟨a, 2 ^ F.m + k % 2 ^ F.m, ?_, by omega, .inr (by omega)⟩
    rw [hd] at hk
    linarith

theorem magRat_strictMono (F : Fmt) : StrictMono F.magRat := by
  refine strictMono_nat_of_lt_succ fun k => ?_
  obtain ⟨a, r, rfl, hr, hn⟩ := exists_place F k
  rw [add_assoc, magRat_place hr.le hn, magRat_place (r := r + 1) hr (hn.imp_right (by omega))]
  have : (0 : ℚ) < 2 ^ (F.qmin + a) := by positivity
  push_cast
  nlinarith

@[simp] theorem magRat_zero (F : Fmt) : F.magRat 0 = 0 := by simp [Fmt.magRat]

theorem magRat_nonneg (F : Fmt) (k : ℕ) : 0 ≤ F.magRat k := by
  rw [← magRat_zero F]
  exact (magRat_strictMono F).monotone (Nat.zero_le k)

/-- Of the magnitudes of the codes in `J`, that of `k` is `w` rounded in a direction. -/
def Picks (F : Fmt) (J : Set ℕ) (d : Dir) (w : ℚ) (k : ℕ) : Prop :=
  match d with
  | .near => ∀ j ∈ J, |F.magRat k - w| ≤ |F.magRat j - w| ∧
      (|F.magRat j - w| = |F.magRat k - w| → j ≠ k → k % 2 = 0)
  | .down => F.magRat k ≤ w ∧ ∀ j ∈ J, F.magRat j ≤ w → j ≤ k
  | .up => w ≤ F.magRat k ∧ ∀ j ∈ J, w ≤ F.magRat j → k ≤ j

theorem Picks.mono {J K : Set ℕ} {d : Dir} {w : ℚ} {k : ℕ} (h : Picks F K d w k) (hJ : J ⊆ K) : Picks F J d w k := by
  cases d with
  | near => exact fun j hj => h j (hJ hj)
  | down => exact ⟨h.1, fun j hj => h.2 j (hJ hj)⟩
  | up => exact ⟨h.1, fun j hj => h.2 j (hJ hj)⟩

section
variable {d : Dir} {x : ℚ} {a r j : ℕ}

/-- A count of units with the leading bit, or of the least exponent, is rounded to one. -/
theorem Dir.Counts.placed (C : d.Counts x r) (hx : x < 2 ^ (F.m + 1)) (hn : a = 0 ∨ 2 ^ F.m ≤ x) :
    r ≤ 2 ^ (F.m + 1) ∧ (a = 0 ∨ 2 ^ F.m ≤ r) := by
  obtain ⟨hlo, hhi⟩ := C.close
  constructor
  · have : (r : ℚ) < (2 ^ (F.m + 1) + 1 : ℕ) := by push_cast; linarith
    exact Nat.lt_succ_iff.1 (by exact_mod_cast this)
  · refine hn.imp_right fun h => ?_
    have : ((2 ^ F.m : ℕ) : ℚ) < (r + 1 : ℕ) := by push_cast; linarith
    exact Nat.lt_succ_iff.1 (by exact_mod_cast this)

theorem magRat_above (hr : r ≤ 2 ^ (F.m + 1)) (hlead : a = 0 ∨ 2 ^ F.m ≤ r) (hx : x < 2 ^ (F.m + 1))
    (hj : a * 2 ^ F.m + r < j) : (r + 1) * 2 ^ (F.qmin + a) ≤ F.magRat j ∨ x ≤ r := by
  rcases Nat.lt_or_ge r (2 ^ (F.m + 1)) with h | h
  · have hle := (magRat_strictMono F).monotone (show a * 2 ^ F.m + (r + 1) ≤ j from hj)
    rw [magRat_place h (hlead.imp_right (by omega))] at hle
    exact .inl (by exact_mod_cast hle)
  · have : (2 : ℚ) ^ (F.m + 1) ≤ r := by exact_mod_cast h
    exact .inr (hx.le.trans this)

theorem magRat_below (hr : r ≤ 2 ^ (F.m + 1)) (hn : a = 0 ∨ 2 ^ F.m ≤ x) (hj : j < a * 2 ^ F.m + r) :
    F.magRat j ≤ (r - 1) * 2 ^ (F.qmin + a) ∨ r ≤ x := by
  by_cases h : a = 0 ∨ 2 ^ F.m < r
  · obtain ⟨i, rfl⟩ : ∃ i, r = i + 1 := ⟨r - 1, by rcases h with rfl | h <;> omega⟩
    have hle := (magRat_strictMono F).monotone (show j ≤ a * 2 ^ F.m + i by omega)
    rw [magRat_place (by omega) (h.imp_right (by omega))] at hle
    exact .inl (by simpa using hle)
  · obtain ⟨ha, h⟩ := not_or.1 h
    have : (r : ℚ) ≤ 2 ^ F.m := by exact_mod_cast not_lt.1 h
    exact .inr (this.trans (hn.resolve_left ha))

/-- A rounded count of the units of an exponent is the rounded code. -/
theorem Dir.Counts.picks (C : d.Counts x r) (hm : 0 < F.m) (hx : x < 2 ^ (F.m + 1)) (hn : a = 0 ∨ 2 ^ F.m ≤ x) :
    Picks F Set.univ d (x * 2 ^ (F.qmin + a)) (a * 2 ^ F.m + r) := by
  obtain ⟨hr, hlead⟩ := C.placed hx hn
  have habove (j : ℕ) := magRat_above (j := j) hr hlead hx
  have hbelow (j : ℕ) := magRat_below (j := j) hr hn
  have hmono := magRat_strictMono F
  have hP : (0 : ℚ) < 2 ^ (F.qmin + a) := by positivity
  have hk := magRat_place hr hlead
  have hpar : (a * 2 ^ F.m + r) % 2 = r % 2 := by
    obtain ⟨n, hn⟩ := Nat.exists_eq_add_of_lt hm
    rw [hn, zero_add, pow_succ, ← mul_assoc, Nat.mul_add_mod']
  generalize (2 : ℚ) ^ (F.qmin + a) = P at *
  generalize a * 2 ^ F.m + r = k at *
  cases d with
  | near =>
    obtain ⟨hhalf, htie⟩ := C
    obtain ⟨hlo, hhi⟩ := abs_le.1 hhalf
    have hdist : |F.magRat k - x * P| = |(r : ℚ) - x| * P := by rw [hk, ← sub_mul, abs_mul, abs_of_pos hP]
    have hfar (j : ℕ) (hne : j ≠ k) : 1 / 2 * P ≤ |F.magRat j - x * P| ∨ |F.magRat k - x * P| < |F.magRat j - x * P| := by
      rcases Nat.lt_or_gt_of_ne hne with hj | hj
      · have hlt := hmono hj
        rw [abs_sub_comm (F.magRat j)]
        rcases hbelow j hj with h | h
        · exact .inl (le_abs.2 (.inl (by nlinarith)))
        · right
          have := mul_le_mul_of_nonneg_right h hP.le
          rw [abs_of_nonpos (by linarith)]
          exact lt_abs.2 (.inl (by linarith))
      · have hlt := hmono hj
        rcases habove j hj with h | h
        · exact .inl (le_abs.2 (.inl (by nlinarith)))
        · right
          have := mul_le_mul_of_nonneg_right h hP.le
          rw [abs_of_nonneg (by linarith)]
          exact lt_abs.2 (.inl (by linarith))
    intro j _
    by_cases hne : j = k
    · exact hne ▸ ⟨le_rfl, fun _ h => absurd rfl h⟩
    rcases hfar j hne with h | h
    · refine ⟨?_, fun heq _ => hpar.trans (htie (le_antisymm hhalf ?_))⟩
      · rw [hdist]
        exact (mul_le_mul_of_nonneg_right hhalf hP.le).trans h
      · rw [heq, hdist] at h
        exact le_of_mul_le_mul_right h hP
    · exact ⟨h.le, fun heq => absurd heq h.ne'⟩
  | down =>
    refine ⟨by rw [hk]; exact mul_le_mul_of_nonneg_right C.1 hP.le, fun j _ hj => not_lt.1 fun hlt => ?_⟩
    have hkj := hmono hlt
    rcases habove j hlt with h | h
    · have := mul_lt_mul_of_pos_right C.2 hP
      linarith
    · have := mul_le_mul_of_nonneg_right h hP.le
      linarith
  | up =>
    refine ⟨by rw [hk]; exact mul_le_mul_of_nonneg_right C.1 hP.le, fun j _ hj => not_lt.1 fun hlt => ?_⟩
    have hjk := hmono hlt
    rcases hbelow j hlt with h | h
    · have := mul_lt_mul_of_pos_right (show (r : ℚ) - 1 < x by linarith [C.2]) hP
      linarith
    · have := mul_le_mul_of_nonneg_right h hP.le
      linarith

end

/-! ### Codes with a sign -/

/-- A format has a field of each kind. -/
structure Machine.Fmt.Proper (F : Fmt) : Prop where
  exp : 0 < F.e
  man : 0 < F.m

theorem sgn_mul_sgn (s t : Bool) : sgn (s ^^ t) = sgn s * sgn t := by cases s <;> cases t <;> simp [sgn]
@[simp] theorem abs_sgn_mul (s : Bool) (x : ℚ) : |sgn s * x| = |x| := by cases s <;> simp [sgn]
theorem sgn_ne_zero (s : Bool) : sgn s ≠ 0 := by cases s <;> simp [sgn]

theorem finite_iff (P : F.Proper) (c : ℕ) : F.finite c = true ↔ F.mag c ≤ F.big := by
  obtain ⟨he, hm⟩ := P
  have hlt : F.mag c < 2 ^ (F.e + F.m) := Nat.mod_lt _ (by positivity)
  have hpow : 2 ^ (F.e + F.m) = 2 ^ F.e * 2 ^ F.m := pow_add _ _ _
  have htwo : 2 ≤ 2 ^ F.e := Nat.pow_le_pow_right (n := 2) (by norm_num) he |>.trans' (by norm_num)
  have hmant : 2 ≤ 2 ^ F.m := Nat.pow_le_pow_right (n := 2) (by norm_num) hm |>.trans' (by norm_num)
  unfold Fmt.finite Fmt.isNan Fmt.isInf Fmt.big
  cases hF : F.inf with
  | true =>
    have hef : F.ef c ≠ 2 ^ F.e - 1 ↔ F.mag c ≤ F.infCode - 1 := by
      have h1 : F.ef c < 2 ^ F.e := by
        rw [Fmt.ef, Nat.div_lt_iff_lt_mul (by positivity), ← hpow]
        exact hlt
      have h2 : F.ef c < 2 ^ F.e - 1 ↔ F.mag c < F.infCode := by
        rw [Fmt.ef, Nat.div_lt_iff_lt_mul (by positivity), Fmt.infCode]
      have h3 : 0 < F.infCode := Nat.mul_pos (by omega) (by omega)
      omega
    simp only [if_true, ← hef]
    by_cases h : F.ef c = 2 ^ F.e - 1
    · by_cases hmf : F.mf c = 0 <;> simp [h, hmf]
    · simp [h]
  | false =>
    have : 4 ≤ 2 ^ (F.e + F.m) := by rw [hpow]; exact Nat.mul_le_mul htwo hmant
    simp only [Bool.false_and, Bool.not_false, Bool.and_true, Bool.false_eq_true, if_false, Bool.not_eq_true',
      decide_eq_false_iff_not]
    omega

theorem big_lt (P : F.Proper) : F.big < 2 ^ (F.e + F.m) := by
  obtain ⟨he, hm⟩ := P
  have h : F.infCode ≤ 2 ^ (F.e + F.m) := by
    rw [Fmt.infCode, pow_add]
    exact Nat.mul_le_mul_right _ (Nat.sub_le _ _)
  have : 0 < 2 ^ (F.e + F.m) := by positivity
  unfold Fmt.big
  split <;> omega

section
variable {k : ℕ} (hk : k < 2 ^ (F.e + F.m)) (s : Bool)
include hk

theorem mag_signed : F.mag (F.signBit s + k) = k := by
  cases s <;> simp [Fmt.mag, Fmt.signBit, Nat.mod_eq_of_lt hk]

theorem neg_signed : F.neg (F.signBit s + k) = s := by
  cases s <;> simp [Fmt.neg, Fmt.signBit, Nat.div_eq_of_lt hk]

theorem rat_signed : F.rat (F.signBit s + k) = sgn s * F.magRat k := by
  rw [Fmt.rat_eq, mag_signed hk, neg_signed hk]

end

theorem signed_mod_two (P : F.Proper) (s : Bool) (k : ℕ) : (F.signBit s + k) % 2 = k % 2 := by
  obtain ⟨n, hn⟩ := Nat.exists_eq_add_of_lt P.man
  cases s
  · simp [Fmt.signBit]
  · rw [Fmt.signBit, if_pos rfl, hn, zero_add, ← add_assoc, pow_succ, mul_comm, Nat.mul_add_mod]

end Sys2Proof
end

section
/-! What rounding an exact value to a format gives (R217). -/

namespace Sys2Proof
open Machine
variable {F : Fmt} {rm : BitVec 2} {s : Bool} {k : ℕ} {v w : ℚ}

/-- A finite code of just the value is the value rounded. -/
theorem Rounds.exact {c : ℕ} (hf : F.finite c = true) (hv : F.rat c = v) : Rounds F rm v c := by
  subst hv
  unfold Rounds
  refine ⟨hf, ?_⟩
  rcases two_bit_cases rm with h | h | h | h <;> simp only [h]
  · intro y _
    refine ⟨by simp, fun heq hne => absurd ?_ hne⟩
    rwa [sub_self, abs_zero, abs_eq_zero, sub_eq_zero] at heq
  · exact ⟨le_rfl, mul_self_nonneg _, fun _ _ h _ => h⟩
  · exact ⟨le_rfl, fun _ _ h => h⟩
  · exact ⟨le_rfl, fun _ _ h => h⟩

theorem sgn_mul_self (s : Bool) : sgn s * sgn s = 1 := by cases s <;> simp [sgn]

/-- The value of a finite code, seen with the sign `s`, is the magnitude of a code or its negative. -/
theorem signed_magnitude (P : F.Proper) (s : Bool) {y : ℕ} (hy : F.finite y = true) :
    ∃ j ∈ Set.Iic F.big, sgn s * F.rat y = F.magRat j ∨ sgn s * F.rat y = -F.magRat j := by
  refine ⟨F.mag y, (finite_iff P y).1 hy, ?_⟩
  rw [F.rat_eq]
  cases s <;> cases F.neg y <;> simp [sgn]

section
variable {J : Set ℕ} {u : ℚ} {j : ℕ}

theorem Picks.le_of_le (h : Picks F J .down w k) (hj : j ∈ J) (hu : u = F.magRat j ∨ u = -F.magRat j) (huw : u ≤ w) :
    u ≤ F.magRat k := by
  rcases hu with rfl | rfl
  · exact (magRat_strictMono F).monotone (h.2 j hj huw)
  · linarith [magRat_nonneg F j, magRat_nonneg F k]

theorem Picks.ge_of_ge (h : Picks F J .up w k) (hw : 0 < w) (hj : j ∈ J) (hu : u = F.magRat j ∨ u = -F.magRat j)
    (huw : w ≤ u) : F.magRat k ≤ u := by
  rcases hu with rfl | rfl
  · exact (magRat_strictMono F).monotone (h.2 j hj huw)
  · linarith [magRat_nonneg F j]

theorem Picks.nearest (h : Picks F J .near w k) (h0 : 0 ∈ J) (hw : 0 < w) (hj : j ∈ J)
    (hu : u = F.magRat j ∨ u = -F.magRat j) :
    |F.magRat k - w| ≤ |u - w| ∧ (|u - w| = |F.magRat k - w| → u ≠ F.magRat k → k % 2 = 0) := by
  rcases hu with rfl | rfl
  · obtain ⟨hle, htie⟩ := h j hj
    exact ⟨hle, fun heq hne => htie heq fun hjk => hne (hjk ▸ rfl)⟩
  · obtain ⟨hle, htie⟩ := h 0 h0
    have hpos := magRat_nonneg F j
    have hzero : |F.magRat 0 - w| = w := by rw [magRat_zero, zero_sub, abs_neg, abs_of_pos hw]
    have hfar : |-F.magRat j - w| = F.magRat j + w := by rw [abs_of_nonpos (by linarith)]; ring
    rw [hzero] at hle htie
    rw [hfar]
    refine ⟨by linarith, fun heq hne => htie (by linarith) fun hk => hne ?_⟩
    rw [← hk, magRat_zero]
    linarith

end

/-- A code whose magnitude is the rounded one, with the sign of the value, is the value rounded. -/
theorem Picks.rounds (P : F.Proper) (hk : k ≤ F.big) (hw : 0 < w) (h : Picks F (Set.Iic F.big) (dirOf rm s) w k) :
    Rounds F rm (sgn s * w) (F.signBit s + k) := by
  have hlt := hk.trans_lt (big_lt P)
  have hrat := rat_signed hlt s
  have hpos := magRat_nonneg F
  have hflip (x : ℚ) : sgn s * (sgn s * x) = x := by rw [← mul_assoc, sgn_mul_self, one_mul]
  unfold Rounds
  refine ⟨(finite_iff P _).2 (by rwa [mag_signed hlt]), ?_⟩
  unfold dirOf at h
  rw [hrat, signed_mod_two P]
  rcases two_bit_cases rm with hm | hm | hm | hm <;> simp only [hm] at h ⊢
  · intro y hy
    obtain ⟨j, hj, hu⟩ := signed_magnitude P s hy
    obtain ⟨hle, htie⟩ := h.nearest (Nat.zero_le _) hw hj hu
    have hdist (x : ℚ) : |x - sgn s * w| = |sgn s * x - w| := by
      rw [← abs_sgn_mul s (x - _), mul_sub, hflip]
    rw [hdist, hdist, hflip]
    exact ⟨hle, fun heq hne => htie heq fun hu' => hne (by rw [← hu', hflip])⟩
  · rw [abs_sgn_mul, abs_sgn_mul, abs_of_pos hw, abs_of_nonneg (hpos k)]
    refine ⟨h.1, by rw [mul_mul_mul_comm, sgn_mul_self, one_mul]; exact mul_nonneg (hpos k) hw.le, fun y hy hyw _ => ?_⟩
    rw [F.rat_eq, abs_sgn_mul, abs_of_nonneg (hpos _)] at hyw ⊢
    exact h.le_of_le ((finite_iff P y).1 hy) (.inl rfl) hyw
  · cases s with
    | false =>
      simp only [Bool.false_eq_true, if_false, sgn, one_mul] at h ⊢
      refine ⟨h.1, fun y hy hyw => ?_⟩
      obtain ⟨j, hj, hu⟩ := signed_magnitude P false hy
      simp only [sgn, Bool.false_eq_true, if_false, one_mul] at hu
      exact h.ge_of_ge hw hj hu hyw
    | true =>
      simp only [if_true, sgn, neg_one_mul] at h ⊢
      refine ⟨neg_le_neg h.1, fun y hy hyw => ?_⟩
      obtain ⟨j, hj, hu⟩ := signed_magnitude P true hy
      simp only [sgn, if_true, neg_one_mul] at hu
      exact neg_le.1 (h.le_of_le hj hu (neg_le.1 hyw))
  · cases s with
    | false =>
      simp only [Bool.false_eq_true, if_false, sgn, one_mul] at h ⊢
      refine ⟨h.1, fun y hy hyw => ?_⟩
      obtain ⟨j, hj, hu⟩ := signed_magnitude P false hy
      simp only [sgn, Bool.false_eq_true, if_false, one_mul] at hu
      exact h.le_of_le hj hu hyw
    | true =>
      simp only [if_true, sgn, neg_one_mul] at h ⊢
      refine ⟨neg_le_neg h.1, fun y hy hyw => ?_⟩
      obtain ⟨j, hj, hu⟩ := signed_magnitude P true hy
      simp only [sgn, if_true, neg_one_mul] at hu
      exact le_neg.1 (h.ge_of_ge hw hj hu (le_neg.1 hyw))

end Sys2Proof
end

section
/-! `Fmt.round` delivers the value rounded (R217). -/

namespace Sys2Proof
open Machine
variable {F : Fmt} {rm : BitVec 2} {s : Bool} {k : ℕ} {v w θ : ℚ} {x : Ex} {sticky : Bool}

/-- What becomes of a value beyond the largest finite magnitude (R217). -/
def Machine.Fmt.beyond (F : Fmt) (rm : BitVec 2) (s : Bool) : Rounded :=
  let inf := (dirOf rm s).outward
  { code := F.signBit s + (if inf then F.infCode else F.big), exc := { of := true, nx := true },
    toInf := inf, toBig := !inf }

theorem overflow_dir : ∀ rm : BitVec 2, ∀ s : Bool,
    (decide (rm = 0) || (decide (rm = 2) && !s) || (decide (rm = 3) && s)) = (dirOf rm s).outward := by
  decide

/-- A magnitude that is no zero is rounded to a code, which is kept where it is finite. -/
theorem round_picks (hm : 0 < F.m) (hne : x.m ≠ 0) (h0 : 0 ≤ θ) (h1 : θ < 1) (hs : sticky = true ↔ θ ≠ 0)
    (hbits : sticky = true → 2 ^ (F.m + 1) ≤ x.m) :
    ∃ k, Picks F Set.univ (dirOf rm x.s) ((x.m + θ) * 2 ^ x.e) k ∧
      (F.big < k → F.round rm x sticky = F.beyond rm x.s) ∧
      (k ≤ F.big → ∃ uf, F.round rm x sticky =
        { code := F.signBit x.s + k, exc := { uf := uf, nx := decide (F.magRat k ≠ (x.m + θ) * 2 ^ x.e) } }) := by
  have hlog : 2 ^ Nat.log2 x.m ≤ x.m := Nat.log2_self_le hne
  have hlog' : x.m + 1 ≤ 2 ^ (Nat.log2 x.m + 1) := Nat.lt_log2_self
  obtain ⟨q, hq⟩ : ∃ q, max ((Nat.log2 x.m : ℤ) + x.e - F.m) F.qmin = q := ⟨_, rfl⟩
  obtain ⟨a, ha⟩ : ∃ a : ℕ, q = F.qmin + a := ⟨(q - F.qmin).toNat, by omega⟩
  have hsticky : sticky = true → x.e < q := fun h => by
    have := hbits h
    have : F.m + 1 ≤ Nat.log2 x.m := (Nat.le_log2 hne).2 this
    omega
  obtain ⟨C, hnx⟩ := roundQ_counts rm x.s x.m x.e q sticky h0 h1 hs hsticky
  have hX : ((x.m : ℚ) + θ) * 2 ^ (x.e - q) < 2 ^ (F.m + 1) := by
    have hlt : (x.m : ℚ) + θ < 2 ^ ((Nat.log2 x.m + 1 : ℕ) : ℤ) := by
      have : ((x.m + 1 : ℕ) : ℚ) ≤ (2 ^ (Nat.log2 x.m + 1) : ℕ) := by exact_mod_cast hlog'
      rw [zpow_natCast]
      push_cast at this
      linarith
    calc ((x.m : ℚ) + θ) * 2 ^ (x.e - q)
        < 2 ^ ((Nat.log2 x.m + 1 : ℕ) : ℤ) * 2 ^ (x.e - q) := mul_lt_mul_of_pos_right hlt (by positivity)
      _ = 2 ^ (((Nat.log2 x.m + 1 : ℕ) : ℤ) + (x.e - q)) := (zpow_add₀ two_ne_zero _ _).symm
      _ ≤ 2 ^ ((F.m + 1 : ℕ) : ℤ) := zpow_le_zpow_right₀ one_le_two (by push_cast; omega)
      _ = 2 ^ (F.m + 1) := zpow_natCast _ _
  have hlead : a = 0 ∨ 2 ^ F.m ≤ ((x.m : ℚ) + θ) * 2 ^ (x.e - q) := by
    by_cases hqm : a = 0
    · exact .inl hqm
    right
    have hle : (2 : ℚ) ^ (Nat.log2 x.m : ℤ) ≤ x.m + θ := by
      have : ((2 ^ Nat.log2 x.m : ℕ) : ℚ) ≤ x.m := by exact_mod_cast hlog
      rw [zpow_natCast]
      push_cast at this
      linarith
    calc (2 : ℚ) ^ F.m = 2 ^ ((Nat.log2 x.m : ℤ) + (x.e - q)) := by
          rw [← zpow_natCast]
          congr 1
          omega
      _ = 2 ^ (Nat.log2 x.m : ℤ) * 2 ^ (x.e - q) := zpow_add₀ two_ne_zero _ _
      _ ≤ (x.m + θ) * 2 ^ (x.e - q) := mul_le_mul_of_nonneg_right hle (by positivity)
  have hw : ((x.m : ℚ) + θ) * 2 ^ (x.e - q) * 2 ^ (F.qmin + a) = (x.m + θ) * 2 ^ x.e := by
    rw [mul_assoc, ← zpow_add₀ two_ne_zero, ha, sub_add_cancel]
  have hpick := C.picks hm hX hlead
  obtain ⟨hr, hplaced⟩ := C.placed hX hlead
  rw [hw] at hpick
  have hinexact : (roundQ rm x.s x.m x.e q sticky).2 =
      decide (F.magRat (a * 2 ^ F.m + (roundQ rm x.s x.m x.e q sticky).1) ≠ (x.m + θ) * 2 ^ x.e) := by
    rw [Bool.eq_iff_iff, hnx, decide_eq_true_eq, magRat_place hr hplaced, ← hw, ne_eq, ne_eq, mul_left_inj' (by positivity)]
  have hnz : ¬(x.m = 0 ∧ (!sticky) = true) := fun h => hne h.1
  have hcode : (q - F.qmin).toNat = a := by omega
  refine ⟨_, hpick, fun hk => ?_, fun hk => ?_⟩
  · simp only [Fmt.round, if_neg hnz, hq, hcode, overflow_dir, if_pos hk]
    rfl
  · simp only [Fmt.round, if_neg hnz, hq, hcode, if_neg (not_lt.2 hk), ← hinexact]
    exact ⟨_, rfl⟩

/-- What is rounded beyond the largest finite magnitude lies beyond it. -/
theorem Picks.beyond {d : Dir} (h : Picks F Set.univ d w k) (hk : F.big < k) : F.magRat F.big < w := by
  have hlt := magRat_strictMono F hk
  by_contra hw
  rw [not_lt] at hw
  cases d with
  | near =>
    obtain ⟨hle, -⟩ := h F.big trivial
    rw [abs_of_nonneg (by linarith), abs_of_nonneg (by linarith)] at hle
    linarith
  | down => linarith [h.1]
  | up => exact absurd (h.2 F.big trivial hw) (by omega)

theorem rat_big (P : F.Proper) : F.rat F.big = F.magRat F.big := by
  have := rat_signed (big_lt P) false
  simpa [Fmt.signBit, sgn] using this

theorem finite_signed (P : F.Proper) (s : Bool) (hk : k ≤ F.big) : F.finite (F.signBit s + k) = true :=
  (finite_iff P _).2 (by rwa [mag_signed (hk.trans_lt (big_lt P))])

theorem not_isInf {c : ℕ} (h : F.finite c = true) : F.isInf c = false := by
  simp only [Fmt.finite, Bool.and_eq_true, Bool.not_eq_true'] at h
  exact h.2

theorem isInf_infCode (hinf : F.inf = true) (s : Bool) : F.isInf (F.signBit s + F.infCode) = true := by
  have hpos : 0 < 2 ^ F.m := by positivity
  have hlt : F.infCode < 2 ^ (F.e + F.m) := by
    rw [Fmt.infCode, pow_add]
    exact Nat.mul_lt_mul_of_pos_right (Nat.sub_lt (by positivity) one_pos) hpos
  have hmag : F.mag (F.signBit s + F.infCode) = (2 ^ F.e - 1) * 2 ^ F.m := mag_signed hlt s
  simp [Fmt.isInf, hinf, Fmt.ef, Fmt.mf, hmag]

/-- A code of a magnitude that is within the format is the value rounded, inexact where it differs. -/
theorem Picks.kept (P : F.Proper) (h : Picks F Set.univ (dirOf rm s) w k) (hw : 0 < w) (hk : k ≤ F.big) :
    Rounds F rm (sgn s * w) (F.signBit s + k) ∧
      (F.magRat k ≠ w ↔ F.rat (F.signBit s + k) ≠ sgn s * w) := by
  refine ⟨(h.mono (Set.subset_univ _)).rounds P hk hw, ?_⟩
  rw [rat_signed (hk.trans_lt (big_lt P)), ne_eq, ne_eq, mul_right_inj' (sgn_ne_zero s)]

theorem beyond_delivers (P : F.Proper) (hinf : F.inf = true) (h : Picks F Set.univ (dirOf rm s) w k)
    (hw : 0 < w) (hk : F.big < k) : Delivers F rm (sgn s * w) (F.beyond rm s).res := by
  have hbig := h.beyond hk
  unfold Fmt.beyond
  cases hd : (dirOf rm s).outward with
  | false =>
    have hpick : Picks F (Set.Iic F.big) (dirOf rm s) w F.big := by
      rw [Dir.eq_down hd]
      exact ⟨hbig.le, fun j hj _ => hj⟩
    have hrat := rat_signed (big_lt P) s
    simp only [ne_eq, Bool.false_eq_true, if_false, Rounded.res, Delivers,
      not_isInf (finite_signed P s le_rfl), false_imp_iff, forall_true_left, and_self, and_true, true_iff]
    exact ⟨hpick.rounds P le_rfl hw, by rw [hrat, mul_right_inj' (sgn_ne_zero s)]; exact hbig.ne⟩
  | true =>
    simp only [if_true, Rounded.res, Delivers, isInf_infCode hinf,
      Bool.true_eq_false, false_imp_iff, forall_true_left, and_self, and_true, true_and]
    rwa [rat_big P, abs_sgn_mul, abs_of_pos hw]

theorem rat_signed_zero (P : F.Proper) (s : Bool) : F.rat (F.signBit s) = 0 := by
  have h := rat_signed ((Nat.zero_le _).trans_lt (big_lt P)) s
  rwa [magRat_zero, mul_zero, add_zero] at h

theorem zero_rounds (P : F.Proper) (rm : BitVec 2) (s : Bool) : Rounds F rm 0 (F.signBit s) :=
  Rounds.exact (finite_signed P s (Nat.zero_le F.big)) (rat_signed_zero P s)

theorem zero_delivers (P : F.Proper) (rm : BitVec 2) (s : Bool) : Delivers F rm 0 (F.signBit s, {}) := by
  have hf := not_isInf (finite_signed P s (Nat.zero_le F.big))
  rw [add_zero] at hf
  simp [Delivers, hf, zero_rounds P, rat_signed_zero P]

/-- R217: a value with a rest below one unit of its last bit is rounded once. -/
theorem round_rest_delivers (P : F.Proper) (hinf : F.inf = true) (hne : x.m ≠ 0) (h0 : 0 ≤ θ) (h1 : θ < 1)
    (hs : sticky = true ↔ θ ≠ 0) (hbits : sticky = true → 2 ^ (F.m + 1) ≤ x.m) :
    Delivers F rm (sgn x.s * ((x.m + θ) * 2 ^ x.e)) (F.round rm x sticky).res := by
  obtain ⟨k, hpick, hover, hkept⟩ := round_picks (rm := rm) P.man hne h0 h1 hs hbits
  have hw : 0 < ((x.m : ℚ) + θ) * 2 ^ x.e := by
    have : (0 : ℚ) < x.m := by exact_mod_cast Nat.pos_of_ne_zero hne
    positivity
  rcases Nat.lt_or_ge F.big k with hk | hk
  · rw [hover hk]
    exact beyond_delivers P hinf hpick hw hk
  · obtain ⟨uf, hround⟩ := hkept hk
    obtain ⟨hrounds, hnx⟩ := hpick.kept P hw hk
    have hf := not_isInf (finite_signed P x.s hk)
    rw [hround]
    simp only [Delivers, Rounded.res, hf, forall_true_left, Bool.false_eq_true, false_imp_iff, decide_eq_true_eq, hnx,
      and_self, hrounds]

/-! ### Rounding an exact value -/

/-- The rational number of an exact value. -/
def Machine.Ex.rat (x : Ex) : ℚ := sgn x.s * (x.m * 2 ^ x.e)

theorem round_zero (hz : x.m = 0) : F.round rm x = { code := F.signBit x.s } := by simp [Fmt.round, hz]

theorem Machine.Ex.rat_zero (hz : x.m = 0) : x.rat = 0 := by simp [Ex.rat, hz]

theorem round_delivers (P : F.Proper) (hinf : F.inf = true) (rm : BitVec 2) (x : Ex) :
    Delivers F rm x.rat (F.round rm x).res := by
  by_cases hz : x.m = 0
  · rw [round_zero hz, Ex.rat_zero hz]
    exact zero_delivers P rm x.s
  · have := round_rest_delivers (rm := rm) (θ := 0) (sticky := false) P hinf hz le_rfl one_pos (by simp) (by simp)
    rwa [add_zero] at this

/-- A value within the finite magnitudes of a format is rounded to a finite code. -/
theorem round_within (P : F.Proper) (rm : BitVec 2) (hx : |x.rat| ≤ F.rat F.big) :
    (F.round rm x).toInf = false ∧ Rounds F rm x.rat (F.round rm x).code ∧
      ((F.round rm x).exc.nx = true ↔ F.rat (F.round rm x).code ≠ x.rat) ∧ (F.round rm x).exc.nv = false := by
  by_cases hz : x.m = 0
  · rw [round_zero hz, Ex.rat_zero hz]
    simp [zero_rounds P, rat_signed_zero P]
  · obtain ⟨k, hpick, -, hkept⟩ := round_picks (rm := rm) (θ := 0) (sticky := false) P.man hz le_rfl one_pos
      (by simp) (by simp)
    simp only [add_zero] at hpick hkept
    have hw : 0 < (x.m : ℚ) * 2 ^ x.e := by
      have : (0 : ℚ) < x.m := by exact_mod_cast Nat.pos_of_ne_zero hz
      positivity
    have hk : ¬F.big < k := fun hk => by
      have := hpick.beyond hk
      rw [Ex.rat, abs_sgn_mul, abs_of_pos hw, rat_big P] at hx
      linarith
    obtain ⟨uf, hround⟩ := hkept (not_lt.1 hk)
    obtain ⟨hrounds, hnx⟩ := hpick.kept P hw (not_lt.1 hk)
    rw [hround]
    exact ⟨rfl, hrounds, decide_eq_true_iff.trans hnx, rfl⟩

end Sys2Proof
end

section
/-! Exact arithmetic, and the operations on finite operands (R217, R218). -/

namespace Sys2Proof
open Machine
variable {F : Fmt} {rm : BitVec 2} {x y : Ex}

/-! ### Exact values and their sums, products and quotients -/

theorem val_rat (F : Fmt) (c : ℕ) : (F.val c).rat = F.rat c := by
  rw [F.rat_eq, Fmt.magRat, Fmt.val]
  change _ = sgn (F.neg c) * (if F.ef c = 0 then (2 : ℚ) ^ (1 - F.bias) * ((F.mf c : ℕ) / 2 ^ F.m)
    else (2 : ℚ) ^ (((F.ef c : ℕ) : ℤ) - F.bias) * (1 + (F.mf c : ℕ) / 2 ^ F.m))
  split_ifs with h
  · rw [Ex.rat, Fmt.qmin, zpow_sub₀ two_ne_zero, zpow_natCast]
    ring
  · have hexp : (1 - F.bias - F.m + F.ef c - 1 : ℤ) = (F.ef c - F.bias) - F.m := by ring
    have hP : (2 : ℚ) ^ F.m ≠ 0 := by positivity
    rw [Ex.rat, Fmt.qmin, hexp, zpow_sub₀ two_ne_zero _ (F.m : ℤ), zpow_natCast]
    push_cast
    field_simp

/-- An exact value as a number of units of 2^e. -/
theorem units_rat {e : ℤ} (he : e ≤ x.e) :
    (((if x.s then -1 else 1) * ((x.m * 2 ^ (x.e - e).toNat : ℕ) : ℤ) : ℤ) : ℚ) * 2 ^ e = x.rat := by
  have hpow : (2 : ℚ) ^ x.e = 2 ^ (x.e - e).toNat * 2 ^ e := by
    rw [← zpow_natCast, Int.toNat_of_nonneg (by omega), ← zpow_add₀ two_ne_zero, sub_add_cancel]
  rw [Ex.rat, hpow, sgn]
  push_cast
  split_ifs <;> simp [mul_assoc]

theorem sgn_natAbs (n : ℤ) : sgn (decide (n < 0)) * (n.natAbs : ℚ) = n := by
  rw [Nat.cast_natAbs]
  rcases lt_or_ge n 0 with h | h
  · rw [abs_of_neg h]
    simp [sgn, h]
  · rw [abs_of_nonneg h]
    simp [sgn, h.not_gt]

/-- A sum of `n` units of 2^e as `addEx` writes it. -/
theorem sum_units_rat (n e : ℤ) (s : Bool) :
    (if n = 0 then { s := s, m := 0, e := 0 } else { s := decide (n < 0), m := n.natAbs, e := e } : Ex).rat =
      n * 2 ^ e := by
  split_ifs with hn
  · rw [hn, Ex.rat_zero rfl, Int.cast_zero, zero_mul]
  · rw [Ex.rat, ← mul_assoc, sgn_natAbs]

theorem addEx_rat (rm : BitVec 2) (x y : Ex) : (addEx rm x y).rat = x.rat + y.rat := by
  have hx := units_rat (x := x) (min_le_left x.e y.e)
  have hy := units_rat (x := y) (min_le_right x.e y.e)
  unfold addEx
  by_cases hz : x.m = 0 ∧ y.m = 0
  · rw [if_pos hz, Ex.rat_zero rfl, Ex.rat_zero hz.1, Ex.rat_zero hz.2, add_zero]
  · simp only [if_neg hz]
    rw [← hx, ← hy, ← add_mul, ← Int.cast_add]
    exact sum_units_rat _ _ _

theorem mulEx_rat (x y : Ex) : (mulEx x y).rat = x.rat * y.rat := by
  simp only [Ex.rat, mulEx, sgn_mul_sgn, zpow_add₀ (two_ne_zero' ℚ)]
  push_cast
  ring

theorem neg_rat (x : Ex) : ({ x with s := !x.s } : Ex).rat = -x.rat := by
  simp only [Ex.rat]
  cases x.s <;> simp [sgn]

/-! ### Operands without a NaN -/

theorem not_isNan {c : ℕ} (h : F.finite c = true) : F.isNan c = false := by
  simp only [Fmt.finite, Bool.and_eq_true, Bool.not_eq_true'] at h
  exact h.1

theorem term_finite {c : ℕ} (h : F.finite c = true) : F.term c = .fin (F.val c) := by
  simp [Fmt.term, not_isInf h]

theorem withNans_numbers {ops : List (Fmt × ℕ)} (h : ∀ x ∈ ops, x.1.isNan x.2 = false) (bad : Bool) (r : Res) :
    withNans ops bad r = r := by
  have : nanOf ops = none := by
    rw [nanOf, List.find?_eq_none.2 fun x hx => by simp [h x hx]]
    rfl
  rw [withNans, this]

theorem sumTerms_fin (F : Fmt) (rm : BitVec 2) (x : Ex) (l : List Ex) :
    sumTerms F rm (.fin x :: l.map .fin) = (F.round rm (l.foldl (addEx rm) x)).res := by
  have hbad : (l.map Term.fin).any (fun t => decide (t = .bad)) = false := by simp
  simp [sumTerms, hbad]

/-! ### The operations -/

section
variable (P : F.Proper) (hinf : F.inf = true)
include P hinf

theorem sum_delivers (x : Ex) (l : List Ex) :
    Delivers F rm (x.rat + (l.map Ex.rat).sum) (sumTerms F rm (.fin x :: l.map .fin)) := by
  have hsum : (l.foldl (addEx rm) x).rat = x.rat + (l.map Ex.rat).sum := by
    induction l generalizing x with
    | nil => simp
    | cons y l ih => rw [List.foldl_cons, ih, addEx_rat, List.map_cons, List.sum_cons, add_assoc]
  rw [sumTerms_fin, ← hsum]
  exact round_delivers P hinf rm _

theorem quotient_delivers (hbits : F.m ≤ 62) (hx : x.m ≠ 0) (hy : y.m ≠ 0) :
    Delivers F rm (x.rat / y.rat) (F.round rm
      { s := x.s ^^ y.s, m := x.m * 2 ^ (64 + Nat.log2 y.m) / y.m, e := x.e - y.e - (64 + Nat.log2 y.m : ℕ) }
      (decide (x.m * 2 ^ (64 + Nat.log2 y.m) % y.m ≠ 0))).res := by
  obtain ⟨k, hk⟩ : ∃ k, 64 + Nat.log2 y.m = k := ⟨_, rfl⟩
  obtain ⟨n, hn⟩ : ∃ n, x.m * 2 ^ k = n := ⟨_, rfl⟩
  have hypos : (0 : ℚ) < y.m := by exact_mod_cast Nat.pos_of_ne_zero hy
  have hlarge : 2 ^ 63 ≤ n / y.m := by
    rw [Nat.le_div_iff_mul_le (Nat.pos_of_ne_zero hy), ← hn, ← hk]
    have hlt : y.m ≤ 2 ^ (Nat.log2 y.m + 1) := Nat.lt_log2_self.le
    calc 2 ^ 63 * y.m ≤ 2 ^ 63 * 2 ^ (Nat.log2 y.m + 1) := Nat.mul_le_mul_left _ hlt
      _ = 1 * 2 ^ (64 + Nat.log2 y.m) := by rw [← pow_add, one_mul]; congr 1; omega
      _ ≤ x.m * 2 ^ (64 + Nat.log2 y.m) := Nat.mul_le_mul_right _ (Nat.pos_of_ne_zero hx)
  have hrest : ((n / y.m : ℕ) : ℚ) + (n % y.m : ℕ) / y.m = n / y.m := by
    rw [eq_div_iff hypos.ne', add_mul, div_mul_cancel₀ _ hypos.ne']
    exact_mod_cast Nat.div_add_mod' n y.m
  have hvalue : x.rat / y.rat = sgn (x.s ^^ y.s) * (((n / y.m : ℕ) + (n % y.m : ℕ) / y.m) * 2 ^ (x.e - y.e - k)) := by
    have hP : (2 : ℚ) ^ y.e ≠ 0 := by positivity
    have hs := sgn_ne_zero y.s
    have hss := sgn_mul_self y.s
    rw [hrest, ← hn, sgn_mul_sgn, Ex.rat, Ex.rat, zpow_sub₀ two_ne_zero, zpow_sub₀ two_ne_zero, zpow_natCast]
    push_cast
    field_simp
    rw [sq, hss, mul_one]
  rw [hk, hn, hvalue]
  refine round_rest_delivers (x := { s := x.s ^^ y.s, m := n / y.m, e := x.e - y.e - k }) P hinf ?_ ?_ ?_ ?_ fun _ => ?_
  · exact (lt_of_lt_of_le (by norm_num) hlarge).ne'
  · positivity
  · rw [div_lt_one hypos]
    exact_mod_cast Nat.mod_lt n (Nat.pos_of_ne_zero hy)
  · rw [decide_eq_true_eq, ne_eq, ne_eq, div_eq_zero_iff, or_iff_left hypos.ne', Nat.cast_eq_zero]
  · exact (Nat.pow_le_pow_right two_pos (by omega)).trans hlarge

variable {a b d : ℕ} (ha : F.finite a = true) (hb : F.finite b = true)
include ha hb

theorem fadd_delivers : Delivers F rm (F.rat a + F.rat b) (fadd F rm a b) := by
  have h := sum_delivers (rm := rm) P hinf (F.val a) [F.val b]
  rw [List.map_singleton, List.sum_singleton, val_rat, val_rat] at h
  rw [fadd, withNans_numbers (by simp [not_isNan ha, not_isNan hb]), term_finite ha, term_finite hb]
  exact h

theorem fsub_delivers : Delivers F rm (F.rat a - F.rat b) (fsub F rm a b) := by
  have h := sum_delivers (rm := rm) P hinf (F.val a) [{ F.val b with s := !(F.val b).s }]
  rw [List.map_singleton, List.sum_singleton, neg_rat, val_rat, val_rat, ← sub_eq_add_neg] at h
  rw [fsub, withNans_numbers (by simp [not_isNan ha, not_isNan hb]), term_finite ha, term_finite hb]
  exact h

theorem fmul_delivers : Delivers F rm (F.rat a * F.rat b) (fmul F rm a b) := by
  rw [fmul, withNans_numbers (by simp [not_isNan ha, not_isNan hb]), term_finite ha, term_finite hb, ← val_rat, ← val_rat,
    ← mulEx_rat]
  exact round_delivers P hinf rm _

theorem ffma_delivers (hd : F.finite d = true) : Delivers F rm (F.rat a * F.rat b + F.rat d) (ffma F rm a b d) := by
  have h := sum_delivers (rm := rm) P hinf (mulEx (F.val a) (F.val b)) [F.val d]
  rw [List.map_singleton, List.sum_singleton, mulEx_rat, val_rat, val_rat, val_rat] at h
  simp only [ffma]
  rw [withNans_numbers (by simp [not_isNan ha, not_isNan hb, not_isNan hd]), term_finite ha, term_finite hb, term_finite hd]
  exact h

theorem fdiv_delivers (hbits : F.m ≤ 62) (hne : F.rat b ≠ 0) : Delivers F rm (F.rat a / F.rat b) (fdiv F rm a b) := by
  have hsign (c : ℕ) : (F.val c).s = F.neg c := by unfold Fmt.val; split <;> rfl
  have hy : (F.val b).m ≠ 0 := fun h => hne (by rw [← val_rat, Ex.rat_zero h])
  simp only [fdiv]
  rw [withNans_numbers (by simp [not_isNan ha, not_isNan hb]), term_finite ha, term_finite hb]
  simp only [if_neg hy, ← hsign, ← val_rat F]
  by_cases hx : (F.val a).m = 0
  · rw [if_pos hx, Ex.rat_zero hx, zero_div]
    exact zero_delivers P rm _
  · rw [if_neg hx]
    exact quotient_delivers P hinf hbits hx hy

end

/-- R214, R217. -/
theorem roundedOnce : Part.RoundedOnce := by
  intro F hF rm a b d ha hb hd
  obtain ⟨P, hinf, hbits⟩ : F.Proper ∧ F.inf = true ∧ F.m ≤ 62 := by
    simp only [List.mem_cons, List.not_mem_nil, or_false] at hF
    rcases hF with rfl | rfl | rfl <;> exact ⟨⟨by decide, by decide⟩, rfl, by decide⟩
  exact ⟨fadd_delivers P hinf ha hb, fsub_delivers P hinf ha hb, fmul_delivers P hinf ha hb,
    ffma_delivers P hinf ha hb hd, fdiv_delivers P hinf ha hb hbits⟩

end Sys2Proof
end

section
/-! NaN operands, packed words and dot products, conversions. -/

namespace Sys2Proof
open Machine
variable {F : Fmt} {rm : BitVec 2}

/-! ### NaN operands (R218) -/

/-- The quiet bit set. -/
theorem quiet_eq_or (hw : F.width ≠ 8) (hm : 0 < F.m) (c : ℕ) : F.quiet c = c ||| 2 ^ (F.m - 1) := by
  obtain ⟨n, hn⟩ := Nat.exists_eq_add_of_lt hm
  have hmf : F.mf c = c % 2 ^ F.m := by
    rw [Fmt.mf, Fmt.mag, Nat.mod_mod_of_dvd _ (pow_dvd_pow _ (Nat.le_add_left _ _))]
  have hsucc : 2 ^ (n + 1) = 2 * 2 ^ n := pow_succ' _ _
  have hlt := Nat.mod_lt c (show 0 < 2 ^ (n + 1) by positivity)
  have hc := Nat.div_add_mod c (2 ^ (n + 1))
  rw [zero_add] at hn
  simp only [Fmt.quiet, hmf, hn, Nat.add_sub_cancel, hw, false_or]
  generalize c % 2 ^ (n + 1) = l at *
  have hor : c ||| 2 ^ n = 2 ^ (n + 1) * (c / 2 ^ (n + 1)) ||| (l ||| 2 ^ n) := by
    rw [← Nat.or_assoc, ← Nat.two_pow_add_eq_or_of_lt hlt, hc]
  rw [hor]
  split_ifs with h
  · obtain ⟨i, rfl⟩ := Nat.exists_eq_add_of_le' h
    rw [← Nat.or_two_pow_eq_add_of_lt (by omega), Nat.or_self_right, Nat.or_two_pow_eq_add_of_lt (by omega),
      ← Nat.two_pow_add_eq_or_of_lt hlt, hc]
  · rw [Nat.or_two_pow_eq_add_of_lt (not_le.1 h), ← Nat.two_pow_add_eq_or_of_lt (by omega), ← add_assoc, hc]

theorem withNans_nan (hw : F.width ≠ 8) (hm : 0 < F.m) {a b : ℕ} (h : (F.isNan a || F.isNan b) = true) (r : Res) :
    withNans [(F, a), (F, b)] false r =
      ((if F.isNan a then a else b) ||| 2 ^ (F.m - 1), { nv := (F.isSnan a || F.isSnan b) }) := by
  rw [← quiet_eq_or hw hm]
  cases ha : F.isNan a with
  | true => simp [withNans, nanOf, anySnan, ha]
  | false =>
    rw [ha, Bool.false_or] at h
    simp [withNans, nanOf, anySnan, ha, h]

theorem nanOperands : Part.NanOperands := by
  intro op hop F hF rm a b h
  obtain ⟨hw, hm⟩ : F.width ≠ 8 ∧ 0 < F.m := by
    simp only [List.mem_cons, List.not_mem_nil, or_false] at hF
    rcases hF with rfl | rfl | rfl <;> decide
  simp only [List.mem_cons, List.not_mem_nil, or_false] at hop
  rcases hop with rfl | rfl | rfl | rfl <;> exact withNans_nan hw hm h _

theorem halfwaySum : Part.HalfwaySum := by
  unfold Part.HalfwaySum
  decide

/-! ### Packed words and dot products (R234 to R236) -/

theorem half_toNat (x : Word) (i : ℕ) : (x.extractLsb' (16 * i) 16).toNat = x.toNat / 2 ^ (16 * i) % 2 ^ 16 := by
  rw [BitVec.extractLsb'_toNat, Nat.shiftRight_eq_div_pow]

theorem packed_halves (f : ℕ → ℕ → ℕ → Res) (a b d : Word) (hf : ∀ x y z, (f x y z).1 < 2 ^ 16) : ∀ i < 2,
    let half (x : Word) (j : Nat) : Nat := x.toNat / 2 ^ (16 * j) % 2 ^ 16
    let r (j : Nat) : Res := f (half a j) (half b j) (half d j)
    (packed2 f a b d).1.toNat / 2 ^ (16 * i) % 2 ^ 16 = (r i).1 ∧ (packed2 f a b d).2 = (r 0).2.or (r 1).2 := by
  intro i hi half r
  have hr (j : ℕ) : f (packed2.efld16 a j) (packed2.efld16 b j) (packed2.efld16 d j) = r j := by
    simp only [packed2.efld16, half_toNat]
    rfl
  have hlt (j : ℕ) : (r j).1 < 2 ^ 16 := hf _ _ _
  simp only [packed2, hr, BitVec.toNat_append, BitVec.toNat_ofNat, Nat.mod_eq_of_lt (hlt _), and_true]
  rw [← Nat.shiftLeft_add_eq_or_of_lt (hlt 0), Nat.shiftLeft_eq]
  have h0 := hlt 0
  have h1 := hlt 1
  interval_cases i <;> omega

theorem dot4_sum (a b d : Word) :
    let byte (x : Word) (i : Nat) : Int := (x.extractLsb' (8 * i) 8).toInt
    dot4 a b d = BitVec.ofInt 32 (d.toInt + byte a 0 * byte b 0 + byte a 1 * byte b 1 + byte a 2 * byte b 2 +
      byte a 3 * byte b 3) := by
  intro byte
  have hmul (i : ℕ) : (a.extractLsb' (8 * i) 8).signExtend 32 * (b.extractLsb' (8 * i) 8).signExtend 32 =
      BitVec.ofInt 32 (byte a i * byte b i) := by
    rw [BitVec.ofInt_mul]
    rfl
  simp only [dot4, List.range, List.range.loop, List.foldl_cons, List.foldl_nil, hmul, BitVec.ofInt_add, BitVec.ofInt_toInt]

/-- The upper half of an F32 code is the BF16 code of the value (R236). -/
theorem wide_isNan {c : ℕ} (h : bf16.finite c = true) : f32.isNan (c * 2 ^ 16) = false := by
  have hbf := (finite_iff ⟨by decide, by decide⟩ c).1 h
  have hef : f32.ef (c * 2 ^ 16) ≠ 255 := by
    simp only [Fmt.mag, Fmt.big, Fmt.infCode, bf16, if_true] at hbf
    simp only [Fmt.ef, Fmt.mag, f32]
    omega
  have hinf : f32.inf = true := rfl
  have hexp : 2 ^ f32.e - 1 = 255 := rfl
  rw [Fmt.isNan, if_pos hinf, hexp, decide_eq_false hef, Bool.false_and]

theorem dot2f_delivers (rm : BitVec 2) (a b d : Word) : let el (x : Word) (i : Nat) : Nat := x.toNat / 2 ^ (16 * i) % 2 ^ 16
    f32.finite d.toNat = true → (∀ i < 2, bf16.finite (el a i) = true ∧ bf16.finite (el b i) = true) →
    Delivers f32 rm (f32.rat d.toNat + bf16.rat (el a 0) * bf16.rat (el b 0) +
      bf16.rat (el a 1) * bf16.rat (el b 1)) (dot2f rm a b d) := by
  intro el hd h
  obtain ⟨ha0, hb0⟩ := h 0 (by decide)
  obtain ⟨ha1, hb1⟩ := h 1 (by decide)
  have hsum := sum_delivers (F := f32) (rm := rm) ⟨by decide, by decide⟩ rfl (f32.val d.toNat)
    [mulEx (bf16.val (el a 0)) (bf16.val (el b 0)), mulEx (bf16.val (el a 1)) (bf16.val (el b 1))]
  simp only [List.map_cons, List.map_nil, List.sum_cons, List.sum_nil, mulEx_rat, val_rat, add_zero, ← add_assoc] at hsum
  have hel (x : Word) (i : ℕ) : (x.extractLsb' (16 * i) 16).toNat = el x i := half_toNat x i
  simp only [dot2f, hel]
  rw [withNans_numbers (by
    simp [-Nat.reducePow, not_isNan hd, wide_isNan ha0, wide_isNan ha1, wide_isNan hb0, wide_isNan hb1]), term_finite ha0, term_finite hb0, term_finite ha1, term_finite hb1, term_finite hd]
  exact hsum

theorem packedAndDot : Part.PackedAndDot :=
  ⟨packed_halves, dot4_sum, dot2f_delivers⟩

end Sys2Proof
end

section
/-! Conversions of one element (R229 to R233). -/

namespace Sys2Proof
open Machine
variable {F S D : Fmt} {rm : BitVec 2} {s : Bool} {w : ℚ} {x : Ex}

/-! ### To an integer (R233) -/

/-- A rounded count, with the sign of the value, is the integer that the value is rounded to. -/
theorem Dir.Counts.roundsInt {r : ℕ} (C : (dirOf rm s).Counts w r) (hw : 0 ≤ w) :
    RoundsInt rm (sgn s * w) (if s then -(r : ℤ) else r) := by
  have hr : (0 : ℚ) ≤ r := Nat.cast_nonneg r
  have hcast : (((if s then -(r : ℤ) else r) : ℤ) : ℚ) = sgn s * r := by cases s <;> simp [sgn]
  have hpar : r % 2 = 0 → (if s then -(r : ℤ) else r) % 2 = 0 := by
    intro h
    split_ifs <;> omega
  unfold RoundsInt
  rw [hcast]
  unfold dirOf at C
  rcases two_bit_cases rm with hm | hm | hm | hm <;> simp only [hm] at C ⊢
  · rw [← mul_sub, abs_sgn_mul]
    exact ⟨C.1, fun h => hpar (C.2 h)⟩
  · rw [abs_sgn_mul, abs_sgn_mul, abs_of_nonneg hr, abs_of_nonneg hw, mul_mul_mul_comm, sgn_mul_self, one_mul]
    exact ⟨C.1, C.2, mul_nonneg hr hw⟩
  · cases s <;> obtain ⟨h1, h2⟩ := C <;> constructor <;> simp only [sgn, if_true, Bool.false_eq_true, if_false] <;> linarith
  · cases s <;> obtain ⟨h1, h2⟩ := C <;> constructor <;> simp only [sgn, if_true, Bool.false_eq_true, if_false] <;> linarith

theorem toInt_rounds (rm : BitVec 2) (x : Ex) : RoundsInt rm x.rat (x.toInt rm).1 ∧
    ((x.toInt rm).2 = true ↔ ((x.toInt rm).1 : ℚ) ≠ x.rat) := by
  obtain ⟨C, hnx⟩ := roundQ_counts rm x.s x.m x.e 0 false (θ := 0) le_rfl one_pos (by simp) (by simp)
  rw [add_zero, sub_zero] at C hnx
  refine ⟨C.roundsInt (by positivity), ?_⟩
  have hcast : ((x.toInt rm).1 : ℚ) = sgn x.s * (roundQ rm x.s x.m x.e 0 false).1 := by
    unfold Ex.toInt
    cases x.s <;> simp [sgn]
  rw [hcast, Ex.rat, ne_eq, mul_right_inj' (sgn_ne_zero _)]
  exact hnx

/-- The code of an integer in `n` bits. -/
theorem code_eq_ofInt (n : ℕ) (i : ℤ) : BitVec.ofNat n (i % 2 ^ n).toNat = BitVec.ofInt n i := by
  apply BitVec.eq_of_toNat_eq
  have hlt : (i % 2 ^ n).toNat < 2 ^ n := by
    have := Int.emod_lt_of_pos i (show (0 : ℤ) < 2 ^ n by positivity)
    have := Int.emod_nonneg i (show (2 : ℤ) ^ n ≠ 0 by positivity)
    zify
    omega
  rw [BitVec.toNat_ofNat, BitVec.toNat_ofInt, Nat.mod_eq_of_lt hlt]
  push_cast
  rfl

theorem code_toInt {n : ℕ} (hn : 0 < n) {i : ℤ} (hlo : -2 ^ (n - 1) ≤ i) (hhi : i < 2 ^ (n - 1)) :
    (BitVec.ofNat n (i % 2 ^ n).toNat).toInt = i := by
  rw [code_eq_ofInt, BitVec.toInt_ofInt_eq_self hn hlo hhi]

/-- R233: a finite value to an integer of `n` bits, whose range is judged on the rounded integer. -/
theorem cvtFI_converts {n c : ℕ} (hn : 0 < n) (hc : S.finite c = true) : ∃ i, RoundsInt rm (S.rat c) i ∧
    let fits : Prop := -2 ^ (n - 1) ≤ i ∧ i < 2 ^ (n - 1)
    let r := cvtFI S n rm c
    (fits → (BitVec.ofNat n r.1).toInt = i ∧ r.2.nv = false ∧ (r.2.nx = true ↔ (i : ℚ) ≠ S.rat c)) ∧
    (¬ fits → (BitVec.ofNat n r.1).toInt = (if i < 0 then -2 ^ (n - 1) else 2 ^ (n - 1) - 1) ∧
      r.2.nv = true ∧ r.2.nx = false) := by
  obtain ⟨hrounds, hnx⟩ := toInt_rounds rm (S.val c)
  obtain ⟨v, hv⟩ : ∃ v, (S.val c).toInt rm = v := ⟨_, rfl⟩
  rw [val_rat, hv] at hrounds hnx
  have hP : (0 : ℤ) < 2 ^ (n - 1) := by positivity
  refine ⟨v.1, hrounds, ?_⟩
  intro fits r
  have hr : r = cvtFI S n rm c := rfl
  unfold cvtFI at hr
  rw [not_isNan hc, term_finite hc] at hr
  simp only [Bool.false_eq_true, if_false, hv] at hr
  constructor
  · rintro ⟨hlo, hhi⟩
    rw [if_neg (by omega), if_neg (by omega)] at hr
    rw [hr]
    exact ⟨code_toInt hn hlo hhi, rfl, hnx⟩
  · intro hout
    by_cases hneg : v.1 < 0
    · have hlo : v.1 < -2 ^ (n - 1) := not_le.1 fun h => hout ⟨h, by omega⟩
      rw [if_neg (by omega), if_pos hlo] at hr
      rw [hr, if_pos hneg]
      exact ⟨code_toInt hn le_rfl (by omega), rfl, rfl⟩
    · have hhi : 2 ^ (n - 1) ≤ v.1 := not_lt.1 fun h => hout ⟨by omega, h⟩
      rw [if_pos (by omega)] at hr
      rw [hr, if_neg hneg]
      exact ⟨code_toInt hn (by omega) (by omega), rfl, rfl⟩

/-! ### To a format (R231 to R233) -/

theorem fmtOf_proper (n : ℕ) : (fmtOf n).Proper := by
  unfold fmtOf
  split <;> exact ⟨by decide, by decide⟩

/-- R232: a value within the finite magnitudes of a format is rounded once. -/
theorem roundCvt_within (P : D.Proper) (sat : Bool) (hx : |x.rat| ≤ D.rat D.big) :
    let r := roundCvt D rm sat x
    Rounds D rm x.rat r.1 ∧ (r.2.nx = true ↔ D.rat r.1 ≠ x.rat) ∧ r.2.nv = false := by
  obtain ⟨hinf, hrounds, hnx, hnv⟩ := round_within P rm hx
  have hr : roundCvt D rm sat x = (D.round rm x).res := by simp [roundCvt, hinf]
  intro r
  rw [show r = _ from hr]
  exact ⟨hrounds, hnx, hnv⟩

theorem cvtFF_within (P : D.Proper) (sat : Bool) {c : ℕ} (hc : S.finite c = true) (hx : |S.rat c| ≤ D.rat D.big) :
    let r := cvtFF S D rm sat c
    Rounds D rm (S.rat c) r.1 ∧ (r.2.nx = true ↔ D.rat r.1 ≠ S.rat c) ∧ r.2.nv = false := by
  have hr : cvtFF S D rm sat c = roundCvt D rm sat (S.val c) := by
    simp only [cvtFF, not_isNan hc, term_finite hc, Bool.false_eq_true, if_false]
  rw [hr, ← val_rat]
  exact roundCvt_within P sat (by rwa [val_rat])

theorem cvtIF_within (P : D.Proper) (sat : Bool) {n c : ℕ} (hn : 0 < n) (hc : c < 2 ^ n) :
    let v : ℚ := (BitVec.ofNat n c).toInt
    |v| ≤ D.rat D.big → let r := cvtIF n D rm sat c
    Rounds D rm v r.1 ∧ (r.2.nx = true ↔ D.rat r.1 ≠ v) ∧ r.2.nv = false := by
  intro v hv
  have hi : (if 2 ^ (n - 1) ≤ c then (c : ℤ) - 2 ^ n else c) = (BitVec.ofNat n c).toInt := by
    have hpow : 2 ^ n = 2 * 2 ^ (n - 1) := by rw [← pow_succ', Nat.sub_add_cancel hn]
    rw [BitVec.toInt_eq_toNat_cond, BitVec.toNat_ofNat, Nat.mod_eq_of_lt hc]
    push_cast
    split_ifs <;> omega
  have hrat : ({ s := decide ((BitVec.ofNat n c).toInt < 0), m := (BitVec.ofNat n c).toInt.natAbs, e := 0 } : Ex).rat = v := by
    rw [Ex.rat, zpow_zero, mul_one, sgn_natAbs]
  simp only [cvtIF, hi]
  rw [← hrat] at hv ⊢
  exact roundCvt_within P sat hv

theorem conversions : Part.Conversions := by
  intro rm sat c
  refine ⟨fun sf hsf df hdf hne => ?_, fun sf hsf df hdf => ?_, fun sf hsf df hdf => ?_, rfl, ?_⟩
  · intro S D hc hx
    simp only [cvtElem, hsf, hdf, and_self, if_true]
    exact cvtFF_within (fmtOf_proper df) sat hc hx
  · intro S n hc
    have hn : 0 < cvtWidth df := by unfold cvtWidth; split <;> decide
    have hdf' : ¬df < 5 := by simp at hdf; omega
    simp only [cvtElem, hsf, hdf', and_false, if_true, if_false]
    exact cvtFI_converts hn hc
  · intro D v hc hv
    have hn : 0 < cvtWidth sf := by unfold cvtWidth; split <;> decide
    have hsf' : ¬sf < 5 := by simp at hsf; omega
    simp only [cvtElem, hsf', hdf, false_and, if_true, if_false]
    exact cvtIF_within (fmtOf_proper df) sat hn hc hv
  · cases sat with
    | true =>
      simp only [cvtElem, if_true]
      exact code_toInt (n := 8) (by decide) (by simp) (by simp)
    | false =>
      have hmod : BitVec.ofNat 8 (c % 256) = BitVec.ofNat 8 c := BitVec.eq_of_toNat_eq (by simp)
      simp only [cvtElem, Bool.false_eq_true, if_false]
      exact congrArg BitVec.toInt hmod

/-- Settles O11: each operation forms its exact value, and rounding it to a count of units of its last bit
rounds it on the format's grid of magnitudes. -/
theorem nanAndRounding : Obligations.NanAndRounding :=
  ⟨nanOperands, halfwaySum, roundedOnce, packedAndDot, conversions⟩

end Sys2Proof
end

section
/-! The words of floating point of a crew that is ready (R217 to R228, R234 to R236). -/

namespace Sys2Proof
open Machine
variable {s0 s : State} {c : Cur} {cr : Crew} {pc : VAddr} {g : BitVec 4} {us : List Use}

/-! ### What a lane sees -/

/-- The lane of a word with the register fields `us`: its gang, the mode in force (R217) and its operands. -/
structure Sees (s : State) (G : Gang) (h : Hints) (us : List Use) (e : Env) : Prop where
  gang : e.g = G
  mode : e.rm = rounding G h
  plain : us.all (fun u => !isQueue u.reg) = true
  reads : e.v = operands s G e.f us

theorem Ready.sees (R : Ready s c cr pc) (d : Desc s0) (plain : d.uses.all (fun u => !isQueue u.reg) = true) {fid : ℕ}
    (h : fid ∈ cr.fids) : Sees s (s.gang cr.gang) (cr.group pc) d.uses (laneOf s c cr d fid) := by
  have hpc := (R.fibre h).2.stands
  refine ⟨rfl, ?_, plain, rfl⟩
  simp only [laneOf, mkEnv, hpc]
  rfl

/-- The first word of a source field. -/
theorem Sees.w {G : Gang} {h : Hints} {e : Env} (E : Sees s G h us e) (n : ℕ) {a : BitVec 7}
    (ha : (us.filter fun u => !u.dst)[n]? = some (src a)) : e.w n = val G e.f a := by
  have hq := List.all_eq_true.1 E.plain _ (List.mem_of_mem_filter (List.mem_of_getElem? ha))
  rw [← w_src s G e.f a (by simpa [src] using hq)]
  simp only [Env.w, Env.op, E.reads, operands, List.getD_eq_getElem?_getD, List.getElem?_map, ha, Option.map_some,
    Option.getD_some]

/-- The result of a fixed-latency word comes at the lane's issue count (R182). -/
theorem Ready.lane_now (R : Ready s c cr pc) (d : Desc s0) {fid : ℕ} (h : fid ∈ cr.fids) :
    (laneOf s c cr d fid).now = ((s.fibre (fkey cr.gang fid)).passed (cr.group pc) true).count := by
  have hpc := (R.fibre h).2.stands
  simp only [laneOf, mkEnv, hpc, R.word]
  rfl

/-- A lane raises no flag whose trap is enabled (R222). -/
theorem NoTrap.lane (R : Ready s c cr pc) {d : Desc s} (hd : d.Simple) {x : Fibre → Exc}
    (hx : NoTrap s cr pc d.guard x) {e : Env} (he : e ∈ actLanes s c cr d) : (x e.f).bits &&& e.g.ten = 0 := by
  obtain ⟨fid, hf, rfl⟩ := List.mem_map.mp (List.mem_of_mem_filter he)
  have hactive := List.of_mem_filter he
  have hguard : guardOk d.guard (laneOf s c cr d fid).f = true := by simpa [laneOf, mkEnv, hd.branch] using hactive
  refine hx _ ?_
  rw [R.lane_f d hf] at hguard ⊢
  simp only [State.active, State.members, List.map_map]
  exact List.mem_filter.2 ⟨List.mem_map_of_mem (f := (·.now (cr.group pc)) ∘ fun fid => s.fibre (fkey cr.gang fid)) hf, hguard⟩

/-- The flags of a lane, none of them too, are added to its sticky flags (R219). -/
theorem laneEff_eq (d : Desc s0) (F : Env → Fibre → Fibre) (e : Env) (x : Fibre) :
    laneEff d F e x = (F e x).stick (d.exc e) := by
  unfold laneEff
  split_ifs with h
  · rw [h, Fibre.stick_zero]
  · rfl

/-! ### A word whose lanes compute a value and raise flags -/

/-- A word with no check and no wait of its own, whose lanes come to `val` and raise its flags: each lane takes
`put` of the value, and the flags (R219). -/
theorem Ready.flagWord {α : Type} (R : Ready s c cr pc) (d : Desc s) (hd : d.Free)
    (himm : (cr.group pc).imm = none) (hmods : FitMods (cr.group pc) d.rnd d.sat) (hpace : d.paceOk = true)
    (hsig : d.sigOk = true) (hhome : d.homeOnly = true → isCore c.site = true) (fields : Fields s cr pc d.guard d.uses)
    (hill : ∀ t e, d.illeg t e = none) {value : Env → α × Exc} {r : Fibre → α × Exc}
    (hexc : ∀ e, d.exc e = (value e).2.bits)
    (hr : ∀ e, Sees s (s.gang cr.gang) (cr.group pc) d.uses e → value e = r e.f)
    (put : ℕ → α → Fibre → Fibre) (hput : ∀ n v, Keeps (put n v))
    (hact : ∀ q es, d.act q es = q.each es fun q e => q.updFibre e.key (put e.now (value e).1))
    (hx : NoTrap s cr pc d.guard fun f => (r f).2) :
    ∃ t, runWord s d = .next t ∧ Lanes s t c cr pc d.guard fun f x =>
      (put x.count (r f).1 x).stick (r f).2.bits := by
  have hvalue (fid : ℕ) (hf : fid ∈ cr.fids) : value (laneOf s c cr d fid) = r (laneOf s c cr d fid).f :=
    hr _ (R.sees d fields.plain hf)
  refine R.plainWord d hd hmods hpace (.inl hsig) (fun p hp => by cases himm.symm.trans hp) fields ?_
    (fun e _ t => hill t e) (fun e he => ?_) (fun e => put e.now (value e).1) (fun e => hput _ _) (fun q => hact q _) _
    fun fid hf _ => ?_
  · cases h : d.homeOnly with
    | true => exact .inl (hhome h)
    | false => exact .inr rfl
  · have hnone := NoTrap.lane R hd.simple hx he
    obtain ⟨fid, hf, rfl⟩ := List.mem_map.mp (List.mem_of_mem_filter he)
    rwa [hexc, hvalue fid hf]
  · rw [laneEff_eq, hexc, R.lane_now d hf, hvalue fid hf, R.lane_f d hf]

/-- A word of floating point that writes one register. -/
theorem Ready.fpWord (R : Ready s c cr pc) {i : Instr} (hwf : i.wf = true) {d : BitVec 7} {rnd home : Bool}
    {f : Env → Word × Exc} {r : Fibre → Word × Exc} (himm : (cr.group pc).imm = none)
    (hmods : FitMods (cr.group pc) rnd false) (hhome : home = true → isCore c.site = true)
    (fields : Fields s cr pc g (us ++ [dst d]))
    (hr : ∀ e, Sees s (s.gang cr.gang) (cr.group pc) (us ++ [dst d]) e → f e = r e.f)
    (hx : NoTrap s cr pc g fun f => (r f).2) :
    ∃ t, runWord s (fpDesc i g us d rnd home f) = .next t ∧ Lanes s t c cr pc g fun f x =>
      (x.gets d (r f).1).stick (r f).2.bits := by
  have hq : isQueue d.toNat = false := by
    simpa [dst] using List.all_eq_true.1 fields.plain (dst d) (by simp)
  refine R.flagWord (fpDesc i g us d rnd home f) ?_ himm hmods rfl rfl hhome fields (fun _ _ => rfl) (fun _ => rfl) hr
    (fun n v x => x.writeAt n d.toNat { v := v }) (fun _ _ => keeps_writeAt _ _ _) (fun q es => ?_) hx
  · exact ⟨⟨rfl, rfl, rfl, fun _ _ => rfl, rfl, rfl, fields.plain⟩, rfl, rfl, hwf, rfl, fun _ _ => rfl, fun _ _ => rfl,
      fun _ _ => rfl, fun _ _ => rfl⟩
  · exact congrArg (Run.each q es) (funext fun q => funext fun e => result32_plain q e d _ hq)

/-! ### Words of two and of three sources (R217 to R219, R224, R225, R234 to R236) -/

theorem floatBinary_exec : ∀ w ∈ floatBinary, ∀ g d a b s, (w.ctor g d a b).wf = true ∧ exec (w.ctor g d a b) s =
    runWord s (fpDesc (w.ctor g d a b) g [src a, src b] d w.rnd w.home fun e => w.fn e.g e.rm (e.w 0) (e.w 1) 0) := by
  intro w hw g d a b s
  simp only [floatBinary, List.mem_cons, List.not_mem_nil, or_false] at hw
  rcases hw with rfl | rfl | rfl | rfl | rfl | rfl | rfl <;> exact ⟨rfl, rfl⟩

theorem floatTernary_exec : ∀ w ∈ floatTernary, ∀ g d a b s, (w.ctor g d a b).wf = true ∧ exec (w.ctor g d a b) s =
    runWord s (fpDesc (w.ctor g d a b) g [src a, src b, src d] d w.rnd w.home
      fun e => w.fn e.g e.rm (e.w 0) (e.w 1) (e.w 2)) := by
  intro w hw g d a b s
  simp only [floatTernary, List.mem_cons, List.not_mem_nil, or_false] at hw
  rcases hw with rfl | rfl | rfl | rfl <;> exact ⟨rfl, rfl⟩

theorem floatBinaryWords : Part.FloatBinary := by
  intro w hw s c cr pc g d a b R himm hmods hhome fields G r hx
  obtain ⟨hwf, hexec⟩ := floatBinary_exec w hw g d a b s
  rw [hexec]
  refine R.fpWord (us := [src a, src b]) hwf himm hmods hhome fields (fun e E => ?_) hx
  rw [E.gang, E.mode, E.w 0 (a := a) rfl, E.w 1 (a := b) rfl]

theorem floatTernaryWords : Part.FloatTernary := by
  intro w hw s c cr pc g d a b R himm hmods hhome fields G r hx
  obtain ⟨hwf, hexec⟩ := floatTernary_exec w hw g d a b s
  rw [hexec]
  refine R.fpWord (us := [src a, src b, src d]) hwf himm hmods hhome fields (fun e E => ?_) hx
  rw [E.gang, E.mode, E.w 0 (a := a) rfl, E.w 1 (a := b) rfl, E.w 2 (a := d) rfl]

/-- Settles O9: each word is one whose lanes compute a result and raise flags, of two sources or of three. -/
theorem floatArithmetic : Obligations.FloatArithmetic := ⟨floatBinaryWords, floatTernaryWords⟩

/-! ### FSETP and FUN (R226 to R228) -/

theorem floatCompareWords : Part.FloatCompare := by
  intro k hk s c cr pc g p a b R hplain fields G r hx
  obtain ⟨himm, hmods⟩ := hplain
  have hwf : (Instr.fsetp g k p a b).wf = true := decide_eq_true hk
  refine R.flagWord (value := fun e => fcmp k.toNat (e.w 0).toNat (e.w 1).toNat) _
    ⟨⟨rfl, rfl, rfl, fun _ _ => rfl, rfl, rfl, fields.plain⟩, rfl, rfl, hwf, rfl, fun _ _ => rfl, fun _ _ => rfl,
      fun _ _ => rfl, fun _ _ => rfl⟩ himm hmods rfl rfl (fun h => absurd h Bool.false_ne_true) fields (fun _ _ => rfl)
    (fun _ => rfl) (fun e E => ?_) (fun _ v x => x.setPred p.toNat v) (fun _ _ => keeps_setPred _ _) (fun _ _ => rfl) hx
  rw [E.w 0 (a := a) rfl, E.w 1 (a := b) rfl]

/-- FUN but for FSQRT is a fixed-latency word; FRINT takes a rounding mode (R227). -/
theorem func_exec {k : BitVec 7} (h0 : 0 < k.toNat) (h12 : k.toNat < 12) (g : BitVec 4) (d a : BitVec 7) (s : State) :
    (Instr.func g d a k).wf = true ∧ exec (.func g d a k) s = runWord s (fpDesc (.func g d a k) g [src a] d
      (decide (k = 8)) false fun e => resWord (funRes k.toNat e.rm (e.w 0).toNat)) := by
  refine ⟨decide_eq_true h12, ?_⟩
  have h8 : decide (k.toNat = 8) = decide (k = 8) := decide_eq_decide.2 (BitVec.toNat_inj (y := 8#7))
  change execFunc g d a k s = _
  unfold execFunc
  rw [← h8]
  obtain ⟨n, hn⟩ := Nat.exists_eq_add_of_lt h0
  simp only [hn]

theorem floatFunctions : Part.FloatFunctions := by
  intro k h0 h12 s c cr pc g d a R himm hmods fields G r hx
  obtain ⟨hwf, hexec⟩ := func_exec h0 h12 g d a s
  rw [hexec]
  refine R.fpWord (us := [src a]) hwf himm hmods (fun h => absurd h Bool.false_ne_true) fields (fun e E => ?_) hx
  rw [E.mode, E.w 0 (a := a) rfl]

/-- Settles O10: FSETP gives its value to a predicate, the functions of FUN to a register, and both raise flags. -/
theorem floatFunctionWords : Obligations.FloatFunctionWords := ⟨floatCompareWords, floatFunctions⟩

end Sys2Proof
end

section
/-! A word of a one-fibre crew that stays in it, and CSRWR (R220, R221, R309 to R316, R354). -/

namespace Sys2Proof
open Machine
variable {s0 s : State} {c : Cur} {cr : Crew} {f : Fibre} {g : BitVec 4}

/-- `t` is a state after the word of a one-fibre crew, whose fibre has become `y` and stays in it. -/
structure Remains (s : State) (c : Cur) (cr : Crew) (f : Fibre) (t : State) (y : Fibre) : Prop where
  crews : t.crews = (s.after c cr f).crews
  fibres : t.fibres = KV.put (fkey cr.gang f.fid) y s.fibres
  slot : y.slot = f.slot
  stepping : y.stepping = f.stepping
  toHalt : y.toHalt = f.toHalt
  preds : (t.site c.site).preds = []

/-- A word that has no check of its own and leaves the fibre in its crew does what its effect does. -/
theorem Stands.remains {d : Desc s} (T : Stands s c cr f d.guard d.uses) (hd : d.Free) (himm : (cr.group f.pc).imm = none)
    (hpace : d.paceOk = true) (hsig : d.sigOk = true) (hhome : d.homeOnly = false) (hexc : ∀ e, d.exc e = 0)
    (hill : ∀ t, d.illeg t (soloEnv s c cr f d.uses) = none) {t : State} {y : Fibre}
    (hact : ∀ r : Run s, r.s = s.after c cr f → (d.act r [soloEnv s c cr f d.uses]).s = t)
    (M : Remains s c cr f t y) : runWord s d = .next t := by
  have S := T.solo
  have hplain := T.fields.plain
  have hlane : soloLane s c cr d f = soloEnv s c cr f d.uses := S.lane_eq d hd.simple.eights T.guard
  have hactive : s.active cr f.pc d.guard = [f.now (cr.group f.pc)] := by
    simp only [State.active, State.members, S.one, List.map_cons, List.map_nil, S.fibre, List.filter_singleton, T.guard]
    rfl
  have haway (t : State) : d.away t (soloEnv s c cr f d.uses) = none := by
    simp only [Desc.away, hhome, plain_any hplain, Bool.or_self, Bool.and_false, Bool.false_eq_true, if_false, hd.ship,
      ite_self]
  have hpasses : d.Passes (slotTaken s c 1).s (soloEnv s c cr f d.uses) := by
    refine ⟨?_, .inl ((Fibre.settle_region _ _).trans (S.member.region rfl)), haway _,
      fun h => absurd (hd.full.symm.trans h) Bool.false_ne_true, ?_, ?_, hd.check _ _⟩
    · simp only [Desc.laneIlleg, hill, hhome, hd.sup, plain_any hplain, Bool.or_self, Bool.and_false,
        Bool.false_eq_true, if_false, minReason]
    · exact T.fields.clean _ (by rw [hactive]; exact List.mem_singleton_self _)
    · simp only [poisonOwn, hd.simple.eights]
  have hstatic : staticErr d { cr.group f.pc with wait := (cr.group f.pc).wait ||| d.waits } (s.gang cr.gang) 1 = none := by
    have hlegal : usesErr (s.gang cr.gang) 1 d.uses = none := by
      have h := T.fields.legal
      rwa [hactive] at h
    obtain ⟨hrnd, hsat, htol, hnoal, hwskip⟩ := T.mods
    have hhints (w : BitVec 12) : hintErrs d { cr.group f.pc with wait := w } (s.gang cr.gang) = [] :=
      hintErrs_none S.ready.hints ⟨.inr (hrnd.resolve_left (by decide)), .inr (hsat.resolve_left (by decide)), htol,
        hnoal, hwskip⟩ hpace (.inl hsig) fun p hp => by cases himm.symm.trans hp
    simp only [staticErr, hhints, hd.bad, hd.wf, hlegal]
    rfl
  have hdone := hact (soloStep s c cr d f) (S.soloStep_after hd.simple.target)
  have hstuck (r : Run s) : stuck d [soloEnv s c cr f d.uses] r = r := by simp only [stuck, hexc, if_true, each_id]
  have hrun := S.run T.idle d hplain (by rw [hlane]; rfl) hstatic (by rw [hlane]; exact haway s) (hd.hold _ _)
    (hd.holdAll _ _) (by rw [hlane]; exact hpasses) (by rw [hexc]; exact BitVec.zero_and)
    (by rw [hlane, hdone]; exact M.preds)
  rw [hrun, hlane, hstuck, S.stays (y := y) ?_ ?_ M.slot M.stepping M.toHalt, hdone]
  · rw [hdone, M.crews]
  · rw [hdone, M.fibres]

/-- The 64-bit value of a source pair (R176). -/
theorem soloEnv_pair {a : BitVec 7} (hq : isQueue a.toNat = false) :
    (soloEnv s c cr f [src a 2]).d 0 = val64 (s.gang cr.gang) (f.now (cr.group f.pc)) a := by
  change pair (readUse s (s.gang cr.gang) (f.now (cr.group f.pc)) 0 (src a 2)) = _
  have h124 : a.toNat = 124 ↔ a = 124 := BitVec.toNat_inj (y := 124#7)
  unfold readUse src val64
  simp only [hq, Bool.false_eq_true, if_false, h124]
  split_ifs
  · rfl
  · rfl

/-- How CSRWR is issued. -/
def csrwrDesc (g : BitVec 4) (a n : BitVec 7) : Desc s0 where
  i := .csrwr g a n
  guard := g
  uses := [src a 2]
  illeg := fun _ e => csrWriteErr n.toNat e.g e.f (e.d 0)
  act := perLane fun r e => r.csrWrite e n.toNat (e.d 0)

theorem exec_csrwr (g : BitVec 4) (a n : BitVec 7) (s : State) : exec (.csrwr g a n) s = runWord s (csrwrDesc g a n) := rfl

/-- CSRWR, where the access column permits the write (R309). -/
theorem Stands.csrwr {a n : BitVec 7} (T : Stands s c cr f g [src a 2]) (himm : (cr.group f.pc).imm = none) (hn : csrNo n)
    {v : DWord} (hv : val64 (s.gang cr.gang) (f.now (cr.group f.pc)) a = v)
    (hok : csrWriteErr n.toNat (s.gang cr.gang) (f.now (cr.group f.pc)) v = none) {t : State} {y : Fibre}
    (M : Remains s c cr f t y)
    (hwrite : ∀ r : Run s, r.s = s.after c cr f → (r.csrWrite (soloEnv s c cr f [src a 2]) n.toNat v).s = t) :
    exec (.csrwr g a n) s = .next t := by
  have hpair : (soloEnv s c cr f [src a 2]).d 0 = v := by
    rw [← hv]
    exact soloEnv_pair (by simpa [src] using T.fields.plain)
  have hfree : (csrwrDesc (s0 := s) g a n).Free :=
    ⟨⟨rfl, rfl, rfl, fun _ _ => rfl, rfl, rfl, T.fields.plain⟩, rfl, rfl, decide_eq_true hn, rfl, fun _ _ => rfl,
      fun _ _ => rfl, fun _ _ => rfl, fun _ _ => rfl⟩
  rw [exec_csrwr]
  refine Stands.remains (d := csrwrDesc g a n) T hfree himm rfl rfl rfl (fun _ => rfl) (fun _ => ?_) (fun r hr => ?_) M
  · change csrWriteErr n.toNat _ _ ((soloEnv s c cr f [src a 2]).d 0) = none
    rw [hpair]
    exact hok
  · change (r.csrWrite (soloEnv s c cr f [src a 2]) n.toNat ((soloEnv s c cr f [src a 2]).d 0)).s = t
    rw [hpair]
    exact hwrite r hr

/-! ### The states after the writes -/

theorem Solo.remains_gangs (S : Solo s c cr f) (G : List (Nat × Gang)) {y : Fibre} (hfid : y.fid = f.fid)
    (hslot : y.slot = f.slot) (hstep : y.stepping = f.stepping) (hhalt : y.toHalt = f.toHalt) :
    Remains s c cr f { s.issued c cr y 1 with gangs := G } y := by
  refine ⟨rfl, ?_, hslot, hstep, hhalt, S.after_preds⟩
  simp only [State.issued, hfid]

theorem Solo.remains_sites (S : Solo s c cr f) {x : Site} (hx : x.preds = (s.site c.site).preds) :
    Remains s c cr f { s.after c cr f with sites := KV.put c.site x s.sites } (f.passed (cr.group f.pc) true) := by
  obtain ⟨-, hslot, hstep, hhalt⟩ := passed_keeps f (cr.group f.pc) true
  refine ⟨rfl, State.after_fibres (c := c), hslot, hstep, hhalt, ?_⟩
  simp only [State.site, KV.getD, KV.find?_put_self, Option.getD_some, hx]
  exact S.ready.preds

theorem updGang_after {r : Run s0} (hr : r.s = s.after c cr f) (k : ℕ) (u : Gang → Gang) :
    (r.updGang k u).s = { s.after c cr f with gangs := KV.update k u s.gangs } := by
  change ({ r.s with gangs := KV.update k u r.s.gangs } : State) = _
  rw [hr]
  rfl

/-- The fibre takes a change of its own after its word. -/
theorem updFibre_after {r : Run s0} {G : List (Nat × Gang)} (hr : r.s = { s.after c cr f with gangs := G })
    (F : Fibre → Fibre) (hF : (F (f.passed (cr.group f.pc) true)).fid = f.fid) :
    (r.updFibre (fkey cr.gang f.fid) F).s = { s.issued c cr (F (f.passed (cr.group f.pc) true)) 1 with gangs := G } := by
  have hfibres : r.s.fibres = KV.put (fkey cr.gang f.fid) (f.passed (cr.group f.pc) true) s.fibres := by
    rw [hr]
    exact State.after_fibres (c := c)
  rw [updFibre_found (by rw [hfibres]; exact KV.find?_put_self _ _ _)]
  simp only [Run.setFibre, hfibres, KV.put_put]
  rw [hr]
  simp only [State.after, State.issued, hF]

theorem writeWctl_after {r : Run s0} (hr : r.s = s.after c cr f) (v : DWord) :
    (r.writeWctl c.site v).s = { s.after c cr f with
      sites := KV.put c.site { (s.site c.site).spent c.site 1 with
        hit := v.extractLsb' 48 16, tfrz := v.getLsbD 1, woff := v.getLsbD 0,
        tdc := if v.getLsbD 2 then [] else ((s.site c.site).spent c.site 1).tdc } s.sites } := by
  have hsite : r.s.site c.site = (s.site c.site).spent c.site 1 := by
    rw [hr]
    simp only [State.after, State.issued, State.site, KV.getD, KV.find?_put_self, Option.getD_some]
  have hsites : r.s.sites = KV.put c.site ((s.site c.site).spent c.site 1) s.sites := by rw [hr]; rfl
  simp only [Run.writeWctl, Run.updSite, Run.mod, State.keep, hsite, hsites, KV.put_put]
  rw [hr]

/-- R314: the bits of INJECT that are kept. -/
theorem injectBits_mask (v : DWord) : injectBits v = v &&& 0x8000_0000_00FF_FC1F := by
  have mask : ∀ i < 64, (0x8000_0000_00FF_FC1F : DWord).getLsbD i =
      (decide (63 ≤ i) || decide (20 ≤ i) && decide (i < 24) || decide (10 ≤ i) && decide (i < 20) || decide (i < 5)) := by
    decide
  refine BitVec.eq_of_getLsbD_eq fun i hi => ?_
  unfold injectBits
  simp only [BitVec.getLsbD_or, BitVec.getLsbD_and, getLsbD_maskBits _ _ _ hi, mask i hi]
  cases v.getLsbD i <;> simp [hi]

/-- Settles O33: the write to each register changes the fibre, its gang or its site, and the fibre stays in its crew. -/
theorem controlWrites : Obligations.ControlWrites := by
  intro s c cr f g a himm T v G y gang
  have S := T.solo
  obtain ⟨-, hslot, hstep, hhalt⟩ := passed_keeps f (cr.group f.pc) true
  have hfid := Fibre.passed_fid f (cr.group f.pc) true
  have hremains (u : Gang → Gang) : Remains s c cr f (gang u) y := S.remains_gangs _ hfid hslot hstep hhalt
  have hhandler : (f.now (cr.group f.pc)).hm = f.hm := by
    unfold Fibre.now Fibre.settle
    split <;> rfl
  refine ⟨fun hdbg => ?_, ?_, ?_, ?_, fun hhm hal => ?_, fun hdbg => ?_, fun hdbg => ?_⟩
  · exact T.csrwr (n := 0) himm (by decide) rfl (if_neg (not_not.2 hdbg)) (hremains _) fun r hr => updGang_after hr _ _
  · exact T.csrwr (n := 1) himm (by decide) rfl rfl (S.remains_gangs _ hfid hslot hstep hhalt) fun r hr =>
      updFibre_after (updGang_after hr _ _) _ hfid
  · exact T.csrwr (n := 2) himm (by decide) rfl rfl (hremains _) fun r hr => updGang_after hr _ _
  · exact T.csrwr (n := 3) himm (by decide) rfl rfl (hremains _) fun r hr => updGang_after hr _ _
  · have hzero : efld v 0 2 = 0 := by rw [efld, hal]; rfl
    have hok : csrWriteErr 5 G (f.now (cr.group f.pc)) v = none := by
      simp [csrWriteErr, csrListed, hhandler, hhm, hzero]
    exact T.csrwr (n := 5) himm (by decide) rfl hok
      (S.remains_gangs s.gangs hfid hslot hstep hhalt) fun r hr => updFibre_after (G := s.gangs) hr _ hfid
  · refine T.csrwr (n := 0xA) himm (by decide) rfl (if_pos hdbg) (hremains _) fun r hr => ?_
    rw [← injectBits_mask]
    exact updGang_after hr _ _
  · exact T.csrwr (n := 0xB) himm (by decide) rfl (if_pos hdbg) (S.remains_sites rfl) fun r hr => writeWctl_after hr v

end Sys2Proof
end

section
/-! A word of a one-fibre crew that waits for nothing and passes its own checks: what it comes to (R179 to R188), and
the operation that it may leave in flight (R181, R183). -/

namespace Sys2Proof
open Machine
variable {s0 s : State} {c : Cur} {cr : Crew} {f : Fibre} {g : BitVec 4} {us : List Use}

/-- A word that no state of its operands holds back and that ships nowhere but to the home core; its lanes go on at
the next word. -/
structure Machine.Desc.Ordinary (d : Desc s0) (g : BitVec 4) (us : List Use) : Prop where
  guard : d.guard = g := by rfl
  uses : d.uses = us := by rfl
  bad : d.bad = none := by rfl
  wf : d.i.wf = true
  pace : d.paceOk = true := by rfl
  sig : d.sigOk = true := by rfl
  target : d.target = none := by rfl
  sculler : d.scullerOnly = false := by rfl
  ship (t : State) (e : Env) : d.toSculler t e = none := by intros; rfl
  hold (t : State) (e : Env) : d.hold t e = false := by intros; rfl
  holdAll (t : State) (es : List Env) : d.holdAll t es = false := by intros; rfl
  eights : d.eights = none := by rfl
  full : d.full = false := by rfl

/-- The one lane of the word is where the word may issue, and passes the checks on its values, in the state in which
the word takes its slot. -/
structure Machine.Desc.Admits (d : Desc s) (c : Cur) (cr : Crew) (f : Fibre) (us : List Use) : Prop where
  imm : ∀ p, (cr.group f.pc).imm = some p → d.immOk = true ∧ d.immErr p = false
  home : d.homeOnly = true → isCore c.site = true
  legal : d.illeg (slotTaken s c 1).s (soloEnv s c cr f us) = none
  check : d.check (slotTaken s c 1).s (soloEnv s c cr f us) = none
  exc : d.exc (soloEnv s c cr f us) &&& (s.gang cr.gang).ten = 0

/-- Only the lanes' fibres take the flags that a word raises. -/
theorem stuck_one (d : Desc s0) (e : Env) (r : Run s0) {y : Fibre} (h : KV.find? e.key r.s.fibres = some y) :
    (stuck d [e] r).s = { r.s with fibres := KV.put e.key (y.stick (d.exc e)) r.s.fibres } := by
  simp only [stuck, Run.each, List.foldl_cons, List.foldl_nil, updFibre_found h]
  split_ifs with hx
  · rw [hx, Fibre.stick_zero, KV.put_of_find? h]
  · rfl

theorem Stands.active_one (T : Stands s c cr f g us) : s.active cr f.pc g = [f.now (cr.group f.pc)] := by
  simp only [State.active, State.members, T.solo.one, List.map_cons, List.map_nil, T.solo.fibre, List.filter_singleton,
    T.guard]
  rfl

theorem Stands.lane_eq (T : Stands s c cr f g us) {d : Desc s} (D : d.Ordinary g us) :
    soloLane s c cr d f = soloEnv s c cr f us := by
  rw [T.solo.lane_eq d D.eights (by rw [D.guard]; exact T.guard), D.uses]

/-- R188: the word and its hints are legal. -/
theorem Stands.static_none (T : Stands s c cr f g us) {d : Desc s} (D : d.Ordinary g us) (A : d.Admits c cr f us)
    (w : BitVec 12) : staticErr d { cr.group f.pc with wait := w } (s.gang cr.gang) 1 = none := by
  have hlegal : usesErr (s.gang cr.gang) 1 us = none := by
    have h := T.fields.legal
    rwa [T.active_one] at h
  obtain ⟨hrnd, hsat, htol, hnoal, hwskip⟩ := T.mods
  have hhints : hintErrs d { cr.group f.pc with wait := w } (s.gang cr.gang) = [] :=
    hintErrs_none T.solo.ready.hints ⟨.inr (hrnd.resolve_left (by decide)), .inr (hsat.resolve_left (by decide)), htol,
      hnoal, hwskip⟩ D.pace (.inl D.sig) A.imm
  simp only [staticErr, hhints, D.bad, D.wf, D.uses, hlegal]
  rfl

/-- R62, R369: a word that only cores have stands on one. -/
theorem Machine.Desc.Admits.at_home {d : Desc s} (A : d.Admits c cr f us) :
    (isSculler c.site && d.homeOnly) = false ∧ (isSuper c.site && d.homeOnly) = false := by
  cases h : d.homeOnly with
  | true =>
    obtain ⟨hsculler, hsuper⟩ := Solo.core_kinds (A.home h)
    simp [hsculler, hsuper]
  | false => simp

/-- R62: the lane does not ship. -/
theorem Stands.away_none (T : Stands s c cr f g us) {d : Desc s} (D : d.Ordinary g us) (A : d.Admits c cr f us)
    (t : State) : d.away t (soloEnv s c cr f us) = none := by
  have hsite : (soloEnv s c cr f us).site = c.site := rfl
  simp only [Desc.away, hsite, D.uses, plain_any T.fields.plain, Bool.or_false, A.at_home.1, Bool.false_eq_true,
    if_false, D.ship, ite_self]

/-- R25: the lane passes every check. -/
theorem Stands.passes (T : Stands s c cr f g us) {d : Desc s} (D : d.Ordinary g us) (A : d.Admits c cr f us) :
    d.Passes (slotTaken s c 1).s (soloEnv s c cr f us) where
  legal := by
    have hsite : (soloEnv s c cr f us).site = c.site := rfl
    simp only [Desc.laneIlleg, A.legal, hsite, D.sculler, D.uses, plain_any T.fields.plain, Bool.or_false, A.at_home.2,
      Bool.false_eq_true, if_false, minReason]
  region := .inl ((Fibre.settle_region _ _).trans (T.solo.member.region rfl))
  away := T.away_none D A _
  mask := fun h => absurd (D.full.symm.trans h) Bool.false_ne_true
  clean := by
    rw [D.uses]
    exact T.fields.clean _ (by rw [T.active_one]; exact List.mem_singleton_self _)
  own := by simp only [poisonOwn, D.eights]
  check := A.check

/-- A word that leaves its fibre, become `y`, in the crew does what its effect does, and raises its flags. -/
theorem Stands.performs (T : Stands s c cr f g us) {d : Desc s} (D : d.Ordinary g us) (A : d.Admits c cr f us)
    {t : State} {y : Fibre} (M : Remains s c cr f t y)
    (hact : ∀ r : Run s, r.s = s.after c cr f → (d.act r [soloEnv s c cr f us]).s = t) :
    runWord s d = .next { t with
      fibres := KV.put (fkey cr.gang f.fid) (y.stick (d.exc (soloEnv s c cr f us))) s.fibres } := by
  have S := T.solo
  have hlane := T.lane_eq D
  have hdone := hact (soloStep s c cr d f) (S.soloStep_after D.target)
  have hfound : KV.find? (fkey cr.gang f.fid) (d.act (soloStep s c cr d f) [soloEnv s c cr f us]).s.fibres = some y := by
    rw [hdone, M.fibres]
    exact KV.find?_put_self _ _ _
  have hstuck : (stuck d [soloEnv s c cr f us] (d.act (soloStep s c cr d f) [soloEnv s c cr f us])).s = { t with
      fibres := KV.put (fkey cr.gang f.fid) (y.stick (d.exc (soloEnv s c cr f us))) s.fibres } := by
    rw [stuck_one d (soloEnv s c cr f us) _ hfound, hdone, M.fibres]
    exact congrArg (fun l => ({ t with fibres := l } : State)) (KV.put_put _ _ _ _)
  have hrun := S.run T.idle d (by rw [D.uses]; exact T.fields.plain) (by rw [hlane]; rfl) (T.static_none D A _)
    (by rw [hlane]; exact T.away_none D A s) (D.hold _ _) (D.holdAll _ _) (by rw [hlane]; exact T.passes D A)
    (by rw [hlane]; exact A.exc) (by rw [hlane, hdone]; exact M.preds)
  rw [hrun, hlane, S.stays (y := y.stick (d.exc (soloEnv s c cr f us))) ?_ ?_ M.slot M.stepping M.toHalt, hstuck]
  · rw [hstuck]
    exact M.crews
  · rw [hstuck]

/-- A word that raises no flags does what its effect does. -/
theorem Stands.performs_quietly (T : Stands s c cr f g us) {d : Desc s} (D : d.Ordinary g us) (A : d.Admits c cr f us)
    (hexc : d.exc (soloEnv s c cr f us) = 0) {t : State} {y : Fibre} (M : Remains s c cr f t y)
    (hact : ∀ r : Run s, r.s = s.after c cr f → (d.act r [soloEnv s c cr f us]).s = t) : runWord s d = .next t := by
  rw [T.performs D A M hact, hexc, Fibre.stick_zero, ← M.fibres]

end Sys2Proof
end

section
/-! QBIND and QSTAT (R258, R260). -/

namespace Sys2Proof
open Machine
variable {s0 s : State} {c : Cur} {cr : Crew} {f : Fibre} {g : BitVec 4} {us : List Use}

/-- How QBIND is issued. -/
def qbindDesc (g : BitVec 4) (q b : BitVec 7) : Desc s0 where
  i := .qbind g q b
  guard := g
  uses := [src b 2]
  noRegion := true
  homeOnly := true
  illeg := fun _ e => match bindErr (e.d 0) with
    | some r => some r
    | none => match KV.find? (q.toNat - 112) e.g.queues with
      | some x => if x.inUse then some 5 else none
      | none => none
  check := fun s e =>
    let x := mkQueue (e.d 0) []
    if (x.kind = 1 ∨ x.kind = 2) ∧ e.g.ssize < x.base + x.slots * (4 * x.regs) then
      some { cls := .bounds, addr := BitVec.ofNat 64 x.base }
    else if x.kind ≠ 0 ∧ !KV.has (q.toNat - 112) e.g.queues ∧ 64 ≤ s.boundQueues e.g.core then
      some { cls := .syncx, addr := BitVec.ofNat 64 q.toNat, reason := 4 }
    else none
  act := perLane fun r e =>
    let x := mkQueue (e.d 0) ((KV.getD (boxOf e.ctx (efld (e.d 0) 32 16)) [] r.s.pkg.boxes).map Prod.snd)
    r.updGang e.gk fun g => { g with queues := (
      if x.kind = 0 then KV.del (q.toNat - 112) g.queues else KV.put (q.toNat - 112) x g.queues) }

theorem exec_qbind (g : BitVec 4) (q b : BitVec 7) (s : State) : exec (.qbind g q b) s = runWord s (qbindDesc g q b) := rfl

/-- R260: what QSTAT reads of a queue register that is bound or not. -/
def statWord : Option Queue → Word
  | some x => x.stat
  | none => 0

theorem statWord_eq (o : Option Queue) : statWord o = (o.map Queue.stat).getD 0 := by
  cases o <;> rfl

/-- How QSTAT is issued. -/
def qstatDesc (g : BitVec 4) (d q : BitVec 7) : Desc s0 where
  i := .qstat g d q
  guard := g
  uses := [dst d]
  noRegion := true
  homeOnly := true
  act := perLane fun r e => r.resultNow e d [{ v := statWord (KV.find? (q.toNat - 112) e.g.queues) }]

theorem exec_qstat (g : BitVec 4) (d q : BitVec 7) (s : State) : exec (.qstat g d q) s = runWord s (qstatDesc g d q) := rfl

/-- A register that is no queue takes a result that completes at issue (R183). -/
theorem resultNow_plain (r : Run s0) (e : Env) {d : BitVec 7} (h : isQueue d.toNat = false) (v : PW) :
    r.resultNow e d [v] = r.updFibre e.key fun x => x.writeNow d.toNat v := by
  simp only [Run.resultNow, h, Bool.false_eq_true, if_false]
  rfl

theorem keeps_writeNow (reg : Nat) (v : PW) : Keeps fun f => f.writeNow reg v := by
  constructor <;> intro x <;> simp only [Fibre.writeNow] <;> split <;> rfl

/-- R258: a binding word that is legal, of a queue that is not in use, with room for its ring and its queue. -/
theorem qbindDesc_admits {q a : BitVec 7} {b : DWord} (himm : (cr.group f.pc).imm = none) (hcore : isCore c.site = true)
    (hcrew : KV.find? (ckey c.site c.slot) s.crews = some cr) (hb : (soloEnv s c cr f [src a 2]).d 0 = b)
    (hlegal : bindErr b = none) (hfree : ∀ y, KV.find? (q.toNat - 112) (s.gang cr.gang).queues = some y → y.inUse = false)
    (hring : let x := mkQueue b []
      (x.kind = 1 ∨ x.kind = 2) → x.base + x.slots * (4 * x.regs) ≤ (s.gang cr.gang).ssize)
    (hroom : (mkQueue b []).kind ≠ 0 →
      KV.has (q.toNat - 112) (s.gang cr.gang).queues = true ∨ s.boundQueues (s.gang cr.gang).core < 64) :
    (qbindDesc (s0 := s) g q a).Admits c cr f [src a 2] := by
  have hgang : (soloEnv s c cr f [src a 2]).g = s.gang cr.gang := rfl
  refine ⟨by simp [himm], fun _ => hcore, ?legal, ?check, BitVec.zero_and⟩
  case legal =>
    simp only [qbindDesc, hb, hlegal, hgang]
    split
    · rw [if_neg (by simp [hfree _ ‹_›])]
    · rfl
  case check =>
    have hbound : (slotTaken s c 1).s.boundQueues (s.gang cr.gang).core = s.boundQueues (s.gang cr.gang).core := by
      rw [slotTaken_rest s c 1 hcrew]
      rfl
    simp only [qbindDesc, hb, hgang, hbound]
    rw [if_neg fun h => Nat.not_lt.2 (hring h.1) h.2, if_neg]
    rintro ⟨hkind, hnew, hfull⟩
    rcases hroom hkind with h | h
    · simp [h] at hnew
    · omega

/-- Settles O32: QBIND changes the queues of its gang, and QSTAT the register of its fibre. -/
theorem queueBindings : Obligations.QueueBindings := by
  intro s c cr f g q himm hwf hcore G n
  refine ⟨fun a T => ?bind, fun d T => ?stat⟩
  all_goals
    have S := T.solo
    obtain ⟨-, hslot, hstep, hhalt⟩ := passed_keeps f (cr.group f.pc) true
    have hfid := Fibre.passed_fid f (cr.group f.pc) true
  case bind =>
    intro b x hlegal hfree hring hroom
    have hb : (soloEnv s c cr f [src a 2]).d 0 = b := soloEnv_pair (by simpa [src] using T.fields.plain)
    rw [exec_qbind]
    refine T.performs_quietly { wf := hwf } (qbindDesc_admits himm hcore S.ready.crew hb hlegal hfree hring hroom) rfl
      (S.remains_gangs _ hfid hslot hstep hhalt) fun r hr => ?_
    have hboxes : r.s.pkg.boxes = s.pkg.boxes := by rw [hr]; rfl
    simp only [qbindDesc, perLane, Run.each, List.foldl_cons, List.foldl_nil, hb, hboxes]
    exact updGang_after hr _ _
  case stat =>
    have hplain : isQueue d.toNat = false := by simpa [dst] using T.fields.plain
    rw [exec_qstat, ← statWord_eq]
    have K := keeps_writeNow d.toNat { v := statWord (KV.find? n G.queues) }
    refine T.performs_quietly { wf := hwf } ⟨by simp [himm], fun _ => hcore, rfl, rfl, BitVec.zero_and⟩ rfl
      (S.remains_gangs s.gangs ((Fibre.writeNow_fid ..).trans hfid) ((K.slot _).trans hslot)
        ((K.stepping _).trans hstep) ((K.toHalt _).trans hhalt)) fun r hr => ?_
    simp only [qstatDesc, perLane, Run.each, List.foldl_cons, List.foldl_nil, resultNow_plain _ _ hplain]
    exact updFibre_after (G := s.gangs) hr _ ((Fibre.writeNow_fid ..).trans hfid)

end Sys2Proof
end

section
/-! What the checks of an access, of an element and of a range of lines find while the word of a one-fibre crew runs:
what they found before (R25, R70, R244, R257). -/

namespace Sys2Proof
open Machine
variable {s t : State} {c : Cur} {cr : Crew} {f : Fibre}

/-- `t` differs from `s` in nothing that the checks of an access read, the input rows of the sites among it. -/
structure SameAccess (s t : State) : Prop extends SameChecks s t where
  rows : ∀ k, (t.site k).rows = (s.site k).rows

/-- A crew's word takes its slot: nothing of the site changes but its budget and its counters. -/
theorem SameAccess.of_spent {n : Nat} (hrest : t = { s with fibres := t.fibres, crews := t.crews, sites := t.sites })
    (hsites : t.sites = KV.put c.site ((s.site c.site).spent c.site n) s.sites) : SameAccess s t := by
  have hsite {α : Type} (p : Site → α) (hp : p ((s.site c.site).spent c.site n) = p (s.site c.site)) (k : Nat) :
      p (t.site k) = p (s.site k) := by
    have h : t.site k = if k = c.site then (s.site c.site).spent c.site n else s.site k := by
      rw [State.site, hsites]
      exact State.site_put s c.site k _
    rw [h]
    split_ifs with hk
    · rw [hk, hp]
    · rfl
  exact ⟨⟨hrest, hsite Site.tlb rfl, hsite Site.bnd rfl⟩, hsite Site.rows rfl⟩

theorem slotTaken_sameAccess (n : Nat) (h : KV.find? (ckey c.site c.slot) s.crews = some cr) :
    SameAccess s (slotTaken s c n).s := by
  refine SameAccess.of_spent (c := c) (n := n) ?_ ?_
  · rw [slotTaken_rest s c n h]
  · rw [slotTaken_rest s c n h]

theorem after_sameAccess : SameAccess s (s.after c cr f) := SameAccess.of_spent rfl rfl

theorem SameAccess.memCheck (h : SameAccess s t) (e : Env) (p : DWord) (n : Nat) (nd : Need) :
    memCheck t e p n nd = memCheck s e p n nd := by
  have hinput (k : Nat) : t.inputRow k = s.inputRow k := by simp only [State.inputRow, h.rows]
  have hfull (site k rowl : Nat) : t.rowsFull site k rowl = s.rowsFull site k rowl := by simp only [State.rowsFull, h.rows]
  simp only [Machine.memCheck, h.check, hinput, hfull]

theorem SameAccess.elemCheck (h : SameAccess s t) (e : Env) (p : DWord) (n : Nat) (nd : Need) :
    elemCheck t e p n nd = elemCheck s e p n nd := by
  simp only [Machine.elemCheck, h.xlate, h.memCheck]

theorem SameChecks.xlatePages (h : SameChecks s t) (site ctx : Nat) (l : List VAddr) :
    t.xlatePages site ctx l = s.xlatePages site ctx l := by
  induction l with
  | nil => rfl
  | cons va rest ih => simp only [State.xlatePages, h.xlate, ih]

theorem SameChecks.rangeCheck (h : SameChecks s t) (e : Env) (sub : Nat) : rangeCheck t e sub = rangeCheck s e sub := by
  simp only [Machine.rangeCheck, State.checkExtent, State.checkPages, h.boundsOk, h.xlatePages, h.isLost]

theorem errOf_ok {α : Type} {r : Except Bad α} {x : α} (h : r = .ok x) : errOf r = none := by
  rw [h]
  rfl

/-- Lanes act with what their checks have given: here one lane, whose check has passed. -/
theorem withXl_one {s0 : State} {α : Type} {chk : State → Env → Except Bad α} {r : Run s0} {e : Env} {x : α}
    (h : chk r.s e = .ok x) (act : Run s0 → Env → α → Run s0) : withXl chk act r [e] = act r e x := by
  simp only [withXl, Run.each, List.foldl_cons, List.foldl_nil, h]

end Sys2Proof
end

section
/-! An operation that a word of a one-fibre crew leaves in flight, which nothing waits for and which writes no register
(R181, R183, R241). -/

namespace Sys2Proof
open Machine
variable {s0 s : State} {c : Cur} {cr : Crew} {f y : Fibre} {x : Site} {g : BitVec 4} {us : List Use}

/-! ### The fibre and its site within the word -/

/-- The state within a word of a one-fibre crew, when its fibre has become `y` and its site `x`. -/
def Machine.State.amid (s : State) (c : Cur) (cr : Crew) (f y : Fibre) (x : Site) : State :=
  { s with
    fibres := KV.put (fkey cr.gang f.fid) y s.fibres
    crews := KV.put (ckey c.site c.slot) { cr with hints := none, stall := 0 } s.crews
    sites := KV.put c.site x s.sites }

theorem Machine.State.after_eq_amid :
    s.after c cr f = s.amid c cr f (f.passed (cr.group f.pc) true) ((s.site c.site).spent c.site 1) := by
  simp only [State.after, State.issued, Fibre.passed_fid, State.amid]

theorem updFibre_amid {r : Run s0} (hr : r.s = s.amid c cr f y x) (F : Fibre → Fibre) :
    (r.updFibre (fkey cr.gang f.fid) F).s = s.amid c cr f (F y) x := by
  rw [updFibre_found (by rw [hr]; exact KV.find?_put_self _ _ _)]
  simp only [Run.setFibre, hr, State.amid, KV.put_put]

/-- R15, R26: the site may keep the leaf and the bounds entry of an access. -/
theorem cacheXl_amid {r : Run s0} (hr : r.s = s.amid c cr f y x) (ctx : Nat) (p : DWord) :
    ∃ tlb bnd, (r.cacheXl c.site ctx p).s = s.amid c cr f y { x with tlb := tlb, bnd := bnd } := by
  unfold Run.cacheXl
  split
  · exact ⟨x.tlb, x.bnd, hr⟩
  · have hsite : r.s.site c.site = x := by
      rw [hr]
      simp only [State.site, State.amid, KV.getD, KV.find?_put_self, Option.getD_some]
    simp only [Run.updSite, Run.mod, State.keep, hsite]
    rw [hr]
    simp only [State.amid, KV.put_put]
    exact ⟨_, _, rfl⟩

/-! ### The operation -/

/-- The flag that the group names, if any, is BUSY for an operation that nothing waits for. -/
def Machine.Fibre.busied (f : Fibre) (h : Hints) : Fibre :=
  if h.opFlag false < 16 then f.setFlag (h.opFlag false) { st := .busy } else f

theorem Machine.Fibre.waits_nothing (f : Fibre) (h : Hints) (id d : Nat) :
    f.waits h false false id d 0 = (f.passed h true).busied h := rfl

theorem keeps_busied (h : Hints) : Keeps fun x => x.busied h := by
  constructor <;> intro x <;> simp only [Fibre.busied] <;> split <;> rfl

theorem Machine.Fibre.busied_risen (f : Fibre) (h : Hints) : f.risen.busied h = (f.busied h).risen := by
  unfold Fibre.busied
  split <;> rfl

theorem keeps_risen : Keeps Fibre.risen := ⟨fun _ => rfl, fun _ => rfl, fun _ => rfl, fun _ => rfl⟩

/-- The operation of a lane that nothing waits for is in flight under the next serial number. -/
theorem startOp_amid {r : Run s0} (hr : r.s = s.amid c cr f y x) (us : List Use) {o : Op} (ho : o.after = []) :
    (r.startOp (soloEnv s c cr f us) o 0 false false).s = { s.amid c cr f (y.busied (cr.group f.pc)) x with
      ops := KV.put s.nextId (o.of s (soloEnv s c cr f us) false) s.ops
      nextId := s.nextId + 1 } := by
  obtain ⟨⟩ := o
  subst ho
  simp only [Run.startOp, Nat.lt_irrefl, and_false, if_false, Bool.false_and, Bool.false_eq_true, List.range_zero,
    List.foldl_nil]
  rw [updFibre_found (y := y)]
  · simp only [Run.setFibre, Run.mod, State.keep, Run.bump, hr, State.amid, soloEnv, KV.put_put]
    rfl
  · simp only [Run.mod, State.keep, Run.bump, hr]
    exact KV.find?_put_self _ _ _

/-- R118, R181: the access of a lane is in flight where the turn leaves it so. -/
theorem access_amid {r : Run s0} (hr : r.s = s.amid c cr f y x) (hwait : c.wait = true) (us : List Use) {o : Op}
    (ho : o.after = []) (hacq : o.acc.acq = false) :
    (r.access (soloEnv s c cr f us) o 0 false).s = { s.amid c cr f (y.busied (cr.group f.pc)) x with
      ops := KV.put s.nextId (Op.of { o with
        arr := if o.acc.bank then (s.pch (scullerOf o.acc.pa)).clk else 0 } s (soloEnv s c cr f us) false) s.ops
      nextId := s.nextId + 1 } := by
  have hclk (k : Nat) : r.s.pch k = s.pch k := by rw [hr]; rfl
  have hpending : (soloEnv s c cr f us).wait = true := hwait
  simp only [Run.access, hacq, hpending, hclk, Bool.false_eq_true, if_false, if_true]
  exact startOp_amid hr us ho

/-- A word begins the operation that its effect leaves in flight, where nothing waits for that operation. -/
theorem Starts.begins (St : Starts s c cr f g us) {i : Instr} {d : Desc s} (hexec : exec i s = runWord s d)
    (D : d.Ordinary g us) (A : d.Admits c cr f us) {o : Op} {F fix : Fibre → Fibre} (hF : Keeps F)
    (hfix : ∀ x, (F x).stick (d.exc (soloEnv s c cr f us)) = fix (x.busied (cr.group f.pc)))
    (hact : ∀ r : Run s, r.s = s.after c cr f → Started s s (d.act r [soloEnv s c cr f us]).s c cr f
      (o.of s (soloEnv s c cr f us) false) (F (f.passed (cr.group f.pc) true))) :
    Begins s s c cr f i us o false false 0 0 fix := by
  obtain ⟨-, hslot, hstep, hhalt⟩ := passed_keeps f (cr.group f.pc) true
  obtain ⟨solo, idle, guard, fields, mods, wait⟩ := St
  have T : Stands s c cr f g us := ⟨solo, idle, guard, fields, mods⟩
  have M (r : Run s) (hr : r.s = s.after c cr f) : Remains s c cr f (d.act r [soloEnv s c cr f us]).s
      (F (f.passed (cr.group f.pc) true)) := by
    obtain ⟨tlb, bnd, rows, h⟩ := hact r hr
    refine ⟨?_, ?_, (hF.slot _).trans hslot, (hF.stepping _).trans hstep, (hF.toHalt _).trans hhalt, ?_⟩
    · rw [h]; rfl
    · rw [h]
    · rw [h]
      simp only [State.site, KV.getD, KV.find?_put_self, Option.getD_some]
      exact solo.ready.preds
  have hstep := solo.soloStep_after (d := d) D.target
  obtain ⟨tlb, bnd, rows, h⟩ := hact _ hstep
  refine ⟨_, hexec.trans (T.performs D A (M _ hstep) fun r hr => by rw [Run.ext_s (hr.trans hstep.symm)]),
    tlb, bnd, rows, ?_⟩
  rw [h, hfix, Fibre.waits_nothing]

end Sys2Proof
end

section
/-! ST, STB and STE, and the CACHE operations (R238 to R245, R257). -/

namespace Sys2Proof
open Machine
variable {s0 s : State} {c : Cur} {cr : Crew} {f : Fibre} {g : BitVec 4} {us : List Use}

/-! ### Stores -/

/-- A store of a lane, which has passed its checks at `x`, is in flight, and the fibre is demoted no longer (R166). -/
theorem Starts.store_started (St : Starts s c cr f g us) {r : Run s0} (hr : r.s = s.after c cr f) (x : Xl) (n pol : Nat)
    (k : OpK) (rel : Bool) :
    let e := soloEnv s c cr f us
    Started s s (((r.cacheXl e.site e.ctx (e.ptr 0)).undemote e.key).access e
        { kind := k, acc := mkAcc (e.ptr 0) x n pol false rel false e.noal } 0 false).s
      c cr f ((reach s e x n pol k (rel := rel)).of s e false)
      ((f.passed (cr.group f.pc) true).busied (cr.group f.pc)).risen := by
  intro e
  obtain ⟨tlb, bnd, hcached⟩ := cacheXl_amid (hr.trans State.after_eq_amid) e.ctx (e.ptr 0)
  have hnoal : e.noal = false := St.mods.noal
  have haccess := access_amid (updFibre_amid hcached fun x => { x with dem := false }) St.wait us
    (o := { kind := k, acc := mkAcc (e.ptr 0) x n pol false rel false e.noal }) rfl rfl
  rw [hnoal] at haccess ⊢
  refine ⟨tlb, bnd, (s.site c.site).rows, haccess.trans ?_⟩
  rw [← Fibre.busied_risen]
  rfl

theorem storeDesc_ordinary {i : Instr} (hwf : i.wf = true) (g : BitVec 4) (d a : BitVec 7) (p : BitVec 3) (o : BitVec 2)
    (n w : Nat) : (storeDesc (s0 := s0) i g d a p o n w).Ordinary g [src a 2, src d w] where
  wf := hwf

/-- R242, R243: ST and STB. -/
theorem storeWords_begin : Part.StoreWords := by
  intro w hw s c cr f g d a p o x hwf us e St hx
  have hcheck (t : State) (h : SameAccess s t) :
      memCheck t e (e.ptr 0) w.n { wr := true, pol := some p.toNat } = .ok x := (h.memCheck ..).trans hx
  refine St.begins (exec_store hw ..) (storeDesc_ordinary hwf g d a p o w.n w.regs)
    ⟨fun _ _ => ⟨rfl, rfl⟩, nofun, rfl, errOf_ok (hcheck _ (slotTaken_sameAccess 1 St.solo.ready.crew)), BitVec.zero_and⟩
    ((keeps_busied (cr.group f.pc)).comp keeps_risen) (fun x => Fibre.stick_zero _) fun r hr => ?_
  have hact := withXl_one (chk := fun s e => memCheck s e (e.ptr 0) w.n { wr := true, pol := some p.toNat })
    (hcheck r.s (hr ▸ after_sameAccess))
  change Started s s (withXl _ _ r [e]).s _ _ _ _ _
  rw [hact]
  exact St.store_started hr x w.n p.toNat _ _

/-! ### Stores of elements (R244) -/

/-- The format of the page that a lane's pointer names. -/
def Machine.State.pageFmt (t : State) (e : Env) : Nat := match t.xlate e.site e.ctx (ptrVa (e.ptr 0)) 1 with
  | .ok x => leafFmt x.leaf
  | .error _ => 0

/-- What an STE of `n` elements stores, and its events. -/
def Machine.State.steOut (t : State) (n : Nat) (e : Env) : List Byte × List Byte × BitVec 5 :=
  steBytes (t.pageFmt e) e.g.rm ((List.range n).map fun k => ((e.op 1).getD k {}).v)

/-- The check of an STE of `n` elements under policy `p`. -/
def steCheck (n : Nat) (p : BitVec 3) (t : State) (e : Env) : Except Bad Xl :=
  elemCheck t e (e.ptr 0) n { wr := true, pol := some p.toNat }

/-- How an STE of `n` elements is issued. -/
def steDesc (g : BitVec 4) (d a : BitVec 7) (p : BitVec 3) (o sz : BitVec 2) (n : Nat) : Desc s0 where
  i := .ste g d a p o sz
  guard := g
  uses := [src a 2, src d n]
  immOk := true
  noal := true
  homeOnly := true
  addrs := fun t e => [(true, ptrVa (e.ptr 0), elemSpan (t.pageFmt e) n)]
  check := fun t e => errOf (steCheck n p t e)
  stored := fun t e =>
    let b := (t.steOut n e).1
    (wordsOf ((b.length + 3) / 4) (ofBytes b)).map PW.v
  exc := fun e => (s0.steOut n e).2.2
  act := fun r es => withXl (steCheck n p) (fun q e x =>
    ((q.cacheXl e.site e.ctx (e.ptr 0)).undemote e.key).access e
      { kind := .store (r.s.steOut n e).1 (r.s.steOut n e).2.1
        acc := mkAcc (e.ptr 0) x (r.s.steOut n e).1.length p.toNat false (decide (o = 1)) false e.noal } 0 false) r es

theorem exec_ste (g : BitVec 4) (d a : BitVec 7) (p : BitVec 3) (o sz : BitVec 2) (s : State) :
    exec (.ste g d a p o sz) s = runWord s (steDesc g d a p o sz (elemCount sz)) := rfl

theorem elemCount_eq_pow {sz : BitVec 2} (h : sz ≠ 3) : elemCount sz = 2 ^ sz.toNat := by
  revert sz
  decide

theorem steDesc_ordinary {g : BitVec 4} {d a : BitVec 7} {p : BitVec 3} {o sz : BitVec 2}
    (hwf : (Instr.ste g d a p o sz).wf = true) (n : Nat) :
    (steDesc (s0 := s0) g d a p o sz n).Ordinary g [src a 2, src d n] where
  wf := hwf

/-- The leaf of an address does not depend on the span. -/
theorem xlate_leaf {site ctx n m : Nat} {va : VAddr} {x y : Xl} (hx : s.xlate site ctx va n = .ok x)
    (hy : s.xlate site ctx va m = .ok y) : x.leaf = y.leaf := by
  unfold State.xlate at hx hy
  split_ifs at hx hy
  · cases hx
    cases hy
    rfl
  · cases hl : s.leafOf site ctx va with
    | error b => rw [hl] at hx; cases hx
    | ok l =>
      rw [hl] at hx hy
      cases hx
      cases hy
      rfl

/-- An access that passes its checks lies where its address translates (R25). -/
theorem xlate_of_check {site ctx n al : Nat} {p : DWord} {nd : Need} {x : Xl} (hsup : isSuper site = false)
    (h : s.check site ctx p n al nd = .ok x) : s.xlate site ctx (ptrVa p) n = .ok x := by
  unfold State.check at h
  simp only [hsup, Bool.false_eq_true, if_false] at h
  split_ifs at h
  split at h
  · cases h
  · rename_i y hy
    split at h
    · cases h
    · split_ifs at h
      rwa [← Except.ok.inj h]

theorem check_of_memCheck {e : Env} {p : DWord} {n : Nat} {nd : Need} {x : Xl} (h : memCheck s e p n nd = .ok x) :
    s.check e.site e.ctx p n n nd = .ok x := by
  unfold memCheck at h
  split at h
  · cases h
  · rename_i y hy
    split_ifs at h
    rwa [← Except.ok.inj h]

/-- R244: the format of the page is that of the leaf under which the elements are accessed. -/
theorem pageFmt_of_elemCheck {e : Env} {n : Nat} {nd : Need} {x : Xl} (hsup : isSuper e.site = false)
    (h : elemCheck s e (e.ptr 0) n nd = .ok x) : s.pageFmt e = leafFmt x.leaf := by
  unfold elemCheck at h
  unfold State.pageFmt
  split at h
  · cases h
  · rename_i y hy
    split at h
    · split_ifs at h
      split at h <;> cases h
    · rename_i z hz
      split at h
      · cases h
      · rw [hy, ← Except.ok.inj h]
        exact congrArg leafFmt (xlate_leaf hy (xlate_of_check hsup (check_of_memCheck hz)))

theorem readUse_length {a : BitVec 7} (hq : isQueue a.toNat = false) (s : State) (G : Gang) (f : Fibre) (k w : Nat) :
    (readUse s G f k (src a w)).length = w := by
  unfold readUse src
  simp only [hq, Bool.false_eq_true, if_false]
  split
  · exact List.length_replicate
  · rw [List.length_map, List.length_range]

theorem map_v_eq (l : List PW) : (List.range l.length).map (fun k => (l.getD k {}).v) = l.map PW.v := by
  refine List.ext_getElem (by simp) fun i h _ => ?_
  have hi : i < l.length := by simpa using h
  simp [hi]

/-- R244: an STE stores its registers in the format of the page. -/
theorem steOut_of_check {e : Env} {n : Nat} {p : BitVec 3} {x : Xl} (hsup : isSuper e.site = false)
    (hlen : (e.op 1).length = n) (h : steCheck n p s e = .ok x) :
    s.steOut n e = steBytes (leafFmt x.leaf) e.g.rm ((e.op 1).map PW.v) := by
  rw [State.steOut, pageFmt_of_elemCheck hsup h, ← hlen, map_v_eq]

theorem elementStores_begin : Part.ElementStores := by
  intro s c cr f g d a p o sz x hwf hcore n us e b St hx htrap
  have hsize : sz ≠ 3 := by
    simp only [Instr.wf, decide_eq_true_eq] at hwf
    exact hwf.2.2
  have hsup : isSuper e.site = false := (Solo.core_kinds hcore).2
  obtain ⟨-, hplain⟩ : isQueue a.toNat = false ∧ isQueue d.toNat = false := by simpa [us, src] using St.fields.plain
  have hlen : (e.op 1).length = n := readUse_length hplain s _ _ 0 n
  have hcheck (t : State) (h : SameAccess s t) : steCheck n p t e = .ok x := (h.elemCheck ..).trans hx
  have hout (t : State) (h : SameAccess s t) : t.steOut n e = b := steOut_of_check hsup hlen (hcheck t h)
  have hself : SameAccess s s := ⟨⟨rfl, fun _ => rfl, fun _ => rfl⟩, fun _ => rfl⟩
  have hexc : (steDesc (s0 := s) g d a p o sz n).exc e = b.2.2 := congrArg (fun z => z.2.2) (hout s hself)
  have hexec : exec (.ste g d a p o sz) s = runWord s (steDesc g d a p o sz n) := by
    rw [exec_ste, elemCount_eq_pow hsize]
  refine St.begins hexec (steDesc_ordinary hwf n)
    ⟨fun _ _ => ⟨rfl, rfl⟩, fun _ => hcore, rfl, errOf_ok (hcheck _ (slotTaken_sameAccess 1 St.solo.ready.crew)), ?_⟩
    ((keeps_busied (cr.group f.pc)).comp keeps_risen) (fun y => congrArg (Fibre.stick _) hexc) fun r hr => ?_
  · exact (congrArg (· &&& (s.gang cr.gang).ten) hexc).trans htrap
  · have hsame : SameAccess s r.s := hr ▸ after_sameAccess
    have hact := withXl_one (hcheck r.s hsame)
    change Started s s (withXl _ _ r [e]).s _ _ _ _ _
    rw [hact, hout r.s hsame]
    exact St.store_started hr x b.1.length p.toNat _ _

/-- Settles O13: the checks find after the word what they found before, and the store is left in flight. -/
theorem storeAccesses : Obligations.StoreAccesses := ⟨storeWords_begin, elementStores_begin⟩

/-! ### Cache operations (R257) -/

theorem cacheDesc_ordinary {i : Instr} (hwf : i.wf = true) (g : BitVec 4) (p l : BitVec 7) (sub : Nat) :
    (cacheDesc (s0 := s0) i g p l sub).Ordinary g [src p 2, src l] where
  wf := hwf

theorem exec_cache {w : Nat × Instr} {g : BitVec 4} {p l : BitVec 7}
    (hw : w ∈ [((0 : Nat), Instr.cacheWb g p l), (1, .cacheInv g p l), (2, .cacheInvd g p l), (3, .cachePref g p l)])
    (s : State) : w.2.wf = true ∧ exec w.2 s = runWord s (cacheDesc w.2 g p l w.1) := by
  simp only [List.mem_cons, List.not_mem_nil, or_false] at hw
  obtain rfl | rfl | rfl | rfl := hw <;> exact ⟨rfl, rfl⟩

/-- The flag that the group names is BUSY for the lines of the range; no access has been checked for the site to
keep. -/
theorem Starts.cache_started (St : Starts s c cr f g us) {r : Run s0} (hr : r.s = s.after c cr f) (sub : Nat)
    (lines : List (Nat × Nat × VAddr)) :
    let e := soloEnv s c cr f us
    Started s s (r.startOp e { kind := .cache sub lines, acc := { n := 0, noal := e.noal } } 0 false false).s c cr f
      (Op.of { kind := .cache sub lines, acc := { n := 0 } } s e false)
      ((f.passed (cr.group f.pc) true).busied (cr.group f.pc)) := by
  intro e
  have hnoal : e.noal = false := St.mods.noal
  rw [hnoal]
  exact ⟨(s.site c.site).tlb, (s.site c.site).bnd, (s.site c.site).rows,
    startOp_amid (hr.trans State.after_eq_amid) us (o := { kind := .cache sub lines, acc := { n := 0 } }) rfl⟩

/-- Settles O17: the check finds after the word the range that it found before, and its lines are left in flight. -/
theorem cacheWords : Obligations.CacheWords := by
  intro s c cr f g p l xs w hw us e lines St hx hlines
  obtain ⟨hwf, hexec⟩ := exec_cache hw s
  have hcheck (t : State) (h : SameAccess s t) : rangeCheck t e w.1 = .ok xs := (h.rangeCheck ..).trans hx
  have hpasses : (cacheDesc (s0 := s) w.2 g p l w.1).check (slotTaken s c 1).s e = none := by
    have h := errOf_ok (hcheck _ (slotTaken_sameAccess 1 St.solo.ready.crew))
    simp only [cacheDesc, h, ite_self]
  refine St.begins (fix := id) hexec (cacheDesc_ordinary hwf g p l w.1)
    ⟨fun _ _ => ⟨rfl, rfl⟩, nofun, rfl, hpasses, BitVec.zero_and⟩ (keeps_busied (cr.group f.pc))
    (fun y => Fibre.stick_zero _) fun r hr => ?_
  have hact := withXl_one (chk := fun s e => rangeCheck s e w.1) (hcheck r.s (hr ▸ after_sameAccess))
  change Started s s (withXl _ _ r [e]).s _ _ _ _ _
  rw [hact]
  change Started s s (if lines = [] then r else _).s _ _ _ _ _
  rw [if_neg hlines]
  exact St.cache_started hr w.1 lines

end Sys2Proof
end

section
/-! Accesses that hold their fibre's next word, in a group that names flag 16, which the statements take for none named
(R180, R183, R247 to R252). -/

namespace Sys2Proof
open Machine

/-- The turn of the fibre `sealer` in the crew `walkSigned`, whose open group names flag 16, on a core that has page 0
mapped, in a gang with a scratchpad of 4096 bytes. -/
def accessSigned : State where
  cur := some { site := 0, slot := 0, wait := true }
  crews := [(0, walkSigned)]
  gangs := [(0, { window := 96, ssize := 4096 })]
  ctxs := [(0, { st := .running })]
  fibres := [(0, sealer)]
  sites := [(0, { tlb := pageZero })]

theorem accessSigned_starts {us : List Use} (fields : Fields accessSigned walkSigned 4096 0 us) :
    Starts accessSigned { site := 0, slot := 0, wait := true } walkSigned sealer 0 us := by
  have idle (n : Nat) : sealer.IdleFlag n := ⟨rfl, rfl⟩
  have member : Member { site := 0, slot := 0, wait := true } walkSigned 4096 0 sealer :=
    ⟨rfl, by decide, rfl, rfl, rfl, rfl, rfl, fun _ => rfl, rfl, rfl, idle 15, fun n _ => idle n, idle _⟩
  refine ⟨⟨⟨⟨by decide, by decide, by decide⟩, rfl, rfl, rfl, by decide, by decide, by decide, rfl, rfl, ?_⟩, rfl,
    by decide +kernel, by decide⟩, idle, by decide, fields, ⟨.inr rfl, .inr rfl, rfl, rfl, rfl⟩, rfl⟩
  intro fid hf
  obtain rfl : fid = 0 := by simpa [walkSigned] using hf
  exact ⟨sealer, by decide +kernel, member⟩

theorem exists_of_errOf {α : Type} {r : Except Bad α} (h : errOf r = none) : ∃ x, r = .ok x := by
  cases r with
  | ok x => exact ⟨x, rfl⟩
  | error b => cases h

/-- Refutes O14: the ATOM of `accessSigned` is in flight under no flag (16), where the statement has it signal the
full-completion wait (15), since 16 is none of the flags that a group can name. The premises do not say so of the
group. -/
theorem not_atomicWords : ¬ Obligations.AtomicWords := by
  unfold Obligations.AtomicWords
  intro h
  let e := soloEnv accessSigned { site := 0, slot := 0, wait := true } walkSigned sealer [src 124 2, src 8, dst 8]
  obtain ⟨x, hx⟩ : ∃ x, memCheck accessSigned e (e.ptr 0) 4 { rd := true, wr := true } = .ok x :=
    exists_of_errOf (by decide +kernel)
  obtain ⟨hatom, -, -⟩ := h accessSigned { site := 0, slot := 0, wait := true } walkSigned sealer 0 8 124 x
  obtain ⟨t, ht, tlb, bnd, rows, rfl⟩ :=
    hatom 0 0 0 0 (by decide) (accessSigned_starts ⟨by decide, by decide, by decide⟩) hx
  have hfull : flagsAfter (exec (.atom 0 8 124 0 0 0 0) accessSigned) = [15] := by rw [ht]; rfl
  have hnone : flagsAfter (exec (.atom 0 8 124 0 0 0 0) accessSigned) = [16] := by decide +kernel
  exact absurd (hnone.symm.trans hfull) (by decide)

/-- Refutes O15: the LDS of `accessSigned` at offset 0 is in flight under no flag (16), where the statement has it
signal the full-completion wait (15), since 16 is none of the flags that a group can name. The premises do not say so
of the group. -/
theorem not_scratchpadWords : ¬ Obligations.ScratchpadWords := by
  unfold Obligations.ScratchpadWords
  intro h
  obtain ⟨hload, -, -⟩ := h accessSigned { site := 0, slot := 0, wait := true } walkSigned sealer 0 8 124
    ((accessSigned.gang 0).scrKey 0)
  obtain ⟨t, ht, tlb, bnd, rows, rfl⟩ :=
    hload 0 0 (by decide) (accessSigned_starts ⟨by decide, by decide, by decide⟩) (by decide) rfl
  have hfull : flagsAfter (exec (.lds 0 8 124 0 0 0) accessSigned) = [15] := by rw [ht]; rfl
  have hnone : flagsAfter (exec (.lds 0 8 124 0 0 0) accessSigned) = [16] := by decide +kernel
  exact absurd (hnone.symm.trans hfull) (by decide)

end Sys2Proof
end

section
/-! A line region whose LREND has already issued (R254, R255). -/

namespace Sys2Proof
open Machine

/-- A fibre at an LREND, in a line region over line 0 that an earlier LREND is to end, none of its flags BUSY. -/
def endsTwice : Fibre where
  slot := some 0
  pc := 4096
  region := some { line := 0, ret := 0, reg := 0, held := true, ending := true }

/-- Its turn. -/
def regionEnds : State where
  cur := some { site := 0, slot := 0 }
  crews := [(0, { fids := [0] })]
  gangs := [(0, { window := 96 })]
  ctxs := [(0, { st := .running })]
  fibres := [(0, endsTwice)]

theorem regionEnds_stands : Stands regionEnds { site := 0, slot := 0 } { fids := [0] } endsTwice 0 [] true := by
  have idle (n : Nat) : endsTwice.IdleFlag n := ⟨rfl, rfl⟩
  have member : Member { site := 0, slot := 0 } { fids := [0] } 4096 0 endsTwice true :=
    ⟨rfl, by decide, rfl, rfl, rfl, rfl, rfl, nofun, rfl, rfl, idle 15, fun n _ => idle n, idle _⟩
  refine ⟨⟨⟨⟨by decide, by decide, by decide⟩, rfl, rfl, rfl, by decide, by decide, by decide, rfl, rfl, ?_⟩, rfl,
    rfl, by decide⟩, idle, by decide, ⟨by decide, rfl, by decide⟩, ⟨.inr rfl, .inr rfl, rfl, rfl, rfl⟩⟩
  intro fid hf
  obtain rfl : fid = 0 := by simpa using hf
  exact ⟨endsTwice, rfl, member⟩

/-- The flags of a fibre after an outcome. -/
def fibreFlagsAfter (k : Nat) : Host.Outcome State Fault Refusal → Option (List (Nat × Flag))
  | .next t => (KV.find? k t.fibres).map Fibre.flags
  | _ => none

/-- Refutes O31: the LREND of `regionEnds` closes a region that an earlier LREND was to end, so that it also leaves
that one's full-completion wait (flag 15) DONE, where the statement has the fibre's flags as its word left them. The
premises do not say that no LREND has issued for the region. -/
theorem not_lineRegions : ¬ Obligations.LineRegions := by
  rintro ⟨-, h⟩
  unfold Part.RegionCloses at h
  obtain ⟨t, ht, hfibre, -, -⟩ := h regionEnds { site := 0, slot := 0 } { fids := [0] } endsTwice 0
    { line := 0, ret := 0, reg := 0, held := true, ending := true } rfl regionEnds_stands rfl (by decide) (by decide)
    (by decide)
  have hquiet : fibreFlagsAfter 0 (exec (.lrend 0) regionEnds) = some [] := by
    rw [ht]
    exact congrArg (Option.map Fibre.flags) hfibre
  have hdone : fibreFlagsAfter 0 (exec (.lrend 0) regionEnds) = some [(15, { st := .done })] := by decide +kernel
  exact absurd (hdone.symm.trans hquiet) (by decide)

end Sys2Proof
end
